-- ==== Sys2Proof/Word.lean ====
section
/-! DEFINITION. The word types of the machine and the shape of its tables. -/

namespace Sys2Proof

/-- A thread register, CSR or address: 64 bits (R109, R110). -/
abbrev Word := BitVec 64

/-- One byte of device memory, the scratchpad or a slot. -/
abbrev Byte := BitVec 8

/-- An instruction word (R54). -/
abbrev IWord := BitVec 32

/-- A vector or mask register: VLEN bits, 16,384 on this part (R1, R129). -/
abbrev VReg := BitVec 16384

/-- A 5-bit register field of an instruction word (R55, R56). -/
abbrev Reg := BitVec 5

/-- The 3-bit governing mask field P (R55). -/
abbrev PReg := BitVec 3

/-- A table by number: entries in rising order of number, none equal to the table's default. -/
abbrev Tab (α : Type) := List (Nat × α)

end Sys2Proof
end

