-- ==== Sys2Proof/Syntax.lean ====
section
/-! DEFINITION. The instructions of the opcode map (R61 to R66) and the events of the device: one constructor of
`Instr` per row of spec/opcode_table.json. -/

namespace Sys2Proof

/-- The type codes of R59. -/
inductive ElemTy where
  | s8 | s16 | s32 | s64 | z8 | z16 | z32 | z64 | f32 | bf16 | f16 | e4m3 | e5m2 | bpi
deriving DecidableEq, Repr

/-- The scope codes of R63. -/
inductive Scope where
  | thd | clu | til | die | dev | pgr | sys
deriving DecidableEq, Repr

/-- Access widths of LD (R62, W). -/
inductive LdW where
  | s8 | s16 | s32 | i64 | z8 | z16 | z32
deriving DecidableEq, Repr

/-- Access widths of ST (R62, W). -/
inductive StW where
  | i8 | i16 | i32 | i64
deriving DecidableEq, Repr

/-- Conditions of VCMP (R147). -/
inductive VCond where
  | eq | ne | lt | le | gt | ge | un
deriving DecidableEq, Repr

/-- Conditions of VWTC (R256). -/
inductive WCond where
  | eq | ne | lt | ge | ltu | geu
deriving DecidableEq, Repr

/-- Line directions (R154): `lin` is written `all` in VRED. -/
inductive Dim where
  | lin | row | col
deriving DecidableEq, Repr

/-- Element widths of VPRM (R64, WD). -/
inductive PWidth where
  | w8 | w16 | w32 | w64
deriving DecidableEq, Repr

/-- Index widths of VIDX (R65, IW). -/
inductive IdxW where
  | z16 | z32 | z64
deriving DecidableEq, Repr

/-- The group multiplier of vfmt and VSET (R57, R130). -/
inductive GMul where
  | m1 | m2 | m4 | m8
deriving DecidableEq, Repr

/-- A command that reaches this device from a peer through one of its ports (R336). -/
inductive RemoteCmd where
  /-- bytes to land from `raddr` on, with the running CRC to continue (R339) -/
  | xfer (ctx : Nat) (raddr : Word) (bytes : List Byte) (run : IWord)
  /-- latch acquire by a remote holder tag (R340) -/
  | lacq (ctx : Nat) (raddr : Word) (tag : BitVec 56)
  /-- latch release by a remote holder tag (R340) -/
  | lrel (ctx : Nat) (raddr : Word) (tag : BitVec 56)
  /-- watermark publication (R320) -/
  | publish (wmk : BitVec 8) (value : Word)
  /-- one arrival at a barrier (R248, R340) -/
  | arrive (launch : Word) (lvl : Nat) (group : Word)
  /-- a remote latch that its thread held or waited for when it ended is broken or given up (R340) -/
  | unlatch (ctx : Nat) (raddr : Word) (tag : BitVec 56)
  /-- a tile of another device was fenced and took threads of a launch with it (R43) -/
  | domainLost (launch : Word) (tile : Nat)
deriving DecidableEq, Repr

/-- What the target of a remote command answers (R337): code, running CRC, bytes landed. -/
structure LinkReply where
  code  : Byte
  run   : IWord
  bytes : Word
deriving DecidableEq, Repr

/-- One compressed block of a collective as it arrives (R346): header and payload codes. -/
structure CollBlock where
  gid     : Word
  seq     : IWord
  level   : Nat
  member  : Nat
  first   : Nat
  header  : BitVec 16
  payload : List (BitVec 16)
deriving DecidableEq, Repr

/-- What a collective's peer sends to this device (R346, R348). -/
inductive CollMsg where
  /-- a member's block for a level of which this device is the root -/
  | block (b : CollBlock)
  /-- result values of TYPE from the root above, in units of elements -/
  | result (gid : Word) (seq : IWord) (first : Nat) (values : List IWord)
  /-- exact elements of an all-gather from the given rank, as a member device sends or passes them on -/
  | gather (gid : Word) (seq : IWord) (member rank : Nat) (values : List IWord)
  /-- a block was rejected (CODE 8), or a member was fenced, lost its launch or lost its route (CODE 9) -/
  | lost (gid : Word) (seq : IWord) (code : Nat)
deriving DecidableEq, Repr

/-- A message of a collective as it arrives: the port, and how many collectives of its GID and SEQ its sender has ended (log 113). -/
structure CollArrival where
  port : Nat
  use : Nat
  body : CollMsg
deriving DecidableEq, Repr

/-- What arrives at a short-reach port (R329): a flit that passes its check, with the acknowledgement of its trailer, one that fails
it, or the partner's call for the flit of a sequence number. -/
inductive ShortFlit where
  | good (ack : IWord) | bad | again (seq : IWord)
deriving DecidableEq, Repr

/-- What arrives at a long-haul port: a frame that passes its check, one that fails it, or the partner's call for a resend (R330). -/
inductive FrameKind where
  | good | bad | again
deriving DecidableEq, Repr

/-- One cause of a host register read or of an SRAM error: which memory the error is in (R225). -/
inductive SramPlace where
  /-- the 32-byte granule at a physical address of slice SRAM -/
  | slice (pa : Nat)
  /-- a 128-byte line of a cluster's scratchpad -/
  | scratch (cluster : Nat) (line : Nat)
deriving DecidableEq, Repr

/-- The instructions and events: one constructor per row of spec/opcode_table.json. Register fields hold the field
value; `WellFormed` says which values are legal. -/
inductive Instr where
  -- SYS (R124)
  | sysTrap (code : BitVec 6)
  -- ALU, ALUI, UPI (R116)
  | aluAdd (d a b : Reg) | aluSub (d a b : Reg) | aluAnd (d a b : Reg) | aluOr (d a b : Reg) | aluXor (d a b : Reg)
  | aluSll (d a b : Reg) | aluSrl (d a b : Reg) | aluSra (d a b : Reg) | aluSlt (d a b : Reg) | aluSltu (d a b : Reg)
  | aluAddw (d a b : Reg) | aluSubw (d a b : Reg) | aluMin (d a b : Reg) | aluMax (d a b : Reg)
  | aluMinu (d a b : Reg) | aluMaxu (d a b : Reg)
  | alui (d a : Reg) (imm : BitVec 16) | upi (d : Reg) (imm : BitVec 21)
  -- MDV (R117)
  | mdvMul (d a b : Reg) | mdvMulh (d a b : Reg) | mdvMulhu (d a b : Reg) | mdvDiv (d a b : Reg) | mdvDivu (d a b : Reg)
  | mdvRem (d a b : Reg) | mdvRemu (d a b : Reg) | mdvMulw (d a b : Reg) | mdvDivw (d a b : Reg) | mdvRemw (d a b : Reg)
  -- BIT (R118)
  | bitSlli (d a : Reg) (sh : BitVec 6) | bitSrli (d a : Reg) (sh : BitVec 6) | bitSrai (d a : Reg) (sh : BitVec 6)
  | bitClz (d a : Reg) | bitCtz (d a : Reg) | bitPopc (d a : Reg) | bitRev8 (d a : Reg)
  -- LD, ST (R119): no scope when S is 0, the strong scope when S is 1
  | ld (d a b : Reg) (w : LdW) (strong : Option Scope) (off : BitVec 4)
  | st (d a b : Reg) (w : StW) (strong : Option Scope) (off : BitVec 4)
  -- BR, JL, JLR (R122): offsets count words
  | brEq (a b : Reg) (off : BitVec 14) | brNe (a b : Reg) (off : BitVec 14)
  | brLt (a b : Reg) (off : BitVec 14) | brLtu (a b : Reg) (off : BitVec 14)
  | jlGo (off : BitVec 25) | jlLn (off : BitVec 25) | jlr (d a : Reg) (imm : BitVec 16)
  -- CTL (R123)
  | ctlRd (d : Reg) (csr : BitVec 12) | ctlWr (a : Reg) (csr : BitVec 12) | ctlXchg (d a : Reg) (csr : BitVec 12)
  | ctlBset (a : Reg) (csr : BitVec 12) | ctlBclr (a : Reg) (csr : BitVec 12) | ctlAdv (d a : Reg) (csr : BitVec 12)
  -- VALU (R143)
  | valuAdd (d a b : Reg) (p : PReg) (s : Bool) (t : ElemTy) | valuSub (d a b : Reg) (p : PReg) (s : Bool) (t : ElemTy)
  | valuMul (d a b : Reg) (p : PReg) (s : Bool) (t : ElemTy) | valuMin (d a b : Reg) (p : PReg) (s : Bool) (t : ElemTy)
  | valuMax (d a b : Reg) (p : PReg) (s : Bool) (t : ElemTy) | valuSadd (d a b : Reg) (p : PReg) (s : Bool) (t : ElemTy)
  | valuSsub (d a b : Reg) (p : PReg) (s : Bool) (t : ElemTy) | valuAbsd (d a b : Reg) (p : PReg) (s : Bool) (t : ElemTy)
  -- VALUI (R144)
  | valuiAdd (d a : Reg) (imm : BitVec 5) (p : PReg) (t : ElemTy) | valuiRsub (d a : Reg) (imm : BitVec 5) (p : PReg) (t : ElemTy)
  | valuiMin (d a : Reg) (imm : BitVec 5) (p : PReg) (t : ElemTy) | valuiMax (d a : Reg) (imm : BitVec 5) (p : PReg) (t : ElemTy)
  | valuiSadd (d a : Reg) (imm : BitVec 5) (p : PReg) (t : ElemTy) | valuiSll (d a : Reg) (imm : BitVec 5) (p : PReg) (t : ElemTy)
  | valuiSrl (d a : Reg) (imm : BitVec 5) (p : PReg) (t : ElemTy) | valuiSra (d a : Reg) (imm : BitVec 5) (p : PReg) (t : ElemTy)
  | valuiAnd (d a : Reg) (imm : BitVec 5) (p : PReg) (t : ElemTy) | valuiOr (d a : Reg) (imm : BitVec 5) (p : PReg) (t : ElemTy)
  | valuiXor (d a : Reg) (imm : BitVec 5) (p : PReg) (t : ElemTy) | valuiMov (d : Reg) (imm : BitVec 5) (p : PReg) (t : ElemTy)
  -- VFMA (R145, R146)
  | vfmaFma (d a b : Reg) (p : PReg) (s : Bool) (t : ElemTy) | vfmaFms (d a b : Reg) (p : PReg) (s : Bool) (t : ElemTy)
  | vfmaFnma (d a b : Reg) (p : PReg) (s : Bool) (t : ElemTy) | vfmaFnms (d a b : Reg) (p : PReg) (s : Bool) (t : ElemTy)
  | vfmaDot2 (d a b : Reg) (p : PReg) (s : Bool) (t : ElemTy)
  -- VCMP, VMSK (R147, R148)
  | vcmp (d a b : Reg) (p : PReg) (s : Bool) (cc : VCond) (t : ElemTy)
  | vmskAnd (d a b : Reg) (p : PReg) | vmskOr (d a b : Reg) (p : PReg) | vmskXor (d a b : Reg) (p : PReg)
  | vmskAndn (d a b : Reg) (p : PReg) | vmskOrn (d a b : Reg) (p : PReg)
  | vmskNot (d a : Reg) (p : PReg) | vmskMov (d a : Reg) (p : PReg) | vmskFrst (d a : Reg) (p : PReg) | vmskPopc (d a : Reg) (p : PReg)
  -- VPRM (R155, R156): the B field of bcst names nothing
  | vprmSlup (d a b : Reg) (p : PReg) (dim : Dim) (w : PWidth) | vprmSldn (d a b : Reg) (p : PReg) (dim : Dim) (w : PWidth)
  | vprmGath (d a b : Reg) (p : PReg) (dim : Dim) (w : PWidth)
  | vprmCmpr (d a : Reg) (p : PReg) (dim : Dim) (w : PWidth) | vprmExpd (d a : Reg) (p : PReg) (dim : Dim) (w : PWidth)
  | vprmBcst (d a b : Reg) (p : PReg) (dim : Dim) (w : PWidth) | vprmTran (d a : Reg) (p : PReg) (w : PWidth)
  | vprmMov (d a : Reg) (p : PReg) (dim : Dim) (w : PWidth)
  -- VRED (R157, R158)
  | vredSum (d a : Reg) (p : PReg) (dim : Dim) (t : ElemTy) | vredMax (d a : Reg) (p : PReg) (dim : Dim) (t : ElemTy)
  | vredMin (d a : Reg) (p : PReg) (dim : Dim) (t : ElemTy) | vredAmax (d a : Reg) (p : PReg) (dim : Dim) (t : ElemTy)
  -- VCVT (R159)
  | vcvt (d a : Reg) (p : PReg) (tt ft : ElemTy)
  -- VBPL (R161, R162)
  | vbplAnd (d a b : Reg) (p : PReg) (t : ElemTy) | vbplOr (d a b : Reg) (p : PReg) (t : ElemTy)
  | vbplXor (d a b : Reg) (p : PReg) (t : ElemTy) | vbplAndn (d a b : Reg) (p : PReg) (t : ElemTy)
  | vbplNot (d a : Reg) (p : PReg) (t : ElemTy) | vbplSll (d a b : Reg) (p : PReg) (t : ElemTy)
  | vbplSrl (d a b : Reg) (p : PReg) (t : ElemTy) | vbplSra (d a b : Reg) (p : PReg) (t : ElemTy)
  | vbplPopc (d a : Reg) (p : PReg) (t : ElemTy)
  | vbplPext (d a b : Reg) (p : PReg) | vbplPins (d a b : Reg) (p : PReg) | vbplPmac (d a b : Reg) (p : PReg)
  -- VSCA (R163)
  | vscaMul (d a b : Reg) (p : PReg) (s : Bool) (t : ElemTy) | vscaMacc (d a b : Reg) (p : PReg) (s : Bool) (t : ElemTy)
  | vscaRmul (d a b : Reg) (p : PReg) (s : Bool) (t : ElemTy) | vscaCmul (d a b : Reg) (p : PReg) (s : Bool) (t : ElemTy)
  | vscaRmac (d a b : Reg) (p : PReg) (s : Bool) (t : ElemTy) | vscaCmac (d a b : Reg) (p : PReg) (s : Bool) (t : ElemTy)
  -- VSET (R142)
  | vsetLen (a b : Reg) | vsetLenf (a b : Reg) (g : GMul) (t : ElemTy)
  -- VWLD, VWST, VIDX (R192 to R194)
  | vwld (d a b : Reg) (p : PReg) (rd cd str : BitVec 2) (keep : Bool) | vwst (d a b : Reg) (p : PReg) (rd cd str : BitVec 2)
  | vidxLd (d a b : Reg) (p : PReg) (iw : IdxW) (keep : Bool) | vidxSt (d a b : Reg) (p : PReg) (iw : IdxW)
  -- VSX (R164, R165)
  | vsxIsec (d a b : Reg) (p : PReg) (t : ElemTy) | vsxIcnt (d a b : Reg) (p : PReg) (t : ElemTy)
  | vsxUnio (d a b : Reg) (p : PReg) (t : ElemTy) | vsxDiff (d a b : Reg) (p : PReg) (t : ElemTy)
  | vsxMrge (d a b : Reg) (p : PReg) (t : ElemTy)
  -- HRES, KCNT (R186, R187)
  | hresSet (d a : Reg) | hresAnch (d a : Reg) (n : BitVec 2) | hresLim (d a : Reg) (n : BitVec 2)
  | hresBind (d a : Reg) | hresWmk (d a : Reg) | hresClr (d : Reg)
  | kcntExt (d a : Reg) | kcntLink (d b : Reg) | kcntAdv (d : Reg) | kcntSet (d a : Reg) | kcntRst (d : Reg)
  -- QORD (R277)
  | qordWait (l0 l1 l2 l3 l4 : BitVec 4) | qordJoin (l0 l1 l2 l3 l4 : BitVec 4)
  -- TILE, CDY, TMOV (R206, R210, R217)
  | tileMma (d a b : Reg) (p : PReg) (t : ElemTy) | tileZero (d : Reg) (p : PReg) | tileScal (d a : Reg) (p : PReg)
  | tileOn (d : Reg) | tileOff (d : Reg)
  | cdyClaim (a b : Reg) | cdyLoad (d a b : Reg) | cdyLstr (d a b : Reg) | cdyRel (a b : Reg) | cdyMeta (d a : Reg)
  | tmovRtov (d a b : Reg) (p : PReg) | tmovCtov (d a b : Reg) (p : PReg)
  | tmovVtor (d a b : Reg) (p : PReg) | tmovVtoc (d a b : Reg) (p : PReg)
  -- SYNC (R242)
  | syncAcq (a : Reg) (sc : Scope) | syncRel (a : Reg) (sc : Scope) | syncBind (d a b : Reg) (sc : Scope)
  | syncUbnd (d a : Reg) (sc : Scope) | syncFenc (sc : Scope)
  | syncBarr (sc : Scope) (lvl : BitVec 4) | syncArrv (sc : Scope) (lvl : BitVec 4) | syncExpt (a : Reg) (sc : Scope) (lvl : BitVec 4)
  -- VAMO (R251)
  | vamoAdd (d a b : Reg) (p : PReg) (ret aq rl w64 : Bool) | vamoMin (d a b : Reg) (p : PReg) (ret aq rl w64 : Bool)
  | vamoMax (d a b : Reg) (p : PReg) (ret aq rl w64 : Bool) | vamoAnd (d a b : Reg) (p : PReg) (ret aq rl w64 : Bool)
  | vamoOr (d a b : Reg) (p : PReg) (ret aq rl w64 : Bool) | vamoXor (d a b : Reg) (p : PReg) (ret aq rl w64 : Bool)
  | vamoSwap (d a b : Reg) (p : PReg) (ret aq rl w64 : Bool) | vamoCas (d a b : Reg) (p : PReg) (aq rl w64 : Bool)
  | vamoFadd (d a b : Reg) (p : PReg) (ret aq rl : Bool)
  -- VWTC, ACCW (R256, R258)
  | vwtc (d a b : Reg) (p : PReg) (cc : WCond) (w64 : Bool)
  | accwUpd (d a b : Reg) (p : PReg) (t : ElemTy) | accwMrge (d : Reg) (t : ElemTy) | accwClr (d : Reg) (t : ElemTy)
  -- LINK, COLL (R338, R343)
  | linkXfer (d a b : Reg) (ch last : Bool) | linkLacq (b : Reg) | linkLrel (b : Reg) | linkLsig (b : Reg)
  | collAred (a : Reg) (t : ElemTy) | collRsct (a : Reg) (t : ElemTy) | collAgat (a : Reg) (t : ElemTy)
  -- LNCH (R276)
  | lnch (a b : Reg)
  -- EVENTS. A thread is named by 4 × cluster + slot; a request, release or command by its unique number.
  | entryAtVcp (thread : Nat) | issueGrant (cluster : Nat) | eReadWake (thread : Nat) | qordRelease (thread : Nat)
  | pushStallResume (thread : Nat) | tileEngineStep (cluster : Nat) | tilePoolGrant (cluster : Nat) | caddySlotGrant (cluster : Nat)
  | fetchReturn (thread : Nat) (h : Nat) (fetch : Nat) | deliveryLanding (thread : Nat) (h : Nat) (fetch : Nat)
  | sliceRequest (uid : Nat) | pageWalkComplete (cluster ctx : Nat) (va : Word)
  | watermarkPublish (uid : Nat) | hostWatermarkWrite (n : BitVec 8) (value : Word) | hostWatermarkClear (n : BitVec 8)
  | latchGrant (pa : Nat) | latchAcquireRetry (thread : Nat) | latchReleasePerform (uid : Nat)
  | barrierPhaseComplete (launch : Nat) (lvl : Nat) (group : Nat) | vwtcReread (thread : Nat)
  | retirementEntryFree (cluster : Nat) (index : Nat)
  | hostTailWrite (q : BitVec 6) (value : Word) | queueEnable (q : BitVec 6) (ring : Word) | queueDisable (q : BitVec 6)
  | threadStop (thread : Nat) | contextSave (thread : Nat) | contextRestore (launch : Nat)
  | heartbeatTick (die : Nat) | heartbeatReceive (tile sender : Nat)
  | periodicDrain (die : Nat) | drainEnd (die : Nat) | busyLaneRotate (die : Nat)
  | accusationApply (tile accuser : Nat) | retractionApply (tile accuser : Nat) | selfTestComplete (tile : Nat) (pass : Bool)
  | appealApply (tile : Nat) | reinstatementVoteApply (tile voter : Nat) (withdraw : Bool)
  | snapshotApply (station : Nat)
  | powerWrite (value : Word) | powerModeApply (die : Nat)
  | sramEccError (place : SramPlace) (corrected : Bool)
  | commandBlockDone (migrate : Bool)
  | portctlEnable (port : Nat) (enable : Bool) | injWrite (port : Nat) (value : Word) | driverAreaWrite (offset value : Word)
  | hostPostedWrite (bar off : Nat) (bytes : List Byte) (relaxed : Bool) | hostNonpostedRead (bar off len : Nat)
  | shortReachFlitReceive (port : Nat) (kind : ShortFlit) | longHaulFrameReceive (port : Nat) (seq : IWord) (kind : FrameKind)
  | longHaulAckTimeout (port : Nat) | portPhyFault (port : Nat)
  | remoteCommandReceive (port : Nat) (cmd : RemoteCmd) | linkCommandPerform (uid : Nat) (reply : LinkReply)
  | collBlockReceive (msg : CollArrival) | codebookLoad (thread : Nat) | resteepMerge (cluster : Nat) (older newer : Nat)
  | fwLoad (addr : Word) (len : Nat) | fwAttest (addr : Word)
  | illegalWord (w : IWord) | instructionPageFault (va : Word)
  -- The rows without an operand: SYS (R124), VREL (R278) and the events that carry nothing.
  | sysCall | sysTret | sysTend | sysSnap | sysBrk | vrel
  | schedulerPlace | snaptrigWrite | snapshotTriggerArrive | snapshotRoundEnd | thermalHalt
  | invalCommand | migrateCommand | migrationComplete | fwCkpt | fwRestore | fwCommandDone | deviceReset
  -- What happens to the device from outside its own logic.
  | tokenBypass (tile : Nat) | tileFallsSilent (tile : Nat) | coolantLimitExit (die : Nat)
  | routerFlitReceive (tile sender : Nat) (credits : Nat) (malformed : Bool)
  | portLinkTrained (port : Nat) | cumulativeAcknowledgement (port : Nat) (seq : IWord)
  | cxlReadReturn (pa : Nat) (poisoned : Bool)
  | staticBinding (ctx : Nat) (latch base length : Word) (sc : Scope)
deriving DecidableEq, Repr

end Sys2Proof
end

