-- ==== Sys2Proof/Machine/State.lean ====
section
/-! DEFINITION. The state of one device as plain data: every piece of state the spec gives it, its value after reset,
and the reasons a step can stop. -/

namespace Sys2Proof.Machine

/-- Why a step stops. -/
inductive Fault where
  /-- Raised by `step` for a turn that names a thread the device does not have (R9, R22: 1,280 threads). Safe: no
  hardware takes such a step. -/
  | noSuchThread
deriving DecidableEq, Repr

/-- Why an instruction has no meaning. -/
inductive Refusal where
  /-- Raised by `exec` for an instruction without a meaning yet. Safe: nothing can be proved of what it does. -/
  | notModelled (mnemonic : String)
deriving DecidableEq, Repr

/-- Device memory by physical address (R220): addresses strictly rising, no cell equal to what an unlisted address
reads as. -/
abbrev Memory := List Host.Cell

/-! ## Threads -/

/-- The control and status registers of R110 that hold state of their own. -/
structure Csrs where
  vfmt : Word := 0
  vrows : Word := 0
  vcols : Word := 0
  vmode : Word := 0
  vesr : Word := 0
  srseed : Word := 0
  srbase : Word := 0
  stctl : Word := 0x40
  stloss : Word := 0
  rsctl : Word := 0
  tcause : Word := 0
  tval : Word := 0
  tepc : Word := 0
  tstat : Word := 0
  thand : Word := 0
  tkeep : Word := 0
deriving DecidableEq, Repr

/-- What a push captures (R23). -/
structure Cap where
  vfmt : Word := 0
  vrows : Word := 0
  vcols : Word := 0
  vmode : Word := 0
  vesr : Word := 0
  srseed : Word := 0
  srbase : Word := 0
  stctl : Word := 0
  stloss : Word := 0
  rsctl : Word := 0
  pc : Word := 0
  xd : Word := 0
  xa : Word := 0
  xb : Word := 0
deriving DecidableEq, Repr

/-- The residency part of a Resteep key (R301). -/
structure LoadKey where
  slot : Nat
  h : Nat
  lo : List Int
  xb : Option Word
  index : List Nat
deriving DecidableEq, Repr

/-- The full key of a Resteep entry (R296). -/
structure RsKey where
  ctx : Nat
  opc : IWord
  src : List Nat
  old : List Nat
  mask : Nat
  ctl : List Word
  load : Option LoadKey
deriving DecidableEq, Repr

/-- An entry of a vector queue (R23, R271). -/
structure Entry where
  uid : Nat
  instr : Instr
  cap : Cap
  /-- element it starts or restarts at: the captured vesr, then k (R137, R238) -/
  k : Nat
  /-- pushed while tstat.INH was 1 (R289) -/
  hnd : Bool := false
  /-- the e operand, once it has been read (R139) -/
  eb : Option Word := none
  /-- new boxes of the registers a marker recomputes (R175) -/
  boxes : List (Nat × List Int) := []
  /-- a kcnt.ext that changed its counter's value at push, and so is a marker (R175, R177) -/
  changed : Bool := false
  /-- it has begun: looked up (R298), or its first checks have passed -/
  begun : Bool := false
  /-- pushed again by sys.tret or a restore (R30, R293) -/
  again : Bool := false
  /-- the phase its barrier arrival counted in (R248) -/
  phase : Option Nat := none
  /-- elements of a VWTC already satisfied (R256) -/
  sat : List Nat := []
  /-- a window load of it has cleared a mask bit (R301) -/
  cleared : Bool := false
  /-- the key it looked up and missed (R298) -/
  key : Option RsKey := none
deriving DecidableEq, Repr

/-- A counter register (R166). -/
structure KReg where
  value : Nat := 0
  extent : Nat := 1
  link : Option Nat := none
deriving DecidableEq, Repr

/-- The items of a residency register that have two copies (R167). -/
structure HCopy where
  anchor : List Int := [0, 0, 0, 0]
  limit : List Nat := [2 ^ 64 - 1, 2 ^ 64 - 1, 2 ^ 64 - 1, 2 ^ 64 - 1]
  wmk : Option Nat := none
  latch : Option Word := none
  lo : List Int := [0, 0, 0, 0]
deriving DecidableEq, Repr

/-- A slot whose fetch failed (R181): its element's address and whether the data was poisoned. -/
structure FailedSlot where
  slot : Nat
  va : Word
  poisoned : Bool
deriving DecidableEq, Repr

/-- A configured residency register (R167). The line states are derived: a line with a failed slot is poisoned, one with
no failed slot into which a fetch in delivery will land is empty, any other is full. -/
structure HReg where
  /-- the 160 bytes of its configuration block (R170) -/
  blk : List Byte
  /-- the 64 bytes of its tensor descriptor (R168) -/
  td : List Byte
  push : HCopy := {}
  comm : HCopy := {}
  dirty : List Nat := []
  failed : List FailedSlot := []
deriving DecidableEq, Repr

/-- Where a fetch of one element stands (R178, R181). -/
inductive FetchState where
  /-- waiting for the translation of its page -/
  | walk
  /-- its physical address is known; the read has not returned -/
  | sent (pa : Nat)
  /-- the element is in the delivery buffer -/
  | data (bits : Word)
  /-- translation failed -/
  | noPage
  /-- the home answered poisoned or fenced -/
  | bad
deriving DecidableEq, Repr

/-- The fetch of one element (R176 to R181). -/
structure Fetch where
  id : Nat
  coord : List Int
  slot : Nat
  va : Int
  state : FetchState := .walk
  /-- the watermark its register named when it was issued (R185, R186) -/
  wmk : Option Nat := none
  /-- the fetch of another register that reads this element for both (R179) -/
  share : Option Nat := none
deriving DecidableEq, Repr

/-- A recomputation of a register in delivery (R177), or the refetch of R181 and R184 (`counts` false). -/
structure Recomp where
  h : Nat
  marker : Nat
  /-- its marker has completed, so its data may land (R175) -/
  landing : Bool := false
  counts : Bool := true
  fetches : List Fetch
deriving DecidableEq, Repr

/-- An entry of a tile queue (R200): what it read at hand-off and its step counter. -/
structure TEntry where
  uid : Nat
  instr : Instr
  cap : Cap
  /-- pool tile of the D field -/
  tile : Nat := 0
  /-- Caddy slots: A and B of a product, or those that cdy.rel returns -/
  slots : List Nat := []
  /-- predicate bits 0 to 127 (R205) -/
  pred : BitVec 128 := 0
  /-- captured start and HND flag, for its record in the save area (R292) -/
  k : Nat := 0
  hnd : Bool := false
  /-- the scale factor of tile.scal, or the row or column of vtor and vtoc -/
  data : BitVec 2048 := 0
  step : Nat := 0
deriving DecidableEq, Repr

/-- An entry of a link queue (R271). -/
structure LCmd where
  uid : Nat
  instr : Instr
  cap : Cap
  /-- the descriptor as read at hand-off (R336, R343) -/
  desc : List Byte
  /-- captured start and HND flag, for its record in the save area (R292) -/
  k : Nat := 0
  hnd : Bool := false
  /-- the port a command left by (R330) -/
  via : Option Nat := none
  /-- it has read its source, or has been sent to its peer -/
  begun : Bool := false
  /-- a collective's registered contribution, or a latch that link.lacq has obtained -/
  joined : Bool := false
  /-- the latch it obtained was broken -/
  broken : Bool := false
  /-- status code it will end with because it can no longer perform, 0 for none -/
  failed : Byte := 0
deriving DecidableEq, Repr

/-- Why a thread waits before an instruction of its own. -/
inductive Hold where
  | run
  /-- ctl.rd of an e register (R115) -/
  | eRead (d : Reg) (n : Nat)
  /-- QORD at its push (R277) -/
  | qord (i : Instr)
  /-- a push that found no room (R25, R177, R318) -/
  | push
  /-- entries that sys.tret or a restore has still to push again (R30, R293) -/
  | repush (l : List Entry)
  /-- a scalar load, or the fetch of an instruction, whose packet a router has dropped: no return ever comes (R309) -/
  | lost
deriving DecidableEq, Repr

/-- A latch a thread holds on a target through link.lacq (R340): the port it went through (none for this device),
context and address. -/
structure RemoteLatch where
  port : Option Nat
  ctx : Nat
  addr : Word
deriving DecidableEq, Repr

/-- A placed thread (R22, R44). -/
structure Thread where
  /-- names the thread's operations for the device's whole life -/
  uid : Nat
  launch : Nat
  ctx : Nat
  flat : Nat
  /-- member index at each level, level 0 first (R36) -/
  idx : List Nat
  weight : Nat
  lgrp : Option Nat := none
  /-- physical address of its save area (R281) -/
  area : Nat
  x : Tab Word := []
  pc : Word
  csr : Csrs := {}
  v : Tab VReg := []
  /-- element groups of each v register ever changed since it last named the zero register (R292, VEXT) -/
  vext : Tab Nat := []
  p : Tab VReg := []
  kpush : Tab KReg := []
  kcomm : Tab KReg := []
  h : Tab HReg := []
  recomps : List Recomp := []
  t : Tab Nat := []
  q : Tab Nat := []
  vq : List Entry := []
  tq : List TEntry := []
  lq : List LCmd := []
  held : List Entry := []
  /-- a vector-side trap that waits for INH to return to 0: cause and tval (R289) -/
  deferred : Option (BitVec 8 × Word) := none
  hold : Hold := .run
  /-- the older recomputations that a push stalls for: register and marker (R177) -/
  stallOn : List (Nat × Nat) := []
  latches : List Word := []
  remote : List RemoteLatch := []
  vrelPushed : Bool := false
  vreleased : Bool := false
  /-- sync.barr waits: level and phase (R249) -/
  barrWait : Option (Nat × Nat) := none
  /-- lowest lost address of the write-backs that the entry at vcp, or the thread's end, has handed off so far (R378) -/
  lost : Option Int := none
  stopReq : Bool := false
  stopped : Bool := false
deriving DecidableEq, Repr

/-! ## Clusters -/

/-- A Caddy slot (R196): bytes, metadata, and the strained form and controls of its last load. -/
structure CSlot where
  bytes : Tab Byte := []
  info : Word := 0
  terms : List (List (List Nat)) := []
  residual : List (Nat × Nat) := []
  stctl : Word := 0
  stloss : Word := 0
deriving DecidableEq, Repr

/-- An entry of the retirement tracker (R46). -/
structure Retired where
  uid : Nat
  launch : Nat
  ctx : Nat
  tag : BitVec 56
  lq : List LCmd
  remote : List RemoteLatch
deriving DecidableEq, Repr

/-- A cached translation (R285): context, first virtual address and size of the page, its leaf entry. -/
structure Tlb where
  ctx : Nat
  va : Nat
  big : Bool
  leaf : Word
deriving DecidableEq, Repr

/-- An entry of the Resteep table (R296): its key, its result registers and the digest of its key. -/
structure RsEntry where
  key : RsKey
  result : List Nat
  digest : BitVec 24
deriving DecidableEq, Repr

/-- The reuse state of a cluster (R294). `names` and `ptags` are keyed by 32 or 8 times the slot plus the register, `ages`
by the physical register. -/
structure Resteep where
  /-- most recently used first -/
  table : List RsEntry := []
  names : Tab Nat := []
  ptags : Tab Nat := []
  tagCtr : Nat := 1
  /-- physical registers that are no candidates for merge (R295) -/
  noMerge : List Nat := []
  /-- step at which each physical register was last taken for a write: the older of two has the smaller one (R300) -/
  ages : Tab Nat := []
  /-- pairs that were compared, found unequal and counted since either was written (R300, RS_HCOLL) -/
  unequal : List (Nat × Nat) := []
deriving DecidableEq, Repr

/-- An access that has missed in the translation cache (R285, R323): thread, the number of the access, 64 KiB page number and, once a
walk of the page has ended, what it found. -/
structure Miss where
  owner : Nat
  id : Nat
  page : Nat
  leaf : Option (Option (Word × Bool)) := none
deriving DecidableEq, Repr

/-- One cluster. -/
structure Cluster where
  scratch : Tab Byte := []
  /-- contents of the 16 pool tiles, keyed by 4096 times the tile plus 64 i + j -/
  tiles : Tab (BitVec 32) := []
  tileBusy : List Nat := []
  slots : Tab CSlot := []
  slotBusy : List Nat := []
  /-- thread slots whose tile.on or cdy.claim waits, in the order they reached vcp (R201) -/
  tileWait : List Nat := []
  slotWait : List Nat := []
  deficit : Tab Nat := []
  ptr : Nat := 0
  seqLast : Nat := 3
  /-- slot of the entry the sequencer is running -/
  seqRun : Option Nat := none
  tracker : List Retired := []
  tlb : List Tlb := []
  /-- accesses that missed, were counted, and have not yet performed (R285, R323) -/
  missed : List Miss := []
  rs : Resteep := {}
deriving DecidableEq, Repr

/-! ## Requests on their way to a home -/

/-- The operations of VAMO (R252). -/
inductive AmoOp where
  | add | min | max | and | or | xor | swap | cas | fadd
deriving DecidableEq, Repr

/-- A request that performs at its home slice (R228, R229). -/
inductive ReqKind where
  /-- bytes of a scalar store -/
  | store (pa : Nat) (bytes : List Byte)
  /-- a dirty element -/
  | writeBack (pa : Nat) (bytes : List Byte)
  /-- the first `planes` planes of element `e` of the bpi block at `pa` (R95, R96) -/
  | planes (pa e planes : Nat) (value : Byte)
  /-- one element merge of an accumulation window (R260): the 64 copies in order -/
  | merge (pa : Nat) (ty : ElemTy) (copies : List Word)
  /-- a non-returning atomic element (R252) -/
  | atom (pa : Nat) (op : AmoOp) (w64 : Bool) (v : Word)
deriving DecidableEq, Repr

/-- What an access needs of its page (R284), and whether it may reach a thread-save page (R282). -/
structure Need where
  r : Bool := false
  w : Bool := false
  x : Bool := false
  ts : Bool := false
deriving DecidableEq, Repr

/-- A walk that has been started and has not ended (R285): cluster, context, 64 KiB page number, and what the access that started
it needs of the page. `lost` says that a router has dropped its packet, so that it never ends (R309). -/
structure Walk where
  cl : Nat
  ctx : Nat
  page : Nat
  need : Need := {}
  lost : Bool := false
deriving DecidableEq, Repr

/-- A request issued and not yet performed. `seq` is its place in its thread's program order: the unique number of the
entry that made it, or its own (R230, R237). `part` marks one of the several requests of a VAMO or an accw.mrge, which
count once together (R272). -/
structure Req where
  uid : Nat := 0
  seq : Nat
  part : Bool := false
  /-- thread that issued it -/
  owner : Nat
  launch : Nat
  cluster : Nat
  strong : Bool := false
  kind : ReqKind
deriving DecidableEq, Repr

/-! ## Synchronisation -/

/-- A waiter for a latch (R243). `thread` is the number of a waiting thread; a waiting link.lacq has `none` and is
answered through the link command `uid` of this device or through `port`. -/
structure Waiter where
  pa : Nat
  uid : Nat
  tag : BitVec 56
  sc : Scope
  thread : Option Nat
  port : Option Nat := none
  /-- context in which its address was translated -/
  ctx : Nat
deriving DecidableEq, Repr

/-- A release that has not performed (R244). -/
structure PendRel where
  uid : Nat
  owner : Nat
  thread : Nat
  addr : Word
  pa : Nat
  sc : Scope
  tag : BitVec 56
  /-- context in which its address was translated -/
  ctx : Nat
deriving DecidableEq, Repr

/-- A binding (R245). `unit` is the maker's unit of the scope; `launch` is none for a static binding (R90). -/
structure Binding where
  ctx : Nat
  latch : Word
  base : Word
  length : Word
  sc : Scope
  unit : Nat
  launch : Option Nat
deriving DecidableEq, Repr

/-- Barrier state of one group (R240, R247): PHASE, ARRIVED, EXPECT and NEXT hold 32 bits each. `came` names the threads
that arrived in the current phase (R250). -/
structure Barrier where
  launch : Nat
  lvl : Nat
  group : Nat
  phase : Nat := 0
  arrived : Nat := 0
  expect : Nat
  next : Nat := 0
  live : Nat
  came : List Nat := []
  /-- the cycle in which the current phase completes, once its arrivals are there (R247) -/
  dueAt : Option Nat := none
  /-- expectations applied in cycle `lateAt`, which the cycle's test comes before (R247) -/
  late : Nat := 0
  lateAt : Nat := 0
deriving DecidableEq, Repr

/-- A watermark publication on its way to its home (R320). -/
structure Pub where
  uid : Nat
  owner : Nat
  /-- launch of its thread; 0 when a fenced tile left it behind (R313) -/
  launch : Nat
  wmk : Nat
  value : Word
deriving DecidableEq, Repr

/-! ## Launching -/

/-- The outcome of a launch (R261, R266). -/
inductive LOut where
  | completed | failed | domainLost | trapped
deriving DecidableEq, Repr

/-- A committed record (R263, R264). -/
structure QRec where
  id : Nat
  ctx : Nat
  /-- committed by LNCH: it occupies the device buffer -/
  device : Bool
  raw : List Byte
deriving DecidableEq, Repr

/-- A launch queue (R261, R262). `outcomes` holds the sequence and outcome at each index sequence mod 1,024. -/
structure LQueue where
  en : Bool := false
  tail : Nat := 0
  head : Nat := 0
  ring : Word := 0
  seq : Nat := 1
  recs : List QRec := []
  outcomes : Tab (Nat × LOut) := []
deriving DecidableEq, Repr

/-- A thread saved out of its cluster (R292): what the save area has no place for. -/
structure Saved where
  uid : Nat
  area : Nat
  flat : Nat
  idx : List Nat
  tq : List TEntry
  lq : List LCmd
  remote : List RemoteLatch
  vrelPushed : Bool
  vreleased : Bool
  /-- held entries of a thread saved inside its handler, and the entries of its queue that find no record beside them -/
  held : List Entry
  vq : List Entry
  /-- scratchpad bytes of dirty elements in lines that are not full, which the area has no place for -/
  dirty : Tab Byte
  lost : Option Int
  /-- latches whose release waits for link commands that the save holds back (R239, R291) -/
  rels : List Word
  /-- hardware its names stood for, and the slots that only its tile queue still needs -/
  t : Tab Nat
  q : Tab Nat
  spare : Tab CSlot
deriving DecidableEq, Repr

/-- A placed launch (R268). `units` is keyed by 2^40 times the level plus the group: where each group stands. -/
structure Launch where
  id : Nat
  queue : Nat
  ctx : Nat
  raw : List Byte
  /-- threads placed so far, in flat order -/
  placed : Nat := 0
  units : Tab Nat := []
  saved : List Saved := []
  order : Nat
  /-- written back by RESTORE; it waits until its queue is enabled (R356) -/
  parked : Bool := false
  /-- group tables as first read (R344), keyed by address -/
  groups : List (Word × List Byte) := []
  /-- memory as it stood when the launch was placed, from which its threads may fetch (R121) -/
  code : Memory := []
deriving DecidableEq, Repr

/-! ## Cupping, counters, ports, collectives -/

/-- An observer record (R306). -/
structure Obs where
  miss : Nat := 0
  hb : Nat := 0
  flits : Nat := 0
  credits : Nat := 0
  malformed : Bool := false
  clean : Nat := 0
  acc : Bool := false
  /-- cause of its last accusation (R312) -/
  cause : Nat := 0
deriving DecidableEq, Repr

/-- A broadcast on a die's side notification network (R310). -/
inductive Bcast where
  | accuse (tile sender cause : Nat)
  | retract (tile sender : Nat)
  | appeal (tile : Nat)
  | vote (tile sender : Nat) (withdraw : Bool)
  /-- a snapshot, with the stations of the die that have still to apply it (R325, R326) -/
  | snapshot (die : Nat) (seq : IWord) (todo : List Nat)
deriving DecidableEq, Repr

/-- A heartbeat flit on its way: observer, sender, the sender's fence-table state and a sequence number (R307). -/
structure Beat where
  observer : Nat
  sender : Nat
  fence : Nat
  seq : BitVec 16
deriving DecidableEq, Repr

/-- Drain state of a die (R307, R312). -/
structure Drain where
  active : Bool := false
  skip : Bool := false
  /-- multiple of 65,536 cycles at which the last drain was due -/
  round : Nat := 0
  /-- fences decided while the drain is in progress: tile, cause and the cycle of the deciding broadcast -/
  pending : List (Nat × Nat × Nat) := []
deriving DecidableEq, Repr

/-- A command block at work (R334): the unique number at its start and the ERR it will end with. -/
structure BlockRun where
  mark : Nat
  err : Nat
deriving DecidableEq, Repr

/-- One contribution of this device to a collective (R346). -/
structure CollPart where
  cmd : Nat
  thread : Nat
  owner : Nat
  rank : Nat
  /-- bit patterns of its SRC elements -/
  src : List Word
  dst : Word
  efb : Word
  status : Word
deriving DecidableEq, Repr

/-- A collective in flight (R348). -/
structure Coll where
  gid : Word
  seq : IWord
  launch : Nat
  ctx : Nat
  op : Nat
  ty : ElemTy
  count : Nat
  table : List Byte
  /-- KIND and members of each level (R344) -/
  levels : List (Nat × List Nat) := []
  parts : List CollPart := []
  blocks : List CollBlock := []
  results : List (Nat × List IWord) := []
  /-- contributions of an agat: the device that sent or passed it on, rank and elements -/
  gathers : List (Nat × Nat × List IWord) := []
  /-- levels this device has already sent a contribution for -/
  sent : List Nat := []
  /-- code it ends with, 0 while it runs -/
  code : Nat := 0
  /-- the other devices know that it is lost -/
  told : Bool := false
deriving DecidableEq, Repr

/-- A codebook bank (R347). -/
structure Bank where
  gen : IWord
  levels : List Int
deriving DecidableEq, Repr

/-- What leaves the device through a port (R336, R346). -/
inductive Packet where
  | command (uid : Nat) (cmd : RemoteCmd)
  | reply (uid : Nat) (r : LinkReply)
  | coll (use : Nat) (m : CollMsg)
  | unlatch (ctx : Nat) (addr : Word) (tag : BitVec 56)
  | ack (seq : Nat)
  | nack (seq : Nat)
  | resend (seq : Nat)
  | askAgain (seq : Nat)
  /-- what a short-reach port sends: the destination device of the header, the acknowledgement of the trailer (R329) -/
  | flit (dest ack : Nat) (p : Packet)
deriving DecidableEq, Repr

/-- Where the bytes of a transfer come from: thread, context, address and length. -/
structure Source where
  owner : Nat
  ctx : Nat
  va : Nat
  len : Nat
deriving DecidableEq, Repr

/-- A packet that a short-reach port has sent and its partner has not acknowledged: the sequence number of its first flit, its
flits, the destination in their headers, the packet and, for a transfer, the source from which it is read again (R329). -/
structure Sent where
  seq : Nat
  flits : Nat
  dest : Nat
  packet : Packet
  source : Option Source := none
deriving DecidableEq, Repr

/-- A port interface (R328 to R332, R342). -/
structure Port where
  trained : Bool := false
  fault : Bool := false
  inj : Word := 0
  /-- next sequence number to send and next expected, of a flit on a short-reach link (R329) and of a frame on a long-haul one,
  where `replay` has the frames held with their flits (R330) -/
  txSeq : Nat := 0
  rxSeq : Nat := 0
  replay : List (Nat × Nat) := []
  /-- long-haul: packets that wait while the replay buffer is full, with their flits (R330) -/
  waiting : List (Packet × Nat) := []
  /-- short-reach: what was sent and is not acknowledged, oldest first (R329) -/
  sent : List Sent := []
deriving DecidableEq, Repr

/-- A host access that has been received and has not performed (R239): memory writes, writes of a queue's TAIL and CTRL,
and reads. -/
inductive HostOp where
  | write (bar off : Nat) (bytes : List Byte) (relaxed : Bool)
  | tail (q : Nat) (value : Word)
  | enable (q : Nat) (ring : Word)
  | disable (q : Nat)
  | read (bar off len : Nat)
deriving DecidableEq, Repr

/-- A received host access by its unique number, with the tiles that were fenced after it had been received: nothing of it goes to
them (R313). -/
structure HostReq where
  uid : Nat
  op : HostOp
  gone : List Nat := []
deriving DecidableEq, Repr

/-- The page move in progress (R287): context, page address, new leaf, whether the data stands at the new home, where it stood and
stands and its size, and the requests and fetches that were forwarded there. -/
structure Move where
  ctx : Nat
  va : Word
  leaf : Word
  moved : Bool := false
  old : Nat := 0
  new : Nat := 0
  size : Nat := 0
  forwarded : List Nat := []
deriving DecidableEq, Repr

/-- A host event record (R333). -/
structure HostEvent where
  type : Nat
  die : Nat
  arg0 : Word
  arg1 : Word
  cycle : Word
deriving DecidableEq, Repr

/-- How a host access completed (R13, R331). -/
inductive HostDone where
  | data (bytes : List Byte)
  | unsupported
  | abort
deriving DecidableEq, Repr

/-- A bring-up command with the addresses it was started with (R351, R353, R354). -/
inductive FwCmd where
  | load (addr : Word) (len : Nat) | attest (addr : Word) | ckpt | restore
deriving DecidableEq, Repr

/-- The persistence image (R355, R356). -/
structure Image where
  valid : Bool := false
  cxlCap : Nat := 0
  mem : Memory := []
  poison : List Nat := []
  queues : Tab LQueue := []
  wmk : Tab Word := []
  bindings : List Binding := []
  barriers : List Barrier := []
  launches : List Launch := []
  /-- releases that wait for link commands of saved threads (log 128) -/
  releases : List PendRel := []
  /-- entries of the retirement trackers, by cluster (log 57) -/
  retired : Tab (List Retired) := []
  /-- tiles fenced when it was taken -/
  fenced : List Nat := []
deriving DecidableEq, Repr

/-- The bring-up registers and firmware state (R350 to R356). -/
structure Fw where
  state : Nat := 0
  err : Nat := 0
  addr : Word := 0
  len : Nat := 0
  rep : Word := 0
  running : Option FwCmd := none
  /-- M of R353, least significant byte first -/
  measure : List Byte := []
  loads : Nat := 0
  /-- a RESTORE may follow: the last command was a successful LOAD and no queue has been enabled since -/
  fresh : Bool := false
  /-- a tile was fenced during the running CKPT (R356) -/
  fenced : Bool := false
  /-- STATE has reached 2 since the reset, so BAR0 answers (R352) -/
  up : Bool := false
deriving DecidableEq, Repr

/-- What the next step does: a thread's next instruction or an event from outside its threads. -/
inductive Turn where
  | run (thread : Nat)
  | event (i : Instr)
deriving DecidableEq, Repr

/-- The state of the device. -/
structure State where
  mem : Memory := []
  /-- poisoned 32-byte granules, by granule number (R225) -/
  poison : List Nat := []
  cxlCap : Nat := 2 ^ 40
  threads : Tab Thread := []
  clusters : Tab Cluster := []
  launches : List Launch := []
  inflight : List Req := []
  /-- requests and fetches whose packet a router has dropped: they never perform, and no return comes (R309) -/
  dropped : List Nat := []
  /-- walks started, in the order in which they arose (R279, R285) -/
  walks : List Walk := []
  waiters : List Waiter := []
  releases : List PendRel := []
  bindings : List Binding := []
  barriers : List Barrier := []
  pubs : List Pub := []
  queues : Tab LQueue := []
  /-- scan start of each priority (R261) -/
  scan : Tab Nat := []
  /-- launch that holds back later heads (R268): its queue -/
  candidate : Option Nat := none
  wmk : Tab Word := []
  /-- local cycle count of each die (R114) -/
  cycles : Tab Nat := []
  power : Nat := 0
  dieMode : Tab Nat := []
  fence : Tab Nat := []
  tally : Tab Nat := []
  votes : Tab Nat := []
  appeals : Tab Nat := []
  /-- observer records, keyed by 160 times the observer plus the neighbour -/
  obs : Tab Obs := []
  bcasts : List Bcast := []
  bypassed : List Nat := []
  /-- tiles whose router has stopped, with the unique number at that moment (R307) -/
  silent : Tab Nat := []
  /-- fenced tiles whose self-test failed (R314) -/
  testFailed : List Nat := []
  /-- tiles that have set their own state to appealing and whose appeal has not been applied (R314) -/
  appealing : List Nat := []
  /-- heartbeat flits on their way, and the next sequence number of each sender (R307) -/
  beats : List Beat := []
  beatSeq : Tab (BitVec 16) := []
  /-- the last heartbeat tick of each die, in units of 4,096 cycles -/
  ticks : Tab Nat := []
  drains : Tab Drain := []
  /-- event counters and their snapshot copies, keyed by 256 times the page plus the index (R322) -/
  counters : Tab Word := []
  snaps : Tab Word := []
  /-- triggers posted and not arrived, triggers of this round, sequence number (R325) -/
  trigPosted : Nat := 0
  trigRound : Nat := 0
  snapSeq : IWord := 0
  ports : Tab Port := []
  /-- driver-area words that only hold what the host writes, keyed by offset (R332) -/
  driver : Tab Word := []
  events : List HostEvent := []
  /-- events that arose while the host port was fenced, and the tile-reinstated record that waits for the ring (R13) -/
  evLost : Nat := 0
  evHeld : Option HostEvent := none
  hostReads : List HostDone := []
  /-- host accesses received and not performed, in the order in which they were received (R239) -/
  posted : List HostReq := []
  portOut : List (Nat × Packet) := []
  colls : List Coll := []
  /-- how many collectives of a GID and SEQ have ended on this device (R348; log 113) -/
  collUses : List (Word × IWord × Nat) := []
  /-- group tables of launches that this device has lost (R348) -/
  lostTables : List (List Byte) := []
  banks : List Bank := []
  fw : Fw := {}
  image : Image := {}
  /-- the page move in progress (R287) -/
  migration : Option Move := none
  /-- INVAL and MIGRATE commands with GO at 1 -/
  inval : Option BlockRun := none
  migrate : Option BlockRun := none
  /-- the MODEL's own: turns already chosen, thread whose turn is next, next unique number, steps taken -/
  agenda : List Turn := []
  cur : Nat := 0
  uid : Nat := 1
  tick : Nat := 0
deriving DecidableEq, Repr

/-- The device right after the reset of R352: every field at its reset value, no thread and no launch. Of the persistence side the
catalogue of R219 says 'as the buffer holds it': here it holds no valid image and nothing else (DESIGN CHOICE, log 109). -/
def State.reset : State := {}

end Sys2Proof.Machine
end

