-- ==== Sys2Proof/Machine/Tab.lean ====
section
/-! DEFINITION. Tables by number, bit fields and byte lists: the small helpers every meaning uses. -/

namespace Sys2Proof.Machine

/-- The entry of a table at a number. -/
def tabFind {α : Type} : Tab α → Nat → Option α
  | [], _ => none
  | (a, v) :: r, k => if a = k then some v else tabFind r k

/-- The value of a table at a number, `d` where it lists none. -/
def tabGet {α : Type} (d : α) (t : Tab α) (k : Nat) : α := (tabFind t k).getD d

/-- A table with an entry set, kept in rising order. -/
def tabPut {α : Type} : Tab α → Nat → α → Tab α
  | [], k, v => [(k, v)]
  | (a, w) :: r, k, v =>
    if k < a then (k, v) :: (a, w) :: r else if a = k then (k, v) :: r else (a, w) :: tabPut r k v

/-- A table without the entry at a number. -/
def tabErase {α : Type} (t : Tab α) (k : Nat) : Tab α := t.filter (fun e => e.1 ≠ k)

/-- A table with a value set: the default is never listed. -/
def tabSet {α : Type} [DecidableEq α] (d : α) (t : Tab α) (k : Nat) (v : α) : Tab α :=
  if v = d then tabErase t k else tabPut t k v

/-- Bits [lo+n-1:lo] of a number. -/
def bitsOf (w lo n : Nat) : Nat := w / 2 ^ lo % 2 ^ n

/-- Bits [lo+n-1:lo] of a word. -/
def fieldOf (w : Word) (lo n : Nat) : Nat := bitsOf w.toNat lo n

/-- The value of an n-bit two's-complement pattern (R91). -/
def signedOf (n v : Nat) : Int := if v % 2 ^ n < 2 ^ (n - 1) then (v % 2 ^ n : Int) else (v % 2 ^ n : Int) - (2 ^ n : Int)

/-- The n-bit two's-complement pattern of an integer (R91). -/
def patternOf (n : Nat) (i : Int) : Nat := (i % (2 ^ n : Int)).toNat

/-- The low n bits of a word, sign-extended to 64 bits. -/
def sextWord (n : Nat) (w : Word) : Word := BitVec.ofInt 64 (signedOf n w.toNat)

/-- The low n bits of a word, zero-extended to 64 bits. -/
def zextWord (n : Nat) (w : Word) : Word := BitVec.ofNat 64 (w.toNat % 2 ^ n)

/-- A number from bytes, least significant first (R5). -/
def natOfBytes : List Byte → Nat
  | [] => 0
  | b :: r => b.toNat + 256 * natOfBytes r

/-- The n bytes of a number, least significant first (R5). -/
def bytesOfNat : Nat → Nat → List Byte
  | 0, _ => []
  | n + 1, v => BitVec.ofNat 8 v :: bytesOfNat n (v / 256)

/-- A field of `n` bytes at `off` in a byte list; missing bytes are zero. -/
def fieldAt (l : List Byte) (off n : Nat) : Nat := natOfBytes ((l.drop off).take n)

/-- A signed field of `n` bytes at `off`. -/
def sfieldAt (l : List Byte) (off n : Nat) : Int := signedOf (8 * n) (fieldAt l off n)

/-- The numbers of `l` in rising order without repeats, with `x` added. -/
def setAdd : List Nat → Nat → List Nat
  | [], x => [x]
  | y :: r, x => if x < y then x :: y :: r else if x = y then y :: r else y :: setAdd r x

/-- The numbers of `l` without `x`. -/
def setDel (l : List Nat) (x : Nat) : List Nat := l.filter (fun y => y ≠ x)

/-- The least number below `n` that satisfies `p`. -/
def leastBelow (n : Nat) (p : Nat → Bool) : Option Nat := (List.range n).find? p

/-- Fold over a list with an early stop. -/
def foldStop {α β ε : Type} (f : β → α → Except ε β) : β → List α → Except ε β
  | b, [] => .ok b
  | b, a :: r => match f b a with | .ok b' => foldStop f b' r | .error e => .error e

end Sys2Proof.Machine
end

