-- ==== Sys2Proof/WellFormed.lean ====
section
/-! DEFINITION. Which operands make an instruction a legal word, whatever the state (R56, R62 to R67): the checks that
depend on the word alone. The checks that need the captured vfmt or the launch (R57, R58, R40) stand in
Machine/Ops.lean. -/

namespace Sys2Proof

/-- Element width in bits of a type (R59). -/
def ElemTy.bits : ElemTy → Nat
  | .s8 | .z8 | .e4m3 | .e5m2 | .bpi => 8
  | .s16 | .z16 | .bf16 | .f16 => 16
  | .s32 | .z32 | .f32 => 32
  | .s64 | .z64 => 64

/-- Types 0 to 7 of R59. -/
def ElemTy.isInt : ElemTy → Bool
  | .s8 | .s16 | .s32 | .s64 | .z8 | .z16 | .z32 | .z64 => true
  | .f32 | .bf16 | .f16 | .e4m3 | .e5m2 | .bpi => false

/-- Types 0 to 3 of R59. -/
def ElemTy.isSigned : ElemTy → Bool
  | .s8 | .s16 | .s32 | .s64 => true
  | .z8 | .z16 | .z32 | .z64 | .f32 | .bf16 | .f16 | .e4m3 | .e5m2 | .bpi => false

/-- Types 8 to 10 of R59. -/
def ElemTy.isFloat3 : ElemTy → Bool
  | .f32 | .bf16 | .f16 => true
  | .s8 | .s16 | .s32 | .s64 | .z8 | .z16 | .z32 | .z64 | .e4m3 | .e5m2 | .bpi => false

/-- Types 0 to 10 of R59. -/
def ElemTy.isArith (t : ElemTy) : Bool := t.isInt || t.isFloat3

/-- The field names one of eight registers (R56). -/
def reg8 (r : Reg) : Bool := r.toNat < 8

/-- The field names a mask register that may be a destination: p1 to p7 (R56). -/
def maskDest (r : Reg) : Bool := 0 < r.toNat && r.toNat < 8

/-- The CSR numbers of the catalogue of R110, e registers included. -/
def csrListed (c : BitVec 12) : Bool :=
  c.toNat ∈ [0x000, 0x001, 0x002, 0x003, 0x004, 0x005, 0x006, 0x010, 0x011, 0x020, 0x021, 0x030, 0x040, 0x041, 0x042,
    0x043, 0x044, 0x045, 0x080, 0x081, 0x082] || (0x800 ≤ c.toNat && c.toNat ≤ 0x81F)

/-- The read-only registers of R110. -/
def csrReadOnly (c : BitVec 12) : Bool :=
  c.toNat ∈ [0x005, 0x006, 0x043, 0x080, 0x081, 0x082] || 0x800 ≤ c.toNat

/-- A CSR that a CTL write may name (R62). -/
def csrWritable (c : BitVec 12) : Bool := csrListed c && !csrReadOnly c

/-- The CSRs that ctl.adv may name (R62, R123). -/
def csrAdv (c : BitVec 12) : Bool := c.toNat ∈ [0x010, 0x011, 0x045]

/-- Types a VFMA of fma or fms may name (R64). -/
def fmaTy (t : ElemTy) : Bool := t.isFloat3 || t = .s32 || t = .z32

/-- Types of VSX (R64). -/
def vsxTy (t : ElemTy) : Bool := t = .s32 || t = .s64 || t = .z32 || t = .z64

/-- Types of VSCA (R64). -/
def vscaTy (t : ElemTy) : Bool := t = .s32 || t = .f32

/-- Types of ACCW (R66). -/
def accwTy (t : ElemTy) : Bool := t = .s32 || t = .s64 || t = .f32

/-- Types of COLL (R66). -/
def collTy (t : ElemTy) : Bool := t = .f32 || t = .bf16

/-- Types of tile.mma (R66). -/
def mmaTy (t : ElemTy) : Bool := t = .bf16 || t = .f16 || t = .e4m3 || t = .e5m2 || t = .bpi

/-- An amount of a VALUI shift (R64): unsigned, below the element width. -/
def shiftOk (imm : BitVec 5) (t : ElemTy) : Bool := imm.toNat < t.bits

/-- A QORD.JOIN selector: each field 0 or 1, one of them 1 (R65). -/
def joinOk (l0 l1 l2 l3 l4 : BitVec 4) : Bool :=
  l0.toNat < 2 && l1.toNat < 2 && l2.toNat < 2 && l3.toNat < 2 && l4.toNat < 2 &&
  0 < l0.toNat + l1.toNat + l2.toNat + l3.toNat + l4.toNat

/-- A link target of kcnt.link: k0 to k7, or 31 for none (R65). -/
def linkTarget (r : Reg) : Bool := r.toNat < 8 || r.toNat = 31

/-- A LVL field names a level number 0 to 7 (R66). -/
def lvlOk (l : BitVec 4) : Bool := l.toNat < 8

/-- The slots of cdy.claim and cdy.rel: A + B at most 31 (R66). -/
def slotRange (a b : Reg) : Bool := a.toNat + b.toNat ≤ 31

/-- The word of the instruction is legal as far as the word alone says (R67, R69). An event has no word and no check. -/
def Instr.wf : Instr → Bool
  | .ctlRd _ c => csrListed c
  | .ctlWr _ c | .ctlXchg _ _ c | .ctlBset _ c | .ctlBclr _ c => csrWritable c
  | .ctlAdv _ _ c => csrAdv c
  | .valuAdd _ _ _ _ _ t | .valuSub _ _ _ _ _ t | .valuMul _ _ _ _ _ t | .valuMin _ _ _ _ _ t | .valuMax _ _ _ _ _ t
  | .valuAbsd _ _ _ _ _ t => t.isArith
  | .valuSadd _ _ _ _ _ t | .valuSsub _ _ _ _ _ t => t.isInt
  | .valuiAdd _ _ _ _ t | .valuiRsub _ _ _ _ t | .valuiMin _ _ _ _ t | .valuiMax _ _ _ _ t | .valuiSadd _ _ _ _ t
  | .valuiAnd _ _ _ _ t | .valuiOr _ _ _ _ t | .valuiXor _ _ _ _ t | .valuiMov _ _ _ t => t.isInt
  | .valuiSll _ _ i _ t | .valuiSrl _ _ i _ t | .valuiSra _ _ i _ t => t.isInt && shiftOk i t
  | .vfmaFma _ _ _ _ _ t | .vfmaFms _ _ _ _ _ t => fmaTy t
  | .vfmaFnma _ _ _ _ _ t | .vfmaFnms _ _ _ _ _ t | .vfmaDot2 _ _ _ _ _ t => t.isFloat3
  | .vcmp d _ _ _ _ cc t => maskDest d && t.isArith && (decide (cc ≠ .un) || t.isFloat3)
  | .vmskAnd d a b _ | .vmskOr d a b _ | .vmskXor d a b _ | .vmskAndn d a b _ | .vmskOrn d a b _ =>
      maskDest d && reg8 a && reg8 b
  | .vmskNot d a _ | .vmskMov d a _ => maskDest d && reg8 a
  | .vmskFrst _ a _ | .vmskPopc _ a _ => reg8 a
  | .vredSum _ _ _ _ t | .vredMax _ _ _ _ t | .vredMin _ _ _ _ t => t.isArith
  | .vredAmax _ _ _ _ t => t.isSigned || t.isFloat3
  | .vcvt _ _ _ tt ft => decide (tt ≠ ft) && decide (tt ≠ .bpi) && decide (ft ≠ .bpi)
  | .vbplAnd _ _ _ _ t | .vbplOr _ _ _ _ t | .vbplXor _ _ _ _ t | .vbplAndn _ _ _ _ t | .vbplNot _ _ _ t
  | .vbplSll _ _ _ _ t | .vbplSrl _ _ _ _ t | .vbplSra _ _ _ _ t | .vbplPopc _ _ _ t => t.isInt
  | .vscaMul _ _ _ _ _ t | .vscaMacc _ _ _ _ _ t | .vscaRmul _ _ _ _ _ t | .vscaCmul _ _ _ _ _ t
  | .vscaRmac _ _ _ _ _ t | .vscaCmac _ _ _ _ _ t => vscaTy t
  | .vwld _ a _ _ _ _ _ _ | .vwst _ a _ _ _ _ _ | .vidxLd _ a _ _ _ _ | .vidxSt _ a _ _ _ => reg8 a
  | .vsxIsec _ _ _ _ t | .vsxIcnt _ _ _ _ t | .vsxUnio _ _ _ _ t | .vsxDiff _ _ _ _ t | .vsxMrge _ _ _ _ t => vsxTy t
  | .hresSet d _ | .hresAnch d _ _ | .hresLim d _ _ | .hresBind d _ | .hresWmk d _ | .hresClr d => reg8 d
  | .kcntExt d _ | .kcntAdv d | .kcntSet d _ | .kcntRst d => reg8 d
  | .kcntLink d b => reg8 d && linkTarget b
  | .qordWait _ _ _ _ _ => true
  | .qordJoin l0 l1 l2 l3 l4 => joinOk l0 l1 l2 l3 l4
  | .tileMma d _ _ _ t => reg8 d && mmaTy t
  | .tileZero d _ | .tileScal d _ _ | .tileOn d | .tileOff d => reg8 d
  | .cdyClaim a b | .cdyRel a b => slotRange a b
  | .cdyLoad d _ _ | .cdyLstr d _ _ => reg8 d
  | .tmovRtov d _ _ _ | .tmovCtov d _ _ _ | .tmovVtor d _ _ _ | .tmovVtoc d _ _ _ => reg8 d
  | .syncBarr _ l | .syncArrv _ l | .syncExpt _ _ l => lvlOk l
  | .vamoAdd d _ _ _ r _ _ _ | .vamoMin d _ _ _ r _ _ _ | .vamoMax d _ _ _ r _ _ _ | .vamoAnd d _ _ _ r _ _ _
  | .vamoOr d _ _ _ r _ _ _ | .vamoXor d _ _ _ r _ _ _ | .vamoSwap d _ _ _ r _ _ _ | .vamoFadd d _ _ _ r _ _ =>
      r || decide (d = 0)
  | .accwUpd d _ _ _ t | .accwMrge d t | .accwClr d t => reg8 d && accwTy t
  | .collAred _ t | .collRsct _ t | .collAgat _ t => collTy t
  | .lnch a _ => decide (a ≠ 0)
  | _ => true

end Sys2Proof
end

