-- ==== Sys2Proof/Machine/Num.lean ====
section
/-! DEFINITION. Number formats, rounding and the functions on bits of chapter 05 (R91 to R102), and the CRC-32C of R339. -/

namespace Sys2Proof.Machine

/-- The value of a floating pattern (R92): a finite value is (−1)^neg × m × 2^e exactly. -/
inductive FVal where
  | nan
  | inf (neg : Bool)
  | fin (neg : Bool) (m : Nat) (e : Int)
deriving DecidableEq, Repr

/-- Exponent bits, fraction bits and bias of a floating type (R92); `none` for the other types. -/
def floatFmt : ElemTy → Option (Nat × Nat × Nat)
  | .f32 => some (8, 23, 127)
  | .bf16 => some (8, 7, 127)
  | .f16 => some (5, 10, 15)
  | .e4m3 => some (4, 3, 7)
  | .e5m2 => some (5, 2, 15)
  | .s8 | .s16 | .s32 | .s64 | .z8 | .z16 | .z32 | .z64 | .bpi => none

/-- The NaN a type produces (R92). -/
def producedNan : ElemTy → Nat
  | .f32 => 0x7FC00000 | .bf16 => 0x7FC0 | .f16 => 0x7E00 | .e4m3 => 0x7F | .e5m2 => 0x7E
  | .s8 | .s16 | .s32 | .s64 | .z8 | .z16 | .z32 | .z64 | .bpi => 0

/-- The largest finite pattern of a type, sign 0 (R92). -/
def largestFinite : ElemTy → Nat
  | .f32 => 0x7F7FFFFF | .bf16 => 0x7F7F | .f16 => 0x7BFF | .e4m3 => 0x7E | .e5m2 => 0x7B
  | .s8 | .s16 | .s32 | .s64 | .z8 | .z16 | .z32 | .z64 | .bpi => 0

/-- The pattern of +∞ of a type; e4m3 has none and holds 448 in its place (R92, R98). -/
def infinityOf : ElemTy → Nat
  | .f32 => 0x7F800000 | .bf16 => 0x7F80 | .f16 => 0x7C00 | .e4m3 => 0x7E | .e5m2 => 0x7C
  | .s8 | .s16 | .s32 | .s64 | .z8 | .z16 | .z32 | .z64 | .bpi => 0

/-- The value of a pattern of a floating type (R92). Types that are not floating read as NaN and are never asked. -/
def fvalOf (t : ElemTy) (bits : Nat) : FVal :=
  match floatFmt t with
  | none => .nan
  | some (eb, mb, bias) =>
    let neg := bitsOf bits (eb + mb) 1 = 1
    let ex := bitsOf bits mb eb
    let fr := bitsOf bits 0 mb
    if t = .e4m3 then
      if ex = 15 ∧ fr = 7 then .nan
      else if ex = 0 then .fin neg fr (1 - bias - mb : Int)
      else .fin neg (2 ^ mb + fr) ((ex : Int) - bias - mb)
    else if ex = 2 ^ eb - 1 then (if fr = 0 then .inf neg else .nan)
    else if ex = 0 then .fin neg fr (1 - bias - mb : Int)
    else .fin neg (2 ^ mb + fr) ((ex : Int) - bias - mb)

/-- Rounding modes (R97). -/
inductive RMode where
  | rne | rtz | rup | rdn
  /-- stochastic with the element's word (R101) -/
  | sr (u : Nat)
deriving DecidableEq, Repr

/-- Whether a magnitude with remainder `r` over 2^sh is rounded away from zero (R97, R101). -/
def roundsUp (rm : RMode) (neg : Bool) (lo r sh : Nat) : Bool :=
  match rm with
  | .rne => decide (2 ^ sh < 2 * r) || (decide (2 * r = 2 ^ sh) && decide (lo % 2 = 1))
  | .rtz => false
  | .rup => decide (r ≠ 0) && !neg
  | .rdn => decide (r ≠ 0) && neg
  | .sr u => decide (u < r * 2 ^ 32 / 2 ^ sh)

/-- m × 2^e in units of 2^q, rounded to a whole number of units. -/
def roundUnits (rm : RMode) (neg : Bool) (m : Nat) (e q : Int) : Nat :=
  if q ≤ e then m * 2 ^ (e - q).toNat
  else
    let sh := (q - e).toNat
    let lo := m / 2 ^ sh
    if roundsUp rm neg lo (m % 2 ^ sh) sh then lo + 1 else lo

/-- The pattern of an overflowing result (R98). -/
def overflowOf (t : ElemTy) (rm : RMode) (neg : Bool) : Nat :=
  match rm with
  | .rne | .sr _ => infinityOf t
  | .rtz => largestFinite t
  | .rup => if neg then largestFinite t else infinityOf t
  | .rdn => if neg then infinityOf t else largestFinite t

/-- The pattern of a value rounded once to a floating type (R97, R98). -/
def roundTo (t : ElemTy) (rm : RMode) (x : FVal) : Nat :=
  match floatFmt t with
  | none => 0
  | some (eb, mb, bias) =>
    let sgn (neg : Bool) : Nat := if neg then 2 ^ (eb + mb) else 0
    match x with
    | .nan => producedNan t
    | .inf neg => sgn neg + infinityOf t
    | .fin neg m e =>
      if m = 0 then sgn neg
      else
        let top : Int := e + (Nat.log2 m : Int)
        let emin : Int := 1 - (bias : Int)
        let q : Int := max top emin - (mb : Int)
        let mag := roundUnits rm neg m e q
        let bits := if mag < 2 ^ mb then mag else ((q + mb + bias).toNat) * 2 ^ mb + (mag - 2 ^ mb)
        sgn neg + (if largestFinite t < bits then overflowOf t rm neg else bits)

/-- The exact signed value in units of 2^q, for q at or below the exponent. -/
def unitsAt (q : Int) (neg : Bool) (m : Nat) (e : Int) : Int :=
  let v : Int := (m * 2 ^ (e - q).toNat : Nat)
  if neg then -v else v

/-- The exact sum (R94); an exact zero sum of operands of opposite sign follows R98. -/
def fadd (rm : RMode) (x y : FVal) : FVal :=
  match x, y with
  | .nan, _ | _, .nan => .nan
  | .inf a, .inf b => if a = b then .inf a else .nan
  | .inf a, .fin _ _ _ => .inf a
  | .fin _ _ _, .inf b => .inf b
  | .fin na ma ea, .fin nb mb eb =>
    let q := min ea eb
    let s := unitsAt q na ma ea + unitsAt q nb mb eb
    if s = 0 then
      if na = nb then .fin na 0 q else .fin (decide (rm = .rdn)) 0 q
    else .fin (decide (s < 0)) s.natAbs q

/-- The value with its sign changed. -/
def fneg : FVal → FVal
  | .nan => .nan
  | .inf n => .inf (!n)
  | .fin n m e => .fin (!n) m e

/-- The magnitude. -/
def fabs : FVal → FVal
  | .nan => .nan
  | .inf _ => .inf false
  | .fin _ m e => .fin false m e

/-- The exact product (R94). -/
def fmul (x y : FVal) : FVal :=
  match x, y with
  | .nan, _ | _, .nan => .nan
  | .inf a, .inf b => .inf (a != b)
  | .inf a, .fin b m _ => if m = 0 then .nan else .inf (a != b)
  | .fin a m _, .inf b => if m = 0 then .nan else .inf (a != b)
  | .fin a m e, .fin b n f => .fin (a != b) (m * n) (e + f)

/-- IEEE 754 order of two values, `none` when one is NaN; −0 equals +0 (R147). -/
def fcmp (x y : FVal) : Option Ordering :=
  match x, y with
  | .nan, _ | _, .nan => none
  | .inf a, .inf b => some (compare b.toNat a.toNat)
  | .inf a, .fin _ _ _ => some (if a then .lt else .gt)
  | .fin _ _ _, .inf b => some (if b then .gt else .lt)
  | .fin na ma ea, .fin nb mb eb =>
    let q := min ea eb
    some (compare (unitsAt q na ma ea) (unitsAt q nb mb eb))

/-- The sign of a value; of no account for NaN. -/
def fsign : FVal → Bool
  | .nan => false
  | .inf n => n
  | .fin n _ _ => n

/-- The smaller of two values: NaN when one is, −0 below +0 (R93). -/
def fmin (x y : FVal) : FVal :=
  match fcmp x y with
  | none => .nan
  | some .lt => x
  | some .gt => y
  | some .eq => if fsign x then x else y

/-- The larger of two values (R93). -/
def fmax (x y : FVal) : FVal :=
  match fcmp x y with
  | none => .nan
  | some .lt => y
  | some .gt => x
  | some .eq => if fsign x then y else x

/-- An integer as a value. -/
def fvalOfInt (i : Int) : FVal := .fin (decide (i < 0)) i.natAbs 0

/-- The range of an integer type (R91). -/
def intRange : ElemTy → Int × Int
  | .s8 | .bpi => (-2 ^ 7, 2 ^ 7 - 1) | .s16 => (-2 ^ 15, 2 ^ 15 - 1) | .s32 => (-2 ^ 31, 2 ^ 31 - 1)
  | .s64 => (-2 ^ 63, 2 ^ 63 - 1)
  | .z8 => (0, 2 ^ 8 - 1) | .z16 => (0, 2 ^ 16 - 1) | .z32 => (0, 2 ^ 32 - 1) | .z64 => (0, 2 ^ 64 - 1)
  | .f32 | .bf16 | .f16 | .e4m3 | .e5m2 => (0, 0)

/-- A value clamped to the range of an integer type. -/
def clampTo (t : ElemTy) (i : Int) : Int := max (intRange t).1 (min (intRange t).2 i)

/-- The value of an integer pattern (R91); bpi elements are 8-bit signed in a register (R96). -/
def intOf (t : ElemTy) (bits : Nat) : Int :=
  if t.isSigned ∨ t = .bpi then signedOf t.bits bits else ((bits % 2 ^ t.bits : Nat) : Int)

/-- A value rounded to an integer by the mode and clamped to a type; NaN gives 0 (R99). -/
def fvalToInt (t : ElemTy) (rm : RMode) (x : FVal) : Int :=
  match x with
  | .nan => 0
  | .inf n => if n then (intRange t).1 else (intRange t).2
  | .fin n m e =>
    let u : Int := (roundUnits rm n m e 0 : Nat)
    clampTo t (if n then -u else u)

/-- Squeeze32 (R102). -/
def squeeze32 (seed c : Word) : Nat :=
  let x := c ^^^ seed
  let x := x + 0xA3C59E1B7D24F06B#64
  let x := x * 0x9F3D6B27C4E18A95#64
  let x := x ^^^ (x >>> 31)
  let x := x * 0xC2B14E7D3A96F5A1#64
  let x := x ^^^ (x >>> 29)
  let x := x * 0x9F3D6B27C4E18A95#64
  let x := x ^^^ (x >>> 32)
  (x >>> 32).toNat

/-- The rounding mode of an element under captured vmode, srseed and srbase (R97, R101). -/
def modeFor (vmode srseed srbase : Word) (i : Nat) : RMode :=
  match fieldOf vmode 0 3 with
  | 1 => .rtz | 2 => .rup | 3 => .rdn
  | 4 => .sr (squeeze32 srseed (srbase + BitVec.ofNat 64 i))
  | _ => .rne

/-- One bit of the reflected CRC-32C shift. -/
def crcShift (c : IWord) : IWord := if c.getLsbD 0 then (c >>> 1) ^^^ 0x82F63B78#32 else c >>> 1

/-- crc32c_update over bytes (R339). -/
def crcUpdate : IWord → List Byte → IWord
  | c, [] => c
  | c, b :: r =>
    let x := c ^^^ b.zeroExtend 32
    crcUpdate (crcShift (crcShift (crcShift (crcShift (crcShift (crcShift (crcShift (crcShift x)))))))) r

/-- f32 addition rounded by rne on bit patterns: the additions of R106, R259 and R260. -/
def f32Add (a b : Nat) : Nat := roundTo .f32 .rne (fadd .rne (fvalOf .f32 a) (fvalOf .f32 b))

end Sys2Proof.Machine
end

