-- ==== Sys2Proof/Machine/Flags.lean ====
section
/-! DEFINITION. Conditions. Ubmel sets no status flag (R94, R149): what an instruction tests it compares itself. -/

namespace Sys2Proof.Machine

/-- BR conditions (R122). -/
def brTaken (cond : Nat) (a b : Word) : Bool :=
  match cond with
  | 0 => decide (a = b)
  | 1 => decide (a ≠ b)
  | 2 => a.slt b
  | _ => a.ult b

/-- Order of two patterns under a type: integers signed or unsigned, floats by IEEE 754, none with a NaN (R147). -/
def cmpOf (t : ElemTy) (a b : Nat) : Option Ordering :=
  if t.isFloat3 then fcmp (fvalOf t a) (fvalOf t b) else some (compare (intOf t a) (intOf t b))

/-- VCMP conditions (R147). -/
def vcondHolds (cc : VCond) (o : Option Ordering) : Bool :=
  match cc, o with
  | .eq, some .eq => true
  | .ne, some .eq => false
  | .ne, _ => true
  | .lt, some .lt => true
  | .le, some .lt | .le, some .eq => true
  | .gt, some .gt => true
  | .ge, some .gt | .ge, some .eq => true
  | .un, none => true
  | _, _ => false

/-- VWTC conditions on a value read and the comparand, w bits each (R256). -/
def wcondHolds (cc : WCond) (w m c : Nat) : Bool :=
  match cc with
  | .eq => decide (m % 2 ^ w = c % 2 ^ w)
  | .ne => decide (m % 2 ^ w ≠ c % 2 ^ w)
  | .lt => decide (signedOf w m < signedOf w c)
  | .ge => decide (signedOf w c ≤ signedOf w m)
  | .ltu => decide (m % 2 ^ w < c % 2 ^ w)
  | .geu => decide (c % 2 ^ w ≤ m % 2 ^ w)

end Sys2Proof.Machine
end

