-- ==== Sys2Proof/Decode.lean ====
section
/-! DEFINITION. The encoding of R54 to R67: the decoder, total on any word and rejecting by name, and after it the
encoder, both written from the field maps of R55 and the subfield tables of R62 to R66. -/

namespace Sys2Proof

/-- Why a word is no instruction (R67). -/
inductive DecodeError where
  /-- fewer than four bytes -/
  | truncated
  /-- the major is reserved -/
  | reservedMajor
  /-- a function subfield or a combination of subfields is reserved, or a zero field is not zero -/
  | reservedFunction
  /-- a register, type, CSR or operand limit is broken -/
  | illegalOperand
deriving DecidableEq, Repr

/-! Codes of the small enumerations. -/

/-- R59. -/
def ElemTy.code : ElemTy → BitVec 4
  | .s8 => 0 | .s16 => 1 | .s32 => 2 | .s64 => 3 | .z8 => 4 | .z16 => 5 | .z32 => 6 | .z64 => 7
  | .f32 => 8 | .bf16 => 9 | .f16 => 10 | .e4m3 => 11 | .e5m2 => 12 | .bpi => 13

/-- R59. -/
def ElemTy.ofCode (c : BitVec 4) : Option ElemTy :=
  match c.toNat with
  | 0 => some .s8 | 1 => some .s16 | 2 => some .s32 | 3 => some .s64 | 4 => some .z8 | 5 => some .z16
  | 6 => some .z32 | 7 => some .z64 | 8 => some .f32 | 9 => some .bf16 | 10 => some .f16 | 11 => some .e4m3
  | 12 => some .e5m2 | 13 => some .bpi | _ => none

/-- R63. -/
def Scope.code : Scope → BitVec 3
  | .thd => 0 | .clu => 1 | .til => 2 | .die => 3 | .dev => 4 | .pgr => 5 | .sys => 6

/-- R63. -/
def Scope.ofCode (c : BitVec 3) : Option Scope :=
  match c.toNat with
  | 0 => some .thd | 1 => some .clu | 2 => some .til | 3 => some .die | 4 => some .dev | 5 => some .pgr
  | 6 => some .sys | _ => none

/-- R62, LD. -/
def LdW.code : LdW → BitVec 3
  | .s8 => 0 | .s16 => 1 | .s32 => 2 | .i64 => 3 | .z8 => 4 | .z16 => 5 | .z32 => 6

/-- R62, LD. -/
def LdW.ofCode (c : BitVec 3) : Option LdW :=
  match c.toNat with
  | 0 => some .s8 | 1 => some .s16 | 2 => some .s32 | 3 => some .i64 | 4 => some .z8 | 5 => some .z16
  | 6 => some .z32 | _ => none

/-- R62, ST. -/
def StW.code : StW → BitVec 3
  | .i8 => 0 | .i16 => 1 | .i32 => 2 | .i64 => 3

/-- R62, ST. -/
def StW.ofCode (c : BitVec 3) : Option StW :=
  match c.toNat with
  | 0 => some .i8 | 1 => some .i16 | 2 => some .i32 | 3 => some .i64 | _ => none

/-- R64, VCMP. -/
def VCond.code : VCond → BitVec 3
  | .eq => 0 | .ne => 1 | .lt => 2 | .le => 3 | .gt => 4 | .ge => 5 | .un => 6

/-- R64, VCMP. -/
def VCond.ofCode (c : BitVec 3) : Option VCond :=
  match c.toNat with
  | 0 => some .eq | 1 => some .ne | 2 => some .lt | 3 => some .le | 4 => some .gt | 5 => some .ge | 6 => some .un
  | _ => none

/-- R66, VWTC. -/
def WCond.code : WCond → BitVec 3
  | .eq => 0 | .ne => 1 | .lt => 2 | .ge => 3 | .ltu => 4 | .geu => 5

/-- R66, VWTC. -/
def WCond.ofCode (c : BitVec 3) : Option WCond :=
  match c.toNat with
  | 0 => some .eq | 1 => some .ne | 2 => some .lt | 3 => some .ge | 4 => some .ltu | 5 => some .geu | _ => none

/-- R64, VPRM and VRED. -/
def Dim.code : Dim → BitVec 2
  | .lin => 0 | .row => 1 | .col => 2

/-- R64, VPRM and VRED. -/
def Dim.ofCode (c : BitVec 2) : Option Dim :=
  match c.toNat with
  | 0 => some .lin | 1 => some .row | 2 => some .col | _ => none

/-- R64, VPRM. -/
def PWidth.code : PWidth → BitVec 2
  | .w8 => 0 | .w16 => 1 | .w32 => 2 | .w64 => 3

/-- R64, VPRM: every code names a width. -/
def PWidth.ofCode (c : BitVec 2) : PWidth :=
  match c.toNat with
  | 0 => .w8 | 1 => .w16 | 2 => .w32 | _ => .w64

/-- R65, VIDX. -/
def IdxW.code : IdxW → BitVec 2
  | .z16 => 0 | .z32 => 1 | .z64 => 2

/-- R65, VIDX. -/
def IdxW.ofCode (c : BitVec 2) : Option IdxW :=
  match c.toNat with
  | 0 => some .z16 | 1 => some .z32 | 2 => some .z64 | _ => none

/-- R64, VSET. -/
def GMul.code : GMul → BitVec 2
  | .m1 => 0 | .m2 => 1 | .m4 => 2 | .m8 => 3

/-- R64, VSET: every code names a multiplier. -/
def GMul.ofCode (c : BitVec 2) : GMul :=
  match c.toNat with
  | 0 => .m1 | 1 => .m2 | 2 => .m4 | _ => .m8

/-! Fields of a word (R55). -/

/-- Bits [lo+n-1:lo] of a word as a number, for the subfields that select. -/
def sel (w : IWord) (lo n : Nat) : Nat := (w.extractLsb' lo n).toNat

/-- D. -/
def fD (w : IWord) : Reg := w.extractLsb' 21 5
/-- A. -/
def fA (w : IWord) : Reg := w.extractLsb' 16 5
/-- B. -/
def fB (w : IWord) : Reg := w.extractLsb' 11 5
/-- P. -/
def fP (w : IWord) : PReg := w.extractLsb' 8 3
/-- TYPE at [3:0]. -/
def fT (w : IWord) : Option ElemTy := ElemTy.ofCode (w.extractLsb' 0 4)
/-- A one-bit subfield. -/
def fBit (w : IWord) (n : Nat) : Bool := w.getLsbD n
/-- IMM16. -/
def fImm (w : IWord) : BitVec 16 := w.extractLsb' 0 16
/-- The CSR number of CTL. -/
def fCsr (w : IWord) : BitVec 12 := w.extractLsb' 0 12
/-- SC of SYNC. -/
def fSc (w : IWord) : Option Scope := Scope.ofCode (w.extractLsb' 4 3)

/-! The majors of R61. Each function answers `none` where a subfield is reserved or a zero field is not zero. -/

/-- The strong scope of LD and ST: SC is zero when S is 0 (R62). -/
def fStrong (w : IWord) : Option (Option Scope) :=
  if fBit w 7 then (Scope.ofCode (w.extractLsb' 4 3)).map some
  else if sel w 4 3 = 0 then some none else none

/-- SYS. -/
def parseSys (w : IWord) : Option Instr :=
  if sel w 11 15 ≠ 0 then none else
  match sel w 6 5 with
  | 1 => if sel w 0 6 = 0 then some .sysCall else none
  | 2 => some (.sysTrap (w.extractLsb' 0 6))
  | 3 => if sel w 0 6 = 0 then some .sysTret else none
  | 4 => if sel w 0 6 = 0 then some .sysTend else none
  | 5 => if sel w 0 6 = 0 then some .sysSnap else none
  | 6 => if sel w 0 6 = 0 then some .sysBrk else none
  | _ => none

/-- ALU. -/
def parseAlu (w : IWord) : Option Instr :=
  if sel w 4 7 ≠ 0 then none else
  let d := fD w; let a := fA w; let b := fB w
  match sel w 0 4 with
  | 0 => some (.aluAdd d a b) | 1 => some (.aluSub d a b) | 2 => some (.aluAnd d a b) | 3 => some (.aluOr d a b)
  | 4 => some (.aluXor d a b) | 5 => some (.aluSll d a b) | 6 => some (.aluSrl d a b) | 7 => some (.aluSra d a b)
  | 8 => some (.aluSlt d a b) | 9 => some (.aluSltu d a b) | 10 => some (.aluAddw d a b) | 11 => some (.aluSubw d a b)
  | 12 => some (.aluMin d a b) | 13 => some (.aluMax d a b) | 14 => some (.aluMinu d a b) | 15 => some (.aluMaxu d a b)
  | _ => none

/-- MDV. -/
def parseMdv (w : IWord) : Option Instr :=
  if sel w 4 7 ≠ 0 then none else
  let d := fD w; let a := fA w; let b := fB w
  match sel w 0 4 with
  | 0 => some (.mdvMul d a b) | 1 => some (.mdvMulh d a b) | 2 => some (.mdvMulhu d a b) | 3 => some (.mdvDiv d a b)
  | 4 => some (.mdvDivu d a b) | 5 => some (.mdvRem d a b) | 6 => some (.mdvRemu d a b) | 7 => some (.mdvMulw d a b)
  | 8 => some (.mdvDivw d a b) | 9 => some (.mdvRemw d a b) | _ => none

/-- BIT. -/
def parseBit (w : IWord) : Option Instr :=
  if sel w 11 5 ≠ 0 then none else
  let d := fD w; let a := fA w; let sh := w.extractLsb' 0 6
  match sel w 6 5 with
  | 0 => some (.bitSlli d a sh) | 1 => some (.bitSrli d a sh) | 2 => some (.bitSrai d a sh)
  | 3 => if sel w 0 6 = 0 then some (.bitClz d a) else none
  | 4 => if sel w 0 6 = 0 then some (.bitCtz d a) else none
  | 5 => if sel w 0 6 = 0 then some (.bitPopc d a) else none
  | 6 => if sel w 0 6 = 0 then some (.bitRev8 d a) else none
  | _ => none

/-- LD. -/
def parseLd (w : IWord) : Option Instr := do
  let wd ← LdW.ofCode (w.extractLsb' 8 3)
  let sg ← fStrong w
  some (.ld (fD w) (fA w) (fB w) wd sg (w.extractLsb' 0 4))

/-- ST. -/
def parseSt (w : IWord) : Option Instr := do
  let wd ← StW.ofCode (w.extractLsb' 8 3)
  let sg ← fStrong w
  some (.st (fD w) (fA w) (fB w) wd sg (w.extractLsb' 0 4))

/-- BR, format BR: A at [25:21], B at [20:16]. -/
def parseBr (w : IWord) : Option Instr :=
  let a := fD w; let b := fA w; let off := w.extractLsb' 2 14
  match sel w 0 2 with
  | 0 => some (.brEq a b off) | 1 => some (.brNe a b off) | 2 => some (.brLt a b off) | 3 => some (.brLtu a b off)
  | _ => none

/-- JL. -/
def parseJl (w : IWord) : Option Instr :=
  if fBit w 0 then some (.jlLn (w.extractLsb' 1 25)) else some (.jlGo (w.extractLsb' 1 25))

/-- CTL. -/
def parseCtl (w : IWord) : Option Instr :=
  let d := fD w; let a := fA w; let c := fCsr w
  match sel w 12 4 with
  | 0 => if a = 0 then some (.ctlRd d c) else none
  | 1 => if d = 0 then some (.ctlWr a c) else none
  | 2 => some (.ctlXchg d a c)
  | 3 => if d = 0 then some (.ctlBset a c) else none
  | 4 => if d = 0 then some (.ctlBclr a c) else none
  | 5 => some (.ctlAdv d a c)
  | _ => none

/-- VALU. -/
def parseValu (w : IWord) : Option Instr := do
  let t ← fT w
  let d := fD w; let a := fA w; let b := fB w; let p := fP w; let s := fBit w 7
  match sel w 4 3 with
  | 0 => some (.valuAdd d a b p s t) | 1 => some (.valuSub d a b p s t) | 2 => some (.valuMul d a b p s t)
  | 3 => some (.valuMin d a b p s t) | 4 => some (.valuMax d a b p s t) | 5 => some (.valuSadd d a b p s t)
  | 6 => some (.valuSsub d a b p s t) | 7 => some (.valuAbsd d a b p s t) | _ => none

/-- VALUI. -/
def parseValui (w : IWord) : Option Instr := do
  let t ← fT w
  let d := fD w; let a := fA w; let i := fB w; let p := fP w
  match sel w 4 4 with
  | 0 => some (.valuiAdd d a i p t) | 1 => some (.valuiRsub d a i p t) | 2 => some (.valuiMin d a i p t)
  | 3 => some (.valuiMax d a i p t) | 4 => some (.valuiSadd d a i p t) | 5 => some (.valuiSll d a i p t)
  | 6 => some (.valuiSrl d a i p t) | 7 => some (.valuiSra d a i p t) | 8 => some (.valuiAnd d a i p t)
  | 9 => some (.valuiOr d a i p t) | 10 => some (.valuiXor d a i p t)
  | 11 => if a = 0 then some (.valuiMov d i p t) else none
  | _ => none

/-- VFMA. -/
def parseVfma (w : IWord) : Option Instr := do
  let t ← fT w
  let d := fD w; let a := fA w; let b := fB w; let p := fP w; let s := fBit w 7
  match sel w 4 3 with
  | 0 => some (.vfmaFma d a b p s t) | 1 => some (.vfmaFms d a b p s t) | 2 => some (.vfmaFnma d a b p s t)
  | 3 => some (.vfmaFnms d a b p s t) | 4 => some (.vfmaDot2 d a b p s t) | _ => none

/-- VCMP. -/
def parseVcmp (w : IWord) : Option Instr := do
  let t ← fT w
  let cc ← VCond.ofCode (w.extractLsb' 4 3)
  some (.vcmp (fD w) (fA w) (fB w) (fP w) (fBit w 7) cc t)

/-- VMSK. -/
def parseVmsk (w : IWord) : Option Instr :=
  if sel w 0 4 ≠ 0 then none else
  let d := fD w; let a := fA w; let b := fB w; let p := fP w
  match sel w 4 4 with
  | 0 => some (.vmskAnd d a b p) | 1 => some (.vmskOr d a b p) | 2 => some (.vmskXor d a b p)
  | 3 => some (.vmskAndn d a b p) | 4 => some (.vmskOrn d a b p)
  | 5 => if b = 0 then some (.vmskNot d a p) else none
  | 6 => if b = 0 then some (.vmskMov d a p) else none
  | 7 => if b = 0 then some (.vmskFrst d a p) else none
  | 8 => if b = 0 then some (.vmskPopc d a p) else none
  | _ => none

/-- VPRM. The table of R64 says 'B zero' of cmpr, expd, tran and mov and only 'A e' of bcst: whether the B field of bcst must be zero is
left open, and here any B decodes (DESIGN CHOICE, log 117). -/
def parseVprm (w : IWord) : Option Instr := do
  let dim ← Dim.ofCode (w.extractLsb' 2 2)
  let d := fD w; let a := fA w; let b := fB w; let p := fP w; let wd := PWidth.ofCode (w.extractLsb' 0 2)
  match sel w 4 4 with
  | 0 => some (.vprmSlup d a b p dim wd) | 1 => some (.vprmSldn d a b p dim wd) | 2 => some (.vprmGath d a b p dim wd)
  | 3 => if b = 0 then some (.vprmCmpr d a p dim wd) else none
  | 4 => if b = 0 then some (.vprmExpd d a p dim wd) else none
  | 5 => some (.vprmBcst d a b p dim wd)
  | 6 => if b = 0 ∧ dim = .lin then some (.vprmTran d a p wd) else none
  | 7 => if b = 0 then some (.vprmMov d a p dim wd) else none
  | _ => none

/-- VRED. -/
def parseVred (w : IWord) : Option Instr := do
  let t ← fT w
  let dim ← Dim.ofCode (w.extractLsb' 6 2)
  let d := fD w; let a := fA w; let p := fP w
  if fB w ≠ 0 then none else
  match sel w 4 2 with
  | 0 => some (.vredSum d a p dim t) | 1 => some (.vredMax d a p dim t) | 2 => some (.vredMin d a p dim t)
  | 3 => some (.vredAmax d a p dim t) | _ => none

/-- VCVT. -/
def parseVcvt (w : IWord) : Option Instr := do
  let ft ← fT w
  let tt ← ElemTy.ofCode (w.extractLsb' 4 4)
  if fB w ≠ 0 then none else some (.vcvt (fD w) (fA w) (fP w) tt ft)

/-- VBPL. The plane operations 9 to 11 allow type 13 only. -/
def parseVbpl (w : IWord) : Option Instr := do
  let t ← fT w
  let d := fD w; let a := fA w; let b := fB w; let p := fP w
  match sel w 4 4 with
  | 0 => some (.vbplAnd d a b p t) | 1 => some (.vbplOr d a b p t) | 2 => some (.vbplXor d a b p t)
  | 3 => some (.vbplAndn d a b p t)
  | 4 => if b = 0 then some (.vbplNot d a p t) else none
  | 5 => some (.vbplSll d a b p t) | 6 => some (.vbplSrl d a b p t) | 7 => some (.vbplSra d a b p t)
  | 8 => if b = 0 then some (.vbplPopc d a p t) else none
  | 9 => if t = .bpi then some (.vbplPext d a b p) else none
  | 10 => if t = .bpi then some (.vbplPins d a b p) else none
  | 11 => if t = .bpi then some (.vbplPmac d a b p) else none
  | _ => none

/-- VSCA. -/
def parseVsca (w : IWord) : Option Instr := do
  let t ← fT w
  let d := fD w; let a := fA w; let b := fB w; let p := fP w; let s := fBit w 7
  match sel w 4 3 with
  | 0 => some (.vscaMul d a b p s t) | 1 => some (.vscaMacc d a b p s t) | 2 => some (.vscaRmul d a b p s t)
  | 3 => some (.vscaCmul d a b p s t) | 4 => some (.vscaRmac d a b p s t) | 5 => some (.vscaCmac d a b p s t)
  | _ => none

/-- VSET. -/
def parseVset (w : IWord) : Option Instr :=
  if fD w ≠ 0 ∨ fP w ≠ 0 then none else
  match sel w 6 2 with
  | 0 => if sel w 0 6 = 0 then some (.vsetLen (fA w) (fB w)) else none
  | 1 => (fT w).map (fun t => .vsetLenf (fA w) (fB w) (GMul.ofCode (w.extractLsb' 4 2)) t)
  | _ => none

/-- VWLD. -/
def parseVwld (w : IWord) : Option Instr :=
  if fBit w 0 then none else
  some (.vwld (fD w) (fA w) (fB w) (fP w) (w.extractLsb' 6 2) (w.extractLsb' 4 2) (w.extractLsb' 2 2) (fBit w 1))

/-- VWST. -/
def parseVwst (w : IWord) : Option Instr :=
  if sel w 0 2 ≠ 0 then none else
  some (.vwst (fD w) (fA w) (fB w) (fP w) (w.extractLsb' 6 2) (w.extractLsb' 4 2) (w.extractLsb' 2 2))

/-- VIDX. -/
def parseVidx (w : IWord) : Option Instr := do
  let iw ← IdxW.ofCode (w.extractLsb' 4 2)
  if sel w 1 3 ≠ 0 then none else
  match sel w 6 2 with
  | 0 => some (.vidxLd (fD w) (fA w) (fB w) (fP w) iw (fBit w 0))
  | 1 => if fBit w 0 then none else some (.vidxSt (fD w) (fA w) (fB w) (fP w) iw)
  | _ => none

/-- VSX. -/
def parseVsx (w : IWord) : Option Instr := do
  let t ← fT w
  let d := fD w; let a := fA w; let b := fB w; let p := fP w
  match sel w 4 4 with
  | 0 => some (.vsxIsec d a b p t) | 1 => some (.vsxIcnt d a b p t) | 2 => some (.vsxUnio d a b p t)
  | 3 => some (.vsxDiff d a b p t) | 4 => some (.vsxMrge d a b p t) | _ => none

/-- HRES. -/
def parseHres (w : IWord) : Option Instr :=
  if sel w 0 5 ≠ 0 ∨ fB w ≠ 0 then none else
  let d := fD w; let a := fA w; let n := w.extractLsb' 5 2
  match sel w 7 4 with
  | 0 => if n = 0 then some (.hresSet d a) else none
  | 1 => some (.hresAnch d a n)
  | 2 => some (.hresLim d a n)
  | 3 => if n = 0 then some (.hresBind d a) else none
  | 4 => if n = 0 then some (.hresWmk d a) else none
  | 5 => if n = 0 ∧ a = 0 then some (.hresClr d) else none
  | _ => none

/-- KCNT. -/
def parseKcnt (w : IWord) : Option Instr :=
  if sel w 0 8 ≠ 0 then none else
  let d := fD w; let a := fA w; let b := fB w
  match sel w 8 3 with
  | 0 => if b = 0 then some (.kcntExt d a) else none
  | 1 => if a = 0 then some (.kcntLink d b) else none
  | 2 => if a = 0 ∧ b = 0 then some (.kcntAdv d) else none
  | 3 => if b = 0 then some (.kcntSet d a) else none
  | 4 => if a = 0 ∧ b = 0 then some (.kcntRst d) else none
  | _ => none

/-- QORD, format Q. -/
def parseQord (w : IWord) : Option Instr :=
  if sel w 0 4 ≠ 0 then none else
  let l0 := w.extractLsb' 22 4; let l1 := w.extractLsb' 18 4; let l2 := w.extractLsb' 14 4
  let l3 := w.extractLsb' 10 4; let l4 := w.extractLsb' 6 4
  match sel w 4 2 with
  | 0 => some (.qordWait l0 l1 l2 l3 l4) | 1 => some (.qordJoin l0 l1 l2 l3 l4) | _ => none

/-- TILE. -/
def parseTile (w : IWord) : Option Instr :=
  let d := fD w; let a := fA w; let b := fB w; let p := fP w
  match sel w 4 4 with
  | 0 => (fT w).map (fun t => .tileMma d a b p t)
  | 1 => if a = 0 ∧ b = 0 ∧ sel w 0 4 = 0 then some (.tileZero d p) else none
  | 2 => if b = 0 ∧ sel w 0 4 = 0 then some (.tileScal d a p) else none
  | 3 => if a = 0 ∧ b = 0 ∧ p = 0 ∧ sel w 0 4 = 0 then some (.tileOn d) else none
  | 4 => if a = 0 ∧ b = 0 ∧ p = 0 ∧ sel w 0 4 = 0 then some (.tileOff d) else none
  | _ => none

/-- CDY. -/
def parseCdy (w : IWord) : Option Instr :=
  if sel w 0 5 ≠ 0 ∨ fP w ≠ 0 then none else
  let d := fD w; let a := fA w; let b := fB w
  match sel w 5 3 with
  | 0 => if d = 0 then some (.cdyClaim a b) else none
  | 1 => some (.cdyLoad d a b)
  | 2 => some (.cdyLstr d a b)
  | 3 => if d = 0 then some (.cdyRel a b) else none
  | 4 => if b = 0 then some (.cdyMeta d a) else none
  | _ => none

/-- TMOV. -/
def parseTmov (w : IWord) : Option Instr :=
  if sel w 0 6 ≠ 0 then none else
  let d := fD w; let a := fA w; let b := fB w; let p := fP w
  match sel w 6 2 with
  | 0 => some (.tmovRtov d a b p) | 1 => some (.tmovCtov d a b p) | 2 => some (.tmovVtor d a b p)
  | 3 => some (.tmovVtoc d a b p) | _ => none

/-- SYNC. -/
def parseSync (w : IWord) : Option Instr := do
  let sc ← fSc w
  let d := fD w; let a := fA w; let b := fB w; let l := w.extractLsb' 0 4
  match sel w 7 4 with
  | 0 => if d = 0 ∧ b = 0 ∧ l = 0 then some (.syncAcq a sc) else none
  | 1 => if d = 0 ∧ b = 0 ∧ l = 0 then some (.syncRel a sc) else none
  | 2 => if l = 0 then some (.syncBind d a b sc) else none
  | 3 => if b = 0 ∧ l = 0 then some (.syncUbnd d a sc) else none
  | 4 => if d = 0 ∧ a = 0 ∧ b = 0 ∧ l = 0 then some (.syncFenc sc) else none
  | 5 => if d = 0 ∧ a = 0 ∧ b = 0 then some (.syncBarr sc l) else none
  | 6 => if d = 0 ∧ a = 0 ∧ b = 0 then some (.syncArrv sc l) else none
  | 7 => if d = 0 ∧ b = 0 then some (.syncExpt a sc l) else none
  | _ => none

/-- VAMO: cas only with RET = 1, fadd only with W64 = 0. -/
def parseVamo (w : IWord) : Option Instr :=
  let d := fD w; let a := fA w; let b := fB w; let p := fP w
  let r := fBit w 3; let q := fBit w 2; let l := fBit w 1; let x := fBit w 0
  match sel w 4 4 with
  | 0 => some (.vamoAdd d a b p r q l x) | 1 => some (.vamoMin d a b p r q l x) | 2 => some (.vamoMax d a b p r q l x)
  | 3 => some (.vamoAnd d a b p r q l x) | 4 => some (.vamoOr d a b p r q l x) | 5 => some (.vamoXor d a b p r q l x)
  | 6 => some (.vamoSwap d a b p r q l x)
  | 7 => if r then some (.vamoCas d a b p q l x) else none
  | 8 => if x then none else some (.vamoFadd d a b p r q l)
  | _ => none

/-- VWTC. -/
def parseVwtc (w : IWord) : Option Instr := do
  let cc ← WCond.ofCode (w.extractLsb' 5 3)
  if sel w 0 4 ≠ 0 then none else some (.vwtc (fD w) (fA w) (fB w) (fP w) cc (fBit w 4))

/-- ACCW. -/
def parseAccw (w : IWord) : Option Instr := do
  let t ← fT w
  if sel w 4 2 ≠ 0 then none else
  let d := fD w; let a := fA w; let b := fB w; let p := fP w
  match sel w 6 2 with
  | 0 => some (.accwUpd d a b p t)
  | 1 => if a = 0 ∧ b = 0 ∧ p = 0 then some (.accwMrge d t) else none
  | 2 => if a = 0 ∧ b = 0 ∧ p = 0 then some (.accwClr d t) else none
  | _ => none

/-- LINK. -/
def parseLink (w : IWord) : Option Instr :=
  if sel w 0 5 ≠ 0 then none else
  let d := fD w; let a := fA w; let b := fB w; let ch := fBit w 6; let lst := fBit w 5
  match sel w 7 4 with
  | 0 => some (.linkXfer d a b ch lst)
  | 1 => if d = 0 ∧ a = 0 ∧ sel w 5 2 = 0 then some (.linkLacq b) else none
  | 2 => if d = 0 ∧ a = 0 ∧ sel w 5 2 = 0 then some (.linkLrel b) else none
  | 3 => if d = 0 ∧ a = 0 ∧ sel w 5 2 = 0 then some (.linkLsig b) else none
  | _ => none

/-- COLL. -/
def parseColl (w : IWord) : Option Instr := do
  let t ← ElemTy.ofCode (w.extractLsb' 4 4)
  if sel w 0 4 ≠ 0 ∨ fD w ≠ 0 ∨ fB w ≠ 0 then none else
  match sel w 8 3 with
  | 0 => some (.collAred (fA w) t) | 1 => some (.collRsct (fA w) t) | 2 => some (.collAgat (fA w) t) | _ => none

/-- LNCH and VREL: A = 0 encodes VREL, and B must then be zero (R66, R278). -/
def parseLnch (w : IWord) : Option Instr :=
  if sel w 0 11 ≠ 0 ∨ fD w ≠ 0 then none else
  if fA w = 0 then (if fB w = 0 then some .vrel else none) else some (.lnch (fA w) (fB w))

/-- The major map of R61; `none` for a reserved major. -/
def parse (w : IWord) : Option (Option Instr) :=
  match sel w 26 6 with
  | 0x00 => some (parseSys w) | 0x01 => some (parseAlu w)
  | 0x02 => some (some (.alui (fD w) (fA w) (fImm w))) | 0x03 => some (some (.upi (fD w) (w.extractLsb' 0 21)))
  | 0x04 => some (parseMdv w) | 0x05 => some (parseBit w) | 0x06 => some (parseLd w) | 0x07 => some (parseSt w)
  | 0x08 => some (parseBr w) | 0x09 => some (parseJl w) | 0x0A => some (some (.jlr (fD w) (fA w) (fImm w)))
  | 0x0B => some (parseCtl w)
  | 0x10 => some (parseValu w) | 0x11 => some (parseValui w) | 0x12 => some (parseVfma w) | 0x13 => some (parseVcmp w)
  | 0x14 => some (parseVmsk w) | 0x15 => some (parseVprm w) | 0x16 => some (parseVred w) | 0x17 => some (parseVcvt w)
  | 0x18 => some (parseVbpl w) | 0x19 => some (parseVsca w) | 0x1A => some (parseVset w) | 0x1B => some (parseVwld w)
  | 0x1C => some (parseVwst w) | 0x1D => some (parseVidx w) | 0x1E => some (parseVsx w)
  | 0x20 => some (parseHres w) | 0x21 => some (parseKcnt w) | 0x22 => some (parseQord w)
  | 0x24 => some (parseTile w) | 0x25 => some (parseCdy w) | 0x26 => some (parseTmov w)
  | 0x28 => some (parseSync w) | 0x29 => some (parseVamo w) | 0x2A => some (parseVwtc w) | 0x2B => some (parseAccw w)
  | 0x2C => some (parseLink w) | 0x2D => some (parseColl w) | 0x2E => some (parseLnch w)
  | _ => none

/-- The instruction of a word, or why the word is illegal (R67). -/
def decode (w : IWord) : Except DecodeError Instr :=
  match parse w with
  | none => .error .reservedMajor
  | some none => .error .reservedFunction
  | some (some i) => if i.wf then .ok i else .error .illegalOperand

/-- A word from its bytes, least significant byte at the lowest address (R54). -/
def wordOfBytes (b0 b1 b2 b3 : Byte) : IWord := b3 ++ b2 ++ b1 ++ b0

/-- The bytes of a word in the order of their addresses (R54). -/
def bytesOfWord (w : IWord) : List Byte :=
  [w.extractLsb' 0 8, w.extractLsb' 8 8, w.extractLsb' 16 8, w.extractLsb' 24 8]

/-- The instruction at the head of a list of bytes, and the rest. -/
def decodeBytes : List Byte → Except DecodeError (Instr × List Byte)
  | b0 :: b1 :: b2 :: b3 :: rest => (decode (wordOfBytes b0 b1 b2 b3)).map (fun i => (i, rest))
  | _ => .error .truncated

/-- The word that the table's bit numbering gives: `nbits` bits of `w`, zero above them. -/
def tableWord (nbits w : Nat) : IWord := BitVec.ofNat 32 (w % 2 ^ nbits)

/-- What the decoder reads from an instruction whose bits the opcode table numbers. -/
def decodeTableWord (nbits w : Nat) : Option Instr :=
  match decodeBytes (bytesOfWord (tableWord nbits w)) with
  | .ok (i, _) => some i
  | .error _ => none

/-! The encoder. -/

/-- Format C. -/
def fmtC (m : BitVec 6) (d a b : Reg) (f : BitVec 11) : IWord := m ++ d ++ a ++ b ++ f
/-- Format I. -/
def fmtI (m : BitVec 6) (d a : Reg) (imm : BitVec 16) : IWord := m ++ d ++ a ++ imm
/-- Format U. -/
def fmtU (m : BitVec 6) (d : Reg) (imm : BitVec 21) : IWord := m ++ d ++ imm
/-- Format BR. -/
def fmtBR (a b : Reg) (off : BitVec 14) (cond : BitVec 2) : IWord := (0x08 : BitVec 6) ++ a ++ b ++ off ++ cond
/-- Format J. -/
def fmtJ (off : BitVec 25) (l : BitVec 1) : IWord := (0x09 : BitVec 6) ++ off ++ l
/-- Formats V, VI, W and T. -/
def fmtV (m : BitVec 6) (d a b : Reg) (p : PReg) (f : BitVec 8) : IWord := m ++ d ++ a ++ b ++ p ++ f
/-- Format Q. -/
def fmtQ (l0 l1 l2 l3 l4 : BitVec 4) (op : BitVec 2) : IWord :=
  (0x22 : BitVec 6) ++ l0 ++ l1 ++ l2 ++ l3 ++ l4 ++ op ++ (0 : BitVec 4)

/-- A one-bit field. -/
def bit1 (b : Bool) : BitVec 1 := BitVec.ofBool b

/-- F of the majors whose F is S, a three-bit OP and TYPE. -/
def fSop (s : Bool) (op : BitVec 3) (t : ElemTy) : BitVec 8 := bit1 s ++ op ++ t.code
/-- F of the majors whose F is a four-bit OP and four low bits. -/
def fOp (op lo : BitVec 4) : BitVec 8 := op ++ lo
/-- F of SYS and BIT: OP and a six-bit operand. -/
def fOp5 (op : BitVec 5) (lo : BitVec 6) : BitVec 11 := op ++ lo
/-- F of ALU and MDV. -/
def fAlu (op : BitVec 4) : BitVec 11 := (0 : BitVec 7) ++ op
/-- F of LD and ST. -/
def fMem (wd : BitVec 3) (sg : Option Scope) (off : BitVec 4) : BitVec 11 :=
  match sg with
  | none => wd ++ (0 : BitVec 4) ++ off
  | some sc => wd ++ (1 : BitVec 1) ++ sc.code ++ off
/-- F of HRES. -/
def fHres (op : BitVec 4) (n : BitVec 2) : BitVec 11 := op ++ n ++ (0 : BitVec 5)
/-- F of KCNT. -/
def fKcnt (op : BitVec 3) : BitVec 11 := op ++ (0 : BitVec 8)
/-- F of SYNC. -/
def fSync (op : BitVec 4) (sc : Scope) (lvl : BitVec 4) : BitVec 11 := op ++ sc.code ++ lvl
/-- F of VAMO. -/
def fVamo (op : BitVec 4) (r q l x : Bool) : BitVec 8 := op ++ bit1 r ++ bit1 q ++ bit1 l ++ bit1 x
/-- F of VPRM. -/
def fVprm (op : BitVec 4) (dim : Dim) (wd : PWidth) : BitVec 8 := op ++ dim.code ++ wd.code
/-- F of VRED. -/
def fVred (dim : Dim) (op : BitVec 2) (t : ElemTy) : BitVec 8 := dim.code ++ op ++ t.code
/-- F of ACCW. -/
def fAccw (op : BitVec 2) (t : ElemTy) : BitVec 8 := op ++ (0 : BitVec 2) ++ t.code
/-- F of LINK. -/
def fLink (op : BitVec 4) (ch lst : Bool) : BitVec 11 := op ++ bit1 ch ++ bit1 lst ++ (0 : BitVec 5)
/-- F of COLL. -/
def fColl (op : BitVec 3) (t : ElemTy) : BitVec 11 := op ++ t.code ++ (0 : BitVec 4)
/-- IMM16 of CTL. -/
def fCtl (op : BitVec 4) (c : BitVec 12) : BitVec 16 := op ++ c

/-- The word of an instruction (R55, R61 to R66); an event has none. -/
def encode : Instr → Option IWord
  | .sysCall => some (fmtC 0x00 0 0 0 (fOp5 1 0)) | .sysTrap c => some (fmtC 0x00 0 0 0 (fOp5 2 c))
  | .sysTret => some (fmtC 0x00 0 0 0 (fOp5 3 0)) | .sysTend => some (fmtC 0x00 0 0 0 (fOp5 4 0))
  | .sysSnap => some (fmtC 0x00 0 0 0 (fOp5 5 0)) | .sysBrk => some (fmtC 0x00 0 0 0 (fOp5 6 0))
  | .aluAdd d a b => some (fmtC 0x01 d a b (fAlu 0)) | .aluSub d a b => some (fmtC 0x01 d a b (fAlu 1))
  | .aluAnd d a b => some (fmtC 0x01 d a b (fAlu 2)) | .aluOr d a b => some (fmtC 0x01 d a b (fAlu 3))
  | .aluXor d a b => some (fmtC 0x01 d a b (fAlu 4)) | .aluSll d a b => some (fmtC 0x01 d a b (fAlu 5))
  | .aluSrl d a b => some (fmtC 0x01 d a b (fAlu 6)) | .aluSra d a b => some (fmtC 0x01 d a b (fAlu 7))
  | .aluSlt d a b => some (fmtC 0x01 d a b (fAlu 8)) | .aluSltu d a b => some (fmtC 0x01 d a b (fAlu 9))
  | .aluAddw d a b => some (fmtC 0x01 d a b (fAlu 10)) | .aluSubw d a b => some (fmtC 0x01 d a b (fAlu 11))
  | .aluMin d a b => some (fmtC 0x01 d a b (fAlu 12)) | .aluMax d a b => some (fmtC 0x01 d a b (fAlu 13))
  | .aluMinu d a b => some (fmtC 0x01 d a b (fAlu 14)) | .aluMaxu d a b => some (fmtC 0x01 d a b (fAlu 15))
  | .alui d a i => some (fmtI 0x02 d a i) | .upi d i => some (fmtU 0x03 d i)
  | .mdvMul d a b => some (fmtC 0x04 d a b (fAlu 0)) | .mdvMulh d a b => some (fmtC 0x04 d a b (fAlu 1))
  | .mdvMulhu d a b => some (fmtC 0x04 d a b (fAlu 2)) | .mdvDiv d a b => some (fmtC 0x04 d a b (fAlu 3))
  | .mdvDivu d a b => some (fmtC 0x04 d a b (fAlu 4)) | .mdvRem d a b => some (fmtC 0x04 d a b (fAlu 5))
  | .mdvRemu d a b => some (fmtC 0x04 d a b (fAlu 6)) | .mdvMulw d a b => some (fmtC 0x04 d a b (fAlu 7))
  | .mdvDivw d a b => some (fmtC 0x04 d a b (fAlu 8)) | .mdvRemw d a b => some (fmtC 0x04 d a b (fAlu 9))
  | .bitSlli d a h => some (fmtC 0x05 d a 0 (fOp5 0 h)) | .bitSrli d a h => some (fmtC 0x05 d a 0 (fOp5 1 h))
  | .bitSrai d a h => some (fmtC 0x05 d a 0 (fOp5 2 h)) | .bitClz d a => some (fmtC 0x05 d a 0 (fOp5 3 0))
  | .bitCtz d a => some (fmtC 0x05 d a 0 (fOp5 4 0)) | .bitPopc d a => some (fmtC 0x05 d a 0 (fOp5 5 0))
  | .bitRev8 d a => some (fmtC 0x05 d a 0 (fOp5 6 0))
  | .ld d a b w sg off => some (fmtC 0x06 d a b (fMem w.code sg off))
  | .st d a b w sg off => some (fmtC 0x07 d a b (fMem w.code sg off))
  | .brEq a b off => some (fmtBR a b off 0) | .brNe a b off => some (fmtBR a b off 1)
  | .brLt a b off => some (fmtBR a b off 2) | .brLtu a b off => some (fmtBR a b off 3)
  | .jlGo off => some (fmtJ off 0) | .jlLn off => some (fmtJ off 1)
  | .jlr d a i => some (fmtI 0x0A d a i)
  | .ctlRd d c => some (fmtI 0x0B d 0 (fCtl 0 c)) | .ctlWr a c => some (fmtI 0x0B 0 a (fCtl 1 c))
  | .ctlXchg d a c => some (fmtI 0x0B d a (fCtl 2 c)) | .ctlBset a c => some (fmtI 0x0B 0 a (fCtl 3 c))
  | .ctlBclr a c => some (fmtI 0x0B 0 a (fCtl 4 c)) | .ctlAdv d a c => some (fmtI 0x0B d a (fCtl 5 c))
  | .valuAdd d a b p s t => some (fmtV 0x10 d a b p (fSop s 0 t)) | .valuSub d a b p s t => some (fmtV 0x10 d a b p (fSop s 1 t))
  | .valuMul d a b p s t => some (fmtV 0x10 d a b p (fSop s 2 t)) | .valuMin d a b p s t => some (fmtV 0x10 d a b p (fSop s 3 t))
  | .valuMax d a b p s t => some (fmtV 0x10 d a b p (fSop s 4 t)) | .valuSadd d a b p s t => some (fmtV 0x10 d a b p (fSop s 5 t))
  | .valuSsub d a b p s t => some (fmtV 0x10 d a b p (fSop s 6 t)) | .valuAbsd d a b p s t => some (fmtV 0x10 d a b p (fSop s 7 t))
  | .valuiAdd d a i p t => some (fmtV 0x11 d a i p (fOp 0 t.code)) | .valuiRsub d a i p t => some (fmtV 0x11 d a i p (fOp 1 t.code))
  | .valuiMin d a i p t => some (fmtV 0x11 d a i p (fOp 2 t.code)) | .valuiMax d a i p t => some (fmtV 0x11 d a i p (fOp 3 t.code))
  | .valuiSadd d a i p t => some (fmtV 0x11 d a i p (fOp 4 t.code)) | .valuiSll d a i p t => some (fmtV 0x11 d a i p (fOp 5 t.code))
  | .valuiSrl d a i p t => some (fmtV 0x11 d a i p (fOp 6 t.code)) | .valuiSra d a i p t => some (fmtV 0x11 d a i p (fOp 7 t.code))
  | .valuiAnd d a i p t => some (fmtV 0x11 d a i p (fOp 8 t.code)) | .valuiOr d a i p t => some (fmtV 0x11 d a i p (fOp 9 t.code))
  | .valuiXor d a i p t => some (fmtV 0x11 d a i p (fOp 10 t.code)) | .valuiMov d i p t => some (fmtV 0x11 d 0 i p (fOp 11 t.code))
  | .vfmaFma d a b p s t => some (fmtV 0x12 d a b p (fSop s 0 t)) | .vfmaFms d a b p s t => some (fmtV 0x12 d a b p (fSop s 1 t))
  | .vfmaFnma d a b p s t => some (fmtV 0x12 d a b p (fSop s 2 t)) | .vfmaFnms d a b p s t => some (fmtV 0x12 d a b p (fSop s 3 t))
  | .vfmaDot2 d a b p s t => some (fmtV 0x12 d a b p (fSop s 4 t))
  | .vcmp d a b p s cc t => some (fmtV 0x13 d a b p (fSop s cc.code t))
  | .vmskAnd d a b p => some (fmtV 0x14 d a b p (fOp 0 0)) | .vmskOr d a b p => some (fmtV 0x14 d a b p (fOp 1 0))
  | .vmskXor d a b p => some (fmtV 0x14 d a b p (fOp 2 0)) | .vmskAndn d a b p => some (fmtV 0x14 d a b p (fOp 3 0))
  | .vmskOrn d a b p => some (fmtV 0x14 d a b p (fOp 4 0)) | .vmskNot d a p => some (fmtV 0x14 d a 0 p (fOp 5 0))
  | .vmskMov d a p => some (fmtV 0x14 d a 0 p (fOp 6 0)) | .vmskFrst d a p => some (fmtV 0x14 d a 0 p (fOp 7 0))
  | .vmskPopc d a p => some (fmtV 0x14 d a 0 p (fOp 8 0))
  | .vprmSlup d a b p dim w => some (fmtV 0x15 d a b p (fVprm 0 dim w)) | .vprmSldn d a b p dim w => some (fmtV 0x15 d a b p (fVprm 1 dim w))
  | .vprmGath d a b p dim w => some (fmtV 0x15 d a b p (fVprm 2 dim w)) | .vprmCmpr d a p dim w => some (fmtV 0x15 d a 0 p (fVprm 3 dim w))
  | .vprmExpd d a p dim w => some (fmtV 0x15 d a 0 p (fVprm 4 dim w)) | .vprmBcst d a b p dim w => some (fmtV 0x15 d a b p (fVprm 5 dim w))
  | .vprmTran d a p w => some (fmtV 0x15 d a 0 p (fVprm 6 .lin w)) | .vprmMov d a p dim w => some (fmtV 0x15 d a 0 p (fVprm 7 dim w))
  | .vredSum d a p dim t => some (fmtV 0x16 d a 0 p (fVred dim 0 t)) | .vredMax d a p dim t => some (fmtV 0x16 d a 0 p (fVred dim 1 t))
  | .vredMin d a p dim t => some (fmtV 0x16 d a 0 p (fVred dim 2 t)) | .vredAmax d a p dim t => some (fmtV 0x16 d a 0 p (fVred dim 3 t))
  | .vcvt d a p tt ft => some (fmtV 0x17 d a 0 p (fOp tt.code ft.code))
  | .vbplAnd d a b p t => some (fmtV 0x18 d a b p (fOp 0 t.code)) | .vbplOr d a b p t => some (fmtV 0x18 d a b p (fOp 1 t.code))
  | .vbplXor d a b p t => some (fmtV 0x18 d a b p (fOp 2 t.code)) | .vbplAndn d a b p t => some (fmtV 0x18 d a b p (fOp 3 t.code))
  | .vbplNot d a p t => some (fmtV 0x18 d a 0 p (fOp 4 t.code)) | .vbplSll d a b p t => some (fmtV 0x18 d a b p (fOp 5 t.code))
  | .vbplSrl d a b p t => some (fmtV 0x18 d a b p (fOp 6 t.code)) | .vbplSra d a b p t => some (fmtV 0x18 d a b p (fOp 7 t.code))
  | .vbplPopc d a p t => some (fmtV 0x18 d a 0 p (fOp 8 t.code)) | .vbplPext d a b p => some (fmtV 0x18 d a b p (fOp 9 13))
  | .vbplPins d a b p => some (fmtV 0x18 d a b p (fOp 10 13)) | .vbplPmac d a b p => some (fmtV 0x18 d a b p (fOp 11 13))
  | .vscaMul d a b p s t => some (fmtV 0x19 d a b p (fSop s 0 t)) | .vscaMacc d a b p s t => some (fmtV 0x19 d a b p (fSop s 1 t))
  | .vscaRmul d a b p s t => some (fmtV 0x19 d a b p (fSop s 2 t)) | .vscaCmul d a b p s t => some (fmtV 0x19 d a b p (fSop s 3 t))
  | .vscaRmac d a b p s t => some (fmtV 0x19 d a b p (fSop s 4 t)) | .vscaCmac d a b p s t => some (fmtV 0x19 d a b p (fSop s 5 t))
  | .vsetLen a b => some (fmtV 0x1A 0 a b 0 0)
  | .vsetLenf a b g t => some (fmtV 0x1A 0 a b 0 ((1 : BitVec 2) ++ g.code ++ t.code))
  | .vwld d a b p rd cd str k => some (fmtV 0x1B d a b p (rd ++ cd ++ str ++ bit1 k ++ (0 : BitVec 1)))
  | .vwst d a b p rd cd str => some (fmtV 0x1C d a b p (rd ++ cd ++ str ++ (0 : BitVec 2)))
  | .vidxLd d a b p iw k => some (fmtV 0x1D d a b p ((0 : BitVec 2) ++ iw.code ++ (0 : BitVec 3) ++ bit1 k))
  | .vidxSt d a b p iw => some (fmtV 0x1D d a b p ((1 : BitVec 2) ++ iw.code ++ (0 : BitVec 4)))
  | .vsxIsec d a b p t => some (fmtV 0x1E d a b p (fOp 0 t.code)) | .vsxIcnt d a b p t => some (fmtV 0x1E d a b p (fOp 1 t.code))
  | .vsxUnio d a b p t => some (fmtV 0x1E d a b p (fOp 2 t.code)) | .vsxDiff d a b p t => some (fmtV 0x1E d a b p (fOp 3 t.code))
  | .vsxMrge d a b p t => some (fmtV 0x1E d a b p (fOp 4 t.code))
  | .hresSet d a => some (fmtC 0x20 d a 0 (fHres 0 0)) | .hresAnch d a n => some (fmtC 0x20 d a 0 (fHres 1 n))
  | .hresLim d a n => some (fmtC 0x20 d a 0 (fHres 2 n)) | .hresBind d a => some (fmtC 0x20 d a 0 (fHres 3 0))
  | .hresWmk d a => some (fmtC 0x20 d a 0 (fHres 4 0)) | .hresClr d => some (fmtC 0x20 d 0 0 (fHres 5 0))
  | .kcntExt d a => some (fmtC 0x21 d a 0 (fKcnt 0)) | .kcntLink d b => some (fmtC 0x21 d 0 b (fKcnt 1))
  | .kcntAdv d => some (fmtC 0x21 d 0 0 (fKcnt 2)) | .kcntSet d a => some (fmtC 0x21 d a 0 (fKcnt 3))
  | .kcntRst d => some (fmtC 0x21 d 0 0 (fKcnt 4))
  | .qordWait l0 l1 l2 l3 l4 => some (fmtQ l0 l1 l2 l3 l4 0) | .qordJoin l0 l1 l2 l3 l4 => some (fmtQ l0 l1 l2 l3 l4 1)
  | .tileMma d a b p t => some (fmtV 0x24 d a b p (fOp 0 t.code)) | .tileZero d p => some (fmtV 0x24 d 0 0 p (fOp 1 0))
  | .tileScal d a p => some (fmtV 0x24 d a 0 p (fOp 2 0)) | .tileOn d => some (fmtV 0x24 d 0 0 0 (fOp 3 0))
  | .tileOff d => some (fmtV 0x24 d 0 0 0 (fOp 4 0))
  | .cdyClaim a b => some (fmtV 0x25 0 a b 0 ((0 : BitVec 3) ++ (0 : BitVec 5)))
  | .cdyLoad d a b => some (fmtV 0x25 d a b 0 ((1 : BitVec 3) ++ (0 : BitVec 5)))
  | .cdyLstr d a b => some (fmtV 0x25 d a b 0 ((2 : BitVec 3) ++ (0 : BitVec 5)))
  | .cdyRel a b => some (fmtV 0x25 0 a b 0 ((3 : BitVec 3) ++ (0 : BitVec 5)))
  | .cdyMeta d a => some (fmtV 0x25 d a 0 0 ((4 : BitVec 3) ++ (0 : BitVec 5)))
  | .tmovRtov d a b p => some (fmtV 0x26 d a b p ((0 : BitVec 2) ++ (0 : BitVec 6)))
  | .tmovCtov d a b p => some (fmtV 0x26 d a b p ((1 : BitVec 2) ++ (0 : BitVec 6)))
  | .tmovVtor d a b p => some (fmtV 0x26 d a b p ((2 : BitVec 2) ++ (0 : BitVec 6)))
  | .tmovVtoc d a b p => some (fmtV 0x26 d a b p ((3 : BitVec 2) ++ (0 : BitVec 6)))
  | .syncAcq a sc => some (fmtC 0x28 0 a 0 (fSync 0 sc 0)) | .syncRel a sc => some (fmtC 0x28 0 a 0 (fSync 1 sc 0))
  | .syncBind d a b sc => some (fmtC 0x28 d a b (fSync 2 sc 0)) | .syncUbnd d a sc => some (fmtC 0x28 d a 0 (fSync 3 sc 0))
  | .syncFenc sc => some (fmtC 0x28 0 0 0 (fSync 4 sc 0)) | .syncBarr sc l => some (fmtC 0x28 0 0 0 (fSync 5 sc l))
  | .syncArrv sc l => some (fmtC 0x28 0 0 0 (fSync 6 sc l)) | .syncExpt a sc l => some (fmtC 0x28 0 a 0 (fSync 7 sc l))
  | .vamoAdd d a b p r q l x => some (fmtV 0x29 d a b p (fVamo 0 r q l x)) | .vamoMin d a b p r q l x => some (fmtV 0x29 d a b p (fVamo 1 r q l x))
  | .vamoMax d a b p r q l x => some (fmtV 0x29 d a b p (fVamo 2 r q l x)) | .vamoAnd d a b p r q l x => some (fmtV 0x29 d a b p (fVamo 3 r q l x))
  | .vamoOr d a b p r q l x => some (fmtV 0x29 d a b p (fVamo 4 r q l x)) | .vamoXor d a b p r q l x => some (fmtV 0x29 d a b p (fVamo 5 r q l x))
  | .vamoSwap d a b p r q l x => some (fmtV 0x29 d a b p (fVamo 6 r q l x)) | .vamoCas d a b p q l x => some (fmtV 0x29 d a b p (fVamo 7 true q l x))
  | .vamoFadd d a b p r q l => some (fmtV 0x29 d a b p (fVamo 8 r q l false))
  | .vwtc d a b p cc x => some (fmtV 0x2A d a b p (cc.code ++ bit1 x ++ (0 : BitVec 4)))
  | .accwUpd d a b p t => some (fmtV 0x2B d a b p (fAccw 0 t)) | .accwMrge d t => some (fmtV 0x2B d 0 0 0 (fAccw 1 t))
  | .accwClr d t => some (fmtV 0x2B d 0 0 0 (fAccw 2 t))
  | .linkXfer d a b ch l => some (fmtC 0x2C d a b (fLink 0 ch l)) | .linkLacq b => some (fmtC 0x2C 0 0 b (fLink 1 false false))
  | .linkLrel b => some (fmtC 0x2C 0 0 b (fLink 2 false false)) | .linkLsig b => some (fmtC 0x2C 0 0 b (fLink 3 false false))
  | .collAred a t => some (fmtC 0x2D 0 a 0 (fColl 0 t)) | .collRsct a t => some (fmtC 0x2D 0 a 0 (fColl 1 t))
  | .collAgat a t => some (fmtC 0x2D 0 a 0 (fColl 2 t))
  | .lnch a b => some (fmtC 0x2E 0 a b 0) | .vrel => some (fmtC 0x2E 0 0 0 0)
  | _ => none

end Sys2Proof
end

