-- ==== Sys2Proof/Config.lean ====
section
/-! DEFINITION. What is fixed for the part, and the free values: opaque constants without a body, so that nothing can be
proved of what they are. -/

namespace Sys2Proof.Config

/-- VLEN of this part (R1, R129). -/
def vlen : Nat := 16384
/-- Physical addresses of slice SRAM lie below this one (R220). -/
def sramEnd : Nat := 0x3A2000000
/-- First physical address of CXL memory (R220). -/
def cxlBase : Nat := 0x10000000000
/-- Delivery buffer of a cluster in bytes (R178). -/
def deliveryBytes : Nat := 131072
/-- Waiters one slice queues (R243). -/
def waiterCap : Nat := 1024
/-- Entries of the binding table (R240). -/
def bindingCap : Nat := 4096
/-- Entries of the retirement tracker of a cluster (R46). -/
def trackerCap : Nat := 8
/-- Records in the device buffer of a launch queue (R261). -/
def deviceBufCap : Nat := 64
/-- Cached translations of 64 KiB and 16 MiB pages in a cluster (R279). -/
def tlbSmall : Nat := 1024
def tlbBig : Nat := 64

/-- FREE VALUE (log 2): a byte of CXL memory that nothing has written, by physical address (R219). -/
opaque cxlByte : Nat → Byte
/-- FREE VALUE (log 7): cycles of a die that pass in a step, by die and step counter (R6, R114). -/
opaque stepCycles : Nat → Nat → Nat
/-- FREE VALUE (log 15): RUN of a status record after code 3, 4 or 5 (R339), by command number. -/
opaque linkRun : Nat → IWord
/-- FREE VALUE (log 15): whether byte `k` of command `n`, ending with code 3 or 4, landed (R339: any subset). -/
opaque linkLands : Nat → Nat → Bool
/-- FREE VALUE (log 15): bytes of command `n` that landed at a peer before its route went down (R339). -/
opaque linkBytes : Nat → Nat
/-- FREE VALUE (log 15): flits that command or message `n` takes on its port (R323); those of an event record, by step and RHEAD;
and those that a request at its home sends through a CXL port, by step and physical address. -/
opaque linkFlits : Nat → Nat
opaque eventFlits : Nat → Nat → Nat
opaque cxlFlits : Nat → Nat → Nat
/-- FREE VALUE (log 32): this device's ordinal in a group, level-0 threads of the group on devices of lower ordinal, and on
all its devices, by GID (R344: the device holds no ordinal of its own, and its table lists no thread of another). -/
opaque collOrdinal : Word → Nat
opaque collBefore : Word → Nat
opaque collThreads : Word → Nat
/-- FREE VALUE (log 33): whether request `n` had been accepted by another router when its cluster's tile was fenced (R313). -/
opaque accepted : Nat → Bool
/-- FREE VALUE (log 98): which of the packets on a link a dropped flit belongs to, by step (R309). -/
opaque flitOf : Nat → Nat
/-- FREE VALUE (log 98): whether the header code corrects a header that reaches a router in a step, by step, router and
neighbour (R307, R323 HDR_CE). -/
opaque headerFixed : Nat → Nat → Nat → Bool
/-- FREE VALUE (log 14): which cached translation of its page size a full cache replaces at step n (R279, R285). -/
opaque tlbVictim : Nat → Nat
/-- FREE VALUE (log 31): where a gang group stands, among those of its launch, in the order in which step n pre-empts them
(R269). -/
opaque victimRank : Nat → Nat → Nat
/-- FREE VALUE (log 129): the 24-bit digest of a Resteep key, given as a list of numbers (R296 names no function for it). -/
opaque rsDigest : List Nat → BitVec 24
/-- FREE VALUE (log 37): a byte of a save area that the context-save engine cannot get at, by step and address (R293 gives none). -/
opaque lostByte : Nat → Nat → Byte
/-- FREE VALUE (log 111): tval of the memory-unavailable trap of a barrier operation, by step: R223 names a virtual address, of which
a barrier has none. -/
opaque noAddress : Nat → Word
/-- FREE VALUE (log 54): the destination device in the header of a flit that answers through a port (R329): the device at the far end
of its link, which this one knows by no ordinal. -/
opaque farEnd : Nat → Nat
/-- FREE VALUE (log 40): whether the fetch of step n at a physical address sees the stores made to the code since its launch
was placed (R121). -/
opaque fetchSees : Nat → Nat → Bool
/-- FREE VALUE (log 41): whether element n, with another to its address in flight, is merged into it (R253). -/
opaque combines : Nat → Bool
/-- FREE VALUE (log 16): whether an image carries a valid firmware signature (R353 step 3). -/
opaque imageSigned : List Byte → Bool
/-- FREE VALUE (log 16): the device's signature over the first 256 bytes of a report (R354). -/
opaque reportSignature : List Byte → List Byte
/-- FREE VALUE (log 34): cause that the tile-fenced event of a failed firmware self-test carries, by tile (R353). -/
opaque selfTestCause : Nat → Word
/-- FREE VALUE (log 16): whether a tile passes the self-test of a firmware load (R353 step 4), by tile and LOADS. -/
opaque tilePasses : Nat → Nat → Bool
/-- FREE VALUE (log 1): whether a partner is attached to a device link or long-haul port when a load trains the ports, by port
interface and LOADS (R353 step 5, R338). -/
opaque portPartner : Nat → Nat → Bool
/-- FREE VALUE (log 17): the part serial number of the attestation report (R354). -/
opaque serial : List Byte
/-- FREE VALUE (log 17): the part code and the last two words of the identity block (R332), and the standard header of the
DVSEC capability (R350). -/
opaque identity : Nat → Word
opaque dvsecHeader : Nat → IWord
/-- FREE VALUE (log 18): home slice of the control block and device buffer of a launch queue (R261). -/
opaque queueHome : Nat → Nat
/-- FREE VALUE (log 88): where the host driver has set up the 64 launch-queue control blocks (R261), as a number that
`Machine.controlBlock` brings into slice SRAM. -/
opaque controlBase : Nat
/-- FREE VALUE (log 18): home slice of a barrier's state, by launch, level and group (R240). -/
opaque barrierHome : Nat → Nat → Nat → Nat

end Sys2Proof.Config
end

