-- ==== Sys2Proof/Machine/Mem.lean ====
section
/-! DEFINITION. Device memory (R219 to R225), homes, units and routes (R7 to R10, R221, R222, R312), page tables and
translation (R280 to R286), event counters (R322, R323) and host events (R333). -/

namespace Sys2Proof.Machine

/-! ## Units -/

/-- Tile of a router by die, row and column (R9). -/
def tileAt (die row col : Nat) : Nat := 40 * die + 8 * row + col
/-- Die of a tile. -/
def dieOfTile (t : Nat) : Nat := t / 40
/-- Row of a tile in its die. -/
def rowOfTile (t : Nat) : Nat := t % 40 / 8
/-- Column of a tile in its die. -/
def colOfTile (t : Nat) : Nat := t % 8
/-- A compute router stands where row plus column is even (R8). -/
def isComputeTile (t : Nat) : Bool := (rowOfTile t + colOfTile t) % 2 = 0
/-- Tile of a slice (R8, R9): four slice routers to a row, at the odd columns of an even row. -/
def tileOfSlice (sl : Nat) : Nat :=
  let o := sl % 40 / 2
  tileAt (sl / 40) (o / 4) (if o / 4 % 2 = 0 then 2 * (o % 4) + 1 else 2 * (o % 4))
/-- Tile of a cluster (R8, R9). -/
def tileOfCluster (cl : Nat) : Nat :=
  let o := cl % 80 / 4
  tileAt (cl / 80) (o / 4) (if o / 4 % 2 = 0 then 2 * (o % 4) else 2 * (o % 4) + 1)
/-- Clusters of a compute tile: four from this one on. -/
def firstClusterOfTile (t : Nat) : Nat := 80 * dieOfTile t + 4 * (4 * rowOfTile t + colOfTile t / 2)
/-- Slices of a slice tile: two from this one on. -/
def firstSliceOfTile (t : Nat) : Nat := 40 * dieOfTile t + 2 * (4 * rowOfTile t + colOfTile t / 2)
/-- Die of a cluster. -/
def dieOfCluster (cl : Nat) : Nat := cl / 80
/-- Compute tile number of a cluster (R9). -/
def computeTileOf (cl : Nat) : Nat := cl / 4
/-- Tile that carries a port interface, by its number among the 29 counter pages (R12, R322): the host port, 16 CXL
ports, 8 short-reach links, 4 long-haul ports. -/
def tileOfPort (n : Nat) : Nat :=
  if n = 0 then tileAt 0 3 2
  else if n ≤ 16 then tileAt ((n - 1) / 4) 2 (2 * ((n - 1) % 4) + 1)
  else if n ≤ 24 then (if (n - 17) % 2 = 0 then tileAt ((n - 17) / 2) 1 2 else tileAt ((n - 17) / 2) 3 4)
  else tileAt (n - 25) 1 4
/-- The eleven row and column neighbours of a tile, ascending (R8, R306). -/
def neighbours (t : Nat) : List Nat :=
  ((List.range 40).map (fun i => 40 * dieOfTile t + i)).filter
    (fun u => u ≠ t ∧ (rowOfTile u = rowOfTile t ∨ colOfTile u = colOfTile t))

/-- A tile's fence-table entry is 0 (R306). -/
def inService (s : State) (t : Nat) : Bool := tabGet 0 s.fence t = 0

/-! ## The fabric (R7, R10, R312) -/

/-- Grid column and row of a die (R7). -/
def dieCol (d : Nat) : Nat := d % 2
def dieRow (d : Nat) : Nat := d / 2
/-- A bridge joins two dies that share an edge (R7). -/
def bridged (d e : Nat) : Bool :=
  decide (dieRow d = dieRow e ∧ dieCol d ≠ dieCol e) || decide (dieCol d = dieCol e ∧ dieRow d ≠ dieRow e)
/-- The die that traffic crosses next on its way from one die to another: bit 0 of the number changes first (R7). -/
def nextDie (d e : Nat) : Nat := if dieCol d ≠ dieCol e then 2 * dieRow d + dieCol e else 2 * dieRow e + dieCol e
/-- The router of die `d`'s edge facing a neighbouring die that shares its row or column with tile `t` of that die (R10). -/
def edgeTile (d e t : Nat) : Nat :=
  if dieRow d = dieRow e then tileAt d (rowOfTile t) (if dieCol d = 0 then 7 else 0)
  else tileAt d (if dieRow d = 0 then 4 else 0) (colOfTile t)
/-- The router on which a packet lands that crossed to die `e` at tile `t` of die `d` (R10). -/
def landTile (d e t : Nat) : Nat :=
  if dieRow d = dieRow e then tileAt e (rowOfTile t) (if dieCol e = 0 then 7 else 0)
  else tileAt e (if dieRow e = 0 then 4 else 0) (colOfTile t)
/-- The routers at which a packet arrives on its way from one router of a die to another: its destination, or first a router in
service that stands in the row of the one and the column of the other, row first where that is in service, else column first;
none when both are fenced or the destination is (R10, R312 step 3). -/
def hops (s : State) (a b : Nat) : Option (List Nat) :=
  let m := tileAt (dieOfTile a) (rowOfTile a) (colOfTile b)
  let m' := tileAt (dieOfTile a) (rowOfTile b) (colOfTile a)
  if a = b then some []
  else if !inService s b then none
  else if rowOfTile a = rowOfTile b ∨ colOfTile a = colOfTile b then some [b]
  else if inService s m then some [m, b] else if inService s m' then some [m', b] else none
/-- The routers of a packet's way across `n` more bridges at most: at each bridge the router it crosses at and the one it lands
on are in service, there being no other for it (R7, R10, R312; log 78). -/
def wayFrom (s : State) : Nat → Nat → Nat → Option (List Nat)
  | 0, a, b => if dieOfTile a = dieOfTile b then hops s a b else none
  | n + 1, a, b =>
    let d := dieOfTile a
    if d = dieOfTile b then hops s a b
    else
      let e := nextDie d (dieOfTile b)
      let x := landTile d e (edgeTile d e a)
      match hops s a (edgeTile d e a), wayFrom s n x b with
      | some l, some r => if inService s x then some (l ++ x :: r) else none
      | _, _ => none
/-- The routers at which a packet arrives on its way from one tile to another, two bridges at most (R7). -/
def way (s : State) (a b : Nat) : Option (List Nat) := wayFrom s 2 a b
/-- A packet gets from one tile to another. -/
def routeUp (s : State) (a b : Nat) : Bool := (way s a b).isSome
/-- A tile's router has stopped while the tile is still in service: nothing passes it (R307). -/
def stopped (s : State) (t : Nat) : Bool := (tabFind s.silent t).isSome && inService s t
/-- A router of a packet's way has stopped, that of its source or its destination included. -/
def wayStopped (s : State) (a b : Nat) : Bool := stopped s a || ((way s a b).getD []).any (stopped s)
/-- What comes from a tile, or from the device itself, gets to another tile, and meets a stopped router there or on its way. -/
def wayTo (s : State) (tile : Option Nat) (dest : Nat) : Bool := tile.all (fun t => routeUp s t dest)
def stuckTo (s : State) (tile : Option Nat) (dest : Nat) : Bool := tile.any (fun t => wayStopped s t dest)
/-- A port is down while its tile is fenced, after a fault, and until its link has trained (R13, R330, R338). -/
def portDown (s : State) (n : Nat) : Bool :=
  let p := tabGet {} s.ports n
  !inService s (tileOfPort n) || p.fault || !p.trained

/-! ## Counters and host events -/

/-- A block's counter page counts while its tile is in service (R324). -/
def tileOfPage (page : Nat) : Nat :=
  if page < 320 then tileOfCluster page
  else if page < 480 then tileOfSlice (page - 320)
  else if page < 640 then page - 480
  else tileOfPort (page - 640)

/-- An event counter grows by `n`, modulo 2^64 (R323, R324). -/
def bump (s : State) (page idx n : Nat) : State :=
  if inService s (tileOfPage page) then
    let v := tabGet 0 s.counters (256 * page + idx) + BitVec.ofNat 64 n
    { s with counters := tabSet 0 s.counters (256 * page + idx) v }
  else s

/-- A driver-area word (R332). -/
def drv (s : State) (off : Nat) : Word := tabGet 0 s.driver off

/-- A driver-area word is set. -/
def setDrv (s : State) (off : Nat) (v : Word) : State := { s with driver := tabSet 0 s.driver off v }

/-- The host reaches the device's windows: its port's tile is in service (R13). -/
def hostReach (s : State) : Bool := inService s (tileOfPort 0)

/-- A host event goes to the ring: a record and MSI-X, which the host port's TX counts (R323), or OVF when the ring is full
(R333). RBASE, RSIZE, RHEAD, RTAIL, OVF
lie from 0x3000 on. -/
def recordEvent (s : State) (e : HostEvent) : State :=
  if (drv s 0x3010 - drv s 0x3018).toNat < (drv s 0x3008).toNat then
    bump { setDrv s 0x3010 (drv s 0x3010 + 1) with events := s.events ++ [e] } 640 0 (Config.eventFlits s.tick (drv s 0x3010).toNat)
  else setDrv s 0x3020 (drv s 0x3020 + 1)

/-- An event with its die's local cycle. -/
def eventOf (s : State) (type die : Nat) (arg0 arg1 : Word) : HostEvent :=
  ⟨type, die, arg0, arg1, BitVec.ofNat 64 (tabGet 0 s.cycles die)⟩

/-- Post a host event record; while the host port is fenced it is only counted (R13, R333). -/
def postRecord (s : State) (e : HostEvent) : State :=
  if hostReach s then recordEvent s e else { s with evLost := s.evLost + 1 }
/-- Post a host event of now. -/
def postEvent (s : State) (type die : Nat) (arg0 arg1 : Word) : State := postRecord s (eventOf s type die arg0 arg1)

/-! ## Memory -/

/-- What a byte of memory reads as while nothing has written it: zero in slice SRAM (R219), a free value in CXL memory
(log 2). -/
def memDefault (a : Nat) : Byte := if a < Config.sramEnd then 0 else Config.cxlByte a

/-- Addresses strictly rising above `lo`, no cell equal to the default of its address. -/
def memWfFrom : Nat → Memory → Bool
  | _, [] => true
  | lo, (a, b) :: r => decide (lo ≤ a) && decide (b ≠ memDefault a) && memWfFrom (a + 1) r

/-- The canonical form of a memory. -/
def Memory.wf (m : Memory) : Bool := memWfFrom 0 m

/-- A byte of memory. -/
def readByte (m : Memory) (a : Nat) : Byte := tabGet (memDefault a) m a

/-- A memory with one byte written. -/
def writeByte (m : Memory) (a : Nat) (b : Byte) : Memory := tabSet (memDefault a) m a b

/-- `n` bytes from `a` on. -/
def readBytes (m : Memory) (a : Nat) : Nat → List Byte
  | 0 => []
  | n + 1 => readByte m a :: readBytes m (a + 1) n

/-- A memory with bytes written from `a` on. -/
def writeBytes (m : Memory) (a : Nat) : List Byte → Memory
  | [] => m
  | b :: r => writeBytes (writeByte m a b) (a + 1) r

/-- The physical address lies in slice SRAM or in fitted CXL memory (R220). -/
def paExists (s : State) (a : Nat) : Bool :=
  decide (a < Config.sramEnd) || (decide (Config.cxlBase ≤ a) && decide (a < Config.cxlBase + s.cxlCap))

/-- The home slice of a physical address (R221, R222). -/
def homeOf (a : Nat) : Nat :=
  if a < Config.sramEnd then a / 256 % 160
  else
    let g := (a - Config.cxlBase) / 4096
    let p := g % 16
    40 * (p / 4) + 2 * (8 + p % 4) + g / 16 % 2

/-- The CXL port of a physical address, as a port interface number (R222). -/
def cxlPortOf (a : Nat) : Nat := 1 + (a - Config.cxlBase) / 4096 % 16

/-- The home can perform an access: its tile is in service and, for CXL memory, the port is up (R223). -/
def homeUp (s : State) (a : Nat) : Bool :=
  inService s (tileOfSlice (homeOf a)) && (decide (a < Config.sramEnd) || !portDown s (cxlPortOf a))

/-- An access that leaves a tile performs at the home of an address: the home can perform it, and there is a way (R223,
R312 step 3). The way of its response, which may lead through the other transit die (R7), is not asked: for an access that
performs and whose response alone finds no way the spec names no outcome for the requester, and here it completes as if the
answer had arrived (DESIGN CHOICE, log 111). -/
def reachesFrom (s : State) (tile a : Nat) : Bool := homeUp s a && routeUp s tile (tileOfSlice (homeOf a))

/-- An access of a cluster performs at the home of an address. -/
def reaches (s : State) (cl a : Nat) : Bool := reachesFrom s (tileOfCluster cl) a

/-- The 64-byte control block of a queue (R261, R262). -/
def controlBlock (q : Nat) : Nat := 64 * (Config.controlBase % (Config.sramEnd / 64 - 63)) + 64 * q

/-- A byte of the range lies in a poisoned granule (R225). -/
def poisoned (s : State) (a n : Nat) : Bool := s.poison.any (fun g => a / 32 ≤ g ∧ g * 32 < a + n)

/-- Granules that a write of `n` bytes at `a` covers whole lose their poison (R225). -/
def clearPoison (s : State) (a n : Nat) : State :=
  { s with poison := s.poison.filter (fun g => ¬ (a ≤ 32 * g ∧ 32 * g + 32 ≤ a + n)) }

/-- A write performs at its home. -/
def performWrite (s : State) (a : Nat) (l : List Byte) : State :=
  clearPoison { s with mem := writeBytes s.mem a l } a l.length

/-- Where an access that reaches a physical address performs: while a page's data stands at its new home and the move has not ended,
what reaches the old place is forwarded to the new one (R287). -/
def forwardedPa (s : State) (pa : Nat) : Nat :=
  match s.migration with
  | none => pa
  | some m => if m.moved ∧ m.old ≤ pa ∧ pa < m.old + m.size then m.new + (pa - m.old) else pa

/-- The old place of an address to which what reaches the old place of a page is forwarded (R287). -/
def forwardedFrom (s : State) (a : Nat) : Option Nat :=
  s.migration.bind (fun m => if m.moved ∧ m.new ≤ a ∧ a < m.new + m.size then some (m.old + (a - m.new)) else none)

/-- One request performed at the home slice of an address (R323, ACCESS); one to CXL memory goes out through its port (TX). -/
def countHere (s : State) (a : Nat) : State :=
  let s := bump s (320 + homeOf a) 0 1
  if a < Config.cxlBase then s else bump s (640 + cxlPortOf a) 0 (Config.cxlFlits s.tick a)

/-- The same for a request that may have been forwarded: one that performs at the new place of a moving page has been, and counts at
the old home (R287, R323 FWD; log 55). -/
def countAccess (s : State) (a : Nat) : State :=
  match forwardedFrom s a with
  | some old => bump (countHere s a) (320 + homeOf old) 6 1
  | none => countHere s a

/-- The same for a request to a physical address as it was given, where it performs after any forwarding. -/
def countPa (s : State) (a : Nat) : State := if forwardedPa s a = a then countHere s a else countAccess s (forwardedPa s a)

/-- The 256-byte granules of a physical range. -/
def granulesOf (a n : Nat) : List (Nat × Nat) :=
  (List.range (n / 256 + 2)).filterMap (fun i =>
    let lo := max a (256 * (a / 256 + i))
    let hi := min (a + n) (256 * (a / 256 + i + 1))
    if lo < hi then some (lo, hi - lo) else none)

/-- An access performs at the home of an address, and gets there from a tile if it comes from one (R223, R312). -/
def upFrom (s : State) (tile : Option Nat) (a : Nat) : Bool := homeUp s a && wayTo s tile (tileOfSlice (homeOf a))

/-- A router on the way of an access from a tile has stopped (R307). -/
def stuckFrom (s : State) (tile : Option Nat) (a : Nat) : Bool := stuckTo s tile (tileOfSlice (homeOf a))

/-- Bytes written at a physical address by the device itself or from a tile, granule by granule: one at a home that cannot perform it or
to which there is no way, or at an address that does not exist, is dropped (R220, R223, R312). -/
def physWrite (s : State) (tile : Option Nat) (a : Nat) (l : List Byte) : State :=
  (granulesOf a l.length).foldl (fun s g =>
    if paExists s g.1 && upFrom s tile g.1 then countAccess (performWrite s g.1 ((l.drop (g.1 - a)).take g.2)) g.1 else s) s

/-- The bytes that a scalar store has on their way to one address onward. -/
def reqBytes : ReqKind → Option (Nat × List Byte)
  | .store a l => some (a, l)
  | .writeBack _ _ | .planes _ _ _ _ | .merge _ _ _ | .atom _ _ _ _ => none

/-- A byte as a walk for an access of a thread sees it: what memory will hold once the thread's own stores still on their
way have performed, after which the walk is ordered (R286; log 8). -/
def ownByte (s : State) (owner : Nat) (a : Nat) : Byte :=
  s.inflight.foldl (fun b r =>
    if r.owner = owner then
      match reqBytes r.kind with
      | some (x, l) => if x ≤ a ∧ a < x + l.length then l.getD (a - x) b else b
      | none => b
    else b) (readByte s.mem a)

/-- `n` bytes as a walk for a thread sees them. -/
def ownBytes (s : State) (owner a : Nat) : Nat → List Byte
  | 0 => []
  | n + 1 => ownByte s owner a :: ownBytes s owner (a + 1) n

/-! ## Page tables -/

/-- The root table of a context; `none` when its entry is not VALID (R280). -/
def ctxRoot (s : State) (c : Nat) : Option Nat :=
  if fieldOf (drv s (0x10000 + 32 * c + 16)) 32 1 = 1 then some (drv s (0x10000 + 32 * c)).toNat else none
/-- The save pool of a context: base and number of areas (R280). -/
def ctxPool (s : State) (c : Nat) : Nat × Nat :=
  ((drv s (0x10000 + 32 * c + 8)).toNat, fieldOf (drv s (0x10000 + 32 * c + 16)) 0 32)
/-- The context of a launch queue (R280). -/
def ctxOfQueue (s : State) (q : Nat) : Nat := fieldOf (drv s (0x10800 + q / 8 * 8)) (8 * (q % 8)) 8 % 64

/-- Fields of a page-table entry (R282). -/
def pteAddr (e : Word) : Nat := fieldOf e 11 37 * 2048
def pteV (e : Word) : Bool := e.getLsbD 0
def pteRd (e : Word) : Bool := e.getLsbD 1
def pteW (e : Word) : Bool := e.getLsbD 2
def pteX (e : Word) : Bool := e.getLsbD 3
def pteLeaf (e : Word) : Bool := e.getLsbD 4
def pteTs (e : Word) : Bool := e.getLsbD 5
/-- The reserved bits are zero. -/
def pteRsv (e : Word) : Bool := fieldOf e 48 16 = 0 && fieldOf e 6 5 = 0

/-- A page of `n` bytes at `a` lies wholly in one region of R220. -/
def pageInRegion (s : State) (a n : Nat) : Bool :=
  decide (a + n ≤ Config.sramEnd) || (decide (Config.cxlBase ≤ a) && decide (a + n ≤ Config.cxlBase + s.cxlCap))

/-- A valid pointer whose table is aligned to `al` bytes (R282, which asks for zero reserved bits in leaves only). -/
def ptrOk (e : Word) (al : Nat) : Bool :=
  pteV e && !pteLeaf e && !pteRd e && !pteW e && !pteX e && !pteTs e && decide (pteAddr e % al = 0)

/-- A valid 16 MiB leaf (R282). -/
def bigOk (s : State) (e : Word) : Bool :=
  pteV e && pteLeaf e && !pteTs e && pteRsv e && (pteRd e || !pteW e) && decide (pteAddr e % 2 ^ 24 = 0) &&
  pageInRegion s (pteAddr e) (2 ^ 24)

/-- A valid 64 KiB leaf or thread-save leaf (R282): the row of a thread-save page names ADDR[47:16] alone, whatever the
bits below hold. -/
def smallOk (s : State) (e : Word) : Bool :=
  pteV e && pteLeaf e && pteRsv e && (pteRd e || !pteW e) &&
  (if pteTs e then decide (pteAddr e / 2 ^ 16 < 64) && !pteX e
   else decide (pteAddr e % 2 ^ 16 = 0) && pageInRegion s (pteAddr e) (2 ^ 16))

/-- A page-table word as a walk for `owner` reads it from a tile, forwarded where the table itself has been moved (R287); a home that
is fenced, poisoned or out of reach gives an invalid entry (R312, R313, log 8). -/
def pteRead (s : State) (tile : Option Nat) (owner a : Nat) : Word :=
  let a := forwardedPa s a
  if paExists s a && upFrom s tile a && !poisoned s a 8 then BitVec.ofNat 64 (natOfBytes (ownBytes s owner a 8)) else 0

/-- Address of the root-table entry of a page, and the tile of its home slice, whose walkers run the walk and make its further
reads (R283, R285). -/
def rootEntry (root va : Nat) : Nat := root + 8 * bitsOf va 36 16
def walkerTile (root va : Nat) : Option Nat := some (tileOfSlice (homeOf (rootEntry root va)))

/-- The leaf that a walk asked for by a tile, or by the device itself, finds for a virtual address (R283), and whether it maps
16 MiB. -/
def walkLeaf (s : State) (tile : Option Nat) (owner c va : Nat) : Option (Word × Bool) :=
  match ctxRoot s c with
  | none => none
  | some root =>
    if 2 ^ 52 ≤ va then none else
    let e2 := pteRead s tile owner (rootEntry root va)
    if !ptrOk e2 32768 then none else
    let e1 := pteRead s (walkerTile root va) owner (pteAddr e2 + 8 * bitsOf va 24 12)
    if bigOk s e1 then some (e1, true) else
    if !ptrOk e1 2048 then none else
    let e0 := pteRead s (walkerTile root va) owner (pteAddr e1 + 8 * bitsOf va 16 8)
    if smallOk s e0 then some (e0, false) else none

/-- The table words that a walk reads, in order, each with the tile it is read from. -/
def walkReads (s : State) (tile : Option Nat) (owner c va : Nat) : List (Option Nat × Nat) :=
  match ctxRoot s c with
  | none => []
  | some root =>
    let w := walkerTile root va
    let e2 := pteRead s tile owner (rootEntry root va)
    let a1 := pteAddr e2 + 8 * bitsOf va 24 12
    let e1 := pteRead s w owner a1
    (tile, rootEntry root va) ::
      (if !ptrOk e2 32768 then [] else (w, a1) :: (if ptrOk e1 2048 then [(w, pteAddr e1 + 8 * bitsOf va 16 8)] else []))

/-- A router on the way of a walk's reads has stopped (R307). -/
def walkStuck (s : State) (tile : Option Nat) (owner c va : Nat) : Bool :=
  (walkReads s tile owner c va).any (fun x => stuckFrom s x.1 (forwardedPa s x.2))

/-- LD. -/
def needLd : Need := { r := true, ts := true }
/-- ST. -/
def needSt : Need := { w := true, ts := true }
/-- Instruction fetch. -/
def needX : Need := { x := true }
/-- Residency fetch, VWTC, LINK and COLL sources, record reads. -/
def needR : Need := { r := true }
/-- Write-back, ACCW merge, landings. -/
def needW : Need := { w := true }
/-- VAMO, sync.acq, sync.rel, link.lacq, link.lrel. -/
def needRW : Need := { r := true, w := true }

/-- The leaf gives what the access needs (R284). -/
def leafAllows (e : Word) (n : Need) : Bool :=
  (!n.r || pteRd e) && (!n.w || pteW e) && (!n.x || pteX e) && (n.ts || !pteTs e)

/-- The physical address of a virtual address under a leaf (R283). -/
def leafPa (area : Nat) (e : Word) (big : Bool) (va : Nat) : Nat :=
  if big then pteAddr e + bitsOf va 0 24
  else if pteTs e then area + pteAddr e / 2 ^ 16 % 64 * 2 ^ 16 + bitsOf va 0 16
  else pteAddr e + bitsOf va 0 16

/-- The cached leaf of a page in a cluster (R285). -/
def tlbFind (l : List Tlb) (c va : Nat) : Option (Word × Bool) :=
  (l.find? (fun t => t.ctx = c ∧ (if t.big then t.va / 2 ^ 24 = va / 2 ^ 24 else t.va / 2 ^ 16 = va / 2 ^ 16))).map
    (fun t => (t.leaf, t.big))

/-- The cache with a leaf added at step n; at its capacity some entry of the page size goes (log 14). -/
def tlbAdd (n : Nat) (l : List Tlb) (c va : Nat) (e : Word) (big : Bool) : List Tlb :=
  let same := l.filter (fun t => t.big = big)
  let cap := if big then Config.tlbBig else Config.tlbSmall
  let l := if cap ≤ same.length then l.erase (same.getD (Config.tlbVictim n % same.length) ⟨c, va, big, e⟩) else l
  l ++ [⟨c, if big then va / 2 ^ 24 * 2 ^ 24 else va / 2 ^ 16 * 2 ^ 16, big, e⟩]

/-- A cluster's state. -/
def clusterOf (s : State) (cl : Nat) : Cluster := tabGet {} s.clusters cl
/-- A cluster's state is replaced. -/
def setCluster (s : State) (cl : Nat) (c : Cluster) : State := { s with clusters := tabSet {} s.clusters cl c }

/-- What a translation gives. -/
inductive Xlate where
  | ok (pa : Nat)
  | fail
  /-- the page is moving, and its walks wait (R287) -/
  | wait
deriving DecidableEq, Repr

/-- A router on the way of a cluster's access to the home of an address has stopped, that of its own tile or of the home
included (R307). -/
def cutOff (s : State) (cl a : Nat) : Bool := stuckFrom s (some (tileOfCluster cl)) a

/-- A page of the context that is being moved (R287). -/
def pageMoving (s : State) (c va : Nat) : Bool :=
  match s.migration with
  | none => false
  | some m =>
    decide (m.ctx = c) && (match walkLeaf s none 0 c m.va.toNat with
      | some (_, big) => if big then decide (va / 2 ^ 24 = m.va.toNat / 2 ^ 24) else decide (va / 2 ^ 16 = m.va.toNat / 2 ^ 16)
      | none => decide (va / 2 ^ 16 = m.va.toNat / 2 ^ 16))

/-! Walkers (R279, R285) -/

/-- Walks that a cluster has in progress at most, and walkers of a slice. -/
def walksPerCluster : Nat := 32
def walkersPerSlice : Nat := 8
/-- The slice whose walkers run the walk of a page: the home of the root-table entry it reads first; none without a table. -/
def walkSlice (s : State) (c va : Nat) : Option Nat := (ctxRoot s c).map (fun root => homeOf (rootEntry root va))
/-- A walk is in progress, and does not wait behind 32 others of its cluster. -/
def walkOpen (s : State) (w : Walk) : Bool := w ∈ (s.walks.filter (fun x => x.cl = w.cl)).take walksPerCluster
/-- The walks that the walkers of the slice of a walk run, or would run if there were enough of them, oldest first. -/
def walksAt (s : State) (sl : Option Nat) : List Walk :=
  s.walks.filter (fun x => walkOpen s x && decide (walkSlice s x.ctx (65536 * x.page) = sl))
/-- A walk has a walker. -/
def walkServed (s : State) (w : Walk) : Bool := w ∈ (walksAt s (walkSlice s w.ctx (65536 * w.page))).take walkersPerSlice
/-- The walk of a page of a context for a cluster has been started. -/
def walkStarted (s : State) (cl c va : Nat) : Bool := s.walks.any (fun w => w.cl = cl ∧ w.ctx = c ∧ w.page = va / 65536)
/-- A new walk finds a walker at once. -/
def walkerFree (s : State) (cl c va : Nat) : Bool :=
  decide ((s.walks.filter (fun x => x.cl = cl)).length < walksPerCluster) &&
  decide ((walksAt s (walkSlice s c va)).length < walkersPerSlice)
/-- A walk joins the others, once. -/
def startWalk (s : State) (cl c va : Nat) (n : Need) : State :=
  if walkStarted s cl c va then s else { s with walks := s.walks ++ [{ cl := cl, ctx := c, page := va / 65536, need := n }] }

/-- Slices that the table reads of a walk reach, counted (R323, ACCESS), and the walk at its walker (WALKS). -/
def countWalk (s : State) (tile : Option Nat) (owner c va : Nat) : State :=
  let reads := (walkReads s tile owner c va).filter (fun x => upFrom s x.1 (forwardedPa s x.2))
  let s := match reads with
    | (_, a) :: _ => bump s (320 + homeOf a) 5 1
    | [] => s
  reads.foldl (fun s x => countPa s x.2) s

/-- A miss of an access on a page. -/
def isMiss (owner id va : Nat) (m : Miss) : Bool := decide (m.owner = owner ∧ m.id = id ∧ m.page = va / 65536)

/-- The misses of a cluster are changed. -/
def modMisses (s : State) (cl : Nat) (f : List Miss → List Miss) : State :=
  if (clusterOf s cl).missed = [] then s else setCluster s cl { clusterOf s cl with missed := f (clusterOf s cl).missed }

/-- An access that misses is counted once, however often it is tried (R323, TC_MISS). -/
def countMiss (s : State) (cl owner id va : Nat) : State :=
  let c := clusterOf s cl
  if c.missed.any (isMiss owner id va) then s
  else bump (setCluster s cl { c with missed := c.missed ++ [{ owner := owner, id := id, page := va / 65536 }] }) cl 13 1

/-- What a walk has found for an access that missed, once it has ended. -/
def walkedLeaf (s : State) (cl owner id va : Nat) : Option (Option (Word × Bool)) :=
  ((clusterOf s cl).missed.find? (isMiss owner id va)).bind (fun m => m.leaf)

/-- A walk has found a leaf, or none, for an access. -/
def setWalked (s : State) (cl owner id va : Nat) (l : Option (Word × Bool)) : State :=
  modMisses s cl (fun ms => ms.map (fun m => if isMiss owner id va m then { m with leaf := some l } else m))

/-- An access of a thread has performed or has failed. -/
def endMiss (s : State) (cl owner id : Nat) : State := modMisses s cl (fun ms => ms.filter (fun m => ¬ (m.owner = owner ∧ m.id = id)))

/-- A thread's accesses that wait for a translation are given up. -/
def dropMisses (s : State) (cl owner : Nat) : State := modMisses s cl (fun ms => ms.filter (fun m => m.owner ≠ owner))

/-- What a leaf gives an access of a cluster. -/
def xlateLeaf (s : State) (cl area va : Nat) (n : Need) (e : Word) (big : Bool) : Xlate :=
  let pa := forwardedPa s (leafPa area e big va)
  if !leafAllows e n then .fail else if cutOff s cl pa then .wait else .ok pa

/-- What a walk's result gives an access of a cluster. -/
def xlateWalked (s : State) (cl area va : Nat) (n : Need) (l : Option (Word × Bool)) : Xlate :=
  match l with
  | none => .fail
  | some (e, big) => xlateLeaf s cl area va n e big

/-- The leaf that a walk has found enters the cache, where the access may use it (R285). -/
def cacheFound (s : State) (cl c va : Nat) (n : Need) (l : Option (Word × Bool)) : State :=
  match l with
  | none => s
  | some (e, big) =>
    if leafAllows e n then setCluster s cl { clusterOf s cl with tlb := tlbAdd s.tick (clusterOf s cl).tlb c va e big } else s

/-- Translate for access `id` of thread `owner` in context `c`, made by cluster `cl` (R283 to R287): from the cache, from the walk that
the access has waited for, else by a walk, which fills the cache when it succeeds. A miss waits for a walk of its page that has
been started; when it must start one itself and a walker is free, the walk is part of this step, else it waits among the cluster's
walks (R285; log 8). A walk's result stays with the access until the access ends, so that one miss never asks for two walks. -/
def xlate (s : State) (cl owner id c area va : Nat) (n : Need) : Xlate × State :=
  let tile := some (tileOfCluster cl)
  if 2 ^ 52 ≤ va then (.fail, s) else
  match tlbFind (clusterOf s cl).tlb c va with
  | some (e, big) => (xlateLeaf s cl area va n e big, s)
  | none =>
    match walkedLeaf s cl owner id va with
    | some l => (xlateWalked s cl area va n l, s)
    | none =>
      let s := countMiss s cl owner id va
      if walkStarted s cl c va then (.wait, s)
      else if pageMoving s c va || walkStuck s tile owner c va || !walkerFree s cl c va then (.wait, startWalk s cl c va n) else
      let l := walkLeaf s tile owner c va
      (xlateWalked s cl area va n l, cacheFound (setWalked (countWalk s tile owner c va) cl owner id va l) cl c va n l)

/-! ## Ranges of virtual memory -/

/-- The cluster in which a thread runs or retires; none for the device's own accesses. -/
def clusterOfOwner (s : State) (o : Nat) : Option Nat :=
  match s.threads.find? (fun e => e.2.uid = o) with
  | some e => some (e.1 / 4)
  | none => (s.clusters.find? (fun e => e.2.tracker.any (fun r => r.uid = o))).map (fun e => e.1)

/-- Its tile. -/
def tileOfOwner (s : State) (o : Nat) : Option Nat := (clusterOfOwner s o).map tileOfCluster

/-- Where an access of an engine comes from: the thread whose strong stores its walks see (R286), 0 for the device's own and a
peer's, and the tile it leaves: that of the thread's cluster, or of a port. -/
structure Origin where
  owner : Nat
  tile : Option Nat

/-- An access for a thread of this device, or for the device itself. -/
def localOrigin (s : State) (owner : Nat) : Origin := ⟨owner, tileOfOwner s owner⟩
/-- An access that arrives through a port. -/
def portOrigin (port : Nat) : Origin := ⟨0, some (tileOfPort port)⟩

/-- The leaf that a page has for an access: the one its cluster holds in its cache (R279), else what a walk finds. -/
def leafFor (s : State) (o : Origin) (c va : Nat) : Option (Word × Bool) :=
  match (clusterOfOwner s o.owner).bind (fun cl => tlbFind (clusterOf s cl).tlb c va) with
  | some x => some x
  | none => walkLeaf s o.tile o.owner c va

/-- Where an access finds a virtual address. The operations of a cluster ask first for the pages they touch (`touchRanges`),
which takes their walks through the cache and the walkers; what is no cluster's (commits, placement, status blocks, commands
from a peer) walks by itself, with no cache (DESIGN CHOICE, log 8). -/
def xlateVia (s : State) (o : Origin) (c va : Nat) (n : Need) : Option Nat :=
  if 2 ^ 52 ≤ va then none else
  match leafFor s o c va with
  | some (e, big) => if leafAllows e n && !pteTs e then some (forwardedPa s (leafPa 0 e big va)) else none
  | none => none

/-- A walk that what is no cluster's makes by itself, counted (R323). -/
def countOwnWalk (s : State) (o : Origin) (c va : Nat) : State :=
  if (clusterOfOwner s o.owner).isSome ∨ 2 ^ 52 ≤ va then s else countWalk s o.tile o.owner c va

/-- Where an access for thread `o`, or for the device itself (0), finds a virtual address. -/
def xlateDirect (s : State) (o c va : Nat) (n : Need) : Option Nat := xlateVia s (localOrigin s o) c va n

/-- A virtual range cut at 64 KiB boundaries, with fuel for the number of cuts. -/
def cutPages : Nat → Nat → Nat → List (Nat × Nat)
  | 0, _, _ => []
  | f + 1, va, n =>
    let m := min n (65536 - va % 65536)
    if n = 0 then [] else (va, m) :: cutPages f (va + m) (n - m)

/-- The 64 KiB pieces of a virtual range. -/
def pagesOf (va n : Nat) : List (Nat × Nat) := cutPages (n / 65536 + 2) va n

/-- A page that a virtual range touches is being moved: an operation that translates by a walk of its own waits (R287). -/
def rangeMoving (s : State) (c va n : Nat) : Bool := s.migration.isSome && (pagesOf va n).any (fun p => pageMoving s c p.1)

/-- A router on the way to a home of a physical range has stopped (R307). -/
def rangeStuck (s : State) (tile : Option Nat) (a n : Nat) : Bool :=
  (List.range (n / 256 + 2)).any (fun i => decide (256 * i < n) && stuckFrom s tile (a + 256 * i)) ||
  (decide (n ≠ 0) && stuckFrom s tile (a + n - 1))

/-- Pieces of a range that operation `id` of a thread touches are translated through its cluster's cache: false while one of them
waits, for its walk or at a stopped router (R279, R285, R307). -/
def touchPages (s : State) (cl o id c : Nat) (n : Need) : List (Nat × Nat) → Bool × State
  | [] => (true, s)
  | (va, m) :: r =>
    match xlate s cl o id c 0 va n with
    | (.wait, s) => (false, s)
    | (.ok pa, s) => if rangeStuck s (some (tileOfCluster cl)) pa m then (false, s) else touchPages s cl o id c n r
    | (.fail, s) => touchPages s cl o id c n r

/-- A range of virtual memory that an operation touches: context, address, length and need. -/
structure Touch where
  ctx : Nat
  va : Nat
  len : Nat
  need : Need

/-- The ranges that an operation for a thread touches, likewise. -/
def touchRanges (s : State) (cl o id : Nat) : List Touch → Bool × State
  | [] => (true, s)
  | x :: r =>
    match touchPages s cl o id x.ctx x.need (pagesOf x.va x.len) with
    | (false, s) => (false, s)
    | (true, s) => touchRanges s cl o id r

/-- Every home of a physical range is up (R223). -/
def homesUp (s : State) (a n : Nat) : Bool := (List.range (n / 256 + 2)).all (fun i => n ≤ 256 * i || homeUp s (a + 256 * i)) &&
  (n = 0 || homeUp s (a + n - 1))

/-- Every home of a physical range answers an access from a tile. -/
def homesFrom (s : State) (tile : Option Nat) (a n : Nat) : Bool :=
  (List.range (n / 256 + 2)).all (fun i => n ≤ 256 * i || upFrom s tile (a + 256 * i)) && (n = 0 || upFrom s tile (a + n - 1))

/-- How a range of virtual memory answers a read that is no scalar access. -/
inductive RangeRead where
  | bytes (l : List Byte)
  /-- the first address that does not translate to a readable page -/
  | noPage (va : Nat)
  | fenced (va : Nat)
  | poison (va : Nat)
deriving DecidableEq, Repr

/-- Bytes of the pieces of a virtual range. -/
def readPieces (s : State) (o c : Nat) (n : Need) : List (Nat × Nat) → RangeRead
  | [] => .bytes []
  | (va, m) :: r =>
    match xlateDirect s o c va n with
    | none => .noPage va
    | some a =>
      if !homesFrom s (tileOfOwner s o) a m then .fenced va
      else if poisoned s a m then .poison va
      else match readPieces s o c n r with
        | .bytes l => .bytes (readBytes s.mem a m ++ l)
        | x => x

/-- Read `n` bytes at a virtual address in a context, page by page. -/
def readVirt (s : State) (o c va n : Nat) : RangeRead := readPieces s o c needR (pagesOf va n)

/-- Requests that a physical range makes at its homes: one for each 256-byte granule it touches (R323). -/
def countRange (s : State) (a n : Nat) : State :=
  if n = 0 then s else
  (List.range ((a + n - 1) / 256 - a / 256 + 1)).foldl (fun s i => countAccess s ((a / 256 + i) * 256)) s

/-- The walks that what is no cluster's makes for a virtual range, counted (R323). -/
def countOwnWalks (s : State) (o : Origin) (c va n : Nat) : State := (pagesOf va n).foldl (fun s p => countOwnWalk s o c p.1) s

/-- The requests of a read of a virtual range, counted (R323). -/
def countVirt (s : State) (o c va n : Nat) : State :=
  (pagesOf va n).foldl (fun s p => match xlateDirect s o c p.1 needR with
    | some a => countRange s a p.2
    | none => s) s

/-- Write bytes at the pieces of a virtual range that translate writable and whose homes answer; answer how many landed. -/
def writePieces (s : State) (o : Origin) (c : Nat) : List (Nat × Nat) → List Byte → State × Nat
  | [], _ => (s, 0)
  | (va, m) :: r, l =>
    match xlateVia s o c va needW with
    | some a =>
      if homesFrom s o.tile a m then
        let (s', k) := writePieces (countRange (performWrite s a (l.take m)) a m) o c r (l.drop m)
        (s', k + m)
      else writePieces s o c r (l.drop m)
    | none => writePieces s o c r (l.drop m)

/-- Write bytes at a virtual address in a context for an access, and how many landed. -/
def writeVia (s : State) (o : Origin) (c va : Nat) (l : List Byte) : State × Nat := writePieces s o c (pagesOf va l.length) l

/-- The same for a thread of this device, or for the device itself (0). -/
def writeVirt (s : State) (o c va : Nat) (l : List Byte) : State × Nat := writeVia s (localOrigin s o) c va l

/-- A virtual range translates writable in every page. -/
def writableVirt (s : State) (o c va n : Nat) : Bool :=
  (pagesOf va n).all (fun p => (xlateDirect s o c p.1 needW).isSome)

end Sys2Proof.Machine
end

