-- ==== Sys2Proof/Machine/Operands.lean ====
section
/-! DEFINITION. Operands: thread, vector and mask registers, the captured format and lengths (R130 to R134), what each
vector-side instruction names (R56, R57), and the checks at push that need the captured vfmt (R57, R58, R64). -/

namespace Sys2Proof.Machine

/-! ## Threads and x registers -/

/-- The thread in a slot: number 4 × cluster + slot. -/
def threadAt (s : State) (tid : Nat) : Option Thread := tabFind s.threads tid
/-- A thread's state is replaced. -/
def setThread (s : State) (tid : Nat) (t : Thread) : State := { s with threads := tabPut s.threads tid t }
/-- A slot is freed. -/
def dropThread (s : State) (tid : Nat) : State := { s with threads := tabErase s.threads tid }
/-- The thread of an operation, by its unique number. -/
def threadOfUid (s : State) (uid : Nat) : Option (Nat × Thread) := s.threads.find? (fun e => e.2.uid = uid)
/-- Threads of a cluster, with their numbers, by slot. -/
def threadsOf (s : State) (cl : Nat) : List (Nat × Thread) :=
  [0, 1, 2, 3].filterMap (fun k => (threadAt s (4 * cl + k)).map (fun t => (4 * cl + k, t)))

/-- x[r]; x0 reads zero (R56, R109). -/
def rx (t : Thread) (r : Reg) : Word := if r = 0 then 0 else tabGet 0 t.x r.toNat
/-- x[r] := v; a write to x0 has no effect (R56). -/
def wx (t : Thread) (r : Reg) (v : Word) : Thread :=
  if r = 0 then t else { t with x := tabSet 0 t.x r.toNat v }

/-! ## Vector and mask registers -/

/-- w bits of a register from bit `lo` on. -/
def bitsAt (v : VReg) (lo w : Nat) : Nat := (v.extractLsb' lo w).toNat
/-- A register with w bits replaced from bit `lo` on. -/
def withBits (v : VReg) (lo w val : Nat) : VReg :=
  (v &&& ~~~(BitVec.ofNat 16384 (2 ^ w - 1) <<< lo)) ||| (BitVec.ofNat 16384 (val % 2 ^ w) <<< lo)

/-- vN, numbered modulo 32; a register never written reads as zero (R135). -/
def rv (t : Thread) (n : Nat) : VReg := tabGet 0 t.v (n % 32)
/-- vN := v, of which the element groups up to `top` have now been changed (R292, VEXT). -/
def wv (t : Thread) (n : Nat) (v : VReg) (top : Nat) : Thread :=
  { t with v := tabSet 0 t.v (n % 32) v,
           vext := tabSet 0 t.vext (n % 32) (max (tabGet 0 t.vext (n % 32)) top) }
/-- Element i, w bits wide, of the group that starts at vN (R132). -/
def elem (t : Thread) (n w i : Nat) : Nat := bitsAt (rv t (n + i * w / Config.vlen)) (i * w % Config.vlen) w
/-- Element i of the group that starts at vN is written (R132). -/
def setElem (t : Thread) (n w i val : Nat) : Thread :=
  let r := n + i * w / Config.vlen
  let lo := i * w % Config.vlen
  wv t r (withBits (rv t r) lo w val) (lo / 512 + 1)
/-- Bit i of a mask register; p0 reads all ones (R138). -/
def maskBit (t : Thread) (p i : Nat) : Bool := if p = 0 then true else (tabGet 0 t.p p).getLsbD i
/-- pN; p0 reads all ones. -/
def rp (t : Thread) (p : Nat) : VReg := if p = 0 then BitVec.allOnes 16384 else tabGet 0 t.p p

/-! ## The captured format and lengths -/

/-- The element type of a vfmt value (R130). -/
def vfmtTy (f : Word) : ElemTy := (ElemTy.ofCode (f.extractLsb' 0 4)).getD .s8
/-- The element width of a vfmt value. -/
def vfmtW (f : Word) : Nat := (vfmtTy f).bits
/-- The group multiplier of a vfmt value (R130). -/
def vfmtGm (f : Word) : Nat := 2 ^ fieldOf f 4 2
/-- VLMAX (R131). -/
def vlmax (f : Word) : Nat := Config.vlen * vfmtGm f / vfmtW f
/-- Columns in play (R131). -/
def ncols (c : Cap) : Nat := min c.vcols.toNat (vlmax c.vfmt)
/-- Rows in play (R131). -/
def nrows (c : Cap) : Nat := if ncols c = 0 then 0 else min c.vrows.toNat (vlmax c.vfmt / ncols c)
/-- Elements in play (R131). -/
def nElems (c : Cap) : Nat := nrows c * ncols c

/-! ## What a vector-side instruction names -/

/-- The v and e operands of an instruction by field, its TYPE where R58 checks it, and whether D is a v destination. -/
structure Shape where
  dv : Option Reg := none
  av : Option Reg := none
  bv : Option Reg := none
  de : Option Reg := none
  ae : Option Reg := none
  be : Option Reg := none
  dest : Bool := false
  ty : Option ElemTy := none
deriving DecidableEq, Repr

/-- D, A and B of a V-format arithmetic instruction whose B is v or, with S, e. -/
def shapeVs (d a b : Reg) (s : Bool) (t : ElemTy) : Shape :=
  { dv := some d, av := some a, bv := if s then none else some b, be := if s then some b else none, dest := true, ty := some t }
/-- D and A v, D written. -/
def shapeDa (d a : Reg) (t : Option ElemTy) : Shape := { dv := some d, av := some a, dest := true, ty := t }
/-- D, A and B v, D written. -/
def shapeDab (d a b : Reg) (t : Option ElemTy) : Shape := { dv := some d, av := some a, bv := some b, dest := true, ty := t }

/-- What an instruction names (R62 to R66). -/
def shapeOf : Instr → Shape
  | .valuAdd d a b _ s t | .valuSub d a b _ s t | .valuMul d a b _ s t | .valuMin d a b _ s t | .valuMax d a b _ s t
  | .valuSadd d a b _ s t | .valuSsub d a b _ s t | .valuAbsd d a b _ s t
  | .vfmaFma d a b _ s t | .vfmaFms d a b _ s t | .vfmaFnma d a b _ s t | .vfmaFnms d a b _ s t | .vfmaDot2 d a b _ s t
  | .vscaMul d a b _ s t | .vscaMacc d a b _ s t | .vscaRmul d a b _ s t | .vscaCmul d a b _ s t | .vscaRmac d a b _ s t
  | .vscaCmac d a b _ s t => shapeVs d a b s t
  | .valuiAdd d a _ _ t | .valuiRsub d a _ _ t | .valuiMin d a _ _ t | .valuiMax d a _ _ t | .valuiSadd d a _ _ t
  | .valuiSll d a _ _ t | .valuiSrl d a _ _ t | .valuiSra d a _ _ t | .valuiAnd d a _ _ t | .valuiOr d a _ _ t
  | .valuiXor d a _ _ t => shapeDa d a (some t)
  | .valuiMov d _ _ t => { dv := some d, dest := true, ty := some t }
  | .vcmp _ a b _ s _ t => { av := some a, bv := if s then none else some b, be := if s then some b else none, ty := some t }
  | .vmskFrst d _ _ | .vmskPopc d _ _ => { de := some d }
  | .vprmSlup d a b _ _ _ | .vprmSldn d a b _ _ _ => { dv := some d, av := some a, be := some b, dest := true }
  | .vprmGath d a b _ _ _ => shapeDab d a b none
  | .vprmCmpr d a _ _ _ | .vprmExpd d a _ _ _ | .vprmTran d a _ _ | .vprmMov d a _ _ _ => shapeDa d a none
  | .vprmBcst d a _ _ _ _ => { dv := some d, ae := some a, dest := true }
  | .vredSum d a _ _ t | .vredMax d a _ _ t | .vredMin d a _ _ t | .vredAmax d a _ _ t => shapeDa d a (some t)
  | .vcvt d a _ _ _ => shapeDa d a none
  | .vbplAnd d a b _ t | .vbplOr d a b _ t | .vbplXor d a b _ t | .vbplAndn d a b _ t | .vbplSll d a b _ t
  | .vbplSrl d a b _ t | .vbplSra d a b _ t => shapeDab d a b (some t)
  | .vbplNot d a _ t | .vbplPopc d a _ t => shapeDa d a (some t)
  | .vbplPext d a b _ | .vbplPins d a b _ | .vbplPmac d a b _ =>
      { dv := some d, av := some a, be := some b, dest := true, ty := some .bpi }
  | .vwld d _ _ _ _ _ _ _ => { dv := some d, dest := true }
  | .vwst d _ _ _ _ _ _ => { dv := some d }
  | .vidxLd d _ b _ _ _ => { dv := some d, bv := some b, dest := true }
  | .vidxSt d _ b _ _ => { dv := some d, bv := some b }
  | .vsxIsec d a b _ t | .vsxUnio d a b _ t | .vsxDiff d a b _ t | .vsxMrge d a b _ t => shapeDab d a b (some t)
  | .vsxIcnt d a b _ t => { de := some d, av := some a, bv := some b, ty := some t }
  | .tileScal _ a _ => { ae := some a }
  | .cdyMeta d _ => { de := some d }
  | .vamoAdd d _ b _ r _ _ _ | .vamoMin d _ b _ r _ _ _ | .vamoMax d _ b _ r _ _ _ | .vamoAnd d _ b _ r _ _ _
  | .vamoOr d _ b _ r _ _ _ | .vamoXor d _ b _ r _ _ _ | .vamoSwap d _ b _ r _ _ _ | .vamoFadd d _ b _ r _ _ =>
      { dv := if r then some d else none, bv := some b, dest := r }
  | .vamoCas d _ b _ _ _ _ => { dv := some d, bv := some b, dest := true }
  | .vwtc d _ b _ _ _ => { de := none, bv := some b, be := some d }
  | .accwUpd _ a b _ t => { av := some a, bv := some b, ty := some t }
  | .accwMrge _ t | .accwClr _ t => { ty := some t }
  | _ => {}

/-- The x registers an instruction names by field (R23). -/
def xFields : Instr → Option Reg × Option Reg × Option Reg
  | .vsetLen a b | .vsetLenf a b _ _ => (none, some a, some b)
  | .vwld _ _ b _ _ _ _ _ | .vwst _ _ b _ _ _ _ => (none, none, some b)
  | .hresSet _ a | .hresAnch _ a _ | .hresLim _ a _ | .hresBind _ a | .hresWmk _ a => (none, some a, none)
  | .kcntExt _ a | .kcntSet _ a => (none, some a, none)
  | .cdyLoad _ _ b | .cdyLstr _ _ b => (none, none, some b)
  | .tmovRtov _ _ b _ | .tmovCtov _ _ b _ | .tmovVtor _ _ b _ | .tmovVtoc _ _ b _ => (none, none, some b)
  | .syncAcq a _ | .syncRel a _ | .syncExpt a _ _ => (none, some a, none)
  | .syncBind d a b _ => (some d, some a, some b)
  | .syncUbnd d a _ => (some d, some a, none)
  | .vamoAdd _ a _ _ _ _ _ _ | .vamoMin _ a _ _ _ _ _ _ | .vamoMax _ a _ _ _ _ _ _ | .vamoAnd _ a _ _ _ _ _ _
  | .vamoOr _ a _ _ _ _ _ _ | .vamoXor _ a _ _ _ _ _ _ | .vamoSwap _ a _ _ _ _ _ _ | .vamoCas _ a _ _ _ _ _
  | .vamoFadd _ a _ _ _ _ _ | .vwtc _ a _ _ _ _ => (none, some a, none)
  | .linkXfer d a b _ _ => (some d, some a, some b)
  | .linkLacq b | .linkLrel b | .linkLsig b => (none, none, some b)
  | .collAred a _ | .collRsct a _ | .collAgat a _ => (none, some a, none)
  | .lnch a b => (none, some a, some b)
  | _ => (none, none, none)

/-- What a push captures (R23). -/
def captureOf (t : Thread) (i : Instr) : Cap :=
  let (d, a, b) := xFields i
  let get (r : Option Reg) : Word := match r with | some r => rx t r | none => 0
  { vfmt := t.csr.vfmt, vrows := t.csr.vrows, vcols := t.csr.vcols, vmode := t.csr.vmode, vesr := t.csr.vesr,
    srseed := t.csr.srseed, srbase := t.csr.srbase, stctl := t.csr.stctl, stloss := t.csr.stloss, rsctl := t.csr.rsctl,
    pc := t.pc, xd := get d, xa := get a, xb := get b }

/-- The wider and narrower widths of a conversion against GM: groups of each field; `none` when one exceeds 8 (R57). -/
def cvtGroups (gm : Nat) (tt ft : ElemTy) : Option (Nat × Nat) :=
  let gd := if ft.bits < tt.bits then gm * (tt.bits / ft.bits) else gm
  let ga := if tt.bits < ft.bits then gm * (ft.bits / tt.bits) else gm
  if 8 < gd ∨ 8 < ga then none else some (gd, ga)

/-- Registers in the D group of a v destination. -/
def destGroup (f : Word) : Instr → Nat
  | .vcvt _ _ _ tt ft => ((cvtGroups (vfmtGm f) tt ft).getD (vfmtGm f, 0)).1
  | _ => vfmtGm f

/-- A v field is aligned for a group of n registers (R57). -/
def aligned (r : Option Reg) (n : Nat) : Bool := match r with | some r => r.toNat % n = 0 | none => true

/-- The width that WD of a VPRM names (R64). -/
def pwBits : PWidth → Nat
  | .w8 => 8 | .w16 => 16 | .w32 => 32 | .w64 => 64

/-- The WD of a VPRM. -/
def vprmWidth : Instr → Option PWidth
  | .vprmSlup _ _ _ _ _ w | .vprmSldn _ _ _ _ _ w | .vprmGath _ _ _ _ _ w | .vprmCmpr _ _ _ _ w | .vprmExpd _ _ _ _ w
  | .vprmBcst _ _ _ _ _ w | .vprmTran _ _ _ w | .vprmMov _ _ _ _ w => some w
  | _ => none

/-- The checks of R57, R58 and WD against the captured vfmt. -/
def fitsVfmt (f : Word) (i : Instr) : Bool :=
  let sh := shapeOf i
  let gm := vfmtGm f
  (match i with
   | .vcvt d a _ tt ft =>
     ft.bits = vfmtW f && (match cvtGroups gm tt ft with
       | some (gd, ga) => aligned (some d) gd && aligned (some a) ga
       | none => false)
   | _ => aligned sh.dv gm && aligned sh.av gm && aligned sh.bv gm) &&
  (match sh.ty with | some t => t.bits = vfmtW f | none => true) &&
  (match vprmWidth i with | some w => pwBits w = vfmtW f | none => true)

/-- The v registers an instruction writes, as numbers: its D group, or the one register of an e or TMOV destination
(R115, R140, R217). -/
def destRegs (f : Word) (i : Instr) : List Nat :=
  let sh := shapeOf i
  match i with
  | .tmovRtov _ a _ _ | .tmovCtov _ a _ _ => [a.toNat]
  | _ =>
    match sh.de, sh.dv with
    | some e, _ => [e.toNat]
    | none, some d => if sh.dest then (List.range (destGroup f i)).map (fun k => (d.toNat + k) % 32) else []
    | none, none => []

/-- The governing mask number of an instruction with a P field. -/
def maskOf : Instr → Nat
  | .valuAdd _ _ _ p _ _ | .valuSub _ _ _ p _ _ | .valuMul _ _ _ p _ _ | .valuMin _ _ _ p _ _ | .valuMax _ _ _ p _ _
  | .valuSadd _ _ _ p _ _ | .valuSsub _ _ _ p _ _ | .valuAbsd _ _ _ p _ _
  | .vfmaFma _ _ _ p _ _ | .vfmaFms _ _ _ p _ _ | .vfmaFnma _ _ _ p _ _ | .vfmaFnms _ _ _ p _ _ | .vfmaDot2 _ _ _ p _ _
  | .vscaMul _ _ _ p _ _ | .vscaMacc _ _ _ p _ _ | .vscaRmul _ _ _ p _ _ | .vscaCmul _ _ _ p _ _ | .vscaRmac _ _ _ p _ _
  | .vscaCmac _ _ _ p _ _ => p.toNat
  | .valuiAdd _ _ _ p _ | .valuiRsub _ _ _ p _ | .valuiMin _ _ _ p _ | .valuiMax _ _ _ p _ | .valuiSadd _ _ _ p _
  | .valuiSll _ _ _ p _ | .valuiSrl _ _ _ p _ | .valuiSra _ _ _ p _ | .valuiAnd _ _ _ p _ | .valuiOr _ _ _ p _
  | .valuiXor _ _ _ p _ => p.toNat
  | .valuiMov _ _ p _ => p.toNat
  | .vcmp _ _ _ p _ _ _ => p.toNat
  | .vmskAnd _ _ _ p | .vmskOr _ _ _ p | .vmskXor _ _ _ p | .vmskAndn _ _ _ p | .vmskOrn _ _ _ p => p.toNat
  | .vmskNot _ _ p | .vmskMov _ _ p | .vmskFrst _ _ p | .vmskPopc _ _ p => p.toNat
  | .vprmSlup _ _ _ p _ _ | .vprmSldn _ _ _ p _ _ | .vprmGath _ _ _ p _ _ | .vprmBcst _ _ _ p _ _ => p.toNat
  | .vprmCmpr _ _ p _ _ | .vprmExpd _ _ p _ _ | .vprmMov _ _ p _ _ => p.toNat
  | .vprmTran _ _ p _ => p.toNat
  | .vredSum _ _ p _ _ | .vredMax _ _ p _ _ | .vredMin _ _ p _ _ | .vredAmax _ _ p _ _ => p.toNat
  | .vcvt _ _ p _ _ => p.toNat
  | .vbplAnd _ _ _ p _ | .vbplOr _ _ _ p _ | .vbplXor _ _ _ p _ | .vbplAndn _ _ _ p _ | .vbplSll _ _ _ p _
  | .vbplSrl _ _ _ p _ | .vbplSra _ _ _ p _ => p.toNat
  | .vbplNot _ _ p _ | .vbplPopc _ _ p _ => p.toNat
  | .vbplPext _ _ _ p | .vbplPins _ _ _ p | .vbplPmac _ _ _ p => p.toNat
  | .vwld _ _ _ p _ _ _ _ => p.toNat
  | .vwst _ _ _ p _ _ _ => p.toNat
  | .vidxLd _ _ _ p _ _ => p.toNat
  | .vidxSt _ _ _ p _ => p.toNat
  | .vsxIsec _ _ _ p _ | .vsxIcnt _ _ _ p _ | .vsxUnio _ _ _ p _ | .vsxDiff _ _ _ p _ | .vsxMrge _ _ _ p _ => p.toNat
  | .tileMma _ _ _ p _ => p.toNat
  | .tileZero _ p | .tileScal _ _ p => p.toNat
  | .tmovRtov _ _ _ p | .tmovCtov _ _ _ p | .tmovVtor _ _ _ p | .tmovVtoc _ _ _ p => p.toNat
  | .vamoAdd _ _ _ p _ _ _ _ | .vamoMin _ _ _ p _ _ _ _ | .vamoMax _ _ _ p _ _ _ _ | .vamoAnd _ _ _ p _ _ _ _
  | .vamoOr _ _ _ p _ _ _ _ | .vamoXor _ _ _ p _ _ _ _ | .vamoSwap _ _ _ p _ _ _ _ => p.toNat
  | .vamoCas _ _ _ p _ _ _ => p.toNat
  | .vamoFadd _ _ _ p _ _ _ => p.toNat
  | .vwtc _ _ _ p _ _ => p.toNat
  | .accwUpd _ _ _ p _ => p.toNat
  | _ => 0

/-- The mask register an instruction of VCMP or VMSK writes (R138). -/
def maskDest : Instr → Option Nat
  | .vcmp d _ _ _ _ _ _ | .vmskAnd d _ _ _ | .vmskOr d _ _ _ | .vmskXor d _ _ _ | .vmskAndn d _ _ _ | .vmskOrn d _ _ _
  | .vmskNot d _ _ | .vmskMov d _ _ => some d.toNat
  | _ => none

/-! ## Launch records (R33, R264) -/

/-- Level descriptor n of a record. -/
def recLevel (raw : List Byte) (n : Nat) : Word := BitVec.ofNat 64 (fieldAt raw (96 + 8 * n) 8)
/-- LEVELS. -/
def recLevels (raw : List Byte) : Nat := fieldAt raw 24 1
/-- COUNT + 1 of a level. -/
def lvlMembers (w : Word) : Nat := fieldOf w 0 16 + 1
def lvlDomain (w : Word) : Nat := fieldOf w 16 3
def lvlScope (w : Word) : Nat := fieldOf w 19 3
def lvlPlace (w : Word) : Nat := fieldOf w 22 2
def lvlGang (w : Word) : Bool := fieldOf w 24 1 = 1
def lvlPinbase (w : Word) : Nat := fieldOf w 32 16
def lvlWeight (w : Word) : Nat := fieldOf w 48 4

/-- The launch of a thread. -/
def launchOf (s : State) (id : Nat) : Option Launch := s.launches.find? (fun l => l.id = id)
/-- A launch's state is changed. -/
def modLaunch (s : State) (id : Nat) (f : Launch → Launch) : State :=
  { s with launches := s.launches.map (fun l => if l.id = id then f l else l) }

/-- The level of a barrier instruction exists in the launch and its SCOPE equals SC (R40, R242). -/
def barrierWordOk (s : State) (t : Thread) (sc : Scope) (lvl : BitVec 4) : Bool :=
  match launchOf s t.launch with
  | none => false
  | some l => decide (lvl.toNat < recLevels l.raw) && decide (lvlScope (recLevel l.raw lvl.toNat) = sc.code.toNat)

/-- Every check made at push that decoding alone cannot make (R67, R69). -/
def pushLegal (s : State) (t : Thread) (i : Instr) : Bool :=
  fitsVfmt t.csr.vfmt i &&
  (match i with
   | .syncBarr sc l | .syncArrv sc l | .syncExpt _ sc l => barrierWordOk s t sc l
   | _ => true)

/-- The word of an instruction as a trap's tval (R68). -/
def wordVal (i : Instr) : Word := ((encode i).getD 0).zeroExtend 64

end Sys2Proof.Machine
end

