-- ==== Sys2Proof/Machine/Group.lean ====
section
/-! DEFINITION. Fields of group tables and collective descriptors (R343, R344), and the collectives of a launch. -/

namespace Sys2Proof.Machine

/-! ## Group tables (R344) -/

/-- NLEV, E, CBGEN, CBADDR and GID of a group table, and KIND and NMEM of its levels. -/
def gtNlev (g : List Byte) : Nat := fieldAt g 0 1
def gtExp (g : List Byte) : Int := sfieldAt g 2 2
def gtGen (g : List Byte) : IWord := BitVec.ofNat 32 (fieldAt g 4 4)
def gtCb (g : List Byte) : Nat := fieldAt g 8 8
def gtGid (g : List Byte) : Word := BitVec.ofNat 64 (fieldAt g 64 8)
def gtKind (g : List Byte) (l : Nat) : Nat := fieldAt g (16 + 16 * l) 1
def gtNmem (g : List Byte) (l : Nat) : Nat := fieldAt g (18 + 16 * l) 2
def gtMembers (g : List Byte) (l : Nat) : Nat := fieldAt g (24 + 16 * l) 8

/-- The list of members of a level, after the 72 bytes of the table and the lists before it. -/
def gtList (g : List Byte) (l : Nat) : List Nat :=
  let off := 72 + 4 * ((List.range l).map (gtNmem g)).sum
  (List.range (gtNmem g l)).map (fun i => fieldAt g (off + 4 * i) 4)

/-! ## Descriptors (R343) -/
def cdSrc (d : List Byte) : Nat := fieldAt d 0 8
def cdDst (d : List Byte) : Nat := fieldAt d 8 8
def cdCount (d : List Byte) : Nat := fieldAt d 16 8
def cdGroup (d : List Byte) : Nat := fieldAt d 24 8
def cdEfb (d : List Byte) : Nat := fieldAt d 32 8
def cdStatus (d : List Byte) : Nat := fieldAt d 40 8
def cdSeq (d : List Byte) : IWord := BitVec.ofNat 32 (fieldAt d 48 4)

/-- A command is a COLL. -/
def isColl (i : Instr) : Bool :=
  match i with
  | .collAred _ _ | .collRsct _ _ | .collAgat _ _ => true
  | _ => false

/-- The table that a launch keeps for a command. -/
def cmdGroup (s : State) (launch : Nat) (c : LCmd) : Option (List Byte) :=
  (launchOf s launch).bind (fun l => (l.groups.find? (fun x => x.1.toNat = cdGroup c.desc)).map (fun x => x.2))

/-- The collective of a table and a sequence number, with nothing of it received. -/
def collOfTable (g : List Byte) (seq : IWord) : Coll :=
  { gid := gtGid g, seq := seq, launch := 0, ctx := 0, op := 0, ty := .f32, count := 0, table := g,
    levels := (List.range (gtNlev g)).map (fun l => (gtKind g l, gtList g l)) }

/-- GID and SEQ that a message names. -/
def msgKey : CollMsg → Word × IWord
  | .block b => (b.gid, b.seq)
  | .result gid seq _ _ | .gather gid seq _ _ _ | .lost gid seq _ => (gid, seq)

/-- How many collectives of a GID and SEQ have ended on this device, whatever launches they belonged to. A message carries the number of
its sender, so that one of an earlier collective is told from one of a later collective of the same pair: R348 lets a pair serve
again and gives no means of its own (DESIGN CHOICE, log 113). -/
def useOf (s : State) (k : Word × IWord) : Nat :=
  ((s.collUses.find? (fun x => x.1 = k.1 ∧ x.2.1 = k.2)).map (fun x => x.2.2)).getD 0

/-- The number of a pair is set. -/
def putUse (u : List (Word × IWord × Nat)) (gid : Word) (seq : IWord) (n : Nat) : List (Word × IWord × Nat) :=
  u.filter (fun x => ¬ (x.1 = gid ∧ x.2.1 = seq)) ++ [(gid, seq, n)]

/-- One more collective of a pair has ended. -/
def countUse (u : List (Word × IWord × Nat)) (gid : Word) (seq : IWord) : List (Word × IWord × Nat) :=
  putUse u gid seq (((u.find? (fun x => x.1 = gid ∧ x.2.1 = seq)).map (fun x => x.2.2)).getD 0 + 1)

/-- The link queues of a launch's threads: of those on the device, in its clusters' retirement trackers, and saved. -/
def queuesOf (s : State) (id : Nat) : List (List LCmd) :=
  (s.threads.filter (fun e => e.2.launch = id)).map (fun e => e.2.lq) ++
  s.clusters.flatMap (fun e => (e.2.tracker.filter (fun r => r.launch = id)).map (fun r => r.lq)) ++
  (s.launches.filter (fun l => l.id = id)).flatMap (fun l => l.saved.map (fun v => v.lq))

/-- The collectives that a launch has a part in: those its threads have joined, those its threads have been handed, and those of
its tables of which messages have come (R348). -/
def collsOf (s : State) (id : Nat) : List Coll :=
  let joined := s.colls.filter (fun c => c.launch = id)
  let known := s.colls.filterMap (fun c => if c.table ≠ [] then none else
    (launchOf s id).bind (fun l => (l.groups.find? (fun g => gtGid g.2 = c.gid)).map (fun g => collOfTable g.2 c.seq)))
  let handed := (queuesOf s id).flatMap (fun q => (q.filter (fun c => isColl c.instr && !c.joined)).filterMap (fun c =>
    (cmdGroup s id c).map (fun g => collOfTable g (cdSeq c.desc))))
  (known ++ handed).foldl (fun a c => if a.any (fun x => x.gid = c.gid ∧ x.seq = c.seq) then a else a ++ [c]) joined

end Sys2Proof.Machine
end

