-- ==== Sys2Proof/Machine/Box.lean ====
section
/-! DEFINITION. Residency: tensor descriptors and configuration blocks (R168 to R171), boxes, slots and pieces (R172 to
R176), line states (R175, R181) and the scratchpad bytes of an element. -/

namespace Sys2Proof.Machine

/-! ## Tensor descriptor (R168) -/
def tdBase (td : List Byte) : Nat := fieldAt td 0 8
def tdCode (td : List Byte) : Nat := fieldAt td 8 1
def tdType (td : List Byte) : ElemTy := (ElemTy.ofCode (BitVec.ofNat 4 (tdCode td))).getD .s8
def tdRank (td : List Byte) : Nat := fieldAt td 9 1
def tdPlanes (td : List Byte) : Nat := fieldAt td 10 1
def tdExt (td : List Byte) (d : Nat) : Nat := fieldAt td (16 + 4 * d) 4
def tdStr (td : List Byte) (d : Nat) : Int := sfieldAt td (32 + 8 * d) 8

/-! ## Configuration block (R170) -/
def blkTdesc (b : List Byte) : Nat := fieldAt b 0 8
def blkMode (b : List Byte) : Nat := fieldAt b 8 1
def blkLine0 (b : List Byte) : Nat := fieldAt b 10 2
def blkLines (b : List Byte) : Nat := fieldAt b 12 2
def blkWmk (b : List Byte) : Nat := fieldAt b 14 2
def blkC (b : List Byte) (d : Nat) : Int := sfieldAt b (16 + 32 * d) 8
def blkW (b : List Byte) (d : Nat) : Nat := fieldAt b (24 + 32 * d) 4
def blkA (b : List Byte) (d j : Nat) : Int := sfieldAt b (32 + 32 * d + 2 * j) 2
def blkLatch (b : List Byte) : Nat := fieldAt b 144 8

/-- Modes of R167. -/
def modeRd : Nat := 0
def modeRw : Nat := 1
def modeWo : Nat := 2
def modeAcc : Nat := 3

/-- Scratchpad bytes of one element of a type (R170). -/
def tySize (t : ElemTy) : Nat := if t = .bpi then 1 else t.bits / 8
/-- The widths of a box. -/
def boxW (b : List Byte) : List Nat := [blkW b 0, blkW b 1, blkW b 2, blkW b 3]
/-- V of R170: elements of the box. -/
def boxV (b : List Byte) : Nat := blkW b 0 * blkW b 1 * blkW b 2 * blkW b 3
/-- Bytes a region needs (R170). -/
def regionNeed (b td : List Byte) : Nat :=
  (if blkMode b = modeAcc then 64 else 1) * boxV b * tySize (tdType td)

/-- Zero bytes of a list from `off` on, `n` of them. -/
def zeroAt (l : List Byte) (off n : Nat) : Bool := ((l.drop off).take n).all (fun b => b = 0)

/-- The checks of R171 that depend on the block and descriptor alone, as a code; 0x07 is made with the cluster. R171 names
TYPE 14 and 15 for code 0x01 and no outcome for a TYPE byte of 16 to 255: DESIGN CHOICE (log 79), they fail it too. -/
def blockCheck (b td : List Byte) : Option Nat :=
  let code := tdCode td
  let rank := tdRank td
  let dims := [0, 1, 2, 3]
  if 14 ≤ code ∨ rank = 0 ∨ 4 < rank ∨ blkTdesc b % 64 ≠ 0 ∨ ¬ zeroAt td 11 5 ∨ ¬ zeroAt b 9 1 ∨ ¬ zeroAt b 152 8 ∨
      dims.any (fun d => !zeroAt b (28 + 32 * d) 4) then some 0x01
  else if (if code = 13 then tdPlanes td < 2 ∨ 8 < tdPlanes td else tdPlanes td ≠ 0) then some 0x02
  else if dims.any (fun d => if d < rank then tdExt td d = 0 else tdExt td d ≠ 1 ∨ tdStr td d ≠ 0) then some 0x03
  else if tdBase td % (if code = 13 then 256 else tySize (tdType td)) ≠ 0 ∨ 2 ^ 52 ≤ tdBase td then some 0x04
  else if 4 ≤ blkMode b ∨ (blkMode b = modeAcc ∧ ¬ (tdType td = .s32 ∨ tdType td = .s64 ∨ tdType td = .f32)) ∨
      dims.any (fun d => if d < rank then blkW b d = 0 ∨ 65536 < blkW b d
        else blkC b d ≠ 0 ∨ blkW b d ≠ 1 ∨ (List.range 8).any (fun j => blkA b d j ≠ 0)) then some 0x05
  else if blkLines b = 0 ∨ 16384 < blkLine0 b + blkLines b ∨ 128 * blkLines b < regionNeed b td then some 0x06
  else none

/-- The checks after 0x07 (R171). -/
def blockCheckLate (b : List Byte) : Option Nat :=
  if 256 ≤ blkWmk b ∧ blkWmk b ≠ 0xFFFF then some 0x08
  else if blkLatch b % 8 ≠ 0 ∨ 2 ^ 52 ≤ blkLatch b then some 0x09
  else none

/-! ## Boxes (R172, R173) -/

/-- A counter's value. -/
def kreg (ks : Tab KReg) (j : Nat) : KReg := tabGet {} ks j

/-- lo of each dimension (R172), exact: R167 gives lo 64 bits and R172 computes it exactly; a value outside 64 bits stays
what it is, DESIGN CHOICE (log 80). -/
def boxLo (b : List Byte) (anchor : List Int) (ks : Tab KReg) : List Int :=
  [0, 1, 2, 3].map (fun d =>
    blkC b d + ((List.range 8).map (fun j => blkA b d j * ((kreg ks j).value : Int))).sum + anchor.getD d 0)

/-- The formula names a counter (R175). -/
def boxNames (b : List Byte) (j : Nat) : Bool := [0, 1, 2, 3].any (fun d => blkA b d j ≠ 0)

/-- A coordinate lies in a box. -/
def inBox (lo : List Int) (w : List Nat) (c : List Int) : Bool :=
  [0, 1, 2, 3].all (fun d => lo.getD d 0 ≤ c.getD d 0 ∧ c.getD d 0 < lo.getD d 0 + (w.getD d 1 : Int))

/-- The element is clipped (R172). -/
def isClipped (td : List Byte) (limit : List Nat) (c : List Int) : Bool :=
  [0, 1, 2, 3].any (fun d => c.getD d 0 < 0 ∨ ((min (tdExt td d) (limit.getD d 0) : Nat) : Int) ≤ c.getD d 0)

/-- The slot of a coordinate (R173). -/
def slotOf (w : List Nat) (c : List Int) : Nat :=
  ([0, 1, 2, 3].foldl (fun (acc : Nat × Nat) d =>
    (acc.1 + (c.getD d 0 % ((w.getD d 1 : Nat) : Int)).toNat * acc.2, acc.2 * w.getD d 1)) (0, 1)).1

/-- The coordinate of the box that has a slot. -/
def coordOfSlot (lo : List Int) (w : List Nat) (slot : Nat) : List Int :=
  ([0, 1, 2, 3].foldl (fun (acc : List Int × Nat) d =>
    let wd := w.getD d 1
    let digit : Int := ((acc.2 % wd : Nat) : Int)
    (acc.1 ++ [lo.getD d 0 + (digit - lo.getD d 0) % ((wd : Nat) : Int)], acc.2 / wd)) ([], slot)).1

/-- Linear element index (R169). -/
def linIndex (td : List Byte) (c : List Int) : Int :=
  ([0, 1, 2, 3].map (fun d => c.getD d 0 * tdStr td d)).sum

/-- Address of an element, or of its 256-byte block for bpi (R95, R169): a bpi element has bits in every plane of its block, and the
spec does not say which address is its own where one is reported (R181, R378; DESIGN CHOICE, log 105). -/
def elemVa (td : List Byte) (c : List Int) : Int :=
  if tdType td = .bpi then (tdBase td : Int) + 256 * (linIndex td c / 256)
  else (tdBase td : Int) + linIndex td c * ((tdType td).bits / 8 : Nat)

/-- Position of a bpi element in its block (R95). -/
def bpiPos (td : List Byte) (c : List Int) : Nat := (linIndex td c % 256).toNat

/-- Every coordinate of a product of ranges, dimension 0 fastest. -/
def coordsOf (lo hi : List Int) : List (List Int) :=
  let r (d : Nat) : List Int := (List.range (hi.getD d 0 - lo.getD d 0).toNat).map (fun (i : Nat) => lo.getD d 0 + (i : Int))
  (r 3).flatMap (fun c3 => (r 2).flatMap (fun c2 => (r 1).flatMap (fun c1 => (r 0).map (fun c0 => [c0, c1, c2, c3]))))

/-- The upper ends of a box. -/
def boxHi (lo : List Int) (w : List Nat) : List Int := [0, 1, 2, 3].map (fun d => lo.getD d 0 + (w.getD d 1 : Int))

/-- The pieces of R176 for dimensions `d` on, with `n` dimensions left: ranges of the intersection so far in `ilo`, `ihi`. -/
def piecesFrom (lo hi nlo nhi : List Int) : Nat → Nat → List Int → List Int → List (List Int × List Int)
  | 0, _, _, _ => []
  | n + 1, d, ilo, ihi =>
    let part (a b : Int) : List (List Int × List Int) :=
      if a < b then
        [([0, 1, 2, 3].map (fun e => if e < d then ilo.getD e 0 else if e = d then a else nlo.getD e 0),
          [0, 1, 2, 3].map (fun e => if e < d then ihi.getD e 0 else if e = d then b else nhi.getD e 0))]
      else []
    let below := part (nlo.getD d 0) (min (nhi.getD d 0) (lo.getD d 0))
    let above := part (max (nlo.getD d 0) (hi.getD d 0)) (nhi.getD d 0)
    let a := max (lo.getD d 0) (nlo.getD d 0)
    let b := min (hi.getD d 0) (nhi.getD d 0)
    below ++ above ++
      (if a < b then piecesFrom lo hi nlo nhi n (d + 1) (ilo.set d a) (ihi.set d b) else [])

/-- The pieces of a recomputation (R176); without an old box, the whole new box. -/
def piecesOf (rank : Nat) (w : List Nat) (old : Option (List Int)) (new : List Int) : List (List Int × List Int) :=
  match old with
  | none => [(new, boxHi new w)]
  | some lo => piecesFrom lo (boxHi lo w) new (boxHi new w) rank 0 new (boxHi new w)

/-- The coordinates that enter a box. -/
def entering (rank : Nat) (w : List Nat) (old : Option (List Int)) (new : List Int) : List (List Int) :=
  (piecesOf rank w old new).flatMap (fun p => coordsOf p.1 p.2)

/-- The coordinates that leave a box. -/
def leaving (w : List Nat) (old new : List Int) : List (List Int) :=
  (coordsOf old (boxHi old w)).filter (fun c => !inBox new w c)

/-! ## Scratchpad bytes (R173, R257) and line states -/

/-- First scratchpad byte of a slot. -/
def slotByte (h : HReg) (slot : Nat) : Nat := 128 * blkLine0 h.blk + slot * tySize (tdType h.td)
/-- First scratchpad byte of copy l of a slot of an acc window (R257). -/
def copyByte (h : HReg) (l slot : Nat) : Nat :=
  128 * blkLine0 h.blk + (l * boxV h.blk + slot) * tySize (tdType h.td)
/-- Scratchpad line of a slot. -/
def slotLine (h : HReg) (slot : Nat) : Nat := slotByte h slot / 128

/-- Scratchpad bytes as a number. -/
def spRead (sp : Tab Byte) (a n : Nat) : Nat := natOfBytes ((List.range n).map (fun i => tabGet 0 sp (a + i)))
/-- Scratchpad bytes are written. -/
def spWrite (sp : Tab Byte) (a : Nat) (l : List Byte) : Tab Byte :=
  match l with
  | [] => sp
  | b :: r => spWrite (tabSet 0 sp a b) (a + 1) r

/-- Fetches in delivery that will land in a register's region: their marker has completed, and they land whether or not
their element is still in the box (R175 step 4). Their slots are pending. -/
def landingFetches (t : Thread) (n : Nat) : List Fetch :=
  (t.recomps.filter (fun r => r.h = n ∧ r.landing)).flatMap (fun r => r.fetches)

/-- State of a line (R175, R181). -/
inductive LineState where
  | full | empty | poisoned
deriving DecidableEq, Repr

/-- The state of a line of a register's region: empty while it holds a pending slot, then poisoned when a slot failed
(R175, R181; log 25). -/
def lineState (t : Thread) (n : Nat) (h : HReg) (line : Nat) : LineState :=
  if (landingFetches t n).any (fun f => slotLine h f.slot = line) then .empty
  else if h.failed.any (fun f => slotLine h f.slot = line) then .poisoned
  else .full

/-- The trap of a poisoned line: its lowest failed slot decides the cause and tval (R181). -/
def lineFault (h : HReg) (line : Nat) : Option (Bool × Word) :=
  ((h.failed.filter (fun f => slotLine h f.slot = line)).foldl (fun (acc : Option FailedSlot) f =>
    match acc with
    | none => some f
    | some g => if f.slot < g.slot then some f else some g) none).map (fun f => (f.poisoned, f.va))

/-- The slots of a line that elements of the box have, ascending. -/
def slotsOfLine (h : HReg) (line : Nat) : List Nat :=
  (List.range (boxV h.blk)).filter (fun k => slotLine h k = line)

/-- Two registers have equal descriptors as R179 and R180 compare them: BASE, TYPE, RANK, PLANES, extents, strides. -/
def sameTensor (a b : List Byte) : Bool :=
  decide (tdBase a = tdBase b) && decide (tdCode a = tdCode b) && decide (tdRank a = tdRank b) &&
  decide (tdPlanes a = tdPlanes b) && [0, 1, 2, 3].all (fun d => tdExt a d = tdExt b d ∧ tdStr a d = tdStr b d)

/-- Two boxes share a coordinate. -/
def boxesMeet (loA : List Int) (wA : List Nat) (loB : List Int) (wB : List Nat) : Bool :=
  [0, 1, 2, 3].all (fun d =>
    max (loA.getD d 0) (loB.getD d 0) < min (loA.getD d 0 + (wA.getD d 1 : Int)) (loB.getD d 0 + (wB.getD d 1 : Int)))

end Sys2Proof.Machine
end

