-- ==== Sys2Proof/Machine/Marker.lean ====
section
/-! DEFINITION. Counters and advance markers at push (R174 to R179, R186, R187), fetches and their translation (R178,
R181, R285), the reuse table's bookkeeping (R294 to R302), and write-back (R182, R260, R378). -/

namespace Sys2Proof.Machine

/-! ## Reuse bookkeeping -/

/-- The physical register of a v name (R294): 32 × slot + number. -/
def rsName (c : Cluster) (slot v : Nat) : Nat := tabGet 0 c.rs.names (32 * slot + v % 32)

/-- A register that no name has (R299); the shared zero register is never free. -/
def rsFree (c : Cluster) (p : Nat) : Bool := p ≠ 0 && !c.rs.names.any (fun e => e.2 = p)

/-- Entries leave the table by invalidation under R299 or R302, and RS_INV counts them (R305). -/
def rsInvalidate (s : State) (cl : Nat) (bad : RsEntry → Bool) : State :=
  let c := clusterOf s cl
  let gone := c.rs.table.filter bad
  if gone = [] then s else
  bump (setCluster s cl { c with rs := { c.rs with table := c.rs.table.filter (fun e => !bad e) } }) cl 10 gone.length

/-- A key names a physical register: SRC, the index group of a load included, or OLD (R296, R301). -/
def keyNames (p : Nat) (k : RsKey) : Bool :=
  p ∈ k.src || p ∈ k.old || (match k.load with | some l => p ∈ l.index | none => false)

/-- An entry names a physical register (R299). -/
def rsNames (p : Nat) (e : RsEntry) : Bool := keyNames p e.key || p ∈ e.result

/-- What is remembered of a register's last write and of its comparisons goes (R300). -/
def rsUnmark (rs : Resteep) (p : Nat) : Resteep :=
  { rs with noMerge := setDel rs.noMerge p, ages := tabErase rs.ages p,
            unequal := rs.unequal.filter (fun x => x.1 ≠ p ∧ x.2 ≠ p) }

/-- Entries at the vcp of a cluster's threads that looked up certain keys will insert nothing (R296, R299). -/
def dropKeys (s : State) (cl : Nat) (bad : RsKey → Bool) : State :=
  (threadsOf s cl).foldl (fun s x => setThread s x.1 { x.2 with vq := x.2.vq.map (fun e =>
    if (e.key.map bad).getD false then { e with key := none } else e) }) s

/-- A register leaves every key: the entries that name it go, and an entry at vcp that looked up a key naming it will insert
nothing (R299). -/
def rsLeave (s : State) (cl p : Nat) : State := dropKeys (rsInvalidate s cl (rsNames p)) cl (keyNames p)

/-- A register is freed when no name is left on it (R299). -/
def rsRelease (s : State) (cl p : Nat) : State :=
  if !rsFree (clusterOf s cl) p then s else
  let s := rsLeave s cl p
  let c := clusterOf s cl
  setCluster s cl { c with rs := rsUnmark c.rs p }

/-- Names of a slot are mapped to other registers, all at once; the ones they leave are freed when no name is left on them
(R298, R299). For a name mapped to the zero register no element group has changed since (R292, VEXT). -/
def rsMapAll (s : State) (cl slot : Nat) (ms : List (Nat × Nat)) : State :=
  let c := clusterOf s cl
  let olds := (ms.map (fun m => rsName c slot m.1)).dedup
  let names := ms.foldl (fun n m => tabSet 0 n (32 * slot + m.1 % 32) m.2) c.rs.names
  let zeroed := (ms.filter (fun m => m.2 = 0)).map (fun m => m.1)
  let s := match threadAt s (4 * cl + slot) with
    | some t => if zeroed = [] then s else setThread s (4 * cl + slot) { t with vext := zeroed.foldl tabErase t.vext }
    | none => s
  olds.foldl (fun s p => rsRelease s cl p) (setCluster s cl { c with rs := { c.rs with names := names } })

/-- A name is mapped to another register. -/
def rsMap (s : State) (cl slot v p : Nat) : State := rsMapAll s cl slot [(v, p)]

/-- A name is about to be written by an instruction: when its register is shared, or the zero register, it first takes a
free one (R298); otherwise it leaves its register by the write and takes it again, so that entries and keys that name the
register go (R299; log 12). -/
def rsFresh (s : State) (cl slot v : Nat) : State :=
  let c := clusterOf s cl
  let p := rsName c slot v
  if p ≠ 0 ∧ (c.rs.names.filter (fun e => e.2 = p)).length = 1 then rsLeave s cl p
  else match leastBelow 256 (rsFree c) with
    | some q => rsMap s cl slot v q
    | none => s

/-- A name takes a register to write under a captured rsctl: NOMERGE decides whether it may merge (R295, R298), and the
register's age starts (R300; log 81). -/
def rsTake (s : State) (cl slot v : Nat) (rsctl : Word) : State :=
  let s := rsFresh s cl slot v
  let c := clusterOf s cl
  let p := rsName c slot v
  let rs := rsUnmark c.rs p
  setCluster s cl { c with rs := { rs with
    ages := tabPut rs.ages p s.tick, noMerge := if rsctl.getLsbD 2 then setAdd rs.noMerge p else rs.noMerge } }

/-- Load entries of a thread slot leave the table (R302). -/
def rsDropLoads (s : State) (cl slot : Nat) : State :=
  rsInvalidate s cl (fun e => match e.key.load with | some k => k.slot = slot | none => false)

/-- Load entries of one register of a thread slot leave the table (R302). -/
def rsDropReg (s : State) (cl slot h : Nat) : State :=
  rsInvalidate s cl (fun e => match e.key.load with | some k => k.slot = slot ∧ k.h = h | none => false)

/-- Every name of a slot leaves its register: VREL, thread end and save (R299). -/
def rsForget (s : State) (cl slot : Nat) : State :=
  rsDropLoads (rsMapAll s cl slot ((List.range 32).map (fun v => (v, 0)))) cl slot

/-- The tags after the counter has wrapped, and the counter: every register that has a tag takes a new one from 1 on, so that no
two writes share one (R294, R296; DESIGN CHOICE, log 101). -/
def rsRetag (ptags : Tab Nat) : Tab Nat × Nat :=
  let keys := ptags.map (fun e => e.1)
  ((keys.zipIdx).map (fun x => (x.1, x.2 + 1)), keys.length + 1)

/-- A write of a p register takes the next tag; on wrap every entry is invalidated, pending keys go and the counter restarts
(R296), which RS_INV does not count (R305). -/
def rsTagMask (s : State) (cl slot p : Nat) : State :=
  let c := clusterOf s cl
  let tag := c.rs.tagCtr
  let ptags := tabSet 0 c.rs.ptags (8 * slot + p) tag
  if tag + 1 = 2 ^ 32 then
    let r := rsRetag ptags
    dropKeys (setCluster s cl { c with rs := { c.rs with ptags := r.1, tagCtr := r.2, table := [] } }) cl (fun _ => true)
  else setCluster s cl { c with rs := { c.rs with ptags := ptags, tagCtr := tag + 1 } }

/-! ## Counters (R174, R187) -/

/-- The odometer: counters carried, with fuel for the eight counters there are. -/
def advanceFrom : Nat → Tab KReg → List Nat → Nat → Tab KReg × List Nat
  | 0, ks, carried, _ => (ks, carried)
  | f + 1, ks, carried, j =>
    let r := kreg ks j
    if r.value + 1 < r.extent then (tabSet {} ks j { r with value := r.value + 1 }, j :: carried)
    else
      let ks := tabSet {} ks j { r with value := 0 }
      match r.link with
      | none => (ks, j :: carried)
      | some m => if m ∈ j :: carried then (ks, j :: carried) else advanceFrom f ks (j :: carried) m

/-- The effect of a KCNT on the counters, and the counters it wrote for R175: kcnt.ext only when it changes the value. R187 says 'as
unsigned' of x[A] in kcnt.set and not in kcnt.ext, where it is read as unsigned too (DESIGN CHOICE, log 119). -/
def kcntEffect (i : Instr) (cap : Cap) (ks : Tab KReg) : Tab KReg × List Nat :=
  match i with
  | .kcntExt d _ =>
    let r := kreg ks d.toNat
    let e := min (max cap.xa.toNat 1) (2 ^ 32)
    let v := if e ≤ r.value then 0 else r.value
    (tabSet {} ks d.toNat { r with extent := e, value := v }, if v = r.value then [] else [d.toNat])
  | .kcntLink d b =>
    (tabSet {} ks d.toNat { kreg ks d.toNat with link := if b.toNat = 31 then none else some b.toNat }, [])
  | .kcntAdv d => advanceFrom 8 ks [] d.toNat
  | .kcntSet d _ =>
    let r := kreg ks d.toNat
    (tabSet {} ks d.toNat { r with value := cap.xa.toNat % r.extent }, [d.toNat])
  | .kcntRst d => (tabSet {} ks d.toNat { kreg ks d.toNat with value := 0 }, [d.toNat])
  | _ => (ks, [])

/-- The effect of hres.anch, lim, bind or wmk on a copy of a register's items (R186). -/
def hresEffect (i : Instr) (cap : Cap) (c : HCopy) : HCopy :=
  match i with
  | .hresAnch _ _ n => { c with anchor := c.anchor.set n.toNat cap.xa.toInt }
  | .hresLim _ _ n => { c with limit := c.limit.set n.toNat cap.xa.toNat }
  | .hresBind _ _ => { c with latch := if cap.xa = 0 then none else some cap.xa }
  | .hresWmk _ _ => { c with wmk := if cap.xa.toNat < 256 then some cap.xa.toNat else none }
  | _ => c

/-- The residency register an anch, lim, bind or wmk names. -/
def hresReg : Instr → Option Nat
  | .hresAnch d _ _ | .hresLim d _ _ | .hresBind d _ | .hresWmk d _ => some d.toNat
  | _ => none

/-- The register a marker of HRES recomputes (R175). -/
def hresMarker : Instr → Option Nat
  | .hresAnch d _ _ | .hresLim d _ _ => some d.toNat
  | _ => none

/-- The push copies after an instruction, and the registers it recomputes, ascending (R175). -/
def pushCopies (t : Thread) (i : Instr) (cap : Cap) : Thread × List Nat :=
  let (ks, wrote) := kcntEffect i cap t.kpush
  let h := match hresReg i with
    | some n => (match tabFind t.h n with
      | some r => tabPut t.h n { r with push := hresEffect i cap r.push }
      | none => t.h)
    | none => t.h
  let regs := h.filterMap (fun e =>
    if wrote.any (fun j => boxNames e.2.blk j) ∨ hresMarker i = some e.1 then some e.1 else none)
  let h := h.map (fun e =>
    if e.1 ∈ regs then (e.1, { e.2 with push := { e.2.push with lo := boxLo e.2.blk e.2.push.anchor ks } }) else e)
  ({ t with kpush := ks, h := h }, regs)

/-- An entry is an advance marker (R175): it recomputes something by its kind. `changed` says that a kcnt.ext changed
its counter's value. -/
def isMarker (i : Instr) (changed : Bool) : Bool :=
  match i with
  | .kcntAdv _ | .kcntSet _ _ | .kcntRst _ | .hresAnch _ _ _ | .hresLim _ _ _ | .hresSet _ _ => true
  | .kcntExt _ _ => changed
  | _ => false

/-! ## Fetches (R176 to R179, R181) -/

/-- A fetch finds its page in the cache, fails outside the 52-bit space, or waits for a walk (R285). -/
def fetchStart (s : State) (cl ctx : Nat) (f : Fetch) : Fetch :=
  if f.va < 0 ∨ 2 ^ 52 ≤ f.va then { f with state := .noPage } else
  let va := f.va.toNat
  match tlbFind (clusterOf s cl).tlb ctx va with
  | some (e, big) => { f with state := if leafAllows e needR then .sent (forwardedPa s (leafPa 0 e big va)) else .noPage }
  | none => { f with state := .walk }

/-- The pages that new fetches must walk, each counted as one access that misses (R285, R323 TC_MISS). -/
def walkStart (s : State) (cl ctx : Nat) (fs : List Fetch) : State :=
  let pages := ((fs.filter (fun f => f.state = .walk)).map (fun f => f.va.toNat / 65536)).dedup
  bump (pages.foldl (fun s p => startWalk s cl ctx (65536 * p) needR) s) cl 13 pages.length

/-- The fetches of a list of coordinates of a register, numbered from `uid` on, with those an earlier register of the
marker already reads (R179). -/
def fetchesOf (uid : Nat) (h : HReg) (cs : List (List Int)) (earlier : List Fetch) : List Fetch :=
  (cs.zipIdx).map (fun (c, k) =>
    { id := uid + k, coord := c, slot := slotOf (boxW h.blk) c, va := elemVa h.td c,
      wmk := h.push.wmk, share := (earlier.find? (fun f => f.coord = c)).map (fun f => f.id) })

/-- The recomputation of one register at a marker's push: its traveling elements (R175, R176). -/
def recompute (s : State) (tid : Nat) (t : Thread) (n : Nat) (old : Option (List Int))
    (sofar : List (Nat × List Fetch)) : State × List Fetch :=
  match tabFind t.h n with
  | none => (s, [])
  | some h =>
    if blkMode h.blk = modeWo ∨ blkMode h.blk = modeAcc then (s, []) else
    let cs := (entering (tdRank h.td) (boxW h.blk) old h.push.lo).filter (fun c => !isClipped h.td h.push.limit c)
    let earlier := (sofar.filter (fun e => match tabFind t.h e.1 with
      | some g => sameTensor g.td h.td
      | none => false)).flatMap (fun e => e.2)
    let fs := (fetchesOf s.uid h cs earlier).map (fetchStart s (tid / 4) t.ctx)
    let s := walkStart { s with uid := s.uid + fs.length } (tid / 4) t.ctx fs
    (s, fs)

/-- Every recomputation of a marker, in register order; `olds` are the boxes before it. -/
def recomputeAll (s : State) (tid : Nat) (t : Thread) (marker : Nat) (olds : List (Nat × Option (List Int))) :
    State × List Recomp :=
  let r := olds.foldl (fun (acc : State × List (Nat × List Fetch)) e =>
    let (s, fs) := recompute acc.1 tid t e.1 e.2 acc.2
    (s, acc.2 ++ [(e.1, fs)])) (s, [])
  (r.1, (r.2.filter (fun e => e.2 ≠ [])).map (fun e => { h := e.1, marker := marker, fetches := e.2 }))

/-- Recomputations of a register in delivery (R177). -/
def inDelivery (t : Thread) (n : Nat) : Nat := (t.recomps.filter (fun r => r.h = n ∧ r.counts)).length

/-- A fetch whose reader is gone: the first of those that shared with it reads for the others (R179). -/
def reshare (rs : List Recomp) (f : Fetch) : Fetch :=
  let all := rs.flatMap (fun r => r.fetches)
  match f.share with
  | none => f
  | some p =>
    if all.any (fun g => g.id = p) then f
    else match all.find? (fun g => g.share = some p) with
      | some g => { f with share := if g.id = f.id then none else some g.id }
      | none => f

/-- A thread's recomputations when some of their fetches have gone; one without fetches has left delivery (R177). -/
def keepRecomps (t : Thread) (rs : List Recomp) : Thread :=
  { t with recomps := (rs.filter (fun r => r.fetches ≠ [])).map (fun r => { r with fetches := r.fetches.map (reshare rs) }) }

/-- Elements of a register fetched again, outside any marker (R181, R184). -/
def refetch (s : State) (tid : Nat) (t : Thread) (n : Nat) (h : HReg) (slots : List Nat) : State × Thread :=
  let cs := slots.map (coordOfSlot h.comm.lo (boxW h.blk))
  let cs := cs.filter (fun c => !isClipped h.td h.comm.limit c)
  let fs := (fetchesOf s.uid h cs []).map (fetchStart s (tid / 4) t.ctx)
  let s := walkStart { s with uid := s.uid + fs.length } (tid / 4) t.ctx fs
  (s, if fs = [] then t else
    { t with recomps := t.recomps ++ [{ h := n, marker := 0, landing := true, counts := false, fetches := fs }] })

/-! ## Outstanding operations (R272, R317) -/

/-- An entry that counts as a window load while it is in the queue. -/
def countsL0 : Instr → Bool
  | .vwld _ _ _ _ _ _ _ _ | .vidxLd _ _ _ _ _ _ | .cdyLoad _ _ _ | .cdyLstr _ _ _ => true
  | _ => false

/-- VAMO of any operation. -/
def isVamo : Instr → Bool
  | .vamoAdd _ _ _ _ _ _ _ _ | .vamoMin _ _ _ _ _ _ _ _ | .vamoMax _ _ _ _ _ _ _ _ | .vamoAnd _ _ _ _ _ _ _ _
  | .vamoOr _ _ _ _ _ _ _ _ | .vamoXor _ _ _ _ _ _ _ _ | .vamoSwap _ _ _ _ _ _ _ _ | .vamoCas _ _ _ _ _ _ _
  | .vamoFadd _ _ _ _ _ _ _ => true
  | _ => false

/-- An entry that counts in the stores class while it is in the queue. -/
def countsL1 (i : Instr) : Bool :=
  isVamo i || (match i with | .accwMrge _ _ | .syncRel _ _ => true | _ => false)

/-- An entry that counts in the link and collective class while it is in the queue. -/
def countsL4 : Instr → Bool
  | .linkXfer _ _ _ _ _ | .linkLacq _ | .linkLrel _ | .linkLsig _ | .collAred _ _ | .collRsct _ _ | .collAgat _ _
  | .lnch _ _ => true
  | _ => false

/-- An entry of the queue is a marker (R175, R177). -/
def entryIsMarker (e : Entry) : Bool := isMarker e.instr e.changed

/-- Operations of a thread in the stores class (R272): entries in the queue, stores and write-backs on their way, VAMO and
accw.mrge entries that have left the queue and whose requests are still on their way, and releases. -/
def storesCount (s : State) (t : Thread) : Nat :=
  let queued := (t.vq.filter (fun e => countsL1 e.instr)).map (fun e => e.uid)
  let own := s.inflight.filter (fun r => r.owner = t.uid)
  queued.length + (own.filter (fun r => !r.part)).length +
    (((own.filter (fun r => r.part)).map (fun r => r.seq)).dedup.filter (fun n => ¬ n ∈ queued)).length +
    (s.releases.filter (fun r => r.owner = t.uid)).length

/-- The count of an outstanding-operation class of a thread (R272), derived from its queues and its requests. -/
def classCount (s : State) (t : Thread) : Nat → Nat
  | 0 => (t.vq.filter (fun e => countsL0 e.instr)).length
  | 1 => storesCount s t
  | 2 => (t.recomps.filter (fun r => r.counts)).length +
      (t.vq.filter (fun e => entryIsMarker e ∧ ¬ t.recomps.any (fun r => r.marker = e.uid))).length
  | 3 => t.tq.length
  | _ => (t.vq.filter (fun e => countsL4 e.instr)).length + t.lq.length

/-- The largest count of a class (R318). -/
def classMax : Nat := 65535

/-! ## Requests and write-back -/

/-- A request is issued to its home under the next unique number. -/
def issue (s : State) (r : Req) : State :=
  { s with uid := s.uid + 1, inflight := s.inflight ++ [{ r with uid := s.uid }] }

/-- What leaves the scratchpad for an element of a window: its bytes, its planes, or its 64 copies (R182, R257). -/
def backKind (sp : Tab Byte) (h : HReg) (slot : Nat) (c : List Int) (pa : Nat) : ReqKind :=
  let size := tySize (tdType h.td)
  if blkMode h.blk = modeAcc then
    .merge pa (tdType h.td) ((List.range 64).map (fun l => BitVec.ofNat 64 (spRead sp (copyByte h l slot) size)))
  else if tdType h.td = .bpi then
    .planes pa (bpiPos h.td c) (tdPlanes h.td) (BitVec.ofNat 8 (spRead sp (slotByte h slot) 1))
  else .writeBack pa (bytesOfNat size (spRead sp (slotByte h slot) size))

/-- The lower of two lost addresses. -/
def minLost (low : Option Int) (va : Int) : Option Int :=
  match low with
  | none => some va
  | some l => some (min l va)

/-- The write-back of an element at physical address `pa`: one request, an atomic for an element of an accumulation window
(R236, R260); bound for a home that is down it is lost without report (R223, R378). -/
def backRequest (s : State) (tid : Nat) (t : Thread) (h : HReg) (seq : Nat) (part : Bool) (slot pa : Nat) : State :=
  if reaches s (tid / 4) pa then
    issue s { seq := seq, part := part, owner := t.uid, launch := t.launch, cluster := tid / 4,
              strong := decide (blkMode h.blk = modeAcc),
              kind := backKind (clusterOf s (tid / 4)).scratch h slot (coordOfSlot h.comm.lo (boxW h.blk) slot) pa }
  else s

/-- Some dirty slots of a register are handed to write-back for entry `seq`, one request each, until one must wait: for its
translation, or because the stores class is full (R182, R287, R318). A clipped element never travels; one that fails
translation or W permission is lost (R378). An element that was stored before another slot of its line failed its fetch goes too:
R175 and R182 hand back every dirty element, and R225 speaks of lines that were poisoned first (DESIGN CHOICE, log 102). Answers
the lowest lost address so far and the slots that remain. -/
def handBack (s : State) (tid : Nat) (t : Thread) (h : HReg) (seq : Nat) (part : Bool) :
    List Nat → Option Int → State × Option Int × List Nat
  | [], low => (s, low, [])
  | slot :: r, low =>
    let c := coordOfSlot h.comm.lo (boxW h.blk) slot
    let va := elemVa h.td c
    let lost (s : State) := handBack (bump s (tid / 4) 15 1) tid t h seq part r (minLost low va)
    if isClipped h.td h.comm.limit c then handBack s tid t h seq part r low
    else if va < 0 ∨ 2 ^ 52 ≤ va then lost s
    else match xlate s (tid / 4) t.uid (if t.vq.any (fun e => e.uid = seq) then seq else t.uid) t.ctx t.area va.toNat needW with
      | (.fail, s) => lost s
      | (.wait, s) => (s, low, slot :: r)
      | (.ok pa, s) =>
        if !part && decide (classMax ≤ storesCount s t) then (s, low, slot :: r)
        else handBack (backRequest s tid t h seq part slot pa) tid t h seq part r low

/-- The copies of an accumulation window's elements become zero (R257, R260). -/
def zeroCopies (s : State) (cl : Nat) (h : HReg) (slots : List Nat) : State :=
  let c := clusterOf s cl
  let sp := slots.foldl (fun sp k => (List.range 64).foldl
    (fun sp l => spWrite sp (copyByte h l k) (bytesOfNat (tySize (tdType h.td)) 0)) sp) c.scratch
  setCluster s cl { c with scratch := sp }

/-- The write-back-lost event of an entry, or of a thread's end, once everything of it has been handed off (R333, R378). -/
def postLost (s : State) (tid : Nat) : State :=
  match threadAt s tid with
  | none => s
  | some t =>
    match t.lost with
    | none => s
    | some va => postEvent (setThread s tid { t with lost := none }) 7 (dieOfCluster (tid / 4)) (BitVec.ofNat 64 t.launch)
        (BitVec.ofInt 64 va)

/-- Some dirty slots of a register are written back and left clean; false when some of them must still wait (R182). -/
def cleanSome (s : State) (tid n seq : Nat) (part : Bool) (slots : List Nat) : State × Bool :=
  match threadAt s tid with
  | none => (s, true)
  | some t =>
    match tabFind t.h n with
    | none => (s, true)
    | some h =>
      let go := h.dirty.filter (fun k => k ∈ slots)
      if go = [] then (s, true) else
      let (s, low, rest) := handBack s tid t h seq part go t.lost
      let gone := go.filter (fun k => ¬ k ∈ rest)
      let s := if blkMode h.blk = modeAcc then zeroCopies s (tid / 4) h gone else s
      let s := setThread s tid { t with h := tabPut t.h n { h with dirty := h.dirty.filter (fun k => ¬ k ∈ gone) }, lost := low }
      (if gone = [] then s else rsDropReg s (tid / 4) (tid % 4) n, decide (rest = []))

/-- Every dirty element of a register is written back (R182). -/
def cleanReg (s : State) (tid n seq : Nat) (part : Bool) : State × Bool :=
  cleanSome s tid n seq part (((threadAt s tid).bind (fun t => tabFind t.h n)).elim [] (fun h => h.dirty))

/-- Every dirty element of some registers is written back, register by register. -/
def cleanRegs (s : State) (tid seq : Nat) : List Nat → State × Bool
  | [] => (s, true)
  | n :: r =>
    match cleanReg s tid n seq false with
    | (s, true) => cleanRegs s tid seq r
    | (s, false) => (s, false)

end Sys2Proof.Machine
end

