-- ==== Sys2Proof/Machine/Ops.lean ====
section
/-! DEFINITION. The shared operations: outstanding-operation counts (R272), taking a trap and returning from one (R29,
R30, R125, R126, R289, R290), ending a launch (R43, R126, R244), and the push of a vector-side instruction (R22 to R26). -/

namespace Sys2Proof.Machine

/-! ## Causes (R288) -/
def causeIllegal : BitVec 8 := 0x01
def causeMisalignedPc : BitVec 8 := 0x02
def causeFetchFault : BitVec 8 := 0x03
def causeMisaligned : BitVec 8 := 0x04
def causeLoadFault : BitVec 8 := 0x05
def causeStoreFault : BitVec 8 := 0x06
def causeSyscall : BitVec 8 := 0x07
def causeSoftware : BitVec 8 := 0x08
def causeBreak : BitVec 8 := 0x09
def causeBadTret : BitVec 8 := 0x0A
def causeVreleased : BitVec 8 := 0x0B
def causeLatchHeld : BitVec 8 := 0x0C
def causeUnavailable : BitVec 8 := 0x0D
def causePoisoned : BitVec 8 := 0x0E
def causeResConfig : BitVec 8 := 0x10
def causeResOverlap : BitVec 8 := 0x11
def causeResFault : BitVec 8 := 0x12
def causeDelivFault : BitVec 8 := 0x13
def causeDelivPoison : BitVec 8 := 0x14
def causeTileOff : BitVec 8 := 0x18
def causeMatrix : BitVec 8 := 0x19
def causeLatchTwice : BitVec 8 := 0x20
def causeLatchLimit : BitVec 8 := 0x21
def causeLatchNotHeld : BitVec 8 := 0x22
def causeLatchBroken : BitVec 8 := 0x23
def causeBinding : BitVec 8 := 0x24
def causeNonGang : BitVec 8 := 0x25
def causeAtomicWidth : BitVec 8 := 0x26
def causeLaunch : BitVec 8 := 0x28
def causeLink : BitVec 8 := 0x29
def causeColl : BitVec 8 := 0x2A

/-! ## tstat (R112) -/
/-- INH: the thread is in its trap handler. -/
def inh (t : Thread) : Bool := t.csr.tstat.getLsbD 0
/-- tstat from INH, HELD and VEC. -/
def tstatOf (i h v : Bool) : Word := BitVec.ofNat 64 (i.toNat + 2 * h.toNat + 4 * v.toNat)

/-! ## What holds a thread -/

/-- AQ of a VAMO. -/
def vamoAq : Instr → Bool
  | .vamoAdd _ _ _ _ _ q _ _ | .vamoMin _ _ _ _ _ q _ _ | .vamoMax _ _ _ _ _ q _ _ | .vamoAnd _ _ _ _ _ q _ _
  | .vamoOr _ _ _ _ _ q _ _ | .vamoXor _ _ _ _ _ q _ _ | .vamoSwap _ _ _ _ _ q _ _ | .vamoCas _ _ _ _ q _ _
  | .vamoFadd _ _ _ _ _ q _ => q
  | _ => false

/-- An entry holds its thread at push until it completes (R186, R242, R252, R256). -/
def holdsThread (i : Instr) : Bool :=
  match i with
  | .hresSet _ _ | .syncAcq _ _ | .syncFenc _ | .syncBarr _ _ | .vwtc _ _ _ _ _ _ => true
  | i => vamoAq i

/-- The thread may execute its next instruction. -/
def canRun (t : Thread) : Bool :=
  decide (t.hold = .run) && !t.stopReq && !t.stopped && !t.vq.any (fun e => holdsThread e.instr)

/-! ## Ports and routes (R332, R338) -/

/-- The port interface that a route-table entry names, by its number among the counter pages; `none` when the entry is
invalid. -/
def routeOf (s : State) (peer : Nat) : Option Nat :=
  let e := fieldOf (drv s (0x11000 + peer / 4 * 8)) (16 * (peer % 4)) 16
  let p := bitsOf e 0 4
  if bitsOf e 15 1 = 0 ∨ bitsOf e 5 10 ≠ 0 then none
  else if bitsOf e 4 1 = 0 then (if p < 8 then some (17 + p) else none)
  else (if p < 4 then some (25 + p) else none)

/-! ## Sending (R329, R330) -/

/-- Flits of 256 bytes that a replay buffer of 96 MiB holds, and flits of a long-haul frame (R11, R330). -/
def replayFlits : Nat := 393216
def frameFlits : Nat := 32

/-- The flits of a packet leave in frames of up to 32 while the replay buffer has room, with fuel for the frames; every frame
stays there until it is acknowledged. Answers the flits that still wait (R330). -/
def sendFrames : Nat → Port → Nat → Port × Nat
  | 0, p, n => (p, n)
  | f + 1, p, n =>
    let k := min frameFlits n
    if n = 0 ∨ replayFlits < (p.replay.map (fun x => x.2)).sum + k then (p, n)
    else sendFrames f { p with txSeq := (p.txSeq + 1) % 2 ^ 32, replay := p.replay ++ [(p.txSeq, k)] } (n - k)

/-- Packets that wait at a long-haul port leave in order as far as its replay buffer has room; answers those that have left
whole. -/
def sendWaiting (p : Port) : List (Packet × Nat) → Port × List Packet
  | [] => ({ p with waiting := [] }, [])
  | (x, n) :: r =>
    let (q, m) := sendFrames (n / frameFlits + 1) p n
    if m = 0 then
      let (q, out) := sendWaiting q r
      (q, x :: out)
    else ({ q with waiting := (x, m) :: r }, [])

/-- Flits that wait at a port. -/
def waitingFlits (p : Port) : Nat := (p.waiting.map (fun x => x.2)).sum

/-- A long-haul port sends what it can of the packets that wait and of some more; TX counts the flits that leave (R323). -/
def pumpPort (s : State) (port : Nat) (more : List (Packet × Nat)) : State :=
  let p := tabGet {} s.ports port
  let l := p.waiting ++ more
  let (q, out) := sendWaiting p l
  bump { s with ports := tabPut s.ports port q, portOut := s.portOut ++ out.map (fun x => (port, x)) } (640 + port) 0
    ((l.map (fun x => x.2)).sum - waitingFlits q)

/-- A short-reach port has sent a packet of some flits, and remembers where it came from until it is acknowledged (R329). -/
def keepSent (p : Port) (n dest : Nat) (x : Packet) (src : Option Source) : Port :=
  { p with txSeq := (p.txSeq + n) % 2 ^ 32,
           sent := p.sent ++ [{ seq := p.txSeq, flits := n, dest := dest, packet := x, source := src }] }

/-- A packet as a port sends it: through a short-reach port its flits name a destination device and acknowledge what has arrived there
(R329). -/
def framed (s : State) (port dest : Nat) (x : Packet) : Packet :=
  if port < 25 then .flit dest (tabGet {} s.ports port).rxSeq x else x

/-- A packet for a device, with the source of a transfer, goes to a port: a long-haul port sends it as its replay buffer has room, a
short-reach port at once, keeping only where it comes from (R329, R330). A port that is down sends nothing. -/
def sendFrom (s : State) (port dest : Nat) (p : Packet) (src : Option Source) : State :=
  if portDown s port then s else
  let n := max 1 (Config.linkFlits s.uid)
  let s := { s with uid := s.uid + 1 }
  if port < 25 then
    bump { s with ports := tabPut s.ports port (keepSent (tabGet {} s.ports port) n dest p src),
                  portOut := s.portOut ++ [(port, framed s port dest p)] } (640 + port) 0 n
  else pumpPort s port [(p, n)]

/-- A packet that carries no transfer goes to the device at the far end of a port's link, of which this device knows no ordinal
(R336; log 54). -/
def sendPacket (s : State) (port : Nat) (p : Packet) : State := sendFrom s port (Config.farEnd port) p none

/-- The other devices of a collective, by ordinal (R344). -/
def collPeers (c : Coll) : List Nat :=
  ((c.levels.drop 1).flatMap (fun l => l.2)).dedup.filter (fun o => o ≠ Config.collOrdinal c.gid)

/-- A message of a collective goes to a device; `none` when it has no route (R348). -/
def sendColl (s : State) (peer : Nat) (m : CollMsg) : Option State :=
  match routeOf s peer with
  | none => none
  | some p => if portDown s p then none else some (sendFrom s p peer (.coll (useOf s (msgKey m)) m) none)

/-- Every other member learns that a collective ends with a code (R348). -/
def sendLost (code : Nat) (s : State) (c : Coll) : State :=
  (collPeers c).foldl (fun s o => (sendColl s o (.lost c.gid c.seq code)).getD s) s

/-! ## Link queues -/

/-- Every link queue is changed: those of threads and of the retirement trackers. -/
def modQueues (s : State) (f : List LCmd → List LCmd) : State :=
  { s with
    threads := s.threads.map (fun (e : Nat × Thread) => (e.1, { e.2 with lq := f e.2.lq })),
    clusters := s.clusters.map (fun (e : Nat × Cluster) => (e.1, { e.2 with
      tracker := e.2.tracker.map (fun (r : Retired) => { r with lq := f r.lq }) })) }

/-- A command is changed. -/
def modCmd (s : State) (uid : Nat) (f : LCmd → LCmd) : State :=
  modQueues s (fun l => l.map (fun c => if c.uid = uid then f c else c))

/-! ## Latch words (R241) -/

/-- The holder tag of a thread. -/
def tagOf (launch flat : Nat) : BitVec 56 := BitVec.ofNat 56 (launch % 2 ^ 32 * 2 ^ 24 + flat % 2 ^ 24)
/-- A latch word. -/
def latchWord (tag : BitVec 56) (sc : Nat) (broken held : Bool) : Word :=
  BitVec.ofNat 64 (tag.toNat * 256 + sc % 8 * 4 + 2 * broken.toNat + held.toNat)
def latchHeld (w : Word) : Bool := w.getLsbD 0
def latchBroken (w : Word) : Bool := w.getLsbD 1
def latchTag (w : Word) : BitVec 56 := w.extractLsb' 8 56
/-- 64 bits of memory. -/
def readWord (s : State) (pa : Nat) : Word := BitVec.ofNat 64 (natOfBytes (readBytes s.mem pa 8))
/-- 64 bits of memory are written. -/
def writeWord (s : State) (pa : Nat) (w : Word) : State := performWrite s pa (bytesOfNat 8 w.toNat)

/-- A latch a ending launch holds: HELD 0, BROKEN 1, HOLDER 0, SC as it was; no release (R244). -/
def breakLatchAt (s : State) (pa : Nat) : State :=
  if homeUp s pa then countAccess (writeWord s pa (latchWord 0 (fieldOf (readWord s pa) 2 3) true false)) pa else s

/-- The latch at an address of a context is broken when the tag holds it. -/
def breakLatch (s : State) (ctx : Nat) (tag : BitVec 56) (a : Word) : State :=
  let w := countOwnWalk s (localOrigin s 0) ctx a.toNat
  match xlateDirect s 0 ctx a.toNat needRW with
  | some pa => if latchHeld (readWord s pa) ∧ latchTag (readWord s pa) = tag then breakLatchAt w pa else w
  | none => w

/-- Latches held through link.lacq are broken at their targets when the thread ends (R340). -/
def breakRemotes (s : State) (tag : BitVec 56) (l : List RemoteLatch) : State :=
  l.foldl (fun s r => match r.port with
    | none => breakLatch s r.ctx tag r.addr
    | some p => sendPacket s p (.unlatch r.ctx r.addr tag)) s

/-- The link.lacq commands of a thread that ends: one that waits here leaves its latch's waiters, one that was sent is given
up at its target (R340). -/
def quitLacqs (s : State) (tag : BitVec 56) (l : List LCmd) : State :=
  let s := { s with waiters := s.waiters.filter (fun w =>
    ¬ (w.thread = none ∧ w.port = none ∧ l.any (fun c => c.uid = w.uid))) }
  l.foldl (fun s c => match c.instr, c.via with
    | .linkLacq _, some p => if c.begun then sendPacket s p (.unlatch (fieldAt c.desc 3 1) (BitVec.ofNat 64 (fieldAt c.desc 8 8)) tag)
        else s
    | _, _ => s) s

/-! ## Launch status (R270) and the end of a launch -/

/-- STATUS of a record. -/
def recStatus (raw : List Byte) : Nat := fieldAt raw 16 8

/-- The 64 bytes of a status block. -/
def statusBytes (state err tile flat id : Nat) (tcause tval tepc : Word) : List Byte :=
  bytesOfNat 1 state ++ bytesOfNat 1 err ++ bytesOfNat 2 tile ++ bytesOfNat 4 flat ++ bytesOfNat 8 id ++
  bytesOfNat 8 tcause.toNat ++ bytesOfNat 8 tval.toNat ++ bytesOfNat 8 tepc.toNat ++ bytesOfNat 24 0

/-- A launch's status block is written, at the end of a walk of its own (R323). -/
def writeStatus (s : State) (ctx : Nat) (raw : List Byte) (state err tile flat id : Nat) (tcause tval tepc : Word) : State :=
  (writeVirt (countOwnWalks s (localOrigin s 0) ctx (recStatus raw) 64) 0 ctx (recStatus raw) (statusBytes state err tile flat id tcause tval tepc)).1

/-- The queue of a launch identifier (R266). -/
def queueOf (id : Nat) : Nat := id % 64
/-- A queue's state. -/
def queueAt (s : State) (q : Nat) : LQueue := tabGet {} s.queues q
/-- A queue's state is replaced. -/
def setQueue (s : State) (q : Nat) (l : LQueue) : State := { s with queues := tabSet {} s.queues q l }
/-- The outcome of a launch enters its queue's table, unless a later launch of the queue has the place (R266). -/
def setOutcome (s : State) (id : Nat) (o : LOut) : State :=
  let q := queueAt s (queueOf id)
  if id / 64 < (tabGet (0, LOut.completed) q.outcomes (id / 64 % 1024)).1 then s
  else setQueue s (queueOf id) { q with outcomes := tabPut q.outcomes (id / 64 % 1024) (id / 64, o) }

/-- Tiles, slots and names of a thread return to its cluster at once, with what they held (R197). -/
def freeUnits (s : State) (tid : Nat) (t : Thread) : State :=
  let cl := tid / 4
  let c := clusterOf s cl
  let tiles := t.t.map (fun e => e.2) ++
    (t.tq.filter (fun e => match e.instr with | .tileOff _ => true | _ => false)).map (fun e => e.tile)
  let slots := t.q.map (fun e => e.2) ++
    (t.tq.filter (fun e => match e.instr with | .cdyRel _ _ => true | _ => false)).flatMap (fun e => e.slots)
  let c := { c with
    tileBusy := c.tileBusy.filter (fun x => ¬ x ∈ tiles),
    slotBusy := c.slotBusy.filter (fun x => ¬ x ∈ slots),
    slots := c.slots.filter (fun e => ¬ e.1 ∈ slots),
    tiles := c.tiles.filter (fun e => ¬ e.1 / 4096 ∈ tiles),
    tileWait := setDel c.tileWait (tid % 4), slotWait := setDel c.slotWait (tid % 4),
    deficit := tabErase c.deficit (tid % 4),
    seqRun := if c.seqRun = some (tid % 4) then none else c.seqRun }
  rsForget (setCluster s cl c) cl (tid % 4)

/-- A thread is removed with everything of its own that has not performed (R43). -/
def killThread (s : State) (tid : Nat) : State :=
  match threadAt s tid with
  | none => s
  | some t =>
    let s := t.latches.foldl (fun s a => breakLatch s t.ctx (tagOf t.launch t.flat) a) s
    let s := quitLacqs (breakRemotes s (tagOf t.launch t.flat) t.remote) (tagOf t.launch t.flat) t.lq
    let s := dropMisses (freeUnits s tid t) (tid / 4) t.uid
    dropThread { s with
      waiters := s.waiters.filter (fun w => w.thread ≠ some tid),
      releases := s.releases.filter (fun r => r.owner ≠ t.uid) } tid

/-- A byte of a save area as the context-save engine reads it for a tile, or for the scheduler: a free value where its home does not
answer or there is no way (log 37). -/
def areaByte (s : State) (tile : Option Nat) (a : Nat) : Byte := if upFrom s tile a then readByte s.mem a else Config.lostByte s.tick a
/-- `n` bytes of a save area. -/
def areaRead (s : State) (tile : Option Nat) (a n : Nat) : List Byte :=
  if homesFrom s tile a n then readBytes s.mem a n else (List.range n).map (fun i => areaByte s tile (a + i))

/-- A word of a save area. -/
def areaWord (s : State) (tile : Option Nat) (v : Saved) (off : Nat) : Word :=
  BitVec.ofNat 64 (natOfBytes (areaRead s tile (v.area + off) 8))
/-- Bytes of a save area. -/
def areaBytes (s : State) (tile : Option Nat) (v : Saved) (off n : Nat) : List Byte := areaRead s tile (v.area + off) n
/-- A number in a save area. -/
def areaNat (s : State) (tile : Option Nat) (v : Saved) (off n : Nat) : Nat := natOfBytes (areaBytes s tile v off n)

/-- Latches of a saved thread, from its save area (R292), without those whose release has been lost at a fenced home since (R313). -/
def savedLatches (s : State) (tile : Option Nat) (v : Saved) : List Word :=
  ((List.range (min 8 (areaNat s tile v 0xB 1))).map (fun k => areaWord s tile v (0x300 + 8 * k))).filter (fun a =>
    ¬ (a ∈ v.rels ∧ !s.releases.any (fun r => r.owner = v.uid ∧ r.addr = a)))

/-- Every thread of a launch on this device is ended: its latches are broken, what it had not performed has no effect,
its bindings, barriers and collectives go, of which the other devices learn (R43, R126, R244, R245, R348). Status, outcome and
event are the caller's. -/
def stopLaunch (s : State) (id : Nat) : State :=
  let mine := collsOf s id
  let s := mine.foldl (sendLost 9) s
  let s := (s.threads.filter (fun (e : Nat × Thread) => e.2.launch = id)).foldl
    (fun (s : State) (e : Nat × Thread) => killThread s e.1) s
  let s : State := match launchOf s id with
    | none => s
    | some l => l.saved.foldl (fun (s : State) (v : Saved) =>
        breakRemotes ((savedLatches s none v).foldl (fun (s : State) (a : Word) => breakLatch s l.ctx (tagOf id v.flat) a) s)
          (tagOf id v.flat) v.remote) s
  let gone : List Retired :=
    s.clusters.flatMap (fun (e : Nat × Cluster) => e.2.tracker.filter (fun (r : Retired) => r.launch = id))
  let s : State := gone.foldl (fun (s : State) (r : Retired) => quitLacqs (breakRemotes s r.tag r.remote) r.tag r.lq) s
  { s with
    pubs := s.pubs.filter (fun p => p.launch ≠ id),
    clusters := s.clusters.map (fun (e : Nat × Cluster) =>
      (e.1, { e.2 with tracker := e.2.tracker.filter (fun (r : Retired) => r.launch ≠ id) })),
    inflight := s.inflight.filter (fun r => r.launch ≠ id),
    bindings := s.bindings.filter (fun b => b.launch ≠ some id),
    barriers := s.barriers.filter (fun b => b.launch ≠ id),
    releases := s.releases.filter (fun r => ¬ (launchOf s id).any (fun l => l.saved.any (fun v => v.uid = r.owner))),
    colls := s.colls.filter (fun c => ¬ mine.any (fun x => x.gid = c.gid ∧ x.seq = c.seq)),
    collUses := mine.foldl (fun u c => countUse u c.gid c.seq) s.collUses,
    lostTables := s.lostTables ++ ((launchOf s id).map (fun l => l.groups.map (fun g => g.2))).getD [],
    launches := s.launches.filter (fun l => l.id ≠ id) }

/-- The record of a launch that still stands in its queue. -/
def queuedRec (s : State) (id : Nat) : Option QRec := (queueAt s (queueOf id)).recs.find? (fun r => r.id = id)

/-- A record leaves its queue; where it was the candidate, the scan goes on (R268). -/
def dropQueued (s : State) (id : Nat) : State :=
  let l := queueAt s (queueOf id)
  let held := decide (s.candidate = some (queueOf id)) && decide ((l.recs.head?.map (fun r => r.id)) = some id)
  setQueue { s with candidate := if held then none else s.candidate } (queueOf id) { l with recs := l.recs.filter (fun r => r.id ≠ id) }

/-- Status, outcome and event of a launch that has ended with STATE 4 or 5 (R43, R126, R270). -/
def endStatus (s : State) (id ctx : Nat) (raw : List Byte) (state tile flat : Nat) (tcause tval tepc : Word) : State :=
  let s := writeStatus s ctx raw state 0 tile flat id tcause tval tepc
  let s := setOutcome s id (if state = 4 then .domainLost else .trapped)
  if state = 4 then postEvent s 6 (dieOfTile tile) (BitVec.ofNat 64 id) (BitVec.ofNat 64 tile) else s

/-- A launch ends with STATE 4 or 5; one of which nothing has been placed here leaves its queue, and is never placed (R43, R126,
R270). -/
def endLaunch (s : State) (id state tile flat : Nat) (tcause tval tepc : Word) : State :=
  match launchOf s id, queuedRec s id with
  | some l, _ => endStatus (stopLaunch s id) id l.ctx l.raw state tile flat tcause tval tepc
  | none, some r => endStatus (dropQueued s id) id r.ctx r.raw state tile flat tcause tval tepc
  | none, none => s

/-! ## Taking a trap (R126, R289) -/

/-- A trap is taken: scalar (`vec` false) or vector-side with its k. Inside a handler it is nested and ends the launch;
without a handler it ends the launch; else the thread enters its handler. -/
def takeTrap (s : State) (tid : Nat) (cause : BitVec 8) (tval tepc : Word) (vec : Option Nat) : State :=
  match threadAt s tid with
  | none => s
  | some t =>
    let s := if vec.isSome then bump s (tid / 4) 14 1 else s
    let code : Word := cause.zeroExtend 64
    if inh t then endLaunch s t.launch 5 0 t.flat (code ||| 0x8000000000000000#64) tval tepc
    else
      let csr := { t.csr with
        tcause := code, tval := tval, tepc := tepc &&& ~~~3#64,
        tstat := tstatOf true (t.held ≠ []) vec.isSome,
        vesr := match vec with | some k => BitVec.ofNat 64 k | none => t.csr.vesr }
      if t.csr.thand = 0 then endLaunch s t.launch 5 0 t.flat code tval csr.tepc
      else setThread s tid { t with csr := csr, pc := t.csr.thand, hold := .run }

/-- A scalar trap of the thread's current instruction (R125). -/
def scalarTrap (s : State) (tid : Nat) (cause : BitVec 8) (tval tepc : Word) : State := takeTrap s tid cause tval tepc none

/-! ## Held entries and their records (R290, R292) -/

/-- An entry record of 128 bytes. `step` is for tile-queue records. -/
def entryBytes (word : IWord) (cap : Cap) (k : Nat) (hnd : Bool) (eb : Option Word) (step : Nat) : List Byte :=
  bytesOfNat 4 word.toNat ++ bytesOfNat 4 (1 + 2 * hnd.toNat + 8 * eb.isSome.toNat + 16 * step) ++
  bytesOfNat 8 cap.pc.toNat ++ bytesOfNat 8 cap.xd.toNat ++ bytesOfNat 8 cap.xa.toNat ++ bytesOfNat 8 cap.xb.toNat ++
  bytesOfNat 8 k ++
  ([cap.vfmt, cap.vrows, cap.vcols, cap.vmode, cap.srseed, cap.srbase, cap.stctl, cap.stloss, cap.rsctl].flatMap
    (fun w => bytesOfNat 8 w.toNat)) ++
  bytesOfNat 8 (eb.getD 0).toNat

/-- The record of a vector-queue entry. -/
def vqRecord (e : Entry) : List Byte := entryBytes ((encode e.instr).getD 0) e.cap e.k e.hnd e.eb 0

/-- The captured values a record holds; its word, address and other flags are the entry's own (R290). -/
def capOfRecord (r : List Byte) (pc : Word) : Cap :=
  let w (off : Nat) : Word := BitVec.ofNat 64 (fieldAt r off 8)
  { pc := pc, xd := w 16, xa := w 24, xb := w 32, vfmt := w 48, vrows := w 56, vcols := w 64, vmode := w 72,
    srseed := w 80, srbase := w 88, stctl := w 96, stloss := w 104, rsctl := w 112, vesr := w 40 }

/-- A held entry as its record now stands; `none` when DROP is set (R290). -/
def entryOfRecord (e : Entry) (r : List Byte) : Option Entry :=
  if bitsOf (fieldAt r 4 4) 2 1 = 1 then none else
  some { e with cap := capOfRecord r e.cap.pc, k := fieldAt r 40 8,
                eb := e.eb.map (fun _ => BitVec.ofNat 64 (fieldAt r 120 8)), boxes := [], begun := false }

/-- The held entries are written to the save area as KIND 1 records before the handler's first instruction, and NVQ says how
many there are, none included (R290). What falls on a home that cannot perform it, or to which the cluster's tile has no way, is lost (R223,
R312; log 37). -/
def saveHeld (s : State) (tile area : Nat) (held : List Entry) : State :=
  let hdr := [0x55#8, 0x42#8, 0x53#8, 0x41#8] ++ bytesOfNat 2 1 ++ bytesOfNat 1 1
  let s := physWrite (physWrite s (some tile) area hdr) (some tile) (area + 8) (bytesOfNat 1 held.length)
  (held.zipIdx).foldl (fun s e => physWrite s (some tile) (area + 0x1000 + 128 * e.2) (vqRecord e.1)) s

/-- The push copies become the committed copies, and recomputations of markers that have not completed leave delivery
(R183), so that no push stalls for one. -/
def dropPush (t : Thread) : Thread :=
  { t with kpush := t.kcomm, h := t.h.map (fun e => (e.1, { e.2 with push := e.2.comm })), stallOn := [],
           recomps := t.recomps.filter (fun r => r.landing) }

/-- The scalar access and the instruction fetch of a thread end, as far as they wait for a translation. -/
def endScalar (s : State) (cl owner : Nat) : State := endMiss (endMiss s cl owner owner) cl owner 0

/-- The entry at vcp raises a trap at element k (R29, R289). `done` says that the entry has completed before its trap is
taken, so that only the entries after it are held. -/
def vectorTrap (s : State) (tid : Nat) (cause : BitVec 8) (tval : Word) (k : Nat) (done : Bool) : State :=
  match threadAt s tid with
  | none => s
  | some t =>
    match t.vq with
    | [] => s
    | e :: rest =>
      let s := endMiss s (tid / 4) t.uid e.uid
      let e := { e with k := k, begun := false, sat := [] }
      if inh t ∧ e.hnd = false then
        setThread s tid { t with vq := e :: rest, deferred := some (cause, tval) }
      else if inh t then takeTrap s tid cause tval t.pc (some k)
      else
        let held := (if done then rest else e :: rest) ++ (match t.hold with
          | .repush l => l
          | .run | .eRead _ _ | .qord _ | .push | .lost => [])
        let t := dropPush { t with vq := [], held := held, deferred := none, hold := .run }
        let s := rsDropLoads (setThread (endScalar s (tid / 4) t.uid) tid t) (tid / 4) (tid % 4)
        takeTrap (saveHeld s (tileOfCluster (tid / 4)) t.area held) tid cause tval t.pc (some k)

/-! ## The push of a vector-side instruction (R22 to R26) -/

/-- Why a push finds no room: a full queue (R25), a third recomputation in delivery (R177), a full count (R318). A push that
recomputes a register with two in delivery stalls also where its own recomputation would have no traveling element: R177 does not
say whether that one counts as the third (DESIGN CHOICE, log 103). -/
def pushBlocked (s : State) (t : Thread) (i : Instr) (changed : Bool) (regs : List Nat) : Bool :=
  decide (64 ≤ t.vq.length) ||
  regs.any (fun n => 2 ≤ inDelivery t n) ||
  (countsL0 i && decide (classMax ≤ classCount s t 0)) ||
  (countsL1 i && decide (classMax ≤ classCount s t 1)) ||
  (isMarker i changed && decide (classMax ≤ classCount s t 2)) ||
  (countsL4 i && decide (classMax ≤ classCount s t 4))

/-- What a push stalls for under R177: of each register that it would give a third recomputation in delivery, the older of the two. -/
def olderOf (t : Thread) (e : Entry) : List (Nat × Nat) :=
  (pushCopies t e.instr e.cap).2.filterMap (fun n => match t.recomps.filter (fun r => r.h = n ∧ r.counts) with
    | a :: _ :: _ => some (n, a.marker)
    | _ => none)

/-- A thread that has stalled waits on: one of the older recomputations is still in delivery (R177). -/
def stallHeld (t : Thread) : Bool := t.stallOn.any (fun x => t.recomps.any (fun r => r.h = x.1 ∧ r.marker = x.2 ∧ r.counts))

/-- VSET at push (R142). -/
def vsetEffect (t : Thread) (i : Instr) : Thread :=
  let go (f : Word) (a b : Reg) : Thread :=
    let cols := min (rx t a).toNat (vlmax f)
    let rows := if cols = 0 then 0 else min (rx t b).toNat (vlmax f / cols)
    { t with csr := { t.csr with vfmt := f, vcols := BitVec.ofNat 64 cols, vrows := BitVec.ofNat 64 rows } }
  match i with
  | .vsetLen a b => go t.csr.vfmt a b
  | .vsetLenf a b g ty => go ((0 : BitVec 58) ++ g.code ++ ty.code) a b
  | _ => t

/-- An entry enters the queue of a thread with the effects a push makes: KCNT, HRES and VSET on the push copies and
CSRs, and the fetches of a marker (R142, R174, R175, R186). `none` when the push must stall. -/
def enqueue (s : State) (tid : Nat) (t : Thread) (e : Entry) : Option State :=
  let (t', regs) := pushCopies t e.instr e.cap
  let changed := decide ((kcntEffect e.instr e.cap t.kpush).2 ≠ [])
  if pushBlocked s t e.instr changed regs then none else
  let olds := regs.map (fun n => (n, (tabFind t.h n).map (fun h => h.push.lo)))
  let e := { e with boxes := regs.filterMap (fun n => (tabFind t'.h n).map (fun h => (n, h.push.lo))), changed := changed }
  let (s, rs) := recomputeAll s tid t' e.uid olds
  some (setThread s tid { t' with vq := t'.vq ++ [e], recomps := t'.recomps ++ rs })

/-- A vector-side instruction of the thread is pushed: the checks of R26 and R45, the stall of R25, the capture of R23,
the clearing of vesr (R137); the pc then advances. -/
def push (s : State) (tid : Nat) (i : Instr) : State :=
  match threadAt s tid with
  | none => s
  | some t =>
    if !pushLegal s t i then scalarTrap s tid causeIllegal (wordVal i) t.pc
    else if t.vrelPushed then scalarTrap s tid causeVreleased 0 t.pc
    else
      let cap := captureOf t i
      let e : Entry := { uid := s.uid, instr := i, cap := cap, k := cap.vesr.toNat, hnd := inh t }
      let t1 := vsetEffect { t with csr := { t.csr with vesr := 0 }, pc := t.pc + 4,
                                    vrelPushed := decide (i = .vrel), hold := .run } i
      match enqueue { s with uid := s.uid + 1 } tid t1 e with
      | some s => s
      | none => setThread s tid { t with hold := .push, stallOn := olderOf t1 e }

/-- exec of a vector-side instruction: its push by the current thread. -/
def pushCur (s : State) (i : Instr) : State := push s s.cur i

/-! ## Completion and the current thread -/

/-- The accesses of an entry end, as far as they wait for a translation. -/
def endEntry (s : State) (tid : Nat) (t : Thread) : State :=
  match t.vq with
  | [] => s
  | e :: _ => endMiss s (tid / 4) t.uid e.uid

/-- The entry at vcp completes and leaves the queue (R27); VQ_DONE counts it. -/
def completeHead (s : State) (tid : Nat) : State :=
  match threadAt s tid with
  | none => s
  | some t => bump (setThread (endEntry s tid t) tid { t with vq := t.vq.drop 1 }) (tid / 4) 0 1

/-- The entry at vcp is changed. -/
def modHead (s : State) (tid : Nat) (f : Entry → Entry) : State :=
  match threadAt s tid with
  | none => s
  | some t => setThread s tid { t with vq := match t.vq with | [] => [] | e :: r => f e :: r }

/-- A thread's state is changed. -/
def modThread (s : State) (tid : Nat) (f : Thread → Thread) : State :=
  match threadAt s tid with
  | none => s
  | some t => setThread s tid (f t)

/-- An instruction of the current thread: `f` gives the state from the thread; without such a thread nothing changes. -/
def onCur (s : State) (f : Thread → State) : Host.Outcome State Fault Refusal :=
  match threadAt s s.cur with
  | none => .next s
  | some t => .next (f t)

/-- The current thread writes x[d] and goes on at the next instruction. -/
def writeX (s : State) (t : Thread) (d : Reg) (v : Word) : State :=
  setThread s s.cur { wx t d v with pc := t.pc + 4 }

/-! ## Return from a trap (R30, R126, R290) -/

/-- The held entries as their records now stand and the engine reads them from the thread's tile, in order, without those dropped. -/
def heldNow (s : State) (t : Thread) : List Entry :=
  (t.held.zipIdx).filterMap (fun e => entryOfRecord e.1 (areaRead s (tileOfOwner s t.uid) (t.area + 0x1000 + 128 * e.2) 128))

/-- A scalar store of a thread has not performed. -/
def storesOut (s : State) (owner : Nat) : Bool :=
  s.inflight.any (fun r => decide (r.owner = owner) && (reqBytes r.kind).isSome)

/-- Entries are pushed again in order with their captured values, each under a new number; the first that must stall holds
the thread with those that follow it (log 20). None of the checks of a first push is made again. The captured vfmt that a handler has
changed in a record is not checked against R57 and R58, of which R290 says nothing (DESIGN CHOICE, log 116). The condition of a QORD is
not tested again: R277 does not say whether an entry that a trap or a save has held tests it when it is pushed again (DESIGN CHOICE,
log 125). An entry held by a trap whose handler has itself executed VREL runs on the released thread and raises no
vector-released trap at this push: R278 does not say which (DESIGN CHOICE, log 126). -/
def repush (s : State) (tid : Nat) : List Entry → State
  | [] => s
  | e :: r =>
    match threadAt s tid with
    | none => s
    | some t =>
      match enqueue { s with uid := s.uid + 1 } tid t { e with uid := s.uid, again := true } with
      | some s => repush s tid r
      | none => setThread s tid { t with hold := .repush (e :: r), stallOn := olderOf t e }

/-- Entries that a thread has still to push again. -/
def toPush (t : Thread) : List Entry :=
  match t.hold with
  | .repush l => l
  | .run | .eRead _ _ | .qord _ | .push | .lost => []

/-- The elements of every poisoned line of a thread are fetched again, which leaves the line empty until they land (R181);
stored elements keep their bits (R193). A line with a pending slot is not poisoned yet (R175), and is left as it is. -/
def reissuePoisoned (s : State) (tid : Nat) : State :=
  match threadAt s tid with
  | none => s
  | some t =>
    t.h.foldl (fun s e =>
      match threadAt s tid with
      | none => s
      | some t =>
        match tabFind t.h e.1 with
        | none => s
        | some h =>
          let lines := ((h.failed.map (fun f => slotLine h f.slot)).dedup).filter (fun l => lineState t e.1 h l = .poisoned)
          if lines = [] then s else
          let slots := (lines.flatMap (slotsOfLine h)).filter (fun k => ¬ k ∈ h.dirty)
          let left := h.failed.filter (fun f => ¬ slotLine h f.slot ∈ lines)
          let (s, t) := refetch s tid { t with h := tabPut t.h e.1 { h with failed := left } } e.1 h slots
          setThread s tid t) s

/-- The deferred trap of the entry at vcp is taken, now that INH is 0 (R289). -/
def takeDeferred (s : State) (tid : Nat) : State :=
  match threadAt s tid with
  | none => s
  | some t =>
    match t.deferred, t.vq with
    | some (c, v), e :: _ => vectorTrap (setThread s tid { t with deferred := none }) tid c v e.k false
    | _, _ => s

/-- sys.tret (R126): outside a handler the bad-trap-return trap; with held entries it waits until the queue is empty and
every scalar store of the thread has performed (R290), fetches poisoned lines again and pushes the held entries again, each with
the HND that it recorded at its first push (R289, R290; log 20); INH and HELD clear and the pc is tepc. -/
def trapReturn (s : State) (tid : Nat) : State :=
  match threadAt s tid with
  | none => s
  | some t =>
    if !inh t then scalarTrap s tid causeBadTret 0 t.pc
    else
      let t' := { t with held := [], pc := t.csr.tepc, csr := { t.csr with tstat := 0 } }
      if t.csr.tstat.getLsbD 1 then
        if t.vq ≠ [] ∨ storesOut s t.uid then s
        else repush (reissuePoisoned (setThread s tid t') tid) tid (heldNow s t)
      else takeDeferred (setThread s tid t') tid

end Sys2Proof.Machine
end

