-- ==== Sys2Proof/Machine/Finish.lean ====
section
/-! DEFINITION. The end of a thread: the effect of VREL (R45, R182), barriers a thread leaves (R250) and thread-end (R46,
R127). -/

namespace Sys2Proof.Machine

/-- Everything of the vector side is given up (R45): dirty elements are written back, slots and tiles return to the
cluster, registers are dead, lane groups are free. False while some element must still wait (R318). -/
def vrelEffect (s : State) (tid seq : Nat) : State × Bool :=
  match cleanRegs s tid seq (((threadAt s tid).map (fun t => t.h.map (fun e => e.1))).getD []) with
  | (s, false) => (s, false)
  | (s, true) =>
    let s := postLost s tid
    match threadAt s tid with
    | none => (s, true)
    | some t =>
      (setThread (freeUnits s tid t) tid { t with v := [], vext := [], p := [], h := [], recomps := [], t := [], q := [],
                                                  lgrp := none, vreleased := true }, true)

/-- The members of a group of a level: how many threads it holds (R33). -/
def groupThreads (raw : List Byte) (lvl : Nat) : Nat :=
  ((List.range (lvl + 1)).map (fun i => lvlMembers (recLevel raw i))).foldl (· * ·) 1

/-- Threads of a group of a level on one device: levels of domain peer group or system count one member. -/
def groupHere (raw : List Byte) (lvl : Nat) : Nat :=
  ((List.range (lvl + 1)).map (fun i => if 5 < lvlDomain (recLevel raw i) then 1 else lvlMembers (recLevel raw i))).foldl
    (· * ·) 1

/-! ## Barrier state (R240, R247) -/

/-- The sum of two counts, which stays at 2^32 - 1 when it would exceed it (R248). -/
def satAdd (a b : Nat) : Nat := min (a + b) (2 ^ 32 - 1)

/-- The tile of the home slice of a barrier's state, and whether it is in service (R240, R313). -/
def barrierTile (launch lvl group : Nat) : Nat := tileOfSlice (Config.barrierHome launch lvl group % 160)
def barrierUp (s : State) (launch lvl group : Nat) : Bool := inService s (barrierTile launch lvl group)

/-- An operation that comes from a tile gets to a barrier (R7, R10, R312), and no router on its way has stopped (R307). -/
def barrierReached (s : State) (tile : Option Nat) (launch lvl group : Nat) : Bool :=
  barrierUp s launch lvl group && wayTo s tile (barrierTile launch lvl group) && !stuckTo s tile (barrierTile launch lvl group)

/-- The cycle at a barrier's home. -/
def barrierNow (s : State) (b : Barrier) : Nat := tabGet 0 s.cycles (Config.barrierHome b.launch b.lvl b.group % 160 / 40)

/-- A phase completes in cycle `c`; the next one completes a cycle later if arrivals that carry over suffice (R247). R250 does not say
whether a thread whose arrival carries over has already arrived in the next phase when it ends: here no thread has, and such a thread
arrives once more (DESIGN CHOICE, log 121). -/
def completePhase (b : Barrier) (c : Nat) : Barrier :=
  let expect := satAdd b.live b.next
  let arrived := b.arrived - b.expect
  { b with phase := (b.phase + 1) % 2 ^ 32, arrived := arrived, expect := expect, next := b.late, late := 0, came := [],
           dueAt := if expect ≤ arrived then some (c + 1) else none }

/-- What the cycles before `now` leave of a barrier: phases that were due complete, and expectations of a cycle without a
completion have joined EXPECT. The fuel is the number of phases that arrivals can complete. -/
def settlePhases (now : Nat) : Nat → Barrier → Barrier
  | 0, b => b
  | f + 1, b =>
    match b.dueAt with
    | some c => if c < now then settlePhases now f (completePhase b c) else b
    | none => if b.lateAt < now then { b with expect := satAdd b.expect b.late, late := 0 } else b

/-- A barrier as its home holds it in the present cycle. -/
def settled (s : State) (b : Barrier) : Barrier := settlePhases (barrierNow s b) (b.arrived + 2) b

/-- One arrival in the present cycle, of a thread or of none: it makes the phase due once ARRIVED reaches EXPECT (R247). -/
def arriveOne (s : State) (owner : Option Nat) (b : Barrier) : Barrier :=
  let b := settled s b
  let n := satAdd b.arrived 1
  { b with arrived := n, came := match owner with | some u => setAdd b.came u | none => b.came,
           dueAt := if b.dueAt.isSome then b.dueAt else if b.expect ≤ n then some (barrierNow s b) else none }

/-- An expectation in the present cycle (R247, R248). -/
def expectMore (s : State) (x : Nat) (b : Barrier) : Barrier :=
  let b := settled s b
  { b with late := satAdd b.late x, lateAt := barrierNow s b }

/-- A group's barrier state. -/
def barrierOf (s : State) (launch lvl group : Nat) : Option Barrier :=
  s.barriers.find? (fun b => b.launch = launch ∧ b.lvl = lvl ∧ b.group = group)

/-- A group's barrier state is changed. -/
def modBarrier (s : State) (launch lvl group : Nat) (f : Barrier → Barrier) : State :=
  { s with barriers := s.barriers.map (fun b => if b.launch = launch ∧ b.lvl = lvl ∧ b.group = group then f b else b) }

/-- A thread that ends leaves the gang groups it is in (R250): one live thread fewer from the next phase on, one arrival
in this phase unless it has arrived; a group without threads releases its state. -/
def leaveBarriers (s : State) (t : Thread) (raw : List Byte) : State :=
  { s with barriers := (s.barriers.map (fun b =>
      if b.launch = t.launch ∧ b.group = t.flat / groupThreads raw b.lvl then
        let b := settled s b
        let b := if t.uid ∈ b.came then b else arriveOne s (some t.uid) b
        { b with live := b.live - 1 }
      else b)).filter (fun b => b.live ≠ 0) }

/-- A launch that RESTORE has written back waits until its queue is enabled (R356). -/
def isParked (s : State) (launch : Nat) : Bool := (launchOf s launch).any (fun l => l.parked)

/-- Step 4 of thread-end (R46): the outstanding stores and link commands go to the retirement tracker and the slot is
freed. -/
def retire (s : State) (tid : Nat) (t : Thread) : State :=
  let c := clusterOf s (tid / 4)
  let r : Retired := { uid := t.uid, launch := t.launch, ctx := t.ctx, tag := tagOf t.launch t.flat, lq := t.lq, remote := t.remote }
  let s := setCluster s (tid / 4) { c with tracker := c.tracker ++ [r] }
  let s := match launchOf s t.launch with
    | some l => leaveBarriers s t l.raw
    | none => s
  dropThread (endScalar s (tid / 4) t.uid) tid

/-- sys.tend (R46, R127): the thread waits for its earlier entries and releases, traps while it holds a latch, performs
VREL once its tile queue is empty (R278), and leaves when the tracker has room. A thread that waits stays at the instruction. -/
def threadEnd (s : State) (tid : Nat) : State :=
  match threadAt s tid with
  | none => s
  | some t =>
    if t.vq ≠ [] ∨ s.releases.any (fun r => r.owner = t.uid) then s
    else if t.latches ≠ [] then scalarTrap s tid causeLatchHeld 0 t.pc
    else if !t.vreleased && decide (t.tq ≠ []) then s
    else
      let s := setThread s tid { t with held := [] }
      match (if t.vreleased then (s, true) else vrelEffect s tid s.uid) with
      | (s, false) => s
      | (s, true) =>
        match threadAt s tid with
        | none => s
        | some t =>
          if Config.trackerCap ≤ (clusterOf s (tid / 4)).tracker.length then s else retire s tid t

end Sys2Proof.Machine
end

