-- ==== Sys2Proof/Machine/Elem.lean ====
section
/-! DEFINITION. The elementwise scheme (R132 to R140): element groups, governing masks, e operands, mask destinations. -/

namespace Sys2Proof.Machine

/-- Numbers from `a` up to `b`, `b` left out. -/
def span (a b : Nat) : List Nat := (List.range (b - a)).map (fun i => a + i)

/-- The end of the element group that holds element k, for elements of w bits (R133). -/
def groupEnd (w k : Nat) : Nat := (k / (512 / w) + 1) * (512 / w)

/-- What a grant does for an entry that needs lanes. -/
inductive Work where
  /-- element groups of destination `d`, governed by mask `p`, elements of `w` bits -/
  | groups (d p w : Nat) (f : Nat → Nat)
  /-- bits of mask register `d` (R138), element groups of `w`-bit elements -/
  | bits (d p w : Nat) (f : Nat → Bool)
  /-- everything in one step (R151) -/
  | whole (g : Thread)

/-- What one turn of an entry at vcp does: it completes, commits a part and stays, waits, or traps at element k. -/
inductive Res where
  | done (s : State)
  | more (s : State)
  | wait (s : State)
  | trap (s : State) (cause : BitVec 8) (tval : Word) (k : Nat)

/-- Elements of one group, from k on, are written where active and governed (R134). The values come from the thread as it
stood before the group. -/
def writeGroup (t : Thread) (p d w lo hi : Nat) (f : Nat → Nat) : Thread :=
  (span lo hi).foldl (fun u i => if maskBit t p i then setElem u d w i (f i) else u) t

/-- One bit of a mask register. -/
def setBitAt (v : VReg) (i : Nat) (b : Bool) : VReg := withBits v i 1 b.toNat

/-- pN := v; p0 is never a destination. -/
def wp (t : Thread) (p : Nat) (v : VReg) : Thread := if p = 0 then t else { t with p := tabSet 0 t.p p v }

/-- Bits of a mask destination for the elements from `lo` to `hi` (R138). -/
def writeBits (t : Thread) (p d lo hi : Nat) (f : Nat → Bool) : Thread :=
  wp t d ((span lo hi).foldl (fun v i => setBitAt v i (maskBit t p i && f i)) (rp t d))

/-- Bits from n on of a mask destination become 0 (R138). -/
def clearFrom (t : Thread) (d n : Nat) : Thread := wp t d (rp t d &&& BitVec.ofNat 16384 (2 ^ n - 1))

/-- The B operand of element i: the e value read once (R139), or the element of the B group. -/
def bOperand (t : Thread) (e : Entry) (isE : Bool) (b : Reg) (w i : Nat) : Nat :=
  if isE then (e.eb.getD 0).toNat % 2 ^ w else elem t b.toNat w i

/-- Element (0,0) of vD receives the low bits of a 64-bit result, under the captured vfmt (R140). -/
def writeE (t : Thread) (c : Cap) (d : Reg) (v : Nat) : Thread :=
  setElem t d.toNat (vfmtW c.vfmt) 0 (v % 2 ^ vfmtW c.vfmt)

/-- The rounding mode of element i of an entry (R100, R101). -/
def modeOf (c : Cap) (i : Nat) : RMode := modeFor c.vmode c.srseed c.srbase i

end Sys2Proof.Machine
end

