-- ==== Sys2Proof/Machine/Order.lean ====
section
/-! DEFINITION. Program order at the homes (R120, R228 to R237, R253): what a request touches, which of a thread's operations
perform before which, and what a release waits for (R232); and the order of the host's accesses (R239). -/

namespace Sys2Proof.Machine

/-- Two regions overlap. -/
def rangesMeet (a n b m : Nat) : Bool := decide (max a b < min (a + n) (b + m))

/-! ## VAMO (R251, R252) -/

/-- The fields of a VAMO. -/
structure Amo where
  op : AmoOp
  d : Reg
  b : Reg
  p : PReg
  ret : Bool
  aq : Bool
  rl : Bool
  w64 : Bool

/-- The VAMO that an instruction is. -/
def amoOf : Instr → Option Amo
  | .vamoAdd d _ b p r q l w => some ⟨.add, d, b, p, r, q, l, w⟩
  | .vamoMin d _ b p r q l w => some ⟨.min, d, b, p, r, q, l, w⟩
  | .vamoMax d _ b p r q l w => some ⟨.max, d, b, p, r, q, l, w⟩
  | .vamoAnd d _ b p r q l w => some ⟨.and, d, b, p, r, q, l, w⟩
  | .vamoOr d _ b p r q l w => some ⟨.or, d, b, p, r, q, l, w⟩
  | .vamoXor d _ b p r q l w => some ⟨.xor, d, b, p, r, q, l, w⟩
  | .vamoSwap d _ b p r q l w => some ⟨.swap, d, b, p, r, q, l, w⟩
  | .vamoCas d _ b p q l w => some ⟨.cas, d, b, p, true, q, l, w⟩
  | .vamoFadd d _ b p r q l => some ⟨.fadd, d, b, p, r, q, l, false⟩
  | _ => none

/-- The address of element i: x[A] + index × s, modulo 2^64 (R252, R256). -/
def atomEa (t : Thread) (c : Cap) (b : Reg) (s i : Nat) : Word :=
  c.xa + BitVec.ofNat 64 (elem t b.toNat (8 * s) i * s)

/-! ## What an operation touches -/

/-- Bytes that a request touches from its address on. -/
def reqSpan : ReqKind → Nat × Nat
  | .store pa l | .writeBack pa l => (pa, l.length)
  | .planes pa _ p _ => (pa, 32 * p)
  | .merge pa ty _ => (pa, ty.bits / 8)
  | .atom pa _ w64 _ => (pa, if w64 then 8 else 4)

/-- A scalar store, whose order at one home is program order (R229). -/
def isStore : ReqKind → Bool
  | .store _ _ => true
  | .writeBack _ _ | .planes _ _ _ _ | .merge _ _ _ | .atom _ _ _ _ => false
/-- A write-back: R237 leaves it unordered with a later scalar store to the same bytes. A merge of an accw.mrge is none. -/
def isBack (r : Req) : Bool :=
  match r.kind with
  | .writeBack _ _ | .planes _ _ _ _ => true
  | .merge _ _ _ => !r.part
  | .store _ _ | .atom _ _ _ _ => false

/-- A virtual address of a thread translates into a physical range. -/
def touchesAt (s : State) (t : Thread) (va : Int) (w : Nat) (need : Need) (pa n : Nat) : Bool :=
  decide (0 ≤ va) && (xlateDirect s t.uid t.ctx va.toNat need).any (fun a => rangesMeet a w pa n)

/-- The entries of a thread's queue ahead of an entry. -/
def entriesAhead (t : Thread) (e : Entry) : List Entry := t.vq.takeWhile (fun x => x.uid ≠ e.uid)

/-- An entry may write a register of a group of `g` registers, or a mask register. -/
def mayWrite (v g p : Nat) (x : Entry) : Bool :=
  (destRegs x.cap.vfmt x.instr).any (fun d => (List.range g).any (fun k => (v + k) % 32 = d)) ||
  decide (p ≠ 0 ∧ (maskDest x.instr = some p ∨ (countsL0 x.instr = true ∧ maskOf x.instr = p)))

/-- An entry may change the dirty elements of a register or its box. -/
def mayMove (h : Nat) (x : Entry) : Bool :=
  isMarker x.instr true || (match x.instr with
    | .accwUpd d _ _ _ _ | .accwMrge d _ | .accwClr d _ | .hresClr d => decide (d.toNat = h)
    | _ => false)

/-- A queued VAMO, accw.mrge or sync.rel may touch a physical range. Where an entry ahead of it may still change the addresses
it will take, any range is one it may touch (log 82). -/
def mayTouch (s : State) (t : Thread) (e : Entry) (pa n : Nat) : Bool :=
  match amoOf e.instr with
  | some m =>
    let w := if m.w64 then 8 else 4
    (entriesAhead t e).any (mayWrite m.b.toNat (vfmtGm e.cap.vfmt) m.p.toNat) ||
    (span e.k (nElems e.cap)).any (fun i => maskBit t m.p.toNat i &&
      touchesAt s t ((atomEa t e.cap m.b w i).toNat : Int) w needRW pa n)
  | none =>
    match e.instr with
    | .syncRel _ _ => touchesAt s t (e.cap.xa.toNat : Int) 8 needRW pa n
    | .accwMrge d _ =>
      (entriesAhead t e).any (mayMove d.toNat) || (match tabFind t.h d.toNat with
        | none => false
        | some h => h.dirty.any (fun k =>
            let c := coordOfSlot h.comm.lo (boxW h.blk) k
            !isClipped h.td h.comm.limit c && touchesAt s t (elemVa h.td c) (tySize (tdType h.td)) needW pa n))
    | _ => false

/-! ## Which performs first -/

/-- Two requests of one thread, the first earlier in program order, perform in that order: scalar stores to one home, requests
to overlapping bytes, which are all of the stores class, but for a write-back and a later scalar store, and strong accesses
(R229, R230, R235, R237, R253, R272). -/
def mustPrecede (a b : Req) : Bool :=
  let x := reqSpan a.kind
  let y := reqSpan b.kind
  decide (a.owner = b.owner ∧ (a.seq < b.seq ∨ (a.seq = b.seq ∧ a.uid < b.uid))) &&
  ((isStore a.kind && isStore b.kind && decide (homeOf x.1 = homeOf y.1)) ||
   (!(isBack a && isStore b.kind) && rangesMeet x.1 x.2 y.1 y.2) ||
   (a.strong && b.strong && decide (a.seq < b.seq)))

/-- The thread of an owner, while it runs. -/
def threadOfOwner (s : State) (owner : Nat) : Option Thread := (s.threads.find? (fun e => e.2.uid = owner)).map (fun e => e.2)

/-- The entries of a thread's queue that come earlier in program order than what it issues now and may still perform before it:
none once the trap of the entry at vcp waits for the thread's handler to return (R289), and none of a thread that has been stopped,
whose stores perform before it is saved while its queue starts again after the restore (R238, R291; log 128). -/
def queueBefore (t : Thread) : List Entry := if t.deferred.isSome || t.stopped then [] else t.vq

/-! ### Latches through LINK (R226, R340) -/

/-- PEER of a remote descriptor (R335), and this device. -/
def rdPeer (d : List Byte) : Nat := fieldAt d 0 2
def rdLocal (d : List Byte) : Bool := rdPeer d = 0xFFFF

/-- link.lacq and link.lrel, which are latch operations and so strong (R226, R236). -/
def isLinkLatch : Instr → Bool
  | .linkLacq _ | .linkLrel _ => true
  | _ => false

/-- A command of a thread's link queue, in its cluster, in a retirement tracker or saved, comes before a number and is of a kind. -/
def cmdBefore (s : State) (owner n : Nat) (p : LCmd → Bool) : Bool :=
  let has (l : List LCmd) : Bool := l.any (fun c => decide (c.uid < n) && p c)
  s.threads.any (fun e => e.2.uid = owner && has e.2.lq) ||
  s.clusters.any (fun e => e.2.tracker.any (fun r => r.uid = owner && has r.lq)) ||
  s.launches.any (fun l => l.saved.any (fun v => v.uid = owner && has v.lq))

/-- A thread's link commands begin nothing until it is restored: it has been stopped, or it has retired and a checkpoint runs (R291,
R355). -/
def linkRests (s : State) (owner : Nat) : Bool :=
  match threadOfOwner s owner with
  | some t => t.stopped
  | none => decide (s.fw.running = some .ckpt)

/-- A latch operation on this device that a command of the thread has still to make, or an entry of its queue may make, comes before
a number (R235; logs 21 and 82). What is on its way does not wait for one that starts again after a restore (log 128). -/
def linkLatchBefore (s : State) (owner n : Nat) : Bool :=
  (!linkRests s owner && cmdBefore s owner n (fun c => isLinkLatch c.instr && rdLocal c.desc && !c.joined)) ||
  (threadOfOwner s owner).any (fun t => (queueBefore t).any (fun e => decide (e.uid < n) && isLinkLatch e.instr))

/-- A link or collective command that writes memory where it lands. -/
def linkWrites (c : LCmd) : Bool :=
  match c.instr with
  | .linkXfer _ _ _ _ _ | .linkLrel _ | .collAred _ _ | .collRsct _ _ | .collAgat _ _ => true
  | _ => false

/-- A release of a stopped thread waits for link writes that start only after the restore: it is held over the save (R239, R291; log
128). -/
def heldOver (s : State) (r : PendRel) : Bool :=
  (threadOfOwner s r.owner).any (fun t => t.stopped && t.lq.any (fun c => decide (c.uid < r.uid) && linkWrites c && !c.begun && !c.joined))

/-- A request waits for a release of its thread, or for an entry of its thread's queue, that comes earlier in program order
and is strong with it or may touch its bytes (R235, R237). -/
def waitsInQueue (s : State) (r : Req) : Bool :=
  let x := reqSpan r.kind
  s.releases.any (fun y => decide (y.owner = r.owner ∧ y.uid < r.seq) && (r.strong || rangesMeet y.pa 8 x.1 x.2) && !heldOver s y) ||
  (r.strong && linkLatchBefore s r.owner r.seq) ||
  (threadOfOwner s r.owner).any (fun t => (queueBefore t).any (fun e => decide (e.uid < r.seq) && countsL1 e.instr &&
    (r.strong || mayTouch s t e x.1 x.2)))

/-- A request must not perform yet. -/
def requestWaits (s : State) (r : Req) : Bool := s.inflight.any (fun x => mustPrecede x r) || waitsInQueue s r

/-- An atomic of the entry at vcp to some bytes must not perform yet: an earlier request of its thread to them, or an earlier
strong access of its thread, has not performed (R230, R235, R237, R255). -/
def atomWaits (s : State) (t : Thread) (e : Entry) (pa n : Nat) : Bool :=
  s.inflight.any (fun r => decide (r.owner = t.uid ∧ r.seq < e.uid) &&
    (r.strong || rangesMeet (reqSpan r.kind).1 (reqSpan r.kind).2 pa n)) ||
  s.releases.any (fun r => r.owner = t.uid ∧ r.uid < e.uid) || linkLatchBefore s t.uid e.uid

/-- A strong request or a release of a thread that comes before a number has not performed. -/
def strongOut (s : State) (owner n : Nat) : Bool :=
  s.inflight.any (fun r => r.owner = owner ∧ r.strong ∧ r.seq < n) || s.releases.any (fun r => r.owner = owner ∧ r.uid < n)

/-- A strong access of the thread that comes earlier in program order than a number has not performed (R235, R236): a latch
operation and an atomic are strong accesses too. -/
def strongBefore (s : State) (t : Thread) (n : Nat) : Bool :=
  strongOut s t.uid n || linkLatchBefore s t.uid n || (queueBefore t).any (fun e => countsL1 e.instr && decide (e.uid < n))

/-- A scalar load of the thread must not read some bytes yet: a store of its own to them is on its way (R120, R229), or a
merge of an accw.mrge of its own (R369; log 82). -/
def loadWaits (s : State) (t : Thread) (pa n : Nat) : Bool :=
  s.inflight.any (fun r => decide (r.owner = t.uid) && rangesMeet (reqSpan r.kind).1 (reqSpan r.kind).2 pa n &&
    (match r.kind with
     | .store _ _ => true
     | .merge _ _ _ => r.part
     | .writeBack _ _ | .planes _ _ _ _ | .atom _ _ _ _ => false)) ||
  (queueBefore t).any (fun e => (match e.instr with | .accwMrge _ _ => true | _ => false) && mayTouch s t e pa n)

/-! ## Releases (R232, R239) -/

/-- Link and collective writes of a thread that were issued before a number and have not performed (R239, R340). -/
def linkWritesBefore (s : State) (owner uid : Nat) : Bool := cmdBefore s owner uid linkWrites

/-- Everything that a release with a number waits for has performed: on this part every write of the thread that comes before
it in program order, in every queue, the write-backs that the release itself issued and the latch words of earlier releases
included (R184, R232, R239, R244, R252, R320). -/
def releaseReady (s : State) (owner uid : Nat) : Bool :=
  !s.inflight.any (fun r => r.owner = owner ∧ r.seq ≤ uid) && !s.releases.any (fun r => r.owner = owner ∧ r.uid < uid) &&
  !linkWritesBefore s owner uid

/-! ## Host accesses in their order (R239, R355) -/

/-- A write of the host. -/
def isHostWrite : HostOp → Bool
  | .write _ _ _ _ | .tail _ _ | .enable _ _ | .disable _ => true
  | .read _ _ _ => false
/-- A write with Relaxed Ordering. -/
def isRelaxed : HostOp → Bool
  | .write _ _ _ r => r
  | .tail _ _ | .enable _ _ | .disable _ | .read _ _ _ => false
/-- A host write through BAR2 reaches a control block. -/
def hitsControl : HostOp → Bool
  | .write bar off l _ => decide (bar = 2) && rangesMeet off l.length (controlBlock 0) 4096
  | .tail _ _ | .enable _ _ | .disable _ | .read _ _ _ => false
/-- A host access performs only after one that was received before it: a write without Relaxed Ordering, and one to a queue's
control block, after every write; a read after the writes without Relaxed Ordering (R239). -/
def hostPrecedes (x op : HostOp) : Bool :=
  isHostWrite x && (if isHostWrite op then !isRelaxed op || hitsControl op else !isRelaxed x)
/-- A write of the host to memory: not one to the driver area. -/
def writesMemory : HostOp → Bool
  | .write bar _ _ _ => bar ≠ 0
  | .tail _ _ | .enable _ _ | .disable _ => true
  | .read _ _ _ => false
/-- A write of POWER, which takes effect while a checkpoint runs: it waits for no write that the checkpoint may hold, but for an
earlier one of POWER (R358). -/
def writesPower : HostOp → Bool
  | .write bar off _ _ => decide (bar = 0 ∧ off = 0x1000)
  | .tail _ _ | .enable _ _ | .disable _ | .read _ _ _ => false

/-- The tile of the home slice of a watermark (R319). -/
def wmkTile (w : Nat) : Nat := tileOfSlice (w % 160)

/-- The physical address of an offset in a memory window (R331). -/
def barPa (s : State) (bar off : Nat) : Option Nat :=
  if bar = 2 ∧ off < 2 ^ 34 then some off
  else if bar = 4 ∧ off < 2 ^ 36 then some ((drv s 0x6000).toNat + off)
  else none

/-- A router on the way of a host access from the port's tile has stopped: to a home of its memory, or of a watermark (R307; log
67). -/
def windowStuck (s : State) (bar off n : Nat) : Bool :=
  let home := some (tileOfPort 0)
  if bar = 0 then decide (0x20000 ≤ off ∧ off < 0x21000) && stuckTo s home (wmkTile (off % 2048 / 8))
  else decide (s.silent ≠ []) && (barPa s bar off).any (fun a => (granulesOf a n).any (fun g => stuckFrom s home (forwardedPa s g.1)))
/-- The same for any access of the host. -/
def hostStuck (s : State) : HostOp → Bool
  | .write bar off l _ => windowStuck s bar off l.length
  | .read bar off n => windowStuck s bar off n
  | .tail q _ | .enable q _ | .disable q => stuckFrom s (some (tileOfPort 0)) (controlBlock q)

/-- A host access must still wait: for one received before it, for a stopped router on its way, or for the end of a checkpoint, which
holds the host's writes to memory (R239, R307, R355). -/
def hostHeld (s : State) (before : List HostReq) (op : HostOp) : Bool :=
  let ckpt := decide (s.fw.running = some .ckpt)
  before.any (fun x => hostPrecedes x.op op && (!(ckpt && writesPower op) || writesPower x.op)) ||
    (writesMemory op && ckpt) || hostStuck s op
/-- A host access joins those that have been received and have not performed. -/
def receiveHost (s : State) (op : HostOp) : State :=
  { s with uid := s.uid + 1, posted := s.posted ++ [{ uid := s.uid, op := op }] }
/-- Flits of the host port (R323): received (index 1), or sent (0). -/
def hostFlits (s : State) (idx : Nat) : State := bump { s with uid := s.uid + 1 } 640 idx (Config.linkFlits s.uid)
/-- A write of a driver-area word arrives (R332): it takes effect as `f` says, or waits among the received accesses until
SLICE_REQUEST finds that it may (R239). -/
def driverArrives (s : State) (off : Nat) (v : Word) (f : State → State) : State :=
  let op := HostOp.write 0 off (bytesOfNat 8 v.toNat) false
  if !hostReach s then s
  else if hostHeld s s.posted op then receiveHost (hostFlits s 1) op else f (hostFlits s 1)

end Sys2Proof.Machine
end

