-- ==== Sys2Proof/Machine/Window.lean ====
section
/-! DEFINITION. Window access (R188 to R194): addressing, the checks of R190, loads and stores of one element group, and
the pushes of VWLD, VWST and VIDX. -/

namespace Sys2Proof.Machine

/-- tval of a residency fault (R191). -/
def resTval (h : Nat) (store : Bool) (reason : Nat) : Word := BitVec.ofNat 64 (h + 8 * store.toNat + 16 * reason)

/-- Width that IW gives (R189). -/
def iwBits : IdxW → Nat
  | .z16 => 16 | .z32 => 32 | .z64 => 64

/-- Box offsets of element i of a VWLD or VWST (R188). -/
def tileOffsets (c : Cap) (rd cd str : BitVec 2) (i : Nat) : List Nat :=
  let o := (List.range 4).map (fun d => fieldOf c.xb (16 * d) 16)
  let s := 2 ^ str.toNat
  let add (l : List Nat) (d n : Nat) : List Nat := l.set d (l.getD d 0 + n)
  if rd = cd then add o rd.toNat (i * s)
  else add (add o rd.toNat (i / ncols c)) cd.toNat (i % ncols c * s)

/-- The decomposition of a linear index over the widths of a box: offsets, and what is left (R189). -/
def indexOffsets (w : List Nat) (j : Nat) : List Nat × Nat :=
  w.foldl (fun acc wd => (acc.1 ++ [acc.2 % wd], acc.2 / wd)) ([], j)

/-- The coordinate of box offsets, when they lie in the set. -/
def offsetCoord (h : HReg) (off : List Nat) : Option (List Int) :=
  if [0, 1, 2, 3].all (fun d => off.getD d 0 < blkW h.blk d) then
    some ([0, 1, 2, 3].map (fun d => h.comm.lo.getD d 0 + (off.getD d 0 : Int)))
  else none

/-- The coordinate of the element with linear index j over the widths of the box. -/
def indexCoord (h : HReg) (j : Nat) : Option (List Int) :=
  let r := indexOffsets (boxW h.blk) j
  if r.2 = 0 then offsetCoord h r.1 else none

/-- A window instruction: its register, data group, whether it stores, whether it is VIDX, KEEP, and its coordinates. -/
structure Access where
  h : Nat
  d : Nat
  p : Nat
  store : Bool
  idx : Bool
  keep : Bool
  coord : HReg → Nat → Option (List Int)

/-- The window access of an entry. -/
def accessOf (t : Thread) (e : Entry) : Option Access :=
  match e.instr with
  | .vwld d a _ p rd cd str keep =>
    some ⟨a.toNat, d.toNat, p.toNat, false, false, keep, fun h i => offsetCoord h (tileOffsets e.cap rd cd str i)⟩
  | .vwst d a _ p rd cd str =>
    some ⟨a.toNat, d.toNat, p.toNat, true, false, false, fun h i => offsetCoord h (tileOffsets e.cap rd cd str i)⟩
  | .vidxLd d a b p iw keep =>
    some ⟨a.toNat, d.toNat, p.toNat, false, true, keep, fun h i => indexCoord h (elem t b.toNat (iwBits iw) i)⟩
  | .vidxSt d a b p iw =>
    some ⟨a.toNat, d.toNat, p.toNat, true, true, false, fun h i => indexCoord h (elem t b.toNat (iwBits iw) i)⟩
  | _ => none

/-- The mode allows the access (R191, R193). -/
def modeAllows (mode : Nat) (store : Bool) : Bool :=
  if store then decide (mode = modeRw ∨ mode = modeWo) else decide (mode = modeRd ∨ mode = modeRw)

/-- The checks of the whole instruction (R190): the register, or the reason of its fault. -/
def accessCheck (t : Thread) (c : Cap) (a : Access) : Except Nat HReg :=
  match tabFind t.h a.h with
  | none => .error 1
  | some h =>
    if !modeAllows (blkMode h.blk) a.store then .error 2
    else if vfmtW c.vfmt ≠ 8 * tySize (tdType h.td) then .error 3
    else .ok h

/-- What R190 decides for one active, governed element. -/
inductive Met where
  | clipped
  | slot (k : Nat)
  | wait
  | trap (cause : BitVec 8) (tval : Word)

/-- The steps of R190. -/
def meet (t : Thread) (a : Access) (h : HReg) (i : Nat) : Met :=
  match a.coord h i with
  | none => .trap causeResFault (resTval a.h a.store (if a.idx then 4 else 0))
  | some c =>
    if isClipped h.td h.comm.limit c then .clipped
    else
      let k := slotOf (boxW h.blk) c
      match lineState t a.h h (slotLine h k) with
      | .empty => .wait
      | .poisoned =>
        (match lineFault h (slotLine h k) with
         | some (bad, va) => .trap (if bad then causeDelivPoison else causeDelivFault) va
         | none => .wait)
      | .full => .slot k

/-- What a group of window elements has come to: the thread, the scratchpad, a mask bit cleared, and how it stopped. -/
structure WinAcc where
  t : Thread
  sp : Tab Byte
  dirty : List Nat
  cleared : Bool := false
  waits : Bool := false
  stop : Option (BitVec 8 × Word × Nat) := none

/-- One element of a window access, in ascending order; nothing more is done once one has waited or trapped. A byte stored to a
bpi window that does not fit PLANES bits stays whole in its slot: R169 gives a slot the plane-truncated value, R190 and R193
return the stored bits; DESIGN CHOICE (log 84). -/
def winElement (t0 : Thread) (a : Access) (h : HReg) (acc : WinAcc) (i : Nat) : WinAcc :=
  let w := 8 * tySize (tdType h.td)
  if acc.waits || acc.stop.isSome then acc else
  if !maskBit t0 a.p i then
    (if a.store || a.keep then acc else { acc with t := setElem acc.t a.d w i 0 })
  else match meet t0 a h i with
    | .trap c v => { acc with stop := some (c, v, i) }
    | .wait => { acc with waits := true }
    | .clipped =>
      if a.store then acc
      else
        let t := setElem acc.t a.d w i 0
        { acc with t := if a.p = 0 then t else wp t a.p (setBitAt (rp t a.p) i false), cleared := acc.cleared || decide (a.p ≠ 0) }
    | .slot k =>
      if a.store then
        { acc with sp := spWrite acc.sp (slotByte h k) (bytesOfNat (w / 8) (elem t0 a.d w i)), dirty := setAdd acc.dirty k }
      else { acc with t := setElem acc.t a.d w i (spRead acc.sp (slotByte h k) (w / 8)) }

/-- What a stopped group leaves: the elements below the stop committed (R238). -/
def winCommit (s : State) (tid : Nat) (a : Access) (h : HReg) (acc : WinAcc) : State :=
  let t := { acc.t with h := if a.store then tabPut acc.t.h a.h { h with dirty := acc.dirty } else acc.t.h }
  let c := clusterOf s (tid / 4)
  let s := setThread (setCluster s (tid / 4) { c with scratch := acc.sp }) tid t
  let s := if a.store then rsDropReg s (tid / 4) (tid % 4) a.h else s
  let s := if acc.cleared then rsTagMask s (tid / 4) (tid % 4) a.p else s
  modHead s tid (fun e => { e with cleared := e.cleared || acc.cleared })

/-- One element group of a window access. -/
def winStep (s : State) (tid : Nat) (t : Thread) (e : Entry) (a : Access) : Res :=
  match accessCheck t e.cap a with
  | .error r => .trap s causeResFault (resTval a.h a.store r) e.k
  | .ok h =>
    let n := nElems e.cap
    let w := vfmtW e.cap.vfmt
    let hi := min n (groupEnd w e.k)
    let acc := (span e.k hi).foldl (winElement t a h)
      { t := t, sp := (clusterOf s (tid / 4)).scratch, dirty := h.dirty }
    if acc.waits then .wait s else
    let s' := winCommit s tid a h acc
    match acc.stop with
    | some (c, v, k) => .trap s' c v k
    | none => if n ≤ hi then .done s' else .more (modHead s' tid (fun e => { e with k := hi }))

/-! The pushes (R22, R26). -/

def execVwld (d a b : Reg) (p : PReg) (rd cd str : BitVec 2) (keep : Bool) (σ : State) : Host.Outcome State Fault Refusal :=
  .next (pushCur σ (.vwld d a b p rd cd str keep))
def execVwst (d a b : Reg) (p : PReg) (rd cd str : BitVec 2) (σ : State) : Host.Outcome State Fault Refusal :=
  .next (pushCur σ (.vwst d a b p rd cd str))
def execVidxLd (d a b : Reg) (p : PReg) (iw : IdxW) (keep : Bool) (σ : State) : Host.Outcome State Fault Refusal :=
  .next (pushCur σ (.vidxLd d a b p iw keep))
def execVidxSt (d a b : Reg) (p : PReg) (iw : IdxW) (σ : State) : Host.Outcome State Fault Refusal :=
  .next (pushCur σ (.vidxSt d a b p iw))

end Sys2Proof.Machine
end

