-- ==== Sys2Proof/Machine/Resid.lean ====
section
/-! DEFINITION. HRES and KCNT at vcp (R175, R180, R186, R187), the residency engine's events (R178, R179, R181, R185,
R285), and the pushes. -/

namespace Sys2Proof.Machine

/-! ## Overlap (R180) -/

/-- The writable residency registers of a cluster, by slot and number, with the box to compare: the new one for those in
`news` of thread `tid`. -/
def writableRegs (s : State) (tid : Nat) (news : List (Nat × List Int)) : List (Nat × Nat × HReg × List Int) :=
  (threadsOf s (tid / 4)).flatMap (fun e => (e.2.h.filter (fun r => blkMode r.2.blk ≠ modeRd)).map (fun r =>
    (e.1 % 4, r.1, r.2, if e.1 = tid then (match tabFind news r.1 with | some lo => lo | none => r.2.comm.lo) else r.2.comm.lo)))

/-- tval of the first collision that new boxes of a thread's registers make, if any (R180). -/
def overlapOf (s : State) (tid : Nat) (news : List (Nat × List Int)) : Option Word :=
  let regs := writableRegs s tid news
  news.findSome? (fun n =>
    match regs.find? (fun r => r.1 = tid % 4 ∧ r.2.1 = n.1) with
    | none => none
    | some me =>
      (regs.find? (fun r => ¬ (r.1 = me.1 ∧ r.2.1 = me.2.1) ∧ sameTensor r.2.2.1.td me.2.2.1.td ∧
        boxesMeet me.2.2.2 (boxW me.2.2.1.blk) r.2.2.2 (boxW r.2.2.1.blk))).map
        (fun r => BitVec.ofNat 64 (n.1 + 16 * (tid % 4) + 256 * r.2.1 + 4096 * r.1)))

/-! ## Completion of a marker (R175) -/

/-- Slots that coordinates have. -/
def slotsAt (h : HReg) (cs : List (List Int)) : List Nat := cs.map (slotOf (boxW h.blk))

/-- Elements of some slots become zero in the scratchpad. -/
def zeroSlots (s : State) (cl : Nat) (h : HReg) (slots : List Nat) : State :=
  let c := clusterOf s cl
  let size := tySize (tdType h.td)
  setCluster s cl { c with scratch := slots.foldl (fun sp k => spWrite sp (slotByte h k) (bytesOfNat size 0)) c.scratch }

/-- Step 1 of R175: the dirty elements that leave the boxes of a marker's registers are written back, in register order; false
when some of them must still wait. -/
def leaveBoxes (s : State) (tid seq : Nat) : List (Nat × List Int) → State × Bool
  | [] => (s, true)
  | (n, lo) :: r =>
    let out := match (threadAt s tid).bind (fun t => tabFind t.h n) with
      | none => []
      | some h => slotsAt h (leaving (boxW h.blk) h.comm.lo lo)
    match cleanSome s tid n seq false out with
    | (s, true) => leaveBoxes s tid seq r
    | (s, false) => (s, false)

/-- Steps 2 to 4 of R175 for one recomputed register, `old` its box before, absent for hres.set. A failure of R181 goes with the element
whose slot another one enters. R181 does not say when a line stops being poisoned whose only failed element leaves the box while a
clipped one, for which nothing travels, takes its slot: here it is full from then on (DESIGN CHOICE, log 118). -/
def moveBox (s : State) (tid n : Nat) (old : Option (List Int)) (new : HCopy) : State :=
  match threadAt s tid with
  | none => s
  | some t =>
    match tabFind t.h n with
    | none => s
    | some h =>
      let enter := slotsAt h (entering (tdRank h.td) (boxW h.blk) old new.lo)
      let s := if blkMode h.blk = modeAcc then zeroCopies s (tid / 4) h enter
        else if blkMode h.blk = modeWo then zeroSlots s (tid / 4) h enter else s
      let h := { h with comm := new, failed := h.failed.filter (fun f => ¬ f.slot ∈ enter) }
      rsDropReg (modThread s tid (fun t => { t with h := tabPut t.h n h })) (tid / 4) (tid % 4) n

/-- The deliveries of a completed marker may land (R175 step 4). -/
def openLanding (s : State) (tid marker : Nat) : State :=
  modThread s tid (fun t => { t with
    recomps := t.recomps.map (fun r => if r.marker = marker then { r with landing := true } else r) })

/-- A marker entry, or another KCNT or HRES entry with committed copies to change, at vcp. -/
def markerAtVcp (s : State) (tid : Nat) (t : Thread) (e : Entry) : Res :=
  match hresReg e.instr with
  | some n =>
    if (tabFind t.h n).isNone then .trap s causeResFault (resTval n false 1) e.k else go s
  | none => go s
where
  go (s : State) : Res :=
    match overlapOf s tid (e.boxes.filter (fun b => (tabFind t.h b.1).isSome)) with
    | some v => .trap s causeResOverlap v e.k
    | none =>
      match leaveBoxes s tid e.uid e.boxes with
      | (s, false) => .wait s
      | (s, true) =>
      let ks := (kcntEffect e.instr e.cap t.kcomm).1
      let s := modThread s tid (fun t => { t with kcomm := ks })
      let s := match hresReg e.instr with
        | some n => modThread s tid (fun t => { t with h := match tabFind t.h n with
            | some h => tabPut t.h n { h with comm := hresEffect e.instr e.cap h.comm }
            | none => t.h })
        | none => s
      let s := e.boxes.foldl (fun s b =>
        match (threadAt s tid).bind (fun t => tabFind t.h b.1) with
        | none => s
        | some h => moveBox s tid b.1 (some h.comm.lo) { h.comm with lo := b.2 }) s
      .done (postLost (openLanding s tid e.uid) tid)

/-! ## hres.clr and hres.set (R186) -/

/-- The effect of hres.clr: dirty elements are written back, deliveries discarded, the register left unconfigured; false
while some element must still wait. -/
def clearReg (s : State) (tid n seq : Nat) : State × Bool :=
  match cleanReg s tid n seq false with
  | (s, false) => (s, false)
  | (s, true) =>
    (rsDropLoads (modThread s tid (fun t => keepRecomps { t with h := tabErase t.h n } (t.recomps.filter (fun r => r.h ≠ n))))
      (tid / 4) (tid % 4), true)

/-- hres.clr at vcp. -/
def hresClrAtVcp (s : State) (tid : Nat) (t : Thread) (e : Entry) (n : Nat) : Res :=
  if (tabFind t.h n).isNone then .trap s causeResFault (resTval n false 1) e.k
  else match clearReg s tid n e.uid with
    | (s, false) => .wait s
    | (s, true) => .done (postLost s tid)

/-- Two regions share a line. -/
def regionsMeet (a b : List Byte) : Bool :=
  decide (max (blkLine0 a) (blkLine0 b) < min (blkLine0 a + blkLines a) (blkLine0 b + blkLines b))

/-- Check 0x07 of R171: a region of another configured register of the cluster shares a line. -/
def regionTaken (s : State) (tid n : Nat) (blk : List Byte) : Bool :=
  (threadsOf s (tid / 4)).any (fun e => e.2.h.any (fun r => ¬ (e.1 = tid ∧ r.1 = n) ∧ regionsMeet r.2.blk blk))

/-- The checks of R171 in order, as a code. -/
def configCheck (s : State) (tid n : Nat) (blk td : List Byte) : Option Nat :=
  match blockCheck blk td with
  | some c => some c
  | none => if regionTaken s tid n blk then some 0x07 else blockCheckLate blk

/-- The register hres.set makes of a block and descriptor, with the box under the counters (R172). -/
def freshReg (blk td : List Byte) (ks : Tab KReg) : HReg :=
  let c : HCopy := { wmk := if blkWmk blk < 256 then some (blkWmk blk) else none,
                     latch := if blkLatch blk = 0 then none else some (BitVec.ofNat 64 (blkLatch blk)),
                     lo := boxLo blk [0, 0, 0, 0] ks }
  { blk := blk, td := td, push := c, comm := c }

/-- A configuration read: its bytes, or the address that failed (R186). -/
def configRead (s : State) (t : Thread) (va n : Nat) : Except Nat (List Byte) :=
  match readVirt s t.uid t.ctx va n with
  | .bytes l => .ok l
  | .noPage a | .fenced a | .poison a => .error a

/-- What hres.set does with a block and a descriptor it has read. The thread has waited at push, so push and committed copies are
equal. -/
def configure (s : State) (tid : Nat) (t : Thread) (e : Entry) (n : Nat) (blk td : List Byte) : Res :=
  match configCheck s tid n blk td with
  | some c => .trap s causeResConfig (BitVec.ofNat 64 c) e.k
  | none =>
    match (if (tabFind t.h n).isSome then clearReg s tid n e.uid else (s, true)) with
    | (s, false) => .wait s
    | (s, true) =>
    let s := postLost s tid
    let h := freshReg blk td t.kcomm
    let s' := modThread s tid (fun t => { t with h := tabPut t.h n h })
    match (if blkMode blk = modeRd then none else overlapOf s' tid [(n, h.comm.lo)]) with
    | some v => .trap s causeResOverlap v e.k
    | none =>
      match threadAt s' tid with
      | none => .done s'
      | some t' =>
        let (s1, rs) := recomputeAll s' tid t' e.uid [(n, none)]
        let s1 := modThread s1 tid (fun t => { t with recomps := t.recomps ++ rs })
        .done (openLanding (moveBox s1 tid n none h.comm) tid e.uid)

/-- hres.set at vcp: it reads the block, then the descriptor, through its cluster's translations. -/
def hresSetAtVcp (s : State) (tid : Nat) (t : Thread) (e : Entry) (n : Nat) : Res :=
  match touchRanges s (tid / 4) t.uid e.uid [⟨t.ctx, e.cap.xa.toNat, 160, needR⟩] with
  | (false, s) => .wait s
  | (true, s) =>
    match configRead s t e.cap.xa.toNat 160 with
    | .error a => .trap s causeLoadFault (BitVec.ofNat 64 a) e.k
    | .ok blk =>
      match touchRanges s (tid / 4) t.uid e.uid [⟨t.ctx, blkTdesc blk, 64, needR⟩] with
      | (false, s) => .wait s
      | (true, s) =>
        match configRead s t (blkTdesc blk) 64 with
        | .error a => .trap s causeLoadFault (BitVec.ofNat 64 a) e.k
        | .ok td => configure s tid t e n blk td

/-! ## Events of the residency engine -/

/-- A fetch of a register goes. -/
def dropFetch (t : Thread) (h id : Nat) : Thread :=
  keepRecomps t (t.recomps.map (fun r => if r.h = h then { r with fetches := r.fetches.filter (fun x => x.id ≠ id) } else r))

/-- A fetch of a register by number. -/
def findFetch (t : Thread) (h id : Nat) : Option (Recomp × Fetch) :=
  t.recomps.findSome? (fun r => if r.h = h then (r.fetches.find? (fun f => f.id = id)).map (fun f => (r, f)) else none)

/-- What a walk found for a thread is cached, if the access that started the walk may use it and nothing is cached yet (R285). -/
def cacheLeaf (s : State) (w : Walk) (owner : Nat) : State :=
  let c := clusterOf s w.cl
  match walkLeaf s (some (tileOfCluster w.cl)) owner w.ctx (65536 * w.page), tlbFind c.tlb w.ctx (65536 * w.page) with
  | some (l, big), none =>
    if leafAllows l w.need then setCluster s w.cl { c with tlb := tlbAdd s.tick c.tlb w.ctx (65536 * w.page) l big } else s
  | _, _ => s

/-- The state of a fetch whose page a walk has ended for: its address, or that it has none (R181). -/
def walkedFetch (s : State) (leaf : Option (Word × Bool)) (f : Fetch) : FetchState :=
  match leaf with
  | some (l, big) => if leafAllows l needR then .sent (forwardedPa s (leafPa 0 l big f.va.toNat)) else .noPage
  | none => .noPage

/-- The accesses of a thread that have missed on a page and have no walk's result yet: they wait for the walk that ends. -/
def missesOn (c : Cluster) (owner page : Nat) : List Miss :=
  c.missed.filter (fun m => m.owner = owner ∧ m.page = page ∧ m.leaf.isNone)

/-- A walk has found a leaf, or none, for every access of a thread that waits for it (R285). -/
def endMisses (s : State) (cl owner page : Nat) (l : Option (Word × Bool)) : State :=
  modMisses s cl (fun ms => ms.map (fun m => if m.owner = owner ∧ m.page = page ∧ m.leaf.isNone then { m with leaf := some l } else m))

/-- The end of a walk for a thread of its cluster, if it waits for it: its fetches and its other accesses go on. -/
def endWalk (w : Walk) (s : State) (e : Nat × Thread) : State :=
  let waits (f : Fetch) : Bool := decide (f.state = .walk) && decide (f.va.toNat / 65536 = w.page)
  if e.2.ctx ≠ w.ctx then s else
  if !e.2.recomps.any (fun r => r.fetches.any waits) && decide (missesOn (clusterOf s w.cl) e.2.uid w.page = []) then s else
  let leaf := walkLeaf s (some (tileOfCluster w.cl)) e.2.uid w.ctx (65536 * w.page)
  let next (f : Fetch) : Fetch := if waits f then { f with state := walkedFetch s leaf f } else f
  setThread (endMisses (cacheLeaf s w e.2.uid) w.cl e.2.uid w.page leaf) e.1 { e.2 with recomps := e.2.recomps.map (fun r => { r with fetches := r.fetches.map next }) }

/-- The end of a walk for a thread that has left its cluster, whose link commands wait for it. -/
def endWalkRetired (w : Walk) (s : State) (r : Retired) : State :=
  if r.ctx ≠ w.ctx ∨ missesOn (clusterOf s w.cl) r.uid w.page = [] then s
  else endMisses (cacheLeaf s w r.uid) w.cl r.uid w.page (walkLeaf s (some (tileOfCluster w.cl)) r.uid w.ctx (65536 * w.page))

/-- A walk does not end yet: it has no walker, its page is being moved (R287), a router on its way has stopped (R307), or its
packet was dropped (R309). -/
def walkHeld (s : State) (w : Walk) : Bool :=
  !walkOpen s w || !walkServed s w || w.lost || pageMoving s w.ctx (65536 * w.page) ||
  walkStuck s (some (tileOfCluster w.cl)) 0 w.ctx (65536 * w.page)

/-- PAGE_WALK_COMPLETE: a walk that has a walker ends (R285). Every access of the cluster that waited for the page goes on: fetches
learn their address, or that they have none, every other access has the walk's result, and the cache holds what was found. -/
def execPageWalkComplete (cluster ctx : Nat) (va : Word) (s : State) : Host.Outcome State Fault Refusal :=
  .next (match s.walks.find? (fun w => w.cl = cluster ∧ w.ctx = ctx ∧ w.page = va.toNat / 65536) with
    | none => s
    | some w =>
      if walkHeld s w then s
      else
        let s := countWalk { s with walks := s.walks.erase w } (some (tileOfCluster cluster)) 0 ctx (65536 * w.page)
        (clusterOf s cluster).tracker.foldl (endWalkRetired w) ((threadsOf s cluster).foldl (endWalk w) s))

/-- A fetch waits on its register's watermark (R52, R185). -/
def gated (s : State) (h : HReg) (f : Fetch) : Bool :=
  match f.wmk with
  | none => false
  | some w => decide (((tabGet 0 s.wmk w).toNat : Int) ≤ linIndex h.td f.coord)

/-- Bytes that a fetch of a register takes in the delivery buffer: it holds elements as the scratchpad does. -/
def fetchBytes (h : HReg) : Nat := tySize (tdType h.td)

/-- The fetches of a thread with the recomputation they are of and the state of its register. -/
def threadFetches (t : Thread) : List (Recomp × HReg × Fetch) :=
  t.recomps.flatMap (fun r => match tabFind t.h r.h with
    | some h => r.fetches.map (fun f => (r, h, f))
    | none => [])

/-- A fetch reads for itself: it shares no read with a fetch that is still there (R179). -/
def readsAlone (t : Thread) (f : Fetch) : Bool :=
  match f.share with
  | none => true
  | some p => !t.recomps.any (fun x => x.fetches.any (fun g => g.id = p))

/-- The delivery buffer has room for a fetch: every fetch of the cluster that was pushed earlier has its space before it, and
so has all data that waits to land; one read holds its space once (R178). -/
def bufferRoom (s : State) (cl : Nat) (f : Fetch) (size : Nat) : Bool :=
  let ahead := (threadsOf s cl).flatMap (fun e => (threadFetches e.2).filterMap (fun x =>
    let here := match x.2.2.state with
      | .data _ => true
      | .walk | .sent _ => decide (x.2.2.id < f.id)
      | .noPage | .bad => false
    if here && readsAlone e.2 x.2.2 then some (fetchBytes x.2.1) else none))
  decide (ahead.sum + size ≤ Config.deliveryBytes)

/-- The bytes that a fetch of an element reads, as offsets from its address with lengths: those of the element, or the byte of each
plane that holds its bit (R95). -/
def fetchParts (h : HReg) (c : List Int) : List (Nat × Nat) :=
  if tdType h.td = .bpi then (List.range (tdPlanes h.td)).map (fun j => (32 * j + bpiPos h.td c / 8, 1)) else [(0, tySize (tdType h.td))]

/-- Parts at one address and parts at another have a byte in common. -/
def partsMeet (a : Int) (l : List (Nat × Nat)) (b : Int) (m : List (Nat × Nat)) : Bool :=
  l.any (fun x => m.any (fun y => decide (a + x.1 < b + y.1 + y.2 ∧ b + y.1 < a + x.1 + x.2)))

/-- Two recomputations come of one marker, whose fetches have no order among themselves; a refetch comes of none. -/
def sameMarker (a b : Recomp) : Bool := if a.marker = 0 then decide (a = b) else decide (a.marker = b.marker)

/-- A fetch of an earlier marker of the thread, for whichever register, has still to read bytes of a fetch of a recomputation that reads
at `pa` (R228, R230, R237). A fetch that waits on the watermark of the same register does not hold it back (R185); one that waits
on another register's does, which R185 and R237 leave open (DESIGN CHOICE, log 127). -/
def fetchBehind (s : State) (t : Thread) (rc : Recomp) (h : HReg) (f : Fetch) (pa : Nat) : Bool :=
  (threadFetches t).any (fun x =>
    decide (x.2.2.id < f.id) && !sameMarker x.1 rc && !(decide (x.1.h = rc.h) && gated s x.2.1 x.2.2) &&
    (match x.2.2.state with
      | .sent a => partsMeet (a : Int) (fetchParts x.2.1 x.2.2.coord) (pa : Int) (fetchParts h f.coord)
      | .walk => partsMeet x.2.2.va (fetchParts x.2.1 x.2.2.coord) f.va (fetchParts h f.coord)
      | .data _ | .noPage | .bad => false))

/-- The planes of a bpi element read from its block (R95, R96): the low `p` bits, sign-extended to 8. -/
def planesRead (m : Memory) (pa pos p : Nat) : Nat :=
  let bit (j : Nat) : Nat := bitsOf (readByte m (pa + 32 * j + pos / 8)).toNat (pos % 8) 1
  patternOf 8 (signedOf p ((List.range p).foldl (fun v j => 2 * v + bit j) 0))

/-- What a fetch of a cluster that reads at `pa` brings (R169, R181, R223, R312). -/
def fetchData (s : State) (cl : Nat) (h : HReg) (c : List Int) (pa : Nat) : FetchState :=
  let ty := tdType h.td
  if ty = .bpi then
    if reaches s cl pa && !poisoned s pa (32 * tdPlanes h.td) then .data (BitVec.ofNat 64 (planesRead s.mem pa (bpiPos h.td c) (tdPlanes h.td)))
    else .bad
  else if reaches s cl pa && !poisoned s pa (tySize ty) then .data (BitVec.ofNat 64 (natOfBytes (readBytes s.mem pa (tySize ty))))
  else .bad

/-- FETCH_RETURN: the read of an element returns to the delivery buffer, for every register that shares it, once none of them
waits on its watermark (R178, R179, R185; log 26). -/
def execFetchReturn (thread : Nat) (h : Nat) (fetch : Nat) (s : State) : Host.Outcome State Fault Refusal :=
  .next (match threadAt s thread with
    | none => s
    | some t =>
      match findFetch t h fetch, tabFind t.h h with
      | some (_, f), some r =>
        let group := (threadFetches t).filter (fun x => x.2.2.id = fetch ∨ x.2.2.share = some fetch)
        (match f.state with
         | .sent pa =>
           if group.any (fun x => gated s x.2.1 x.2.2 || fetchBehind s t x.1 x.2.1 x.2.2 pa) || !readsAlone t f ||
               !bufferRoom s (thread / 4) f (fetchBytes r) || cutOff s (thread / 4) pa || decide (fetch ∈ s.dropped) then s
           else
             let d := fetchData s (thread / 4) r f.coord pa
             let s := if reaches s (thread / 4) pa then countAccess s pa else s
             let set (g : Fetch) : Fetch := if g.id = fetch ∨ g.share = some fetch then { g with state := d } else g
             setThread s thread { t with recomps := t.recomps.map (fun x => { x with fetches := x.fetches.map set }) }
         | .walk | .data _ | .noPage | .bad => s)
      | _, _ => s)

/-- DELIVERY_LANDING: an element leaves the delivery buffer for its slot once its marker has completed (R175); a failure
marks the slot while its element is in the box (R181). Landings in one slot keep push order. -/
def execDeliveryLanding (thread : Nat) (h : Nat) (fetch : Nat) (s : State) : Host.Outcome State Fault Refusal :=
  .next (match threadAt s thread with
    | none => s
    | some t =>
      match findFetch t h fetch, tabFind t.h h with
      | some (rc, f), some r =>
        let older := t.recomps.any (fun x => x.h = h && x.fetches.any (fun g => g.id < f.id && g.slot = f.slot))
        if !rc.landing || older then s else
        let t' := dropFetch t h fetch
        let gone := !inBox r.comm.lo (boxW r.blk) f.coord
        let others := r.failed.filter (fun x => x.slot ≠ f.slot)
        let fail (bad : Bool) : State :=
          let x : FailedSlot := { slot := f.slot, va := BitVec.ofInt 64 f.va, poisoned := bad }
          rsDropReg (setThread s thread { t' with h := tabPut t.h h { r with failed := others ++ [x] } }) (thread / 4) (thread % 4) h
        (match f.state with
         | .walk | .sent _ => s
         | .noPage => if gone then setThread s thread t' else fail false
         | .bad => if gone then setThread s thread t' else fail true
         | .data bits =>
           let c := clusterOf s (thread / 4)
           let size := tySize (tdType r.td)
           let sp := spWrite c.scratch (slotByte r f.slot) (bytesOfNat size bits.toNat)
           let s := bump (setCluster s (thread / 4) { c with scratch := sp }) (thread / 4) 3 size
           rsDropReg (setThread s thread { t' with h := tabPut t.h h { r with failed := others } }) (thread / 4) (thread % 4) h)
      | _, _ => s)

/-! The pushes (R22, R26). -/

def execHresSet (d a : Reg) (σ : State) : Host.Outcome State Fault Refusal := .next (pushCur σ (.hresSet d a))
def execHresAnch (d a : Reg) (n : BitVec 2) (σ : State) : Host.Outcome State Fault Refusal :=
  .next (pushCur σ (.hresAnch d a n))
def execHresLim (d a : Reg) (n : BitVec 2) (σ : State) : Host.Outcome State Fault Refusal :=
  .next (pushCur σ (.hresLim d a n))
def execHresBind (d a : Reg) (σ : State) : Host.Outcome State Fault Refusal := .next (pushCur σ (.hresBind d a))
def execHresWmk (d a : Reg) (σ : State) : Host.Outcome State Fault Refusal := .next (pushCur σ (.hresWmk d a))
def execHresClr (d : Reg) (σ : State) : Host.Outcome State Fault Refusal := .next (pushCur σ (.hresClr d))
def execKcntExt (d a : Reg) (σ : State) : Host.Outcome State Fault Refusal := .next (pushCur σ (.kcntExt d a))
def execKcntLink (d b : Reg) (σ : State) : Host.Outcome State Fault Refusal := .next (pushCur σ (.kcntLink d b))
def execKcntAdv (d : Reg) (σ : State) : Host.Outcome State Fault Refusal := .next (pushCur σ (.kcntAdv d))
def execKcntSet (d a : Reg) (σ : State) : Host.Outcome State Fault Refusal := .next (pushCur σ (.kcntSet d a))
def execKcntRst (d : Reg) (σ : State) : Host.Outcome State Fault Refusal := .next (pushCur σ (.kcntRst d))

end Sys2Proof.Machine
end

