-- ==== Sys2Proof/Machine/Sync.lean ====
section
/-! DEFINITION. SYNC (R240 to R250) and the events of latches, releases, barriers and static bindings (R90). -/

namespace Sys2Proof.Machine

/-! ## Latches -/

/-- An atomic performed at its home: one request and one atomic (R323). -/
def countAtomic (s : State) (pa : Nat) : State := bump (countAccess s pa) (320 + homeOf pa) 1 1

/-- The checks of a latch address that sync.acq and sync.rel share: the word's physical address, or the trap (R243,
R244; R223 and R225 for an atomic). -/
inductive LatchAt where
  | ok (pa : Nat)
  | wait
  | trap (cause : BitVec 8)

/-- Translate a latch address for an entry of a thread, and test its home and the way there. -/
def latchAt (s : State) (tid : Nat) (t : Thread) (e : Entry) (a : Word) : LatchAt × State :=
  match xlate s (tid / 4) t.uid e.uid t.ctx t.area a.toNat needRW with
  | (.fail, s) => (.trap causeStoreFault, s)
  | (.wait, s) => (.wait, s)
  | (.ok pa, s) =>
    if !reaches s (tid / 4) pa then (.trap causeUnavailable, s)
    else if poisoned s pa 8 then (.trap causePoisoned, s)
    else (.ok pa, s)

/-- A thread's registers bound to a latch, by their committed copies. -/
def boundRegs (t : Thread) (a : Word) : List Nat :=
  (t.h.filter (fun e => e.2.comm.latch = some a)).map (fun e => e.1)

/-- The slots of a register's box that an acquire fetches again: clean ones (R184). -/
def cleanSlots (h : HReg) : List Nat := (List.range (boxV h.blk)).filter (fun k => ¬ k ∈ h.dirty)

/-- The refetch of a thread's windows bound to a latch (R184). -/
def refetchBound (s : State) (tid : Nat) (a : Word) : State :=
  match threadAt s tid with
  | none => s
  | some t => (boundRegs t a).foldl (fun s n =>
      match threadAt s tid with
      | none => s
      | some t =>
        match tabFind t.h n with
        | none => s
        | some h =>
          if blkMode h.blk = modeRd ∨ blkMode h.blk = modeRw then
            let (s, t) := refetch s tid t n h (cleanSlots h)
            rsDropReg (setThread s tid t) (tid / 4) (tid % 4) n
          else s) s

/-- Waiters that a slice queues. -/
def waitersAt (s : State) (slice : Nat) : Nat := (s.waiters.filter (fun w => homeOf w.pa = slice)).length

/-- sync.acq at vcp: the checks, then the thread joins the waiters of the latch, or tries again when the slice's queue is
full (R243). An acquire is a strong access, and so waits for those of its thread before it (R235, R236). -/
def acqAtVcp (s : State) (tid : Nat) (t : Thread) (e : Entry) (sc : Scope) : Res :=
  let a := e.cap.xa
  if strongBefore s t e.uid then .wait s
  else if a.toNat % 8 ≠ 0 then .trap s causeMisaligned a e.k
  else if a ∈ t.latches then .trap s causeLatchTwice a e.k
  else if 8 ≤ t.latches.length then .trap s causeLatchLimit a e.k
  else match latchAt s tid t e a with
    | (.trap c, s) => .trap s c a e.k
    | (.wait, s) => .wait s
    | (.ok pa, s) =>
      let s := modHead s tid (fun e => { e with begun := true })
      if Config.waiterCap ≤ waitersAt s (homeOf pa) then .wait s
      else
        .wait { s with waiters := s.waiters ++
          [{ pa := pa, uid := e.uid, tag := tagOf t.launch t.flat, sc := sc, thread := some tid, ctx := t.ctx }] }

/-- A waiter's entry has joined the queue of its latch. -/
def hasJoined (s : State) (e : Entry) : Bool := s.waiters.any (fun w => w.uid = e.uid)

/-- The latch word an acquire writes. -/
def acquiredWord (w : Waiter) : Word := latchWord w.tag w.sc.code.toNat false true

/-- A thread obtains a latch: the entry completes, the windows bound to it are fetched again, load entries go (R302), and
a broken latch traps after completion (R243). -/
def obtain (s : State) (tid : Nat) (a : Word) (broken : Bool) : State :=
  let s := modThread s tid (fun t => { t with latches := t.latches ++ [a] })
  let s := rsDropLoads (refetchBound s tid a) (tid / 4) (tid % 4)
  if broken then
    match threadAt s tid with
    | some t =>
      (match t.vq with
       | e :: _ => vectorTrap (bump s (tid / 4) 0 1) tid causeLatchBroken a e.k true
       | [] => s)
    | none => s
  else completeHead s tid

/-- A link.lacq of this device obtains its latch: its command is marked, broken or not, and its thread holds the latch
on the target (R340). -/
def linkObtain (s : State) (uid : Nat) (port : Option Nat) (broken : Bool) : State :=
  let mark (l : List LCmd) : List LCmd :=
    l.map (fun c => if c.uid = uid then { c with joined := true, broken := broken } else c)
  let hold (l : List LCmd) (r : List RemoteLatch) : List RemoteLatch :=
    match l.find? (fun c => c.uid = uid) with
    | some c => r ++ [⟨port, fieldAt c.desc 3 1, BitVec.ofNat 64 (fieldAt c.desc 8 8)⟩]
    | none => r
  { s with
    threads := s.threads.map (fun (e : Nat × Thread) => (e.1, { e.2 with remote := hold e.2.lq e.2.remote, lq := mark e.2.lq })),
    clusters := s.clusters.map (fun (e : Nat × Cluster) => (e.1, { e.2 with
      tracker := e.2.tracker.map (fun (r : Retired) => { r with remote := hold r.lq r.remote, lq := mark r.lq }) })) }

/-- The home of a latch can no longer perform a waiting acquire: the entry at vcp of its thread traps, or its link command
ends with a code (R223, R225, R340). -/
def failWaiter (s : State) (w : Waiter) (cause : BitVec 8) (code : Byte) : State :=
  match w.thread with
  | some tid =>
    (match threadAt s tid with
     | some t =>
       (match t.vq with
        | e :: _ => vectorTrap s tid cause e.cap.xa e.k false
        | [] => s)
     | none => s)
  | none => (match w.port with
    | some p => sendPacket s p (.reply w.uid { code := code, run := 0, bytes := 0 })
    | none => modCmd s w.uid (fun c => { c with failed := code }))

/-- LATCH_GRANT: the oldest waiter of a latch obtains it once HELD is 0 (R243). -/
def execLatchGrant (pa : Nat) (s : State) : Host.Outcome State Fault Refusal :=
  .next (match s.waiters.find? (fun w => w.pa = pa) with
    | none => s
    | some w =>
      let rest := { s with waiters := s.waiters.erase w }
      if !homeUp s pa then failWaiter rest w causeUnavailable 3
      else if poisoned s pa 8 then failWaiter rest w causePoisoned 4
      else
        let old := readWord s pa
        if latchHeld old then s
        else
          let s := countAtomic (writeWord rest pa (acquiredWord w)) pa
          match w.thread with
          | some tid =>
            (match threadAt s tid with
             | some t =>
               (match t.vq with
                | e :: _ => obtain s tid e.cap.xa (latchBroken old)
                | [] => s)
             | none => s)
          | none =>
            (match w.port with
             | some p => sendPacket s p (.reply w.uid { code := if latchBroken old then 6 else 1, run := 0, bytes := 0 })
             | none => linkObtain s w.uid none (latchBroken old)))

/-- LATCH_ACQUIRE_RETRY: an acquire that found the queue full joins now, if there is room (R243). -/
def execLatchAcquireRetry (thread : Nat) (s : State) : Host.Outcome State Fault Refusal :=
  .next (match threadAt s thread with
    | none => s
    | some t =>
      match t.vq with
      | [] => s
      | e :: _ =>
        match e.instr with
        | .syncAcq _ sc =>
          if e.begun && !hasJoined s e && !decide (e.uid ∈ s.dropped) then
            (match acqAtVcp s thread t e sc with
             | .done s | .more s | .wait s => s
             | .trap s c v k => vectorTrap s thread c v k false)
          else s
        | _ => s)

/-- sync.rel at vcp: the checks of R244; the write-backs of the bound windows are issued, and the release, under the number
of its entry, is on its way. A second release of a latch waits for the first. -/
def relLatchAtVcp (s : State) (tid : Nat) (t : Thread) (e : Entry) (sc : Scope) : Res :=
  let a := e.cap.xa
  if s.releases.any (fun r => r.owner = t.uid ∧ r.addr = a) then .wait s
  else if a.toNat % 8 ≠ 0 then .trap s causeMisaligned a e.k
  else match latchAt s tid t e a with
    | (.trap c, s) => .trap s c a e.k
    | (.wait, s) => .wait s
    | (.ok pa, s) =>
      let w := readWord s pa
      if ¬ a ∈ t.latches ∨ !latchHeld w ∨ latchTag w ≠ tagOf t.launch t.flat then .trap s causeLatchNotHeld a e.k
      else
        match cleanRegs s tid e.uid (boundRegs t a) with
        | (s, false) => .wait s
        | (s, true) =>
          let s := postLost s tid
          .done { s with releases := s.releases ++
            [{ uid := e.uid, owner := t.uid, thread := tid, addr := a, pa := pa, sc := sc, tag := tagOf t.launch t.flat, ctx := t.ctx }] }

/-- A release performs: it writes HOLDER 0, SC and HELD 0, and the address leaves the held-latch list. One that does not get to the
home of its latch is lost (R312, R313). -/
def performRelease (s : State) (r : PendRel) : State :=
  let s := { s with releases := s.releases.filter (fun x => x.uid ≠ r.uid),
                    threads := s.threads.map (fun (e : Nat × Thread) =>
                      (e.1, if e.2.uid = r.owner then { e.2 with latches := e.2.latches.erase r.addr } else e.2)) }
  if reaches s (r.thread / 4) r.pa then countAtomic (writeWord s r.pa (latchWord 0 r.sc.code.toNat false false)) r.pa else s

/-- LATCH_RELEASE_PERFORM: a release performs once what it waits for has, unless a router on its way has stopped (R307) or has
dropped its packet (R309). -/
def execLatchReleasePerform (uid : Nat) (s : State) : Host.Outcome State Fault Refusal :=
  .next (match s.releases.find? (fun r => r.uid = uid) with
    | none => s
    | some r =>
      if !releaseReady s r.owner r.uid || cutOff s (r.thread / 4) r.pa || decide (uid ∈ s.dropped) then s else performRelease s r)

/-! ## Bindings (R245) -/

/-- The instance of a scope that contains a thread (R234). -/
def unitOf (tid uid : Nat) (sc : Scope) : Nat :=
  match sc with
  | .thd => uid
  | .clu => tid / 4
  | .til => tid / 16
  | .die => dieOfCluster (tid / 4)
  | .dev | .pgr | .sys => 0

/-- The instance of a binding contains a thread. -/
def bindingCovers (b : Binding) (tid uid : Nat) : Bool := b.launch.isNone || decide (b.unit = unitOf tid uid b.sc)

/-- The binding trap with its reason. -/
def bindTrap (s : State) (e : Entry) (r : Nat) : Res := .trap s causeBinding (BitVec.ofNat 64 r) e.k

/-- The alignment and extent of a binding (reason 0). -/
def bindingAligned (latch base length : Word) : Bool :=
  decide (latch.toNat % 8 = 0 ∧ base.toNat % 256 = 0 ∧ length.toNat % 256 = 0 ∧ length ≠ 0 ∧ base.toNat + length.toNat ≤ 2 ^ 52)

/-- A binding concerns a thread of a context: a static one every thread of the device (R90), one that sync.bind made those of its
maker's context, which is the model's own choice: R240's table holds no context (DESIGN CHOICE, log 85). -/
def bindingActs (b : Binding) (ctx : Nat) : Bool := b.launch.isNone || decide (b.ctx = ctx)

/-- A binding of another latch at the same or a wider scope whose region overlaps (R87, R245). -/
def bindingMeets (b : Binding) (latch base length : Word) (sc : Scope) : Bool :=
  decide (b.latch ≠ latch ∧ sc.code.toNat ≤ b.sc.code.toNat) && rangesMeet base.toNat length.toNat b.base.toNat b.length.toNat

/-- Such a binding acts on a thread of a context. -/
def bindingClash (b : Binding) (ctx : Nat) (latch base length : Word) (sc : Scope) : Bool :=
  bindingActs b ctx && bindingMeets b latch base length sc

/-- sync.bind at vcp. Reason 1 looks at the bindings that act on the thread. -/
def bindAtVcp (s : State) (tid : Nat) (t : Thread) (e : Entry) (sc : Scope) : Res :=
  let l := e.cap.xd
  let a := e.cap.xa
  let n := e.cap.xb
  if !bindingAligned l a n then bindTrap s e 0
  else if s.bindings.any (fun b => bindingCovers b tid t.uid && bindingClash b t.ctx l a n sc) then bindTrap s e 1
  else if Config.bindingCap ≤ s.bindings.length then bindTrap s e 2
  else .done { s with bindings := s.bindings ++
    [{ ctx := t.ctx, latch := l, base := a, length := n, sc := sc, unit := unitOf tid t.uid sc, launch := some t.launch }] }

/-- sync.ubnd at vcp: of the bindings that act on the thread the one made most recently goes. Reason 0 looks at the operands that it
reads, x[D] and x[A] (log 43). -/
def ubndAtVcp (s : State) (tid : Nat) (t : Thread) (e : Entry) (sc : Scope) : Res :=
  if e.cap.xd.toNat % 8 ≠ 0 ∨ e.cap.xa.toNat % 256 ≠ 0 then bindTrap s e 0 else
  match s.bindings.reverse.find? (fun b => bindingActs b t.ctx && decide (b.latch = e.cap.xd ∧ b.base = e.cap.xa ∧ b.sc = sc) &&
      bindingCovers b tid t.uid) with
  | none => bindTrap s e 3
  | some b => .done { s with bindings := (s.bindings.reverse.erase b).reverse }

/-- STATIC_BINDING: ubload makes a module's binding (R87, R90), which is as sync.bind would make it and covers every instance
of its scope and every thread of the device, whatever its context; one that fails the checks, or finds the table full, is not
made. A length of 0, which no binding has, stands for the unloading of the module: the static binding of that latch, base and
scope made most recently goes (log 86). -/
def execStaticBinding (ctx : Nat) (latch base length : Word) (sc : Scope) (s : State) : Host.Outcome State Fault Refusal :=
  .next (if length = 0 then
      match s.bindings.reverse.find? (fun b => b.launch = none ∧ b.ctx = ctx ∧ b.latch = latch ∧ b.base = base ∧ b.sc = sc) with
      | none => s
      | some b => { s with bindings := (s.bindings.reverse.erase b).reverse }
    else if !bindingAligned latch base length || s.bindings.any (fun b => bindingMeets b latch base length sc) ||
      decide (Config.bindingCap ≤ s.bindings.length) then s
    else { s with bindings := s.bindings ++
      [{ ctx := ctx, latch := latch, base := base, length := length, sc := sc, unit := 0, launch := none }] })

/-! ## Fence (R246) -/

/-- Nothing of the thread is outstanding in any class. -/
def nothingOutstanding (s : State) (t : Thread) : Bool :=
  !s.inflight.any (fun r => r.owner = t.uid) && !s.releases.any (fun r => r.owner = t.uid) &&
  !s.pubs.any (fun p => p.owner = t.uid) && decide (t.recomps = []) && decide (t.tq = []) && decide (t.lq = [])

/-- sync.fenc at vcp. -/
def fencAtVcp (s : State) (t : Thread) : Res := if nothingOutstanding s t then .done s else .wait s

/-! ## Barriers (R247 to R250) -/

/-- The group of a thread at a level, and whether the level is a gang. -/
def groupOf (s : State) (t : Thread) (lvl : Nat) : Nat × Bool :=
  match launchOf s t.launch with
  | some l => (t.flat / groupThreads l.raw lvl, lvlGang (recLevel l.raw lvl))
  | none => (0, false)

/-- PHASE, of 32 bits, has gone beyond a phase (R248; log 63). -/
def phaseExceeds (p phase : Nat) : Bool :=
  let d := (phase + 2 ^ 32 - p) % 2 ^ 32
  decide (0 < d ∧ d < 2 ^ 31)

/-- A barrier instruction at vcp after the non-gang check: `f` takes the group. Where a router on the way has stopped it waits. Where
there is no way, or the barrier's home is fenced, the packet comes back with fenced status (R312): the memory-unavailable trap, whose
tval, a virtual address elsewhere (R223), is a free value, for R312 and R223 name neither for a barrier (DESIGN CHOICE, log 111). An
arrival that has been made sends nothing more, and waits for its phase. -/
def atBarrier (s : State) (t : Thread) (e : Entry) (lvl : BitVec 4) (f : Nat → Res) : Res :=
  let g := groupOf s t lvl.toNat
  let tile := tileOfOwner s t.uid
  if g.2 then
    if barrierReached s tile t.launch lvl.toNat g.1 then f g.1
    else if stuckTo s tile (barrierTile t.launch lvl.toNat g.1) || e.phase.isSome then .wait s
    else .trap s causeUnavailable (Config.noAddress s.tick) e.k
  else .trap s causeNonGang (lvl.zeroExtend 64) e.k

/-- sync.barr at vcp: its arrival is a release; it then waits until PHASE exceeds the phase its arrival counted in. That is the phase
the barrier is in as the arrival is applied: also where the phase completes in that very cycle and the arrival, beyond EXPECT,
carries over to the next (R247, R248 do not say; DESIGN CHOICE, log 104). -/
def barrAtVcp (s : State) (tid : Nat) (t : Thread) (e : Entry) (lvl : BitVec 4) : Res :=
  atBarrier s t e lvl (fun g =>
    match barrierOf s t.launch lvl.toNat g with
    | none => .wait s
    | some b =>
      match e.phase with
      | some p =>
        if phaseExceeds p (settled s b).phase then .done (rsDropLoads (modThread s tid (fun t => { t with barrWait := none })) (tid / 4) (tid % 4))
        else .wait s
      | none =>
        if releaseReady s t.uid e.uid then
          let p := (settled s b).phase
          .wait (modHead (modThread (modBarrier s t.launch lvl.toNat g (arriveOne s (some t.uid))) tid
            (fun t => { t with barrWait := some (lvl.toNat, p) })) tid (fun e => { e with phase := some p }))
        else .wait s)

/-- sync.arrv at vcp: one arrival, as a release. -/
def arrvAtVcp (s : State) (t : Thread) (e : Entry) (lvl : BitVec 4) : Res :=
  atBarrier s t e lvl (fun g =>
    if releaseReady s t.uid e.uid then .done (modBarrier s t.launch lvl.toNat g (arriveOne s (some t.uid))) else .wait s)

/-- sync.expt at vcp: an expectation of x[A], read as 32 bits. -/
def exptAtVcp (s : State) (t : Thread) (e : Entry) (lvl : BitVec 4) : Res :=
  atBarrier s t e lvl (fun g =>
    .done (modBarrier s t.launch lvl.toNat g (expectMore s (e.cap.xa.toNat % 2 ^ 32))))

/-- BARRIER_PHASE_COMPLETE: the cycles that have passed take effect on a group's barrier: a phase that was due completes
(R247). -/
def execBarrierPhaseComplete (launch : Nat) (lvl : Nat) (group : Nat) (s : State) : Host.Outcome State Fault Refusal :=
  .next (if barrierUp s launch lvl group then modBarrier s launch lvl group (settled s) else s)

/-! The pushes (R22, R26). -/

def execSyncAcq (a : Reg) (sc : Scope) (σ : State) : Host.Outcome State Fault Refusal :=
  .next (pushCur σ (.syncAcq a sc))
def execSyncRel (a : Reg) (sc : Scope) (σ : State) : Host.Outcome State Fault Refusal :=
  .next (pushCur σ (.syncRel a sc))
def execSyncBind (d a b : Reg) (sc : Scope) (σ : State) : Host.Outcome State Fault Refusal :=
  .next (pushCur σ (.syncBind d a b sc))
def execSyncUbnd (d a : Reg) (sc : Scope) (σ : State) : Host.Outcome State Fault Refusal :=
  .next (pushCur σ (.syncUbnd d a sc))
def execSyncFenc (sc : Scope) (σ : State) : Host.Outcome State Fault Refusal := .next (pushCur σ (.syncFenc sc))
def execSyncBarr (sc : Scope) (lvl : BitVec 4) (σ : State) : Host.Outcome State Fault Refusal :=
  .next (pushCur σ (.syncBarr sc lvl))
def execSyncArrv (sc : Scope) (lvl : BitVec 4) (σ : State) : Host.Outcome State Fault Refusal :=
  .next (pushCur σ (.syncArrv sc lvl))
def execSyncExpt (a : Reg) (sc : Scope) (lvl : BitVec 4) (σ : State) : Host.Outcome State Fault Refusal :=
  .next (pushCur σ (.syncExpt a sc lvl))

end Sys2Proof.Machine
end

