-- ==== Sys2Proof/Machine/Atomic.lean ====
section
/-! DEFINITION. VAMO and VWTC (R251 to R256), and what a request does when it performs at its home slice (R225, R227 to
R229, R253, R260). -/

namespace Sys2Proof.Machine

/-! ## Values -/

/-- The smaller or larger of two w-bit signed patterns. -/
def sMin (w a b : Nat) : Nat := if signedOf w a ≤ signedOf w b then a else b
def sMax (w a b : Nat) : Nat := if signedOf w a ≤ signedOf w b then b else a

/-- f32 addition rounded to nearest even (R100). -/
def faddBits (a b : Nat) : Nat := roundTo .f32 .rne (fadd .rne (fvalOf .f32 a) (fvalOf .f32 b))

/-- The new memory value of a VAMO element (R252): `d` is the comparand of cas. -/
def amoNew (op : AmoOp) (w old v d : Nat) : Nat :=
  match op with
  | .add => (old + v) % 2 ^ w
  | .min => sMin w old v
  | .max => sMax w old v
  | .and => old &&& v
  | .or => old ||| v
  | .xor => old ^^^ v
  | .swap => v
  | .cas => if old = d then v else old
  | .fadd => faddBits old v

/-- One addition of a merge (R260). -/
def mergeAdd (ty : ElemTy) (a b : Nat) : Nat := if ty = .f32 then faddBits a b else (a + b) % 2 ^ ty.bits

/-! ## What performs at a home -/

/-- A number of n bytes in memory. -/
def readNat (s : State) (pa n : Nat) : Nat := natOfBytes (readBytes s.mem pa n)

/-- One plane bit of a bpi element (R95): plane 0 holds the top bit of the element's planes. -/
def writePlane (s : State) (pa pos planes v j : Nat) : State :=
  let a := pa + 32 * j + pos / 8
  let old := (readByte s.mem a).toNat
  let bit := bitsOf v (planes - 1 - j) 1
  performWrite s a [BitVec.ofNat 8 (old - bitsOf old (pos % 8) 1 * 2 ^ (pos % 8) + bit * 2 ^ (pos % 8))]

/-- An update performs: one indivisible read and write of a number of n bytes (R236). Where a byte of it is poisoned nothing
is written (R225; log 87). -/
def updateAt (s : State) (pa n : Nat) (f : Nat → Nat) : State :=
  if poisoned s pa n then countAccess s pa else countAtomic (performWrite s pa (bytesOfNat n (f (readNat s pa n)))) pa

/-- A request performs: one indivisible action at its home (R227, R236, R260). -/
def performReq (s : State) (k : ReqKind) : State :=
  match k with
  | .store pa l | .writeBack pa l => countAccess (performWrite s pa l) pa
  | .planes pa pos p v => countAccess ((List.range p).foldl (fun s j => writePlane s pa pos p v.toNat j) s) pa
  | .merge pa ty copies =>
    updateAt s pa (ty.bits / 8) (fun m => copies.foldl (fun m c => mergeAdd ty m c.toNat) m)
  | .atom pa op w64 v =>
    let n := if w64 then 8 else 4
    updateAt s pa n (fun old => amoNew op (8 * n) old v.toNat 0)

/-- A router on the way has stopped: one that the request has still to pass, or its cluster's before it left (R307, R313; log
67). -/
def requestStuck (s : State) (r : Req) : Bool :=
  ((way s (tileOfCluster r.cluster) (tileOfSlice (homeOf (reqSpan r.kind).1))).getD []).any (stopped s) ||
  (match tabFind s.silent (tileOfCluster r.cluster) with
   | some n => decide (n ≤ r.uid)
   | none => false)

/-- An element that a home may combine: integer add, min, max, and, or, xor without a return (R253). -/
def canCombine : ReqKind → Bool
  | .atom _ op _ _ => op = .add || op = .min || op = .max || op = .and || op = .or || op = .xor
  | .store _ _ | .writeBack _ _ | .planes _ _ _ _ | .merge _ _ _ => false
/-- A request does not perform yet: something before it has not performed, or its way is stopped; or never, since its packet
was dropped (R309). -/
def requestHeld (s : State) (r : Req) : Bool := requestWaits s r || requestStuck s r || decide (r.uid ∈ s.dropped)

/-- The home of a request can perform it, and there is a way from its cluster (R223, R312). -/
def requestReaches (s : State) (r : Req) : Bool := reaches s r.cluster (reqSpan r.kind).1

/-- The elements that a home combines with one that performs: others to its address, each of which may perform once those
of the group before it have (R253; log 41). -/
def combined (s : State) (r : Req) : List Req :=
  if !canCombine r.kind then [] else
  s.inflight.foldl (fun g x =>
    if canCombine x.kind && Config.combines x.uid && decide (x.uid ≠ r.uid ∧ reqSpan x.kind = reqSpan r.kind) &&
        !requestStuck s x && requestReaches s x && !waitsInQueue s x && decide (¬ x.uid ∈ s.dropped) &&
        s.inflight.all (fun y => !mustPrecede y x || decide (y = r ∨ y ∈ g)) then g ++ [x]
    else g) []

/-- A request arrives at its home and performs, with those that the home combines with it; where it does not get there it is
lost (R223, R313). -/
def performAt (s : State) (r : Req) : State :=
  if requestHeld s r then s
  else if requestReaches s r then
    let g := combined s r
    let s := bump { s with inflight := s.inflight.filter (fun x => x.uid ≠ r.uid ∧ ¬ x ∈ g) } (320 + homeOf (reqSpan r.kind).1) 2
      g.length
    (r :: g).foldl (fun s x => performReq s x.kind) s
  else { s with inflight := s.inflight.filter (fun x => x.uid ≠ r.uid) }

/-! ## VAMO at vcp -/

/-- Where an atomic element goes: its physical address, a trap, or a wait for a moving page. -/
inductive ElemAt where
  | ok (pa : Nat)
  | wait
  | trap (cause : BitVec 8)

/-- The checks of one element's address for an entry: alignment, translation, home and poison. The entry has one element at a time
whose translation waits, and its miss ends with the element (R285). -/
def elemAt (s : State) (tid : Nat) (t : Thread) (e : Entry) (ea : Word) (n : Nat) (need : Need) (fault : BitVec 8) :
    ElemAt × State :=
  if ea.toNat % n ≠ 0 then (.trap causeMisaligned, s) else
  match xlate s (tid / 4) t.uid e.uid t.ctx t.area ea.toNat need with
  | (.fail, s) => (.trap fault, s)
  | (.wait, s) => (.wait, s)
  | (.ok pa, s) =>
    if !reaches s (tid / 4) pa then (.trap causeUnavailable, s)
    else if poisoned s pa n then (.trap causePoisoned, s)
    else (.ok pa, s)

/-- The first element from k on, below n, that is governed. -/
def nextActive (t : Thread) (p k n : Nat) : Option Nat := (span k n).find? (fun i => maskBit t p i)

/-- One element of a returning VAMO performs at its home, once its thread's earlier operations on its bytes and strong accesses
have (R230, R235, R255), and its old value goes to D (R253). -/
def amoReturn (s : State) (tid : Nat) (t : Thread) (e : Entry) (m : Amo) (i : Nat) : Res :=
  let n := if m.w64 then 8 else 4
  let w := 8 * n
  let ea := atomEa t e.cap m.b n i
  match elemAt s tid t e ea n needRW causeStoreFault with
  | (.trap c, s) => .trap s c ea i
  | (.wait, s) => .wait s
  | (.ok pa, s) =>
    if atomWaits s t e pa n then .wait s else
    let old := readNat s pa n
    let v := elem t (m.b.toNat + vfmtGm e.cap.vfmt) w i
    let s := countAtomic (performWrite (endMiss s (tid / 4) t.uid e.uid) pa
      (bytesOfNat n (amoNew m.op w old v (elem t m.d.toNat w i)))) pa
    .more (modHead (modThread s tid (fun t => setElem t m.d.toNat w i old)) tid (fun e => { e with k := i + 1 }))

/-- A thread's atomic elements still on their way. -/
def atomsOut (s : State) (owner : Nat) : Bool :=
  s.inflight.any (fun r => decide (r.owner = owner) && (match r.kind with | .atom _ _ _ _ => true | _ => false))

/-- The elements of a non-returning VAMO from k on are issued; the first that fails stops the issue, and traps once
every earlier element has performed (R252, R253). -/
def amoIssue (tid : Nat) (t : Thread) (e : Entry) (m : Amo) : State → List Nat → Res
  | s, [] => .more (modHead s tid (fun x => { x with k := nElems e.cap }))
  | s, i :: r =>
    let n := if m.w64 then 8 else 4
    let ea := atomEa t e.cap m.b n i
    match elemAt s tid t e ea n needRW causeStoreFault with
    | (.trap c, s) => if atomsOut s t.uid then .more (modHead s tid (fun x => { x with k := i })) else .trap s c ea i
    | (.wait, s) => .more (modHead s tid (fun x => { x with k := i }))
    | (.ok pa, s) =>
      let v := elem t (m.b.toNat + vfmtGm e.cap.vfmt) (8 * n) i
      amoIssue tid t e m (issue (endMiss s (tid / 4) t.uid e.uid) { seq := e.uid, part := true, owner := t.uid, launch := t.launch, cluster := tid / 4,
                                                                     strong := true, kind := .atom pa m.op m.w64 (BitVec.ofNat 64 v) }) r

/-- VAMO at vcp: the width check, the wait of RL, then one returning element, or every other element issued. With AQ it
completes only when every element has performed, and load entries of the thread go (R252, R302). -/
def amoAtVcp (s : State) (tid : Nat) (t : Thread) (e : Entry) (m : Amo) : Res :=
  let n := nElems e.cap
  if vfmtW e.cap.vfmt ≠ (if m.w64 then 64 else 32) then
    .trap s causeAtomicWidth (BitVec.ofNat 64 (vfmtW e.cap.vfmt)) e.k
  else if !e.begun && m.rl && !releaseReady s t.uid e.uid then .wait s
  else
    let s := if e.begun then s else
      modHead ((destRegs e.cap.vfmt e.instr).foldl (fun s v => rsTake s (tid / 4) (tid % 4) v e.cap.rsctl) s) tid
        (fun x => { x with begun := true })
    match nextActive t m.p.toNat e.k n with
    | some i =>
      if m.ret then amoReturn s tid t e m i
      else amoIssue tid t e m s ((span i n).filter (fun i => maskBit t m.p.toNat i))
    | none =>
      if m.aq then (if atomsOut s t.uid then .wait s else .done (rsDropLoads s (tid / 4) (tid % 4))) else .done s

/-! ## VWTC at vcp -/

/-- One pass of a conditional wait over the elements not yet satisfied, ascending: the satisfied ones, or the trap of
the first element that fails when every lower one is satisfied; a failing element above an unsatisfied one is left
for a later pass (R256, R238). -/
def vwtcPass (tid : Nat) (t : Thread) (e : Entry) (b : Reg) (cc : WCond) (n : Nat) (low : Bool) :
    State → List Nat → State × List Nat × Option (BitVec 8 × Word × Nat)
  | s, [] => (s, [], none)
  | s, i :: r =>
    let ea := atomEa t e.cap b n i
    match elemAt s tid t e ea n needR causeLoadFault with
    | (.trap c, s) => (endMiss s (tid / 4) t.uid e.uid, [], if low then some (c, ea, i) else none)
    | (.wait, s) => (s, [], none)
    | (.ok pa, s) =>
      let s := countAccess (endMiss s (tid / 4) t.uid e.uid) pa
      let hit := wcondHolds cc (8 * n) (readNat s pa n) (e.eb.getD 0).toNat
      let (s, l, x) := vwtcPass tid t e b cc n (low && hit) s r
      (s, if hit then i :: l else l, x)

/-- VWTC at vcp, first or again: its reads are strong accesses, and so wait for those of its thread before it (R235, R236); its
comparand is read once (R139); it completes when every element has been satisfied, at once when none is active and governed. -/
def vwtcAtVcp (s : State) (tid : Nat) (t : Thread) (e : Entry) (d b : Reg) (p : PReg) (cc : WCond) (w64 : Bool) : Res :=
  let n := if w64 then 8 else 4
  if vfmtW e.cap.vfmt ≠ 8 * n then .trap s causeAtomicWidth (BitVec.ofNat 64 (vfmtW e.cap.vfmt)) e.k
  else
    let left := (span e.k (nElems e.cap)).filter (fun i => maskBit t p.toNat i && decide (¬ i ∈ e.sat))
    if decide (left ≠ []) && strongBefore s t e.uid then .wait s else
    let e := { e with begun := true, eb := some (e.eb.getD (BitVec.ofNat 64 (elem t d.toNat (8 * n) 0))) }
    let (s, got, stop) := vwtcPass tid t e b cc n true s left
    let still := left.filter (fun i => ¬ i ∈ got)
    let e' := { e with sat := e.sat ++ got, k := still.headD (nElems e.cap) }
    let s := modHead s tid (fun _ => e')
    match stop, still with
    | some (c, v, k), _ => .trap s c v k
    | none, [] => .done (rsDropLoads s (tid / 4) (tid % 4))
    | none, _ :: _ => .wait s

/-- VWTC_REREAD: the elements a thread still watches are read again (R256). -/
def execVwtcReread (thread : Nat) (s : State) : Host.Outcome State Fault Refusal :=
  .next (match threadAt s thread with
    | none => s
    | some t =>
      match t.vq with
      | [] => s
      | e :: _ =>
        match e.instr with
        | .vwtc d _ b p cc w64 =>
          if !e.begun || t.stopReq || t.deferred.isSome || decide (e.uid ∈ s.dropped) then s
          else
            (match vwtcAtVcp s thread t e d b p cc w64 with
             | .done s => completeHead s thread
             | .more s | .wait s => s
             | .trap s c v k => vectorTrap s thread c v k false)
        | _ => s)

/-! The pushes (R22, R26). -/

def execVamoAdd (d a b : Reg) (p : PReg) (ret aq rl w64 : Bool) (σ : State) : Host.Outcome State Fault Refusal :=
  .next (pushCur σ (.vamoAdd d a b p ret aq rl w64))
def execVamoMin (d a b : Reg) (p : PReg) (ret aq rl w64 : Bool) (σ : State) : Host.Outcome State Fault Refusal :=
  .next (pushCur σ (.vamoMin d a b p ret aq rl w64))
def execVamoMax (d a b : Reg) (p : PReg) (ret aq rl w64 : Bool) (σ : State) : Host.Outcome State Fault Refusal :=
  .next (pushCur σ (.vamoMax d a b p ret aq rl w64))
def execVamoAnd (d a b : Reg) (p : PReg) (ret aq rl w64 : Bool) (σ : State) : Host.Outcome State Fault Refusal :=
  .next (pushCur σ (.vamoAnd d a b p ret aq rl w64))
def execVamoOr (d a b : Reg) (p : PReg) (ret aq rl w64 : Bool) (σ : State) : Host.Outcome State Fault Refusal :=
  .next (pushCur σ (.vamoOr d a b p ret aq rl w64))
def execVamoXor (d a b : Reg) (p : PReg) (ret aq rl w64 : Bool) (σ : State) : Host.Outcome State Fault Refusal :=
  .next (pushCur σ (.vamoXor d a b p ret aq rl w64))
def execVamoSwap (d a b : Reg) (p : PReg) (ret aq rl w64 : Bool) (σ : State) : Host.Outcome State Fault Refusal :=
  .next (pushCur σ (.vamoSwap d a b p ret aq rl w64))
def execVamoCas (d a b : Reg) (p : PReg) (aq rl w64 : Bool) (σ : State) : Host.Outcome State Fault Refusal :=
  .next (pushCur σ (.vamoCas d a b p aq rl w64))
def execVamoFadd (d a b : Reg) (p : PReg) (ret aq rl : Bool) (σ : State) : Host.Outcome State Fault Refusal :=
  .next (pushCur σ (.vamoFadd d a b p ret aq rl))
def execVwtc (d a b : Reg) (p : PReg) (cc : WCond) (w64 : Bool) (σ : State) : Host.Outcome State Fault Refusal :=
  .next (pushCur σ (.vwtc d a b p cc w64))

end Sys2Proof.Machine
end

