-- ==== Sys2Proof/Machine/Accw.lean ====
section
/-! DEFINITION. ACCW (R257 to R260): updates of private copies, merge and clear, and the pushes. -/

namespace Sys2Proof.Machine

/-- The checks each form makes first: configured, mode acc, tensor type TYPE (R258). -/
def accwCheck (t : Thread) (n : Nat) (ty : ElemTy) : Except Nat HReg :=
  match tabFind t.h n with
  | none => .error 1
  | some h => if blkMode h.blk ≠ modeAcc then .error 2 else if tdType h.td ≠ ty then .error 3 else .ok h

/-- What a group of updates has come to. -/
structure AccAcc where
  sp : Tab Byte
  dirty : List Nat
  stop : Option Nat := none

/-- One element of accw.upd: copy i mod 64 of its element grows by b(i) (R259). -/
def accElement (t : Thread) (h : HReg) (a b p : Nat) (ty : ElemTy) (acc : AccAcc) (i : Nat) : AccAcc :=
  let w := ty.bits
  if acc.stop.isSome || !maskBit t p i then acc else
  match indexCoord h (elem t a w i) with
  | none => { acc with stop := some i }
  | some c =>
    if isClipped h.td h.comm.limit c then acc
    else
      let k := slotOf (boxW h.blk) c
      let x := copyByte h (i % 64) k
      { acc with sp := spWrite acc.sp x (bytesOfNat (w / 8) (mergeAdd ty (spRead acc.sp x (w / 8)) (elem t b w i))),
                 dirty := setAdd acc.dirty k }

/-- One element group of accw.upd. -/
def accwStep (s : State) (tid : Nat) (t : Thread) (e : Entry) (d a b : Reg) (p : PReg) (ty : ElemTy) : Res :=
  match accwCheck t d.toNat ty with
  | .error r => .trap s causeResFault (resTval d.toNat true r) e.k
  | .ok h =>
    let n := nElems e.cap
    let hi := min n (groupEnd ty.bits e.k)
    let c := clusterOf s (tid / 4)
    let acc := (span e.k hi).foldl (accElement t h a.toNat b.toNat p.toNat ty) { sp := c.scratch, dirty := h.dirty }
    let s := setCluster s (tid / 4) { c with scratch := acc.sp }
    let s := modThread s tid (fun t => { t with h := tabPut t.h d.toNat { h with dirty := acc.dirty } })
    match acc.stop with
    | some i => .trap s causeResFault (resTval d.toNat true 4) i
    | none => if n ≤ hi then .done s else .more (modHead s tid (fun e => { e with k := hi }))

/-- accw.mrge at vcp: every dirty element's merge is issued; the copies are left zero and clean (R260). A lost element is told
of when all have been issued (R378). -/
def accwMrgeAtVcp (s : State) (tid : Nat) (t : Thread) (e : Entry) (d : Reg) (ty : ElemTy) : Res :=
  match accwCheck t d.toNat ty with
  | .error r => .trap s causeResFault (resTval d.toNat false r) e.k
  | .ok _ =>
    match cleanReg s tid d.toNat e.uid true with
    | (s, false) => .wait s
    | (s, true) => .done (postLost s tid)

/-- accw.clr at vcp: every copy zero and clean, nothing written. -/
def accwClrAtVcp (s : State) (tid : Nat) (t : Thread) (e : Entry) (d : Reg) (ty : ElemTy) : Res :=
  match accwCheck t d.toNat ty with
  | .error r => .trap s causeResFault (resTval d.toNat false r) e.k
  | .ok h =>
    let s := zeroCopies s (tid / 4) h (List.range (boxV h.blk))
    .done (modThread s tid (fun t => { t with h := tabPut t.h d.toNat { h with dirty := [] } }))

/-! The pushes (R22, R26). -/

def execAccwUpd (d a b : Reg) (p : PReg) (t : ElemTy) (σ : State) : Host.Outcome State Fault Refusal :=
  .next (pushCur σ (.accwUpd d a b p t))
def execAccwMrge (d : Reg) (t : ElemTy) (σ : State) : Host.Outcome State Fault Refusal :=
  .next (pushCur σ (.accwMrge d t))
def execAccwClr (d : Reg) (t : ElemTy) (σ : State) : Host.Outcome State Fault Refusal :=
  .next (pushCur σ (.accwClr d t))

end Sys2Proof.Machine
end

