-- ==== Sys2Proof/Machine/Alu.lean ====
section
/-! DEFINITION. ALU, ALUI and UPI (R116). -/

namespace Sys2Proof.Machine

/-- An ALU instruction: x[D] becomes a function of x[A] and x[B]. -/
def alu (d a b : Reg) (f : Word → Word → Word) (s : State) : Host.Outcome State Fault Refusal :=
  onCur s (fun t => writeX s t d (f (rx t a) (rx t b)))

/-- The low 32 bits of a result, sign-extended. -/
def low32 (w : Word) : Word := (w.extractLsb' 0 32).signExtend 64

def execAluAdd (d a b : Reg) (s : State) : Host.Outcome State Fault Refusal := alu d a b (· + ·) s
def execAluSub (d a b : Reg) (s : State) : Host.Outcome State Fault Refusal := alu d a b (· - ·) s
def execAluAnd (d a b : Reg) (s : State) : Host.Outcome State Fault Refusal := alu d a b (· &&& ·) s
def execAluOr (d a b : Reg) (s : State) : Host.Outcome State Fault Refusal := alu d a b (· ||| ·) s
def execAluXor (d a b : Reg) (s : State) : Host.Outcome State Fault Refusal := alu d a b (· ^^^ ·) s
/-- The amount is x[B][5:0]. -/
def execAluSll (d a b : Reg) (s : State) : Host.Outcome State Fault Refusal :=
  alu d a b (fun x y => x <<< (y.toNat % 64)) s
def execAluSrl (d a b : Reg) (s : State) : Host.Outcome State Fault Refusal :=
  alu d a b (fun x y => x >>> (y.toNat % 64)) s
def execAluSra (d a b : Reg) (s : State) : Host.Outcome State Fault Refusal :=
  alu d a b (fun x y => x.sshiftRight (y.toNat % 64)) s
def execAluSlt (d a b : Reg) (s : State) : Host.Outcome State Fault Refusal :=
  alu d a b (fun x y => if x.slt y then 1 else 0) s
def execAluSltu (d a b : Reg) (s : State) : Host.Outcome State Fault Refusal :=
  alu d a b (fun x y => if x.ult y then 1 else 0) s
def execAluAddw (d a b : Reg) (s : State) : Host.Outcome State Fault Refusal := alu d a b (fun x y => low32 (x + y)) s
def execAluSubw (d a b : Reg) (s : State) : Host.Outcome State Fault Refusal := alu d a b (fun x y => low32 (x - y)) s
def execAluMin (d a b : Reg) (s : State) : Host.Outcome State Fault Refusal :=
  alu d a b (fun x y => if x.slt y then x else y) s
def execAluMax (d a b : Reg) (s : State) : Host.Outcome State Fault Refusal :=
  alu d a b (fun x y => if x.slt y then y else x) s
def execAluMinu (d a b : Reg) (s : State) : Host.Outcome State Fault Refusal :=
  alu d a b (fun x y => if x.ult y then x else y) s
def execAluMaxu (d a b : Reg) (s : State) : Host.Outcome State Fault Refusal :=
  alu d a b (fun x y => if x.ult y then y else x) s

/-- alui: x[A] plus the sign-extended IMM16. -/
def execAlui (d a : Reg) (imm : BitVec 16) (s : State) : Host.Outcome State Fault Refusal :=
  onCur s (fun t => writeX s t d (rx t a + imm.signExtend 64))

/-- upi: the sign-extended IMM21 times 65,536. -/
def execUpi (d : Reg) (imm : BitVec 21) (s : State) : Host.Outcome State Fault Refusal :=
  onCur s (fun t => writeX s t d (imm.signExtend 64 * 65536))

end Sys2Proof.Machine
end

