-- ==== Sys2Proof/Machine/Bit.lean ====
section
/-! DEFINITION. BIT (R118). -/

namespace Sys2Proof.Machine

/-- A BIT instruction: x[D] becomes a function of x[A]. -/
def bitOp (d a : Reg) (f : Word → Word) (s : State) : Host.Outcome State Fault Refusal :=
  onCur s (fun t => writeX s t d (f (rx t a)))

/-- Leading zero bits of the low `n` bits of a word. -/
def leadingZeros (w : Word) : Nat → Nat
  | 0 => 0
  | n + 1 => if w.getLsbD n then 0 else 1 + leadingZeros w n

/-- Trailing zero bits from bit `64 - n` on. -/
def trailingZeros (w : Word) : Nat → Nat
  | 0 => 0
  | n + 1 => if w.getLsbD (63 - n) then 0 else 1 + trailingZeros w n

/-- One bits among the low `n` bits. -/
def onesBelow (w : Word) : Nat → Nat
  | 0 => 0
  | n + 1 => (w.getLsbD n).toNat + onesBelow w n

/-- The bytes of a word in reverse order. -/
def reverseBytes (w : Word) : Word := BitVec.ofNat 64 (natOfBytes (bytesOfNat 8 w.toNat).reverse)

def execBitSlli (d a : Reg) (sh : BitVec 6) (s : State) : Host.Outcome State Fault Refusal := bitOp d a (· <<< sh.toNat) s
def execBitSrli (d a : Reg) (sh : BitVec 6) (s : State) : Host.Outcome State Fault Refusal := bitOp d a (· >>> sh.toNat) s
def execBitSrai (d a : Reg) (sh : BitVec 6) (s : State) : Host.Outcome State Fault Refusal :=
  bitOp d a (fun x => x.sshiftRight sh.toNat) s
def execBitClz (d a : Reg) (s : State) : Host.Outcome State Fault Refusal :=
  bitOp d a (fun x => BitVec.ofNat 64 (leadingZeros x 64)) s
def execBitCtz (d a : Reg) (s : State) : Host.Outcome State Fault Refusal :=
  bitOp d a (fun x => BitVec.ofNat 64 (trailingZeros x 64)) s
def execBitPopc (d a : Reg) (s : State) : Host.Outcome State Fault Refusal :=
  bitOp d a (fun x => BitVec.ofNat 64 (onesBelow x 64)) s
def execBitRev8 (d a : Reg) (s : State) : Host.Outcome State Fault Refusal := bitOp d a reverseBytes s

end Sys2Proof.Machine
end

