-- ==== Sys2Proof/Machine/Branch.lean ====
section
/-! DEFINITION. BR, JL and JLR (R122). Targets count from the address of the instruction itself (R54). -/

namespace Sys2Proof.Machine

/-- The target of a word offset. -/
def wordTarget {n : Nat} (pc : Word) (off : BitVec n) : Word := pc + off.signExtend 64 * 4

/-- A conditional branch. -/
def branch (cond : Nat) (a b : Reg) (off : BitVec 14) (s : State) : Host.Outcome State Fault Refusal :=
  onCur s (fun t => setThread s s.cur
    { t with pc := if brTaken cond (rx t a) (rx t b) then wordTarget t.pc off else t.pc + 4 })

def execBrEq (a b : Reg) (off : BitVec 14) (s : State) : Host.Outcome State Fault Refusal := branch 0 a b off s
def execBrNe (a b : Reg) (off : BitVec 14) (s : State) : Host.Outcome State Fault Refusal := branch 1 a b off s
def execBrLt (a b : Reg) (off : BitVec 14) (s : State) : Host.Outcome State Fault Refusal := branch 2 a b off s
def execBrLtu (a b : Reg) (off : BitVec 14) (s : State) : Host.Outcome State Fault Refusal := branch 3 a b off s

/-- jl.go: a jump. -/
def execJlGo (off : BitVec 25) (s : State) : Host.Outcome State Fault Refusal :=
  onCur s (fun t => setThread s s.cur { t with pc := wordTarget t.pc off })

/-- jl.ln: x31 receives the return address. -/
def execJlLn (off : BitVec 25) (s : State) : Host.Outcome State Fault Refusal :=
  onCur s (fun t => setThread s s.cur { wx t 31 (t.pc + 4) with pc := wordTarget t.pc off })

/-- jlr: a misaligned target raises the instruction-misaligned trap and leaves x[D]. -/
def execJlr (d a : Reg) (imm : BitVec 16) (s : State) : Host.Outcome State Fault Refusal :=
  onCur s (fun t =>
    let target := rx t a + imm.signExtend 64
    if target.toNat % 4 ≠ 0 then scalarTrap s s.cur causeMisalignedPc target t.pc
    else setThread s s.cur { wx t d (t.pc + 4) with pc := target })

end Sys2Proof.Machine
end

