-- ==== Sys2Proof/Machine/Strainer.lean ====
section
/-! DEFINITION. Caddy slots: elements (R197), the metadata word (R198, R216) and the Strainer (R213, R214). -/

namespace Sys2Proof.Machine

/-! ## Metadata (R198) -/
def miRows (m : Word) : Nat := fieldOf m 0 11
def miCols (m : Word) : Nat := fieldOf m 11 11
def miType (m : Word) : ElemTy := (ElemTy.ofCode (m.extractLsb' 22 4)).getD .s8
def miPlanes (m : Word) : Nat := fieldOf m 26 4
def miLoaded (m : Word) : Bool := m.getLsbD 30
def miSkip (m : Word) : Bool := m.getLsbD 31
def miSpec (m : Word) : Bool := m.getLsbD 32
def miStr (m : Word) : Bool := m.getLsbD 33
def miFallback (m : Word) : Nat := fieldOf m 34 2
def miDropped (m : Word) : Bool := m.getLsbD 46

/-- A metadata word from its fields. -/
def miWord (rows cols ty planes : Nat) (loaded skip spec str : Bool) (fallback nterms nres : Nat) (dropped : Bool)
    (lossq : Nat) : Word :=
  BitVec.ofNat 64 (rows + 2 ^ 11 * cols + 2 ^ 22 * ty + 2 ^ 26 * planes + 2 ^ 30 * loaded.toNat + 2 ^ 31 * skip.toNat +
    2 ^ 32 * spec.toNat + 2 ^ 33 * str.toNat + 2 ^ 34 * fallback + 2 ^ 36 * nterms + 2 ^ 39 * nres + 2 ^ 46 * dropped.toNat +
    2 ^ 48 * lossq)

/-! ## Elements of a slot (R197): row-major, w bits each, packed -/

/-- Width of a slot's elements. -/
def slotWidth (ty : ElemTy) (planes : Nat) : Nat := if ty = .bpi then planes else ty.bits

/-- Element i of a slot. -/
def slotElem (b : Tab Byte) (w i : Nat) : Nat := bitsOf (spRead b (i * w / 8) 3) (i * w % 8) w

/-- Element i of a slot is written. -/
def setSlotElem (b : Tab Byte) (w i v : Nat) : Tab Byte :=
  let a := i * w / 8
  let sh := i * w % 8
  let old := spRead b a 3
  spWrite b a (bytesOfNat 3 (old - bitsOf old sh w * 2 ^ sh + v % 2 ^ w * 2 ^ sh))

/-- Magnitude of an element for the Strainer: exact order, a NaN above infinity, 0 for ±0 (R213). -/
def strainMag (ty : ElemTy) (v : Nat) : Nat :=
  if ty = .s8 then (intOf .s8 v).natAbs
  else match fvalOf ty v with
    | .nan => 2 ^ ty.bits
    | .inf _ | .fin _ _ _ => v % 2 ^ (ty.bits - 1)

/-- |x| of a finite element in units of 2^−133 (R214). -/
def massOf (ty : ElemTy) (v : Nat) : Nat :=
  if ty = .s8 then (intOf .s8 v).natAbs * 2 ^ 133
  else match fvalOf ty v with
    | .fin _ m e => m * 2 ^ (e + 133).toNat
    | .nan | .inf _ => 0

/-! ## The Strainer (R213) -/

/-- The first element of a list with the largest key. -/
def bestOf (key : Nat → Nat) : List Nat → Option Nat
  | [] => none
  | x :: r => match bestOf key r with
    | none => some x
    | some y => if key x < key y then some y else some x

/-- The `n` elements with the largest keys, ties to the earlier. -/
def topBy (key : Nat → Nat) : Nat → List Nat → List Nat
  | 0, _ => []
  | n + 1, l => match bestOf key l with
    | none => []
    | some x => x :: topBy key n (l.filter (fun y => y ≠ x))

/-- Block and element patterns of an stctl value: Nb, Mb, Ne, Me (R199). -/
def patternsOf (c : Word) : Nat × Nat × Nat × Nat :=
  let (nb, mb) := match fieldOf c 0 2 with | 0 => (1, 2) | 1 => (2, 4) | 2 => (1, 4) | _ => (4, 4)
  let (ne, me) := match fieldOf c 2 2 with | 0 => (2, 4) | 1 => (4, 8) | _ => (4, 4)
  (nb, mb, ne, me)

/-- What one term keeps of a column of magnitudes: positions in ascending k (R213). -/
def termColumn (pat : Nat × Nat × Nat × Nat) (col : List Nat) : List Nat :=
  let (nb, mb, ne, me) := pat
  let blocks := col.length / 8
  let mag (k : Nat) : Nat := col.getD k 0
  let count (b : Nat) : Nat := ((List.range 8).filter (fun i => mag (8 * b + i) ≠ 0)).length
  let picked := (List.range ((blocks + mb - 1) / mb)).flatMap (fun g =>
    topBy count nb ((List.range mb).map (fun i => g * mb + i) |>.filter (fun b => b < blocks)))
  let kept := picked.flatMap (fun b => (List.range (8 / me)).flatMap (fun h =>
    (topBy mag ne ((List.range me).map (fun i => 8 * b + me * h + i))).filter (fun k => mag k ≠ 0)))
  (List.range col.length).filter (fun k => k ∈ kept)

/-- A column without some positions. -/
def dropKept (col kept : List Nat) : List Nat := (col.zipIdx).map (fun x => if x.2 ∈ kept then 0 else x.1)

/-- The terms, and what remains, of the columns of a slot. -/
def strainTerms (pat : Nat × Nat × Nat × Nat) : Nat → List (List Nat) → List (List (List Nat)) × List (List Nat)
  | 0, cols => ([], cols)
  | n + 1, cols =>
    if cols.all (fun c => c.all (fun m => m = 0)) then ([], cols)
    else
      let kept := cols.map (termColumn pat)
      let (ts, rem) := strainTerms pat n ((cols.zip kept).map (fun x => dropKept x.1 x.2))
      (kept :: ts, rem)

/-- The columns of magnitudes of a slot, with positions up to a multiple of 8 counting as zero. -/
def strainColumns (b : Tab Byte) (ty : ElemTy) (rows cols : Nat) : List (List Nat) :=
  (List.range cols).map (fun j => (List.range ((rows + 7) / 8 * 8)).map (fun k =>
    if k < rows then strainMag ty (slotElem b ty.bits (k * cols + j)) else 0))

/-- The residual: (j, k) by j, then ascending k. -/
def residualOf (rem : List (List Nat)) : List (Nat × Nat) :=
  (rem.zipIdx).flatMap (fun c => (c.1.zipIdx).filterMap (fun m => if m.1 = 0 then none else some (c.2, m.2)))

/-- Every element is ±0 (R216). -/
def slotSkip (b : Tab Byte) (ty : ElemTy) (w n : Nat) : Bool :=
  (List.range n).all (fun i => if ty = .bpi then slotElem b w i = 0 else strainMag ty (slotElem b w i) = 0)

/-- An element is an infinity or a NaN (R216). -/
def slotSpec (b : Tab Byte) (ty : ElemTy) (w n : Nat) : Bool :=
  if ty = .s8 ∨ ty = .bpi then false
  else (List.range n).any (fun i => match fvalOf ty (slotElem b w i) with
    | .nan | .inf _ => true
    | .fin _ _ _ => false)

/-- The metadata of a completed cdy.load (R212). -/
def loadedInfo (b : Tab Byte) (ty : ElemTy) (planes rows cols : Nat) : Word :=
  let w := slotWidth ty planes
  miWord rows cols ty.code.toNat planes true (slotSkip b ty w (rows * cols)) (slotSpec b ty w (rows * cols)) false 0 0 0 false 0

/-- The Strainer on a slot just loaded (R213, R214): its metadata word, terms and residual. -/
def strain (sl : CSlot) (stctl stloss : Word) : CSlot :=
  let m := sl.info
  let ty := miType m
  let rows := miRows m
  let cols := miCols m
  let word (fb nt nr : Nat) (dr : Bool) (lq : Nat) : Word :=
    miWord rows cols ty.code.toNat (miPlanes m) true (miSkip m) (miSpec m) true fb nt nr dr lq
  let back (fb : Nat) : CSlot := { sl with info := word fb 0 0 false 0, terms := [], residual := [] }
  if 64 < cols ∨ ty = .bpi then back 3
  else if 512 < rows then back 2
  else
    let (ts, rem) := strainTerms (patternsOf stctl) (fieldOf stctl 4 3) (strainColumns sl.bytes ty rows cols)
    let res := residualOf rem
    if 64 < res.length then back 1
    else
      let total := ((List.range (rows * cols)).map (fun i => massOf ty (slotElem sl.bytes ty.bits i))).sum
      let left := (res.map (fun r => massOf ty (slotElem sl.bytes ty.bits (r.2 * cols + r.1)))).sum
      let lq := if res = [] then 0 else if miSpec m then 0xFFFF else min ((left * 65536 + total - 1) / total) 0xFFFF
      let dr := decide (res ≠ []) && stctl.getLsbD 7 && !miSpec m && decide (left * 65536 ≤ fieldOf stloss 0 16 * total)
      { sl with info := word 0 ts.length res.length dr lq, terms := ts, residual := res }

end Sys2Proof.Machine
end

