-- ==== Sys2Proof/Machine/Tile.lean ====
section
/-! DEFINITION. TILE and TMOV (R200 to R209, R217) with the macro sequencer, the grants of the tile pool (R201), and the
pushes. -/

namespace Sys2Proof.Machine

/-! ## Traps (R202, R376) -/

/-- The tile-disabled trap. -/
def tileOffTrap (s : State) (e : Entry) (d : Nat) : Res := .trap s causeTileOff (BitVec.ofNat 64 d) e.k

/-- The matrix operand trap: reason, field (0 D, 1 A, 2 B) and register number. -/
def matrixTrap (s : State) (e : Entry) (reason fld reg : Nat) : Res :=
  .trap s causeMatrix (BitVec.ofNat 64 (reason + 16 * fld + 128 * reg + (if reason = 5 then 2 ^ 16 * fieldOf e.cap.xb 0 48 else 0)))
    e.k

/-! ## Tiles -/

/-- Element (i, j) of a pool tile. -/
def tileElem (c : Cluster) (tile i j : Nat) : Nat := (tabGet 0 c.tiles (4096 * tile + 64 * i + j)).toNat
/-- Element (i, j) of a pool tile is written. -/
def setTileElem (c : Cluster) (tile i j v : Nat) : Cluster :=
  { c with tiles := tabSet 0 c.tiles (4096 * tile + 64 * i + j) (BitVec.ofNat 32 v) }
/-- A pool tile's contents are discarded. -/
def wipeTile (c : Cluster) (tile : Nat) : Cluster := { c with tiles := c.tiles.filter (fun e => e.1 / 4096 ≠ tile) }

/-- Every index pair of a tile. -/
def tilePairs : List (Nat × Nat) := (List.range 64).flatMap (fun i => (List.range 64).map (fun j => (i, j)))

/-- Both predicate bits of element (i, j) are 1 (R205). -/
def predHolds (pred : BitVec 128) (i j : Nat) : Bool := pred.getLsbD i && pred.getLsbD (64 + j)

/-- A slot. -/
def slotAt (c : Cluster) (k : Nat) : CSlot := tabGet {} c.slots k

/-- Element of a slot of a floating type as the matrix engine reads it. -/
def engineVal (sl : CSlot) (row col : Nat) : FVal :=
  let ty := miType sl.info
  let w := slotWidth ty (miPlanes sl.info)
  fvalOf ty (slotElem sl.bytes w (row * miCols sl.info + col))

/-- Values of k that a step of a product consumes (R203). -/
def kPerStep (ty : ElemTy) (planes : Nat) : Nat :=
  if ty = .e4m3 ∨ ty = .e5m2 then 2 else if ty = .bpi then 16 / planes else 1

/-- The product runs strained (R208). -/
def runsStrained (b : CSlot) : Bool := miStr b.info && decide (miFallback b.info = 0)

/-- No product adds anything (R208). -/
def productSkipped (a b : CSlot) : Bool := (miSkip a.info && !miSpec b.info) || (miSkip b.info && !miSpec a.info)

/-- Steps of a product (R203, R208). One that SKIP makes add nothing takes the steps of its dense or strained form: the spec gives
it no count of its own (DESIGN CHOICE, log 108). -/
def mmaSteps (a b : CSlot) : Nat :=
  let kps := kPerStep (miType a.info) (miPlanes a.info)
  let dense := (miCols a.info + kps - 1) / kps
  if runsStrained b then
    let half := fieldOf b.stctl 0 2 ≠ 3 ∧ fieldOf b.stctl 2 2 = 0
    b.terms.length * (if half then (dense + 1) / 2 else dense) + (if miDropped b.info then 0 else (b.residual.length + 3) / 4)
  else dense

/-- The integer that an element of a slot of type s8 or bpi is. -/
def engineInt (sl : CSlot) (row col : Nat) : Int :=
  let w := slotWidth (miType sl.info) (miPlanes sl.info)
  signedOf w (slotElem sl.bytes w (row * miCols sl.info + col))

/-- One product: of bpi and s8 an exact integer, so that 0 is +0; else of two values (R106, R208). -/
def engineProduct (a b : CSlot) (i j k : Nat) : FVal :=
  if miType a.info = .bpi then fvalOfInt (engineInt a i k * engineInt b k j) else fmul (engineVal a i k) (engineVal b k j)

/-- An element of the tile with products added in the order of a list of k (R106). -/
def addProducts (a b : CSlot) (i j acc : Nat) (ks : List Nat) : Nat :=
  ks.foldl (fun acc k => roundTo .f32 .rne (fadd .rne (fvalOf .f32 acc) (engineProduct a b i j k))) acc

/-- The order of k of a strained product in column j (R107). -/
def strainedOrder (b : CSlot) (j : Nat) : List Nat :=
  b.terms.flatMap (fun term => term.getD j []) ++
    (if miDropped b.info then [] else (b.residual.filter (fun r => r.1 = j)).map (fun r => r.2))

/-- The additions of step `n` of a product: a dense one takes its own k; a strained one makes them all at its last step. -/
def mmaStep (c : Cluster) (e : TEntry) (n : Nat) : Cluster :=
  let a := slotAt c (e.slots.getD 0 0)
  let b := slotAt c (e.slots.getD 1 0)
  if productSkipped a b then c
  else if runsStrained b ∧ n + 1 ≠ mmaSteps a b then c
  else
    let kps := kPerStep (miType a.info) (miPlanes a.info)
    let dense := span (n * kps) (min ((n + 1) * kps) (miCols a.info))
    tilePairs.foldl (fun u x =>
      if x.1 < miRows a.info ∧ x.2 < miCols b.info ∧ predHolds e.pred x.1 x.2 then
        setTileElem u e.tile x.1 x.2 (addProducts a b x.1 x.2 (tileElem c e.tile x.1 x.2)
          (if runsStrained b then strainedOrder b x.2 else dense))
      else u) c

/-- Steps of a tile-queue entry (R203). -/
def entrySteps (c : Cluster) (e : TEntry) : Nat :=
  match e.instr with
  | .tileMma _ _ _ _ _ => mmaSteps (slotAt c (e.slots.getD 0 0)) (slotAt c (e.slots.getD 1 0))
  | _ => 1

/-- One step's effect of a tile-queue entry (R207 to R211, R217). -/
def entryStep (c : Cluster) (e : TEntry) : Cluster :=
  let bits (k : Nat) : Nat := (e.data.extractLsb' (32 * k) 32).toNat
  let moveIn (at' : Nat → Nat × Nat) : Cluster := (List.range 64).foldl (fun u k =>
    if e.pred.getLsbD k then setTileElem u e.tile (at' k).1 (at' k).2 (bits k) else u) c
  let x := e.cap.xb.toNat
  match e.instr with
  | .tileMma _ _ _ _ _ => mmaStep c e e.step
  | .tileZero _ _ => tilePairs.foldl (fun u x => if predHolds e.pred x.1 x.2 then setTileElem u e.tile x.1 x.2 0 else u) c
  | .tileScal _ _ _ => tilePairs.foldl (fun u x =>
      if predHolds e.pred x.1 x.2 then
        setTileElem u e.tile x.1 x.2
          (roundTo .f32 .rne (fmul (fvalOf .f32 (tileElem c e.tile x.1 x.2)) (fvalOf .f32 (bits 0))))
      else u) c
  | .tileOff _ => { wipeTile c e.tile with tileBusy := setDel c.tileBusy e.tile }
  | .cdyRel _ _ => { c with slotBusy := c.slotBusy.filter (fun k => ¬ k ∈ e.slots), slots := c.slots.filter (fun x => ¬ x.1 ∈ e.slots) }
  | .tmovVtor _ _ _ _ => moveIn (fun k => (x, k))
  | .tmovVtoc _ _ _ _ => moveIn (fun k => (k, x))
  | _ => c

/-! ## Hand-off to the tile queue (R200, R202) -/

/-- The tile-queue entry of a vector-queue entry, before its operands. -/
def entryOf (e : Entry) : TEntry := { uid := e.uid, instr := e.instr, cap := e.cap, k := e.k, hnd := e.hnd }

/-- The entry joins the thread's tile queue, its operands read. -/
def handOff (s : State) (tid : Nat) (q : TEntry) (f : Thread → Thread) : Res :=
  .done (modThread s tid (fun t => let t := f t; { t with tq := t.tq ++ [q] }))

/-- The predicates a mask register carries (R205). -/
def predOf (t : Thread) (p : PReg) : BitVec 128 := (rp t p.toNat).extractLsb' 0 128

/-- TILE entries but tile.on, and tmov.vtor and vtoc, at vcp. -/
def tileAtVcp (s : State) (tid : Nat) (t : Thread) (e : Entry) (d : Reg) (p : PReg) (data : BitVec 2048) : Res :=
  if 16 ≤ t.tq.length then .wait s else
  match tabFind t.t d.toNat with
  | none => tileOffTrap s e d.toNat
  | some tile =>
    handOff s tid { entryOf e with tile := tile, pred := predOf t p, data := data }
      (fun t => match e.instr with
        | .tileOff _ => { t with t := tabErase t.t d.toNat }
        | _ => t)

/-- The type rule of tile.mma for a slot: A holds TYPE; B holds TYPE, or s8 for bpi (R208). -/
def mmaTypeOk (isB : Bool) (ty : ElemTy) (sl : CSlot) : Bool :=
  decide (miType sl.info = (if isB ∧ ty = .bpi then .s8 else ty))

/-- tile.mma at vcp: the checks of R202 in order. -/
def mmaAtVcp (s : State) (tid : Nat) (t : Thread) (e : Entry) (d a b : Reg) (p : PReg) (ty : ElemTy) : Res :=
  if 16 ≤ t.tq.length then .wait s else
  match tabFind t.t d.toNat, tabFind t.q a.toNat, tabFind t.q b.toNat with
  | none, _, _ => tileOffTrap s e d.toNat
  | some _, none, _ => matrixTrap s e 0 1 a.toNat
  | some _, some _, none => matrixTrap s e 0 2 b.toNat
  | some tile, some qa, some qb =>
    let c := clusterOf s (tid / 4)
    let sa := slotAt c qa
    let sb := slotAt c qb
    if !miLoaded sa.info then matrixTrap s e 2 1 a.toNat
    else if !miLoaded sb.info then matrixTrap s e 2 2 b.toNat
    else if !mmaTypeOk false ty sa then matrixTrap s e 3 1 a.toNat
    else if !mmaTypeOk true ty sb then matrixTrap s e 3 2 b.toNat
    else if 64 < miRows sa.info then matrixTrap s e 4 1 a.toNat
    else if 64 < miCols sb.info ∨ miCols sa.info ≠ miRows sb.info then matrixTrap s e 4 2 b.toNat
    else handOff s tid { entryOf e with tile := tile, slots := [qa, qb], pred := predOf t p } id

/-- tmov.vtor and vtoc at vcp: vA is read at hand-off. -/
def tmovInAtVcp (s : State) (tid : Nat) (t : Thread) (e : Entry) (d a b : Reg) (p : PReg) : Res :=
  if 16 ≤ t.tq.length then .wait s
  else if (tabFind t.t d.toNat).isNone then tileOffTrap s e d.toNat
  else if 64 ≤ e.cap.xb.toNat then matrixTrap s e 5 2 b.toNat
  else tileAtVcp s tid t e d p ((rv t a.toNat).extractLsb' 0 2048)

/-- The t name of a tile-queue entry; cdy.rel has none. -/
def tileName : Instr → Option Nat
  | .tileMma d _ _ _ _ | .tileZero d _ | .tileScal d _ _ | .tileOff d | .tmovVtor d _ _ _ | .tmovVtoc d _ _ _ => some d.toNat
  | _ => none

/-- tmov.rtov and ctov at vcp: earlier tile-queue entries that name tD finish first, then come the checks (R200, R202); the row
or column then goes to vA. -/
def tmovOutAtVcp (s : State) (tid : Nat) (t : Thread) (e : Entry) (d a b : Reg) (p : PReg) (col : Bool) : Res :=
  if t.tq.any (fun q => tileName q.instr = some d.toNat) then .wait s else
  match tabFind t.t d.toNat with
  | none => tileOffTrap s e d.toNat
  | some tile =>
    let x := e.cap.xb.toNat
    if 64 ≤ x then matrixTrap s e 5 2 b.toNat
    else
      let c := clusterOf s (tid / 4)
      let s := rsTake s (tid / 4) (tid % 4) a.toNat e.cap.rsctl
      .done (modThread s tid (fun t => (List.range 64).foldl (fun u k =>
        if maskBit t p.toNat k then
          setElem u a.toNat 32 k (if col then tileElem c tile k x else tileElem c tile x k)
        else u) t))

/-- tile.on at vcp: at once when tD is bound; else the thread joins the cluster's waiters (R201, R207). -/
def tileOnAtVcp (s : State) (tid : Nat) (t : Thread) (d : Reg) : Res :=
  if (tabFind t.t d.toNat).isSome then .done s
  else
    let c := clusterOf s (tid / 4)
    if tid % 4 ∈ c.tileWait then .wait s
    else .wait (setCluster s (tid / 4) { c with tileWait := c.tileWait ++ [tid % 4] })

/-- A thread and the instruction of its entry at vcp. -/
def headOf (s : State) (tid : Nat) : Option (Thread × Instr) :=
  match threadAt s tid with
  | none => none
  | some t => match t.vq with
    | [] => none
    | e :: _ => some (t, e.instr)

/-- TILE_POOL_GRANT: the oldest waiter of a cluster receives a free tile, all +0, and its tile.on completes. R207 does not say which
free tile: here it is the lowest (DESIGN CHOICE, log 120). -/
def execTilePoolGrant (cluster : Nat) (s : State) : Host.Outcome State Fault Refusal :=
  let c := clusterOf s cluster
  .next (match c.tileWait, leastBelow 16 (fun k => ¬ k ∈ c.tileBusy) with
    | slot :: rest, some tile =>
      let tid := 4 * cluster + slot
      (match headOf s tid with
       | some (t, .tileOn d) =>
         let s := setCluster s cluster { wipeTile c tile with tileWait := rest, tileBusy := setAdd c.tileBusy tile }
         completeHead (setThread s tid { t with t := tabPut t.t d.toNat tile }) tid
       | _ => setCluster s cluster { c with tileWait := rest })
    | _, _ => s)

/-- The thread slot whose tile-queue head the sequencer runs next (R203): the running entry goes on; at an interrupt
point the ring of slots is searched from the one after the last served. A thread that is to stop is not chosen. -/
def sequencerPick (s : State) (cluster : Nat) : Option Nat :=
  let c := clusterOf s cluster
  match c.seqRun with
  | some k => some k
  | none => ((List.range 4).map (fun i => (c.seqLast + 1 + i) % 4)).find? (fun k =>
      match threadAt s (4 * cluster + k) with
      | some t => decide (t.tq ≠ []) && !t.stopReq
      | none => false)

/-- The power mode of a die refuses an engine step in this cycle (R16, R375). -/
def stepRefused (s : State) (cluster : Nat) : Bool :=
  let die := dieOfCluster cluster
  let c := (tabGet 0 s.cycles die) % 2 ^ 64
  match tabGet 0 s.dieMode die with
  | 1 => decide (c % 5 = 4)
  | 2 => decide (c % 2 = 1)
  | _ => false

/-- TILE_ENGINE_STEP: one step of the entry the sequencer runs (R203), unless the power mode refuses it. An entry without steps ends without one (R208). -/
def execTileEngineStep (cluster : Nat) (s : State) : Host.Outcome State Fault Refusal :=
  .next (if stepRefused s cluster then s else match sequencerPick s cluster with
    | none => s
    | some k =>
      match threadAt s (4 * cluster + k) with
      | none => s
      | some t =>
        match t.tq with
        | [] => s
        | e :: rest =>
          let c := clusterOf s cluster
          let total := entrySteps c e
          let served (c : Cluster) : Cluster := { c with seqRun := none, seqLast := k }
          if total = 0 then setThread (setCluster s cluster (served c)) (4 * cluster + k) { t with tq := rest }
          else
            let c := entryStep c e
            let n := e.step + 1
            let s := bump s cluster 2 1
            if total ≤ n then setThread (setCluster s cluster (served c)) (4 * cluster + k) { t with tq := rest }
            else
              let c := if n % 16 = 0 then served c else { c with seqRun := some k }
              setThread (setCluster s cluster c) (4 * cluster + k) { t with tq := { e with step := n } :: rest })

/-! The pushes (R22, R26). -/

def execTileMma (d a b : Reg) (p : PReg) (t : ElemTy) (σ : State) : Host.Outcome State Fault Refusal :=
  .next (pushCur σ (.tileMma d a b p t))
def execTileZero (d : Reg) (p : PReg) (σ : State) : Host.Outcome State Fault Refusal :=
  .next (pushCur σ (.tileZero d p))
def execTileScal (d a : Reg) (p : PReg) (σ : State) : Host.Outcome State Fault Refusal :=
  .next (pushCur σ (.tileScal d a p))
def execTileOn (d : Reg) (σ : State) : Host.Outcome State Fault Refusal := .next (pushCur σ (.tileOn d))
def execTileOff (d : Reg) (σ : State) : Host.Outcome State Fault Refusal := .next (pushCur σ (.tileOff d))
def execTmovRtov (d a b : Reg) (p : PReg) (σ : State) : Host.Outcome State Fault Refusal :=
  .next (pushCur σ (.tmovRtov d a b p))
def execTmovCtov (d a b : Reg) (p : PReg) (σ : State) : Host.Outcome State Fault Refusal :=
  .next (pushCur σ (.tmovCtov d a b p))
def execTmovVtor (d a b : Reg) (p : PReg) (σ : State) : Host.Outcome State Fault Refusal :=
  .next (pushCur σ (.tmovVtor d a b p))
def execTmovVtoc (d a b : Reg) (p : PReg) (σ : State) : Host.Outcome State Fault Refusal :=
  .next (pushCur σ (.tmovVtoc d a b p))

end Sys2Proof.Machine
end

