-- ==== Sys2Proof/Machine/Caddy.lean ====
section
/-! DEFINITION. CDY (R201, R210 to R212), the grants of Caddy slots, and the pushes. -/

namespace Sys2Proof.Machine

/-- The names of a claim or release: qA to qA + n − 1, n being B + 1. -/
def claimNames (a b : Reg) : List Nat := (List.range (b.toNat + 1)).map (fun i => a.toNat + i)

/-- cdy.claim at vcp: no name is bound, then the thread joins the waiters (R201, R211). -/
def claimAtVcp (s : State) (tid : Nat) (t : Thread) (e : Entry) (a b : Reg) : Res :=
  match (claimNames a b).find? (fun q => (tabFind t.q q).isSome) with
  | some q => matrixTrap s e 1 1 q
  | none =>
    let c := clusterOf s (tid / 4)
    if tid % 4 ∈ c.slotWait then .wait s
    else .wait (setCluster s (tid / 4) { c with slotWait := c.slotWait ++ [tid % 4] })

/-- The free slots of a cluster, ascending. -/
def freeSlots (c : Cluster) : List Nat := (List.range 64).filter (fun k => ¬ k ∈ c.slotBusy)

/-- CADDY_SLOT_GRANT: the oldest waiter of a cluster receives its slots when enough are free; one that asks for more
holds back every later request. -/
def execCaddySlotGrant (cluster : Nat) (s : State) : Host.Outcome State Fault Refusal :=
  let c := clusterOf s cluster
  .next (match c.slotWait with
    | [] => s
    | slot :: rest =>
      let tid := 4 * cluster + slot
      match headOf s tid with
      | some (t, .cdyClaim a b) =>
        let names := claimNames a b
        let got := (freeSlots c).take names.length
        if got.length < names.length then s
        else
          let c := { c with slotWait := rest, slotBusy := got.foldl setAdd c.slotBusy, slots := got.foldl tabErase c.slots }
          let q := (names.zip got).foldl (fun q x => tabPut q x.1 x.2) t.q
          completeHead (setThread (setCluster s cluster c) tid { t with q := q }) tid
      | _ => setCluster s cluster { c with slotWait := rest })

/-- cdy.rel at vcp: the names are unbound at hand-off; the slots return when the tile queue reaches the entry. -/
def relAtVcp (s : State) (tid : Nat) (t : Thread) (e : Entry) (a b : Reg) : Res :=
  if 16 ≤ t.tq.length then .wait s else
  match (claimNames a b).find? (fun q => (tabFind t.q q).isNone) with
  | some q => matrixTrap s e 0 1 q
  | none =>
    handOff s tid { entryOf e with tile := 16, slots := (claimNames a b).filterMap (tabFind t.q) }
      (fun t => { t with q := (claimNames a b).foldl tabErase t.q })

/-- cdy.meta at vcp. It writes eD whatever start it captured: R137 names VRED and vsx.icnt for the e operands that depend on a
start, and R200 and R212 have cdy.meta write eD without a condition (DESIGN CHOICE, log 23). -/
def metaAtVcp (s : State) (tid : Nat) (t : Thread) (e : Entry) (d a : Reg) : Res :=
  match tabFind t.q a.toNat with
  | none => matrixTrap s e 0 1 a.toNat
  | some k =>
    let m := (slotAt (clusterOf s (tid / 4)) k).info
    .done (modThread (rsTake s (tid / 4) (tid % 4) d.toNat e.cap.rsctl) tid
      (fun t => writeE t e.cap d (if miLoaded m then m.toNat else 0)))

/-- The shape that the lengths give is legal for a slot (R197). -/
def shapeLegal (rows cols w : Nat) : Bool :=
  decide (1 ≤ rows) && decide (rows ≤ 1024) && decide (1 ≤ cols) && decide (cols ≤ 1024) && decide (rows * cols * w ≤ 65536)

/-- Tensor types a slot may hold (R202, check 7). -/
def slotTy (t : ElemTy) : Bool := t = .s8 || t = .bf16 || t = .f16 || t = .e4m3 || t = .e5m2 || t = .bpi

/-- One element of a load into a slot; nothing more is done once one has waited or trapped. -/
structure LoadAcc where
  bytes : Tab Byte
  waits : Option Nat := none
  stop : Option (BitVec 8 × Word × Nat) := none

/-- Element i of cdy.load (R212). -/
def loadElement (t : Thread) (sp : Tab Byte) (a : Access) (h : HReg) (acc : LoadAcc) (i : Nat) : LoadAcc :=
  let w := slotWidth (tdType h.td) (tdPlanes h.td)
  let size := tySize (tdType h.td)
  if acc.waits.isSome || acc.stop.isSome then acc else
  match meet t a h i with
  | .trap c v => { acc with stop := some (c, v, i) }
  | .wait => { acc with waits := some i }
  | .clipped => { acc with bytes := setSlotElem acc.bytes w i 0 }
  | .slot k => { acc with bytes := setSlotElem acc.bytes w i (spRead sp (slotByte h k) size) }

/-- cdy.load and cdy.lstr at vcp (R200, R202, R212). Two points the spec leaves open (DESIGN CHOICE, log 94): check 5 of R202
measures the shape at the captured vfmt width when hD is not configured, and a residency fault of R190's check of the whole
instruction leaves LOADED and the rest of the metadata as they were. -/
def cdyLoadAtVcp (s : State) (tid : Nat) (t : Thread) (e : Entry) (d a : Reg) (strained : Bool) : Res :=
  match tabFind t.q a.toNat with
  | none => matrixTrap s e 0 1 a.toNat
  | some slot =>
    let reads (q : TEntry) : Bool := match q.instr with | .tileMma _ _ _ _ _ => decide (slot ∈ q.slots) | _ => false
    if t.tq.any reads then .wait s else
    let rows := nrows e.cap
    let cols := ncols e.cap
    let acc : Access := ⟨d.toNat, 0, 0, false, false, false, fun h i => offsetCoord h (tileOffsets e.cap 1 0 0 i)⟩
    let width := match tabFind t.h d.toNat with
      | some h => slotWidth (tdType h.td) (tdPlanes h.td)
      | none => vfmtW e.cap.vfmt
    let tyOk := match tabFind t.h d.toNat with | some h => slotTy (tdType h.td) | none => true
    if !shapeLegal rows cols width then matrixTrap s e 4 1 a.toNat
    else if !tyOk then matrixTrap s e 6 0 d.toNat
    else match accessCheck t e.cap acc with
      | .error r => .trap s causeResFault (resTval d.toNat false r) e.k
      | .ok h =>
        let c := clusterOf s (tid / 4)
        let sl := slotAt c slot
        let sl := { sl with info := sl.info &&& ~~~0x40000000#64 }
        let r := (span e.k (rows * cols)).foldl (loadElement t c.scratch acc h) { bytes := sl.bytes }
        let put (sl : CSlot) : State := setCluster s (tid / 4) { c with slots := tabPut c.slots slot sl }
        match r.stop, r.waits with
        | some (cs, v, k), _ => .trap (put { sl with bytes := r.bytes }) cs v k
        | none, some i => .wait (modHead (put { sl with bytes := r.bytes }) tid (fun e => { e with k := i }))
        | none, none =>
          let sl := { sl with bytes := r.bytes, info := loadedInfo r.bytes (tdType h.td) (tdPlanes h.td) rows cols,
                              terms := [], residual := [], stctl := e.cap.stctl, stloss := e.cap.stloss }
          .done (put (if strained then strain sl e.cap.stctl e.cap.stloss else sl))

/-! The pushes (R22, R26). -/

def execCdyClaim (a b : Reg) (σ : State) : Host.Outcome State Fault Refusal := .next (pushCur σ (.cdyClaim a b))
def execCdyLoad (d a b : Reg) (σ : State) : Host.Outcome State Fault Refusal := .next (pushCur σ (.cdyLoad d a b))
def execCdyLstr (d a b : Reg) (σ : State) : Host.Outcome State Fault Refusal := .next (pushCur σ (.cdyLstr d a b))
def execCdyRel (a b : Reg) (σ : State) : Host.Outcome State Fault Refusal := .next (pushCur σ (.cdyRel a b))
def execCdyMeta (d a : Reg) (σ : State) : Host.Outcome State Fault Refusal := .next (pushCur σ (.cdyMeta d a))

end Sys2Proof.Machine
end

