-- ==== Sys2Proof/Machine/Link.lean ====
section
/-! DEFINITION. LINK (R335 to R342), commands that arrive from a peer, and watermarks (R51, R319 to R321). -/

namespace Sys2Proof.Machine

/-! ## Remote descriptor (R335) -/
def rdKind (d : List Byte) : Nat := fieldAt d 2 1
def rdCtx (d : List Byte) : Nat := fieldAt d 3 1
def rdLvl (d : List Byte) : Nat := fieldAt d 4 1
def rdWmk (d : List Byte) : Nat := fieldAt d 5 1
def rdAddr (d : List Byte) : Nat := fieldAt d 8 8
def rdValue (d : List Byte) : Nat := fieldAt d 16 8
def rdExpect (d : List Byte) : IWord := BitVec.ofNat 32 (fieldAt d 24 4)
def rdStatus (d : List Byte) : Nat := fieldAt d 32 8

/-- KIND suits the operation. -/
def kindSuits (i : Instr) (k : Nat) : Bool :=
  match i with
  | .linkXfer _ _ _ _ _ => k = 0
  | .linkLacq _ | .linkLrel _ => k = 1
  | .linkLsig _ => k = 2 || k = 3
  | _ => false

/-- Check 1 of the hand-off (R338): a reserved or unsuited KIND, a reserved or unused field that is not zero. -/
def rdBad (i : Instr) (d : List Byte) : Bool :=
  !kindSuits i (rdKind d) || !zeroAt d 6 2 || !zeroAt d 28 4 || !zeroAt d 40 24 || decide (64 ≤ rdCtx d) ||
  decide (4096 ≤ rdPeer d ∧ rdPeer d ≤ 0xFFFE) || decide (rdKind d ≠ 3 ∧ rdLvl d ≠ 0) || decide (rdKind d ≠ 2 ∧ rdWmk d ≠ 0) ||
  decide (rdKind d = 2 ∧ rdAddr d ≠ 0) || decide (rdKind d ≤ 1 ∧ rdValue d ≠ 0) || decide (rdKind d = 1 ∧ rdAddr d % 8 ≠ 0)

/-- CH and LAST of a command. -/
def linkCh : Instr → Bool
  | .linkXfer _ _ _ ch _ => ch
  | _ => false
def linkLast : Instr → Bool
  | .linkXfer _ _ _ _ l => l
  | _ => false
/-- link.xfer. -/
def isXfer : Instr → Bool
  | .linkXfer _ _ _ _ _ => true
  | _ => false

/-- The link-command trap with its reason. -/
def linkTrap (s : State) (e : Entry) (r : Nat) : Res := .trap s causeLink (BitVec.ofNat 64 r) e.k

/-- What the checks of R338 make of a LINK entry whose descriptor has been read, in order; then it completes and the command is
queued under its number. -/
def linkHandOff (s : State) (tid : Nat) (t : Thread) (e : Entry) (d : List Byte) : Res :=
  let routeDown := match routeOf s (rdPeer d) with
    | none => true
    | some p => portDown s p
  if rdBad e.instr d then linkTrap s e 1
  else if !rdLocal d && routeDown then linkTrap s e 2
  else if isXfer e.instr ∧ 2 ^ 32 ≤ e.cap.xd.toNat then linkTrap s e 3
  else if rdStatus d % 16 ≠ 0 ∨ (rdStatus d ≠ 0 ∧ !writableVirt s t.uid t.ctx (rdStatus d) 16) ∨
      (linkCh e.instr ∧ rdStatus d = 0) then linkTrap s e 4
  else
    let s := countVirt s t.uid t.ctx e.cap.xb.toNat 64
    let c : LCmd := { uid := e.uid, instr := e.instr, cap := e.cap, desc := d, k := e.k, hnd := e.hnd }
    .done (modThread s tid (fun t => { t with lq := t.lq ++ [c] }))

/-- The status record that a command names, as a range that it touches. -/
def statusTouch (ctx va : Nat) : List Touch := if va = 0 then [] else [⟨ctx, va, 16, needW⟩]

/-- A LINK entry at vcp: a free link-queue entry, then the descriptor, which it reads, and the page of its status, through its
cluster's translations. -/
def linkAtVcp (s : State) (tid : Nat) (t : Thread) (e : Entry) : Res :=
  if 16 ≤ t.lq.length then .wait s else
  let a := e.cap.xb.toNat
  if a % 64 ≠ 0 then linkTrap s e 0 else
  match touchRanges s (tid / 4) t.uid e.uid [⟨t.ctx, a, 64, needR⟩] with
  | (false, s) => .wait s
  | (true, s) =>
    match readVirt s t.uid t.ctx a 64 with
    | .noPage _ | .fenced _ | .poison _ => linkTrap s e 0
    | .bytes d =>
      match touchRanges s (tid / 4) t.uid e.uid (statusTouch t.ctx (rdStatus d)) with
      | (false, s) => .wait s
      | (true, s) => linkHandOff s tid t e d

/-! ## Commands in their queues -/

/-- A queued command with what it needs of its thread: number and place, context, launch, tag, the queue it stands in. -/
structure CmdAt where
  owner : Nat
  ctx : Nat
  launch : Nat
  tag : BitVec 56
  lq : List LCmd
  cmd : LCmd
  stopping : Bool

/-- Find a command in the link queues of the threads and of the retirement trackers. One of a launch that RESTORE has written back
begins only when its queue is enabled (R356). -/
def findCmd (s : State) (uid : Nat) : Option CmdAt :=
  let pick (owner ctx launch : Nat) (tag : BitVec 56) (stopping : Bool) (lq : List LCmd) : Option CmdAt :=
    (lq.find? (fun c => c.uid = uid)).map (fun c => ⟨owner, ctx, launch, tag, lq, c, stopping⟩)
  match s.threads.findSome? (fun e => pick e.2.uid e.2.ctx e.2.launch (tagOf e.2.launch e.2.flat) e.2.stopReq e.2.lq) with
  | some x => some x
  | none => s.clusters.findSome? (fun e => e.2.tracker.findSome? (fun r => pick r.uid r.ctx r.launch r.tag (isParked s r.launch) r.lq))

/-- A command has read its source or performs here. -/
def beginCmd (s : State) (uid : Nat) : State := modCmd s uid (fun c => { c with begun := true })

/-- A command leaves for a device through a port, which the device remembers (R330). -/
def departCmd (s : State) (uid port dest : Nat) (cmd : RemoteCmd) (src : Option Source) : State :=
  sendFrom (modCmd s uid (fun c => { c with begun := true, via := some port })) port dest (.command uid cmd) src

/-- Remote latches of a thread are changed. -/
def modRemote (s : State) (owner : Nat) (f : List RemoteLatch → List RemoteLatch) : State :=
  { s with
    threads := s.threads.map (fun (e : Nat × Thread) => (e.1, if e.2.uid = owner then { e.2 with remote := f e.2.remote } else e.2)),
    clusters := s.clusters.map (fun (e : Nat × Cluster) => (e.1, { e.2 with
      tracker := e.2.tracker.map (fun (r : Retired) => if r.uid = owner then { r with remote := f r.remote } else r) })) }

/-- The 16 bytes of a status record (R337). -/
def statusRecord (code : Byte) (run : IWord) (bytes : Word) : List Byte :=
  [code, 0, 0, 0] ++ bytesOfNat 4 run.toNat ++ bytesOfNat 8 bytes.toNat

/-- The address of a command's status record; 0 for none. -/
def cmdStatus (c : LCmd) : Nat :=
  match c.instr with
  | .collAred _ _ | .collRsct _ _ | .collAgat _ _ => fieldAt c.desc 40 8
  | _ => rdStatus c.desc

/-- A step of a command goes on once the ranges that it touches have been translated through the cache of its thread's cluster (R279,
R285). -/
def withTouch (s : State) (x : CmdAt) (l : List Touch) (f : State → State) : State :=
  match clusterOfOwner s x.owner with
  | none => f s
  | some cl =>
    match touchRanges s cl x.owner x.cmd.uid l with
    | (true, s) => f s
    | (false, s) => s

/-- The status record of a command, as a range that it touches. -/
def ownStatus (x : CmdAt) : List Touch := statusTouch x.ctx (cmdStatus x.cmd)

/-- A command writes its status record and leaves its queue (R337). -/
def finishCmd (s : State) (x : CmdAt) (code : Byte) (run : IWord) (bytes : Word) : State :=
  let s := if cmdStatus x.cmd = 0 then s else (writeVirt s x.owner x.ctx (cmdStatus x.cmd) (statusRecord code run bytes)).1
  let s := (clusterOfOwner s x.owner).elim s (fun cl => endMiss s cl x.owner x.cmd.uid)
  modQueues s (fun l => l.filter (fun c => c.uid ≠ x.cmd.uid))

/-- The commands ahead of a command have begun, and a latch acquire ahead of it has obtained its latch (R271, R340). -/
def turnInQueue (x : CmdAt) : Bool :=
  ((x.lq.takeWhile (fun c => c.uid ≠ x.cmd.uid)).all (fun c => match c.instr with
    | .linkLacq _ => c.joined
    | _ => c.begun))

/-- A command is first in its queue. -/
def firstInQueue (x : CmdAt) : Bool := (x.lq.head?.map (fun c => c.uid)) = some x.cmd.uid

/-! ## Transfers (R339) -/

/-- How the read of a source ends. -/
inductive SourceRead where
  | ok (l : List Byte)
  /-- code 3 or 4 -/
  | bad (code : Byte)

/-- The source of a transfer. -/
def readSource (s : State) (owner ctx va n : Nat) : SourceRead :=
  match readVirt s owner ctx va n with
  | .bytes l => .ok l
  | .noPage _ | .poison _ => .bad 4
  | .fenced _ => .bad 3

/-- A poisoned granule of a physical range that a landing there would leave poisoned, since it does not write it whole (R225). -/
def staysPoisoned (s : State) (a n : Nat) : Bool :=
  s.poison.any (fun g => a / 32 ≤ g ∧ g * 32 < a + n ∧ ¬ (a ≤ 32 * g ∧ 32 * g + 32 ≤ a + n))

/-- The code that a range of a target gives a landing: 1 when every page translates writable, every home answers and no granule
stays poisoned (R337; log 99). -/
def landCode (s : State) (o : Origin) (ctx va n : Nat) : Byte :=
  ((pagesOf va n).findSome? (fun p => match xlateVia s o ctx p.1 needW with
    | none => some (4 : Byte)
    | some a => if !homesFrom s o.tile a p.2 then some 3 else if staysPoisoned s a p.2 then some 4 else none)).getD 1

/-- One byte of a failing landing; the addresses at which bytes have landed are gathered. -/
def landByte (n : Nat) (o : Origin) (ctx va : Nat) (acc : State × List Nat) (x : Byte × Nat) : State × List Nat :=
  match xlateVia acc.1 o ctx (va + x.2) needW with
  | some a => if upFrom acc.1 o.tile a && Config.linkLands n x.2 then (performWrite acc.1 a [x.1], acc.2 ++ [a]) else acc
  | none => acc

/-- Granules of which every byte has landed lose their poison (R225). -/
def clearLanded (s : State) (landed : List Nat) : State :=
  { s with poison := s.poison.filter (fun g => !(List.range 32).all (fun i => 32 * g + i ∈ landed)) }

/-- The landing of a transfer at this device: all of its bytes (code 1), or, when something there fails, a subset of those
whose page translates and whose home answers (log 15). Code, running CRC and bytes landed. -/
def land (s : State) (o : Origin) (n ctx va : Nat) (l : List Byte) (run : IWord) : State × LinkReply :=
  let code := landCode s o ctx va l.length
  if code = 1 then ((writeVia s o ctx va l).1, { code := 1, run := crcUpdate run l, bytes := BitVec.ofNat 64 l.length })
  else
    let r := (l.zipIdx).foldl (landByte n o ctx va) (s, [])
    (clearLanded r.1 r.2, { code := code, run := Config.linkRun n, bytes := BitVec.ofNat 64 r.2.length })

/-- The code a finished transfer reports: the comparison that LAST asks for (R339). -/
def xferCode (c : LCmd) (r : LinkReply) : Byte :=
  if r.code = 1 ∧ linkLast c.instr ∧ r.run ^^^ 0xFFFFFFFF#32 ≠ rdExpect c.desc then 2 else r.code

/-- The running CRC that a transfer continues: a fresh one, or RUN of the status record as it stands. -/
def startRun (s : State) (x : CmdAt) : IWord :=
  if linkCh x.cmd.instr then
    match readVirt s x.owner x.ctx (rdStatus x.cmd.desc + 4) 4 with
    | .bytes l => BitVec.ofNat 32 (natOfBytes l)
    | .noPage _ | .fenced _ | .poison _ => Config.linkRun x.cmd.uid
  else 0xFFFFFFFF

/-- The port that a command leaves by; none when there is no route, when the port is down, or when no way leads from the thread's
cluster to it (R7, R10, R312), all of which end the command with code 5. -/
def exitOf (s : State) (x : CmdAt) : Option Nat :=
  (routeOf s (rdPeer x.cmd.desc)).filter (fun p => !portDown s p && wayTo s (tileOfOwner s x.owner) (tileOfPort p))

/-- A router on the way to that port has stopped (R307). -/
def exitStuck (s : State) (x : CmdAt) : Bool := (exitOf s x).any (fun p => stuckTo s (tileOfOwner s x.owner) (tileOfPort p))

/-- What a transfer touches on this device: its source, its target if that is here, and its status record. -/
def xferTouches (x : CmdAt) : List Touch :=
  let c := x.cmd
  ⟨x.ctx, c.cap.xa.toNat, c.cap.xd.toNat, needR⟩ :: (if rdLocal c.desc then [⟨rdCtx c.desc, rdAddr c.desc, c.cap.xd.toNat, needW⟩] else []) ++
    ownStatus x

/-- A transfer whose pages have been translated: a local one lands and finishes; a remote one is sent. -/
def runXfer (x : CmdAt) (s : State) : State :=
  let c := x.cmd
  let n := c.cap.xd.toNat
  let run := startRun s x
  match readSource s x.owner x.ctx c.cap.xa.toNat n with
  | .bad code => finishCmd s x code (Config.linkRun c.uid) 0
  | .ok l =>
    let s := countVirt s x.owner x.ctx c.cap.xa.toNat n
    if rdLocal c.desc then
      let (s, r) := land s (localOrigin s x.owner) c.uid (rdCtx c.desc) (rdAddr c.desc) l run
      finishCmd s x (xferCode c r) r.run r.bytes
    else match exitOf s x with
      | none => finishCmd s x 5 (Config.linkRun c.uid) 0
      | some p => departCmd s c.uid p (rdPeer c.desc) (.xfer (rdCtx c.desc) (BitVec.ofNat 64 (rdAddr c.desc)) l run)
          (some ⟨x.owner, x.ctx, c.cap.xa.toNat, n⟩)

/-- A transfer begins; one with CH 1 when every earlier command has written its status. -/
def beginXfer (s : State) (x : CmdAt) : State :=
  if linkCh x.cmd.instr && !firstInQueue x || !rdLocal x.cmd.desc && exitStuck s x then s
  else withTouch s x (xferTouches x) (runXfer x)

/-! ## Latches and signals (R340) -/

/-- The latch word of a target: its address, or the code of its failure. -/
def targetLatch (s : State) (o : Origin) (ctx va : Nat) : Except Byte Nat :=
  match xlateVia s o ctx va needRW with
  | none => .error 4
  | some pa => if !upFrom s o.tile pa then .error 3 else if poisoned s pa 8 then .error 4 else .ok pa

/-- A release at system scope by a tag: 1, or 7 when the tag does not hold the latch, or the target's failure. -/
def releaseAt (s : State) (o : Origin) (ctx va : Nat) (tag : BitVec 56) : State × Byte :=
  match targetLatch s o ctx va with
  | .error c => (s, c)
  | .ok pa =>
    let w := readWord s pa
    if !latchHeld w ∨ latchTag w ≠ tag then (s, 7)
    else (countAtomic (writeWord s pa (latchWord 0 Scope.sys.code.toNat false false)) pa, 1)

/-- One arrival at a barrier of this device: 1, 4 when no such group exists, or 3 when its home is fenced or out of reach. -/
def arriveAt (s : State) (o : Origin) (launch lvl group : Nat) : State × Byte :=
  match barrierOf s launch lvl group with
  | none => (s, 4)
  | some _ =>
    if barrierUp s launch lvl group && wayTo s o.tile (barrierTile launch lvl group) then
      (modBarrier s launch lvl group (arriveOne s none), 1)
    else (s, 3)

/-- The home of a watermark is in service (R319), and a publication from a tile gets there. -/
def wmkUp (s : State) (w : Nat) : Bool := inService s (wmkTile w)
def wmkFrom (s : State) (tile : Option Nat) (w : Nat) : Bool := wmkUp s w && wayTo s tile (wmkTile w)

/-- A thread has a fetch that a watermark's rise from `old` to `new` lets proceed. -/
def ungates (w old new : Nat) (t : Thread) : Bool :=
  t.recomps.any (fun r => match tabFind t.h r.h with
    | some h => r.fetches.any (fun f => decide (f.wmk = some w) && decide ((old : Int) ≤ linIndex h.td f.coord) &&
        decide (linIndex h.td f.coord < (new : Int)))
    | none => false)

/-- A publication performs: the watermark becomes the maximum; waits that pass are acquires, so load entries of their
threads go (R51, R52, R302, R320). -/
def publish (s : State) (w : Nat) (v : Word) : State :=
  let old := tabGet 0 s.wmk w
  if v.toNat ≤ old.toNat then s
  else
    let s := { s with wmk := tabSet 0 s.wmk w v }
    s.threads.foldl (fun (s : State) (e : Nat × Thread) =>
      if ungates w old.toNat v.toNat e.2 then rsDropLoads s (e.1 / 4) (e.1 % 4) else s) s

/-- link.lacq here: it joins the waiters of its latch, once the thread's earlier strong accesses have performed (R235, R236, R243). -/
def beginLacq (x : CmdAt) (s : State) : State :=
  let c := x.cmd
  match targetLatch s (localOrigin s x.owner) (rdCtx c.desc) (rdAddr c.desc) with
  | .error e => finishCmd s x e 0 0
  | .ok pa =>
    if Config.waiterCap ≤ waitersAt s (homeOf pa) then s
    else { s with waiters := s.waiters ++ [{ pa := pa, uid := c.uid, tag := x.tag, sc := .sys, thread := none, ctx := rdCtx c.desc }] }

/-- link.lrel here: the latch is released, and held no more. -/
def beginLrel (x : CmdAt) (s : State) : State :=
  let c := x.cmd
  let r := releaseAt s (localOrigin s x.owner) (rdCtx c.desc) (rdAddr c.desc) x.tag
  let gone : RemoteLatch := ⟨none, rdCtx c.desc, BitVec.ofNat 64 (rdAddr c.desc)⟩
  finishCmd (if r.2 = 1 then modRemote r.1 x.owner (fun l => l.erase gone) else r.1) x r.2 0 0

/-- link.lsig here: a publication is on its way, or an arrival counts. -/
def beginLsig (x : CmdAt) (s : State) : State :=
  let c := x.cmd
  if rdKind c.desc = 2 then
    if wmkUp s (rdWmk c.desc) then
      beginCmd { s with pubs := s.pubs ++ [{ uid := c.uid, owner := x.owner, launch := x.launch, wmk := rdWmk c.desc,
                                             value := BitVec.ofNat 64 (rdValue c.desc) }] } c.uid
    else finishCmd s x 3 0 0
  else
    let r := arriveAt s (localOrigin s x.owner) (rdAddr c.desc) (rdLvl c.desc) (rdValue c.desc)
    finishCmd r.1 x r.2 0 0

/-- A command other than a transfer begins on this device: an acquire joins the waiters, a release or an arrival performs
once every earlier write of the thread has, a publication is on its way. -/
def beginLocal (s : State) (x : CmdAt) : State :=
  let c := x.cmd
  let latch : Touch := ⟨rdCtx c.desc, rdAddr c.desc, 8, needRW⟩
  match c.instr with
  | .linkLacq _ =>
    if s.waiters.any (fun w => w.uid = c.uid) || strongOut s x.owner c.uid then s
    else withTouch s x (latch :: ownStatus x) (beginLacq x)
  | .linkLrel _ =>
    if !releaseReady s x.owner c.uid then s else withTouch s x (latch :: ownStatus x) (beginLrel x)
  | _ =>
    if rdKind c.desc ≠ 2 && (!releaseReady s x.owner c.uid ||
        stuckTo s (tileOfOwner s x.owner) (barrierTile (rdAddr c.desc) (rdLvl c.desc) (rdValue c.desc))) then s
    else withTouch s x (ownStatus x) (beginLsig x)

/-- A command other than a transfer is sent to a peer; a release or a signal waits for every earlier write. -/
def beginRemote (s : State) (x : CmdAt) : State :=
  let c := x.cmd
  let ra : Word := BitVec.ofNat 64 (rdAddr c.desc)
  let waits := match c.instr with | .linkLacq _ => false | _ => true
  if waits && !releaseReady s x.owner c.uid || exitStuck s x then s else
  match exitOf s x with
  | none => withTouch s x (ownStatus x) (fun s => finishCmd s x 5 (Config.linkRun c.uid) 0)
  | some p =>
    departCmd s c.uid p (rdPeer c.desc) (match c.instr with
      | .linkLacq _ => .lacq (rdCtx c.desc) ra x.tag
      | .linkLrel _ => .lrel (rdCtx c.desc) ra x.tag
      | _ => if rdKind c.desc = 2 then .publish (BitVec.ofNat 8 (rdWmk c.desc)) (BitVec.ofNat 64 (rdValue c.desc))
             else .arrive ra (rdLvl c.desc) (BitVec.ofNat 64 (rdValue c.desc))) none

/-- A remote command whose answer has come finishes; a latch it obtained or released is remembered. -/
def endRemote (s : State) (x : CmdAt) (r : LinkReply) : State :=
  let c := x.cmd
  let here : RemoteLatch := ⟨c.via, rdCtx c.desc, BitVec.ofNat 64 (rdAddr c.desc)⟩
  match c.instr with
  | .linkXfer _ _ _ _ _ => finishCmd s x (xferCode c r) r.run r.bytes
  | .linkLacq _ => finishCmd (if r.code = 1 ∨ r.code = 6 then modRemote s x.owner (fun l => l ++ [here]) else s) x r.code 0 0
  | .linkLrel _ => finishCmd (if r.code = 1 then modRemote s x.owner (fun l => l.erase here) else s) x r.code 0 0
  | _ => finishCmd s x r.code 0 0

/-- A page that a command reads or writes on this device is being moved (R287): its status record, its source, or its target
here. -/
def cmdMoving (s : State) (x : CmdAt) : Bool :=
  let c := x.cmd
  let n := if isXfer c.instr then c.cap.xd.toNat else 8
  s.migration.isSome && (rangeMoving s x.ctx (cmdStatus c) 16 || (!c.begun &&
    ((isXfer c.instr && rangeMoving s x.ctx c.cap.xa.toNat n) || (rdLocal c.desc && rangeMoving s (rdCtx c.desc) (rdAddr c.desc) n))))

/-- BYTES of a transfer that its port's fall has ended: what has landed, a free value up to the transfer's length (R339; log 15). -/
def lostBytes (c : LCmd) : Word := if isXfer c.instr then BitVec.ofNat 64 (Config.linkBytes c.uid % (c.cap.xd.toNat + 1)) else 0

/-- LINK_COMMAND_PERFORM: a command takes its next step: it begins, performs, or finishes with its target's answer and
writes its status record (R337). While a checkpoint runs no command begins (R355). One whose packet a router has dropped has no
answer (R309). -/
def linkPerform (s : State) (x : CmdAt) (reply : LinkReply) : State :=
  let c := x.cmd
  let finish (f : State → State) : State := withTouch s x (ownStatus x) f
  if cmdMoving s x then s
  else if c.failed = 5 then finish (fun s => finishCmd s x 5 (Config.linkRun c.uid) (lostBytes c))
  else if c.failed ≠ 0 then finish (fun s => finishCmd s x c.failed 0 0)
  else if c.joined then finish (fun s => finishCmd s x (if c.broken then 6 else 1) 0 0)
  else if c.begun then (if rdLocal c.desc || decide (c.uid ∈ s.dropped) then s else finish (fun s => endRemote s x reply))
  else if !turnInQueue x || x.stopping || decide (s.fw.running = some .ckpt) then s
  else if isXfer c.instr then beginXfer s x
  else if rdLocal c.desc then beginLocal s x
  else beginRemote s x

/-! ## Watermarks -/

/-- WATERMARK_PUBLISH: a publication performs at its watermark's home once every earlier write of its thread has (R320), unless a
router on its way has stopped (R307) or has dropped its packet (R309). -/
def execWatermarkPublish (uid : Nat) (s : State) : Host.Outcome State Fault Refusal :=
  .next (match s.pubs.find? (fun p => p.uid = uid) with
    | none => s
    | some p =>
      let tile := tileOfOwner s p.owner
      if !releaseReady s p.owner p.uid || stuckTo s tile (wmkTile p.wmk) || decide (uid ∈ s.dropped) then s
      else
        let s := { s with pubs := s.pubs.filter (fun q => q.uid ≠ uid) }
        if wmkFrom s tile p.wmk then modCmd (publish s p.wmk p.value) uid (fun c => { c with joined := true })
        else modCmd s uid (fun c => { c with failed := 3 }))

/-- The host gets to the home of a watermark. -/
def hostWmk (s : State) (w : Nat) : Bool := wmkFrom s (some (tileOfPort 0)) w

/-- A host access performed at the home of a watermark (R323, ACCESS). -/
def countWmk (s : State) (w : Nat) : State := bump s (320 + w % 160) 0 1

/-- A publication by the host (R321); where it does not get to the home it is lost. -/
def hostPublish (s : State) (w : Nat) (value : Word) : State := if hostWmk s w then publish (countWmk s w) w value else s

/-- HOST_WATERMARK_WRITE: the host writes a watermark, under R239. -/
def execHostWatermarkWrite (n : BitVec 8) (value : Word) (s : State) : Host.Outcome State Fault Refusal :=
  .next (driverArrives s (0x20000 + 8 * n.toNat) value (fun s => hostPublish s n.toNat value))

/-- A launch is bound to a watermark: a configured register names it, or a head of a queue is gated on it (R51). The registers
are those of threads that are on the device: R51 says of a launch's threads and R321 on the device, neither whether a register
in a save area counts; here it does not (DESIGN CHOICE, log 91). -/
def wmkBound (s : State) (w : Nat) : Bool :=
  s.threads.any (fun e => e.2.h.any (fun r => r.2.push.wmk = some w || r.2.comm.wmk = some w)) ||
  s.queues.any (fun e => match e.2.recs with
    | r :: _ => decide (fieldAt r.raw 25 1 = 1 ∧ fieldAt r.raw 26 1 = w)
    | [] => false)

/-- A watermark becomes 0 by the host; while a launch is bound to it the clear is refused with a queue-error event (R321,
R333). -/
def hostClear (s : State) (w : Nat) : State :=
  if !hostWmk s w then s else
  let s := countWmk s w
  if wmkBound s w then postEvent s 1 (w % 160 / 40) (BitVec.ofNat 64 w) 3
  else { s with wmk := tabSet 0 s.wmk w 0 }

/-- HOST_WATERMARK_CLEAR: the host writes the clear word of a watermark (R332). -/
def execHostWatermarkClear (n : BitVec 8) (s : State) : Host.Outcome State Fault Refusal :=
  .next (driverArrives s (0x20800 + 8 * n.toNat) 0 (fun s => hostClear s n.toNat))

/-! ## Commands from a peer -/

/-- The injector of a port inverts one bit of a transfer that has the byte, and disarms (R342). -/
def inject (s : State) (port : Nat) (l : List Byte) : State × List Byte :=
  let p := tabGet {} s.ports port
  let off := fieldOf p.inj 0 16
  if p.inj.getLsbD 63 ∧ off < l.length then
    ({ s with ports := tabPut s.ports port { p with inj := p.inj &&& 0x7FFFFFFFFFFFFFFF#64 } },
      l.set off (l.getD off 0 ^^^ BitVec.ofNat 8 (2 ^ fieldOf p.inj 16 3)))
  else (s, l)

/-- A page in which an arriving command acts is being moved: its delivery is still to come (R287). -/
def arrivalMoving (s : State) (cmd : RemoteCmd) : Bool :=
  match cmd with
  | .xfer ctx ra l _ => rangeMoving s ctx ra.toNat l.length
  | .lacq ctx ra _ | .lrel ctx ra _ | .unlatch ctx ra _ => rangeMoving s ctx ra.toNat 8
  | .publish _ _ | .arrive _ _ _ | .domainLost _ _ => false

/-- A router on the way of an arriving command, or of the walks it needs, has stopped: its delivery is still to come (R307). -/
def arrivalStuck (s : State) (o : Origin) (cmd : RemoteCmd) : Bool :=
  let at' (ctx va n : Nat) (need : Need) : Bool := (pagesOf va n).any (fun p => walkStuck s o.tile o.owner ctx p.1 ||
    (xlateVia s o ctx p.1 need).any (fun a => rangeStuck s o.tile a p.2))
  match cmd with
  | .xfer ctx ra l _ => at' ctx ra.toNat l.length needW
  | .lacq ctx ra _ | .lrel ctx ra _ | .unlatch ctx ra _ => at' ctx ra.toNat 8 needRW
  | .publish w _ => stuckTo s o.tile (wmkTile w.toNat)
  | .arrive launch lvl group => stuckTo s o.tile (barrierTile launch.toNat lvl group.toNat)
  | .domainLost _ _ => false

/-- A remote thread's acquire is given up: it waits no more (R340). -/
def dropRemoteWaiter (s : State) (port ctx : Nat) (ra : Word) (tag : BitVec 56) : State :=
  match xlateDirect s 0 ctx ra.toNat needRW with
  | some pa => { s with waiters := s.waiters.filter (fun w => ¬ (w.port = some port ∧ w.tag = tag ∧ w.pa = pa)) }
  | none => s

/-- A short answer. -/
def replyOf (c : Byte) : LinkReply := { code := c, run := 0, bytes := 0 }

/-- REMOTE_COMMAND_RECEIVE: a command that a peer sent through a port lands, acquires, releases or signals here, and its
answer goes back (R336, R339, R340). A port that is down delivers nothing, and an acquire that finds the slice's queue of
waiters full tries again later (R243). -/
def execRemoteCommandReceive (port : Nat) (cmd : RemoteCmd) (s : State) : Host.Outcome State Fault Refusal :=
  let o := portOrigin port
  let full := match cmd with
    | .lacq ctx ra _ => (match targetLatch s o ctx ra.toNat with
      | .ok pa => decide (Config.waiterCap ≤ waitersAt s (homeOf pa))
      | .error _ => false)
    | _ => false
  .next (if portDown s port || arrivalMoving s cmd || arrivalStuck s o cmd || full then s
    else
      let n := s.uid
      let s := bump { s with uid := s.uid + 1 } (640 + port) 1 (Config.linkFlits n)
      let s := match cmd with
        | .xfer ctx ra l _ => countOwnWalks s o ctx ra.toNat l.length
        | .lacq ctx ra _ | .lrel ctx ra _ => countOwnWalk s o ctx ra.toNat
        | .publish _ _ | .arrive _ _ _ | .unlatch _ _ _ | .domainLost _ _ => s
      let answer (r : State × Byte) : State := sendPacket r.1 port (.reply n (replyOf r.2))
      match cmd with
      | .xfer ctx ra l run =>
        let (s, l) := inject s port l
        let (s, r) := land s o n ctx ra.toNat l run
        sendPacket s port (.reply n r)
      | .lacq ctx ra tag =>
        (match targetLatch s o ctx ra.toNat with
         | .error c => answer (s, c)
         | .ok pa => { s with waiters := s.waiters ++ [{ pa := pa, uid := n, tag := tag, sc := .sys, thread := none, port := some port, ctx := ctx }] })
      | .lrel ctx ra tag => answer (releaseAt s o ctx ra.toNat tag)
      | .publish w v => if wmkFrom s o.tile w.toNat then answer (publish s w.toNat v, 1) else answer (s, 3)
      | .arrive launch lvl group => answer (arriveAt s o launch.toNat lvl group.toNat)
      | .unlatch ctx ra tag => breakLatch (dropRemoteWaiter s port ctx ra tag) ctx tag ra
      | .domainLost launch tile => endLaunch s launch.toNat 4 tile 0 0 0 0)

/-- INJ of a port is written; a write while ARM is 1 is ignored (R342). -/
def writeInj (s : State) (port : Nat) (value : Word) : State :=
  let p := tabGet {} s.ports port
  if p.inj.getLsbD 63 || decide (29 ≤ port) then s
  else { s with ports := tabPut s.ports port { p with inj := value &&& 0x800000000007FFFF#64 } }

/-- INJ_WRITE: the host arms an injector. -/
def execInjWrite (port : Nat) (value : Word) (s : State) : Host.Outcome State Fault Refusal :=
  .next (driverArrives s (0x18000 + 8 * port) value (fun s => writeInj s port value))

/-! The pushes (R22, R26). -/

def execLinkXfer (d a b : Reg) (ch last : Bool) (σ : State) : Host.Outcome State Fault Refusal :=
  .next (pushCur σ (.linkXfer d a b ch last))
def execLinkLacq (b : Reg) (σ : State) : Host.Outcome State Fault Refusal := .next (pushCur σ (.linkLacq b))
def execLinkLrel (b : Reg) (σ : State) : Host.Outcome State Fault Refusal := .next (pushCur σ (.linkLrel b))
def execLinkLsig (b : Reg) (σ : State) : Host.Outcome State Fault Refusal := .next (pushCur σ (.linkLsig b))

end Sys2Proof.Machine
end

