-- ==== Sys2Proof/Machine/Place.lean ====
section
/-! DEFINITION. Level descriptors, their checks (R33 to R36, R377) and the placement of threads (R37 to R39, R44, R281). -/

namespace Sys2Proof.Machine

/-! ## Levels -/

/-- Levels of domain peer group and system lie outside the device. -/
def offDevice (w : Word) : Bool := decide (5 < lvlDomain w)
/-- Members of a group of a level on this device. -/
def membersHere (w : Word) : Nat := if offDevice w then 1 else lvlMembers w
/-- Product of a list. -/
def prod (l : List Nat) : Nat := l.foldl (· * ·) 1
/-- The level descriptors of a record, level 0 first. -/
def levelsOf (raw : List Byte) : List Word := (List.range (recLevels raw)).map (recLevel raw)
/-- Threads of a group of height h on this device: height 0 is a thread, height h a group of level h − 1. -/
def sizeHere (ls : List Word) (h : Nat) : Nat := prod ((ls.take h).map membersHere)
/-- Threads of a launch on this device. -/
def threadsHere (ls : List Word) : Nat := sizeHere ls ls.length
/-- Levels from 0 on that are gangs (check 0x05 makes them the inner ones). -/
def gangHeight (ls : List Word) : Nat := (ls.takeWhile lvlGang).length
/-- Threads placed in one step: an outermost gang group, or one thread (R39). -/
def atomSize (ls : List Word) : Nat := sizeHere ls (gangHeight ls)

/-- OIDX of a level. -/
def recOidx (raw : List Byte) (i : Nat) : Nat := fieldAt raw (72 + 2 * i) 2

/-- Member index at each level of thread m of this device (R36). -/
def indexOf (raw : List Byte) (m : Nat) : List Nat :=
  let ls := levelsOf raw
  (ls.zipIdx).map (fun x => if offDevice x.1 then recOidx raw x.2 else m / sizeHere ls x.2 % membersHere x.1)

/-- The flat index of a member index (R36). -/
def flatOf (ls : List Word) (idx : List Nat) : Nat :=
  ((ls.zip idx).foldl (fun (acc : Nat × Nat) x => (acc.1 + x.2 * acc.2, acc.2 * lvlMembers x.1)) (0, 1)).1

/-! ## Checks 0x01 to 0x06 (R35) -/

/-- Threads one unit of a domain holds (R34). -/
def domCapacity (d : Nat) : Nat := [1, 4, 4, 16, 320, 1280, 1280, 1280].getD d 0
/-- Narrowest scope a level of a domain may name (R34). -/
def domScope (d : Nat) : Nat := [1, 1, 1, 2, 3, 4, 5, 6].getD d 0
/-- Units of a domain on the device (R34). -/
def domUnits (d : Nat) : Nat := [1280, 320, 320, 80, 4, 1, 1, 1].getD d 0

/-- Reserved values of a level descriptor. -/
def lvlRsv (i : Nat) (w : Word) : Bool :=
  decide (fieldOf w 52 12 ≠ 0 ∨ fieldOf w 25 7 ≠ 0 ∨ lvlPlace w = 3 ∨ lvlScope w = 7 ∨ (i ≠ 0 ∧ lvlWeight w ≠ 0))

/-- A level that breaks check 0x06. -/
def lvlPinBad (ls : List Word) (i : Nat) (w : Word) : Bool :=
  lvlPlace w = 2 &&
  (if offDevice w then decide (4096 < lvlPinbase w + 1)
   else decide (domUnits (lvlDomain w) < lvlPinbase w + prod ((ls.drop (i + 1)).map membersHere)))

/-- The first failing check of R35, by code. -/
def levelCheck (ls : List Word) : Option Nat :=
  let lv := ls.zipIdx
  let next (i : Nat) : Word := ls.getD (i + 1) 0
  if lv.any (fun x => lvlRsv x.2 x.1) then some 0x01
  else if lv.any (fun x => decide (x.2 + 1 < ls.length ∧ lvlDomain (next x.2) < lvlDomain x.1)) then some 0x02
  else if ls.any (fun w => decide (lvlScope w < domScope (lvlDomain w))) then some 0x03
  else if lv.any (fun x => decide (domCapacity (lvlDomain x.1) <
      if offDevice x.1 then prod ((ls.filter (fun w => !offDevice w)).map lvlMembers) else prod ((ls.take (x.2 + 1)).map lvlMembers)))
    then some 0x04
  else if lv.any (fun x => decide (x.2 + 1 < ls.length) && lvlGang (next x.2) && !lvlGang x.1) then some 0x05
  else if lv.any (fun x => lvlPinBad ls x.2 x.1) then some 0x06
  else none

/-! ## Regions -/

/-- The unit of a domain that holds a cluster; a lane-group unit is confined by the cluster. -/
def unitOfCluster (d cl : Nat) : Nat :=
  if d ≤ 2 then cl else if d = 3 then cl / 4 else if d = 4 then cl / 80 else 0

/-- Every cluster in service, ascending. -/
def clustersUp (s : State) : List Nat := (List.range 320).filter (fun c => inService s (tileOfCluster c))

/-- A region cut into the units of a domain, ascending. -/
def cutRegion (region : List Nat) (d : Nat) : List (List Nat) :=
  ((region.map (unitOfCluster d)).dedup).map (fun u => region.filter (fun c => unitOfCluster d c = u))

/-- What a placement has come to: slots taken, with thread number and lane group, and where groups stand, keyed by
2^40 × height plus the group's number. -/
structure PlaceAcc where
  taken : List (Nat × Nat × Option Nat) := []
  units : Tab Nat := []
deriving DecidableEq, Repr

/-- The key of a group. -/
def unitKey (h g : Nat) : Nat := 2 ^ 40 * h + g

/-- Slots and lane groups in use: threads on the device but those in `gone`. -/
structure Occupied where
  slots : List Nat
  lanes : List (Nat × Nat)

/-- What is in use. -/
def occupied (s : State) (gone : List Nat) : Occupied :=
  let ts := s.threads.filter (fun e => ¬ e.1 ∈ gone)
  { slots := ts.map (fun e => e.1), lanes := ts.filterMap (fun e => e.2.lgrp.map (fun l => (e.1 / 4, l))) }

/-- What a placement asks of each thread, by number: whether it is placed at all, the lane group it wants, and whether a
cluster suits it beside the numbers already placed there (R293). -/
structure Policy where
  only : Nat → Bool
  want : Nat → Option Nat
  suits : Nat → Nat → List Nat → Bool

/-- A new placement: every thread; a pinned lane-group level wants its own lane group (R37). -/
def newPolicy (ls : List Word) : Policy :=
  { only := fun _ => true, suits := fun _ _ _ => true,
    want := fun m => (ls.find? (fun w => lvlDomain w = 0 ∧ lvlPlace w = 2)).map (fun w => (lvlPinbase w + m) % 4) }

/-- A thread takes the lowest free slot, and for a lane-group level the lowest free lane group, of a cluster that has
them (R37, R38). -/
def takeSlot (o : Occupied) (pol : Policy) (lane : Bool) (m : Nat) (acc : PlaceAcc) (cl : Nat) : Option PlaceAcc :=
  let here := (acc.taken.filter (fun x => x.1 / 4 = cl)).map (fun x => x.2.1)
  match leastBelow 4 (fun k => ¬ (4 * cl + k) ∈ o.slots ∧ ¬ acc.taken.any (fun x => x.1 = 4 * cl + k)) with
  | none => none
  | some k =>
    let used (l : Nat) : Bool := decide ((cl, l) ∈ o.lanes) || acc.taken.any (fun x => x.1 / 4 = cl && x.2.2 = some l)
    if !pol.suits m cl here then none
    else if lane then
      match leastBelow 4 (fun l => !used l && ((pol.want m).isNone || pol.want m = some l)) with
      | none => none
      | some l => some { taken := acc.taken ++ [(4 * cl + k, m, some l)], units := tabPut acc.units (unitKey 0 m) cl }
    else some { taken := acc.taken ++ [(4 * cl + k, m, none)], units := tabPut acc.units (unitKey 0 m) cl }

/-- The units of S that have received a member in the current turn, from where the members before stand (R37). -/
def turnOf (s : Nat) (count : Nat) (earlier : List Nat) : List Nat :=
  earlier.foldl (fun turn cl =>
    let u := unitOfCluster s cl
    let turn := if u ∈ turn then [u] else turn ++ [u]
    if count ≤ turn.length then [] else turn) []

/-- A level spreads its members over the units of the next narrower domain S (R37). -/
def spreads (w : Word) : Bool := decide (lvlPlace w = 1 ∧ 3 ≤ lvlDomain w ∧ lvlDomain w ≤ 5)

/-- The regions that a member of height h, number g, of a group of level h may take, in the order they are tried. A pinned unit
that lies outside the unit of its enclosing group gives no region, so that the launch fails check 0x07: the spec names no
outcome for it (DESIGN CHOICE, log 89). -/
def memberRegions (ls : List Word) (h g : Nat) (acc : PlaceAcc) (region : List Nat) : List (List Nat) :=
  let own := ls.getD (h - 1) 0
  let parent := ls.getD h 0
  let inner := if h = 0 then 2 else lvlDomain own
  if h ≠ 0 ∧ lvlPlace own = 2 ∧ ¬ offDevice own then
    let u := lvlPinbase own + g
    let cl := if lvlDomain own = 0 then u / 4 else u
    [region.filter (fun c => unitOfCluster (lvlDomain own) c = if lvlDomain own = 0 then cl else u)]
  else if spreads parent then
    let sd := lvlDomain parent - 1
    let parts := cutRegion region sd
    let first := g / membersHere parent * membersHere parent
    let turn := turnOf sd parts.length ((List.range (g - first)).filterMap (fun i => tabFind acc.units (unitKey h (first + i))))
    let unitIs (r : List Nat) : Nat := unitOfCluster sd (r.headD 0)
    ((parts.filter (fun r => ¬ unitIs r ∈ turn)) ++ (parts.filter (fun r => unitIs r ∈ turn))).flatMap (fun r => cutRegion r inner)
  else cutRegion region inner

/-- A whole group of height h, number g, is placed in a region. -/
def placeGroup (o : Occupied) (pol : Policy) (ls : List Word) : (h : Nat) → (g : Nat) → PlaceAcc → List Nat → Option PlaceAcc
  | 0, g, acc, region =>
    if pol.only g then region.findSome? (fun cl => takeSlot o pol (lvlDomain (ls.getD 0 0) = 0) g acc cl) else some acc
  | h + 1, g, acc, region =>
    let n := membersHere (ls.getD h 0)
    let members := (List.range n).foldl (fun (a : Option PlaceAcc) k => a.bind (fun acc =>
      (memberRegions ls h (g * n + k) acc region).findSome? (fun r => placeGroup o pol ls h (g * n + k) acc r))) (some acc)
    members.map (fun acc => match acc.taken.find? (fun x => x.2.1 / sizeHere ls (h + 1) = g) with
      | some x => { acc with units := tabPut acc.units (unitKey (h + 1) g) (x.1 / 4) }
      | none => acc)

/-- The atom that starts at thread m is placed: from the outermost group inward, a group that stands somewhere already
keeps its unit, and with a spread parent its unit of S; another takes the first of its regions that has room (R37, R39). R37
says for gang groups what room is; a group of a level that is no gang has room here where the gang group or thread that is
placed next fits (DESIGN CHOICE, log 90). The number counts the heights from the atom's own on that are still to enter. -/
def placeInto (o : Occupied) (pol : Policy) (ls : List Word) (m : Nat) : (n : Nat) → PlaceAcc → List Nat → Option PlaceAcc
  | 0, acc, region => placeGroup o pol ls (gangHeight ls) (m / atomSize ls) acc region
  | n + 1, acc, region =>
    let h := gangHeight ls + n
    let g := m / sizeHere ls h
    let go (r : List Nat) : Option PlaceAcc := (placeInto o pol ls m n acc r).map (fun a =>
      match tabFind a.units (unitKey h g), a.taken with
      | none, x :: _ => { a with units := tabPut a.units (unitKey h g) (x.1 / 4) }
      | _, _ => a)
    match tabFind acc.units (unitKey h g) with
    | some cl =>
      let d := lvlDomain (ls.getD (h - 1) 0)
      let same (d : Nat) (c : Nat) : Bool := decide (unitOfCluster d c = unitOfCluster d cl)
      go (region.filter (fun c => same d c && (!spreads (ls.getD h 0) || same (lvlDomain (ls.getD h 0) - 1) c)))
    | none => (memberRegions ls h g acc region).findSome? go

/-- Place the atom that starts at thread m, with groups standing as `units` says. -/
def placeAtom (o : Occupied) (pol : Policy) (up : List Nat) (ls : List Word) (units : Tab Nat) (m : Nat) : Option PlaceAcc :=
  placeInto o pol ls m (ls.length - gangHeight ls + 1) { units := units } up

/-- The atom would fit a device without threads: what check 0x07 asks of the units in service. -/
def fitsEmpty (s : State) (ls : List Word) (m : Nat) : Bool :=
  (placeAtom ⟨[], []⟩ (newPolicy ls) (clustersUp s) ls [] m).isSome

/-! ## Save areas (R281) -/

/-- Save areas of a context in use. -/
def areasUsed (s : State) (ctx : Nat) : List Nat :=
  (s.threads.filter (fun e => e.2.ctx = ctx)).map (fun e => e.2.area) ++
  (s.launches.filter (fun l => l.ctx = ctx)).flatMap (fun l => l.saved.map (fun v => v.area))

/-- The lowest free areas of a context's pool, `n` of them when there are so many. -/
def freeAreas (s : State) (ctx n : Nat) : List Nat :=
  let pool := ctxPool s ctx
  (((List.range (min pool.2 (n + (areasUsed s ctx).length))).map (fun i => pool.1 + 2 ^ 22 * i)).filter
    (fun a => ¬ a ∈ areasUsed s ctx)).take n

/-! ## Thread start (R44) -/

/-- The thread of a placement as its first instruction sees it. -/
def freshThread (l : Launch) (uid m area : Nat) (lane : Option Nat) : Thread :=
  let idx := indexOf l.raw m
  let flat := flatOf (levelsOf l.raw) idx
  { uid := uid, launch := l.id, ctx := l.ctx, flat := flat, idx := idx, weight := lvlWeight (recLevel l.raw 0), lgrp := lane,
    area := area, pc := BitVec.ofNat 64 (fieldAt l.raw 0 8),
    x := tabSet 0 (tabSet 0 (tabSet 0 [] 1 (BitVec.ofNat 64 (fieldAt l.raw 8 8))) 2 (BitVec.ofNat 64 flat)) 3
      (BitVec.ofNat 64 l.id) }

/-- One thread starts in its slot; its p registers read zero from here on, under new tags (log 12). -/
def startThread (s : State) (l : Launch) (x : Nat × Nat × Option Nat) (area : Nat) : State :=
  let c := clusterOf s (x.1 / 4)
  let s := setCluster s (x.1 / 4) { c with deficit := tabErase c.deficit (x.1 % 4) }
  let s := (List.range 7).foldl (fun s n => rsTagMask s (x.1 / 4) (x.1 % 4) (n + 1)) s
  setThread { s with uid := s.uid + 1 } x.1 (freshThread l s.uid x.2.1 area x.2.2)

/-- Barrier state of the gang groups that an atom's threads form (R240). -/
def startBarriers (s : State) (l : Launch) (taken : List (Nat × Nat × Option Nat)) : State :=
  let ls := levelsOf l.raw
  let flats := taken.map (fun x => flatOf ls (indexOf l.raw x.2.1))
  (List.range (gangHeight ls)).foldl (fun s i =>
    ((flats.map (fun f => f / groupThreads l.raw i)).dedup).foldl (fun s g =>
      if s.barriers.any (fun b => b.launch = l.id ∧ b.lvl = i ∧ b.group = g) then s
      else
        let n := groupThreads l.raw i
        { s with barriers := s.barriers ++ [{ launch := l.id, lvl := i, group := g, expect := n, live := n }] }) s) s

/-- The threads of a placement start; the launch remembers where its groups stand. -/
def startAtom (s : State) (l : Launch) (acc : PlaceAcc) : State :=
  let areas := freeAreas s l.ctx acc.taken.length
  let s := (acc.taken.zip areas).foldl (fun s x => startThread s l x.1 x.2) s
  let s := startBarriers s l acc.taken
  modLaunch s l.id (fun k => { k with placed := k.placed + acc.taken.length, units := acc.units })

/-- The next atom of a launch has room, with the threads in `gone` away: slots, lanes and save areas. -/
def roomFor (s : State) (gone : List Nat) (l : Launch) : Option PlaceAcc :=
  let ls := levelsOf l.raw
  match placeAtom (occupied s gone) (newPolicy ls) (clustersUp s) ls l.units l.placed with
  | some acc => if (freeAreas s l.ctx acc.taken.length).length = acc.taken.length then some acc else none
  | none => none

end Sys2Proof.Machine
end

