-- ==== Sys2Proof/Machine/Coll.lean ====
section
/-! DEFINITION. COLL and the collective engine (R343 to R349), and the performance of queued commands. -/

namespace Sys2Proof.Machine

/-! ## Group tables (R344) -/

/-- The fields of a table that R344 rules out. -/
def gtBad (g : List Byte) : Bool :=
  let n := gtNlev g
  decide (n = 0 ∨ 3 < n ∨ 1 < fieldAt g 1 1 ∨ gtExp g < -200 ∨ 100 < gtExp g ∨ gtGid g = 0 ∨ gtKind g 0 ≠ 0) ||
  (List.range (min n 3)).any (fun l => decide (2 < gtKind g l) || !zeroAt g (17 + 16 * l) 1 || !zeroAt g (20 + 16 * l) 4 ||
    decide (gtNmem g l = 0 ∨ 2048 < gtNmem g l) || decide (l ≠ 0 ∧ gtKind g l ≤ gtKind g (l - 1)))

/-- Numbers strictly rising. -/
def rising : List Nat → Bool
  | a :: b :: r => decide (a < b) && rising (b :: r)
  | _ => true

/-- The flat indices of a launch's threads on this device (R36). -/
def flatsHere (raw : List Byte) : List Nat :=
  (List.range (threadsHere (levelsOf raw))).map (fun m => flatOf (levelsOf raw) (indexOf raw m))

/-- The members of a level that R344 rules out: at level 0 one that is no flat index of a thread of the launch here, at another level
one that is no device ordinal (R332). -/
def strayMember (l : Launch) (level m : Nat) : Bool := if level = 0 then decide (¬ m ∈ flatsHere l.raw) else decide (4096 ≤ m)

/-- The lists of a table, for a thread, are as R344 has them. -/
def listsOk (s : State) (t : Thread) (g : List Byte) : Bool :=
  (List.range (gtNlev g)).all (fun l => rising (gtList g l) &&
    (launchOf s t.launch).all (fun k => !(gtList g l).any (strayMember k l)))

/-- A group table with its lists, as the engine reads them; `none` when they do not read or break R344. -/
def readGroup (s : State) (t : Thread) (va : Nat) : Option (List Byte) :=
  match readVirt s t.uid t.ctx va 72 with
  | .noPage _ | .fenced _ | .poison _ => none
  | .bytes g =>
    if gtBad g then none else
    let lists := (List.range (gtNlev g)).foldl (fun (a : Option (List Byte)) l => a.bind (fun acc =>
      match readVirt s t.uid t.ctx (gtMembers g l) (4 * gtNmem g l) with
      | .bytes b => some (acc ++ b)
      | .noPage _ | .fenced _ | .poison _ => none)) (some [])
    lists.bind (fun b => if listsOk s t (g ++ b) then some (g ++ b) else none)

/-- The table a launch keeps for an address: as first read (R344). -/
def groupFor (s : State) (t : Thread) (va : Nat) : Option (List Byte) :=
  match (launchOf s t.launch).bind (fun l => (l.groups.find? (fun x => x.1.toNat = va)).map (fun x => x.2)) with
  | some g => some g
  | none => readGroup s t va

/-- The launch keeps a table that it has read; a table of the same GID of a launch that was lost is forgotten. -/
def keepGroup (s : State) (launch va : Nat) (g : List Byte) : State :=
  modLaunch { s with lostTables := s.lostTables.filter (fun x => gtGid x ≠ gtGid g) } launch (fun l => if l.groups.any (fun x => x.1.toNat = va) then l
    else { l with groups := l.groups ++ [(BitVec.ofNat 64 va, g)] })

/-! ## Hand-off (R343) -/

/-- The collective-command trap with its reason. -/
def collTrap (s : State) (e : Entry) (r : Nat) : Res := .trap s causeColl (BitVec.ofNat 64 r) e.k

/-- What a COLL entry's hand-off comes to before its bank: a reason, with the table if it was read by then, or the descriptor
and its table. -/
inductive CollCheck where
  | bad (reason : Nat) (read : Option (Nat × List Byte))
  | ok (desc group : List Byte)

/-- A launch keeps a table for an address. -/
def keepsGroup (s : State) (t : Thread) (va : Nat) : Bool :=
  (launchOf s t.launch).any (fun l => l.groups.any (fun x => x.1.toNat = va))

/-- The ranges that the lists of a table's members take. -/
def listTouches (ctx : Nat) (g : List Byte) : List Touch :=
  (List.range (min 3 (gtNlev g))).map (fun l => ⟨ctx, gtMembers g l, 4 * gtNmem g l, needR⟩)

/-- The pages that the hand-off of COLL entry `id` reads, and that of its status record, are translated through the cluster's cache, the table's
only where the launch does not keep it: false while one of them waits (R279, R285). -/
def touchColl (s : State) (cl : Nat) (t : Thread) (id va : Nat) : Bool × State :=
  match touchRanges s cl t.uid id [⟨t.ctx, va, 64, needR⟩] with
  | (false, s) => (false, s)
  | (true, s) =>
    match readVirt s t.uid t.ctx va 64 with
    | .noPage _ | .fenced _ | .poison _ => (true, s)
    | .bytes d =>
      let kept := keepsGroup s t (cdGroup d)
      match touchRanges s cl t.uid id ((if kept then [] else [⟨t.ctx, cdGroup d, 72, needR⟩]) ++ statusTouch t.ctx (cdStatus d)) with
      | (false, s) => (false, s)
      | (true, s) =>
        if kept then (true, s) else
        match readVirt s t.uid t.ctx (cdGroup d) 72 with
        | .bytes g => touchRanges s cl t.uid id (listTouches t.ctx g)
        | .noPage _ | .fenced _ | .poison _ => (true, s)

/-- The hand-off checks in order. -/
def collCheck (s : State) (t : Thread) (e : Entry) : CollCheck :=
  let a := e.cap.xa.toNat
  if a % 64 ≠ 0 then .bad 0 none else
  match readVirt s t.uid t.ctx a 64 with
  | .noPage _ | .fenced _ | .poison _ => .bad 0 none
  | .bytes d =>
    if !zeroAt d 52 12 ∨ cdCount d = 0 ∨ 2 ^ 32 ≤ cdCount d ∨ cdEfb d % 8 ≠ 0 then .bad 1 none
    else if cdGroup d % 8 ≠ 0 then .bad 2 none
    else match groupFor s t (cdGroup d) with
      | none => .bad 2 none
      | some g =>
        if ¬ t.flat ∈ gtList g 0 then .bad 2 (some (cdGroup d, g))
        else if cdStatus d = 0 ∨ cdStatus d % 16 ≠ 0 ∨ !writableVirt s t.uid t.ctx (cdStatus d) 16 then .bad 3 (some (cdGroup d, g))
        else .ok d g

/-- The bank of a codebook generation. -/
def bankOf (s : State) (gen : IWord) : Option Bank := s.banks.find? (fun b => b.gen = gen)

/-- What the checks make of a COLL entry, and its codebook's bank (R347). A table that has been read is kept, whatever comes of the
entry (R344; log 92). -/
def collHandOff (s : State) (tid : Nat) (t : Thread) (e : Entry) : Res :=
  match collCheck s t e with
  | .bad r none => collTrap s e r
  | .bad r (some (va, g)) => collTrap (keepGroup s t.launch va g) e r
  | .ok d g =>
    if (bankOf s (gtGen g)).isNone then .wait (keepGroup s t.launch (cdGroup d) g)
    else
      let s := keepGroup (countVirt s t.uid t.ctx e.cap.xa.toNat 64) t.launch (cdGroup d) g
      let c : LCmd := { uid := e.uid, instr := e.instr, cap := e.cap, desc := d, k := e.k, hnd := e.hnd }
      .done (modThread s tid (fun t => { t with lq := t.lq ++ [c] }))

/-- A COLL entry at vcp: a free link-queue entry, then its pages, its checks and its bank. -/
def collAtVcp (s : State) (tid : Nat) (t : Thread) (e : Entry) : Res :=
  if 16 ≤ t.lq.length then .wait s else
  match touchColl s (tid / 4) t e.uid e.cap.xa.toNat with
  | (false, s) => .wait s
  | (true, s) => collHandOff s tid t e

/-- A queue holds a COLL of a generation. -/
def queueHasGen (s : State) (launch : Nat) (lq : List LCmd) (gen : IWord) : Bool :=
  lq.any (fun c => isColl c.instr && (cmdGroup s launch c).any (fun g => gtGen g = gen))

/-- A generation has a contribution in flight: that of a collective, or of a COLL that has been handed off (R347). -/
def bankBusy (s : State) (gen : IWord) : Bool :=
  s.colls.any (fun c => gtGen c.table = gen && c.table ≠ []) || s.threads.any (fun e => queueHasGen s e.2.launch e.2.lq gen) ||
  s.clusters.any (fun e => e.2.tracker.any (fun r => queueHasGen s r.launch r.lq gen)) ||
  s.launches.any (fun l => l.saved.any (fun v => queueHasGen s l.id v.lq gen))

/-- The older of two loaded generations has a contribution in flight, so that no bank is free (R347). -/
def banksFull (s : State) : Bool := decide (s.banks.length = 2) && s.banks.head?.any (fun b => bankBusy s b.gen)

/-- A codebook is read into a bank, the older one where both are loaded; one that does not read or is all zero breaks R344. -/
def loadBank (s : State) (tid : Nat) (t : Thread) (e : Entry) (g : List Byte) : State :=
  match readVirt s t.uid t.ctx (gtCb g) 512 with
  | .bytes l =>
    let levels := (List.range 256).map (fun i => sfieldAt l (2 * i) 2)
    if levels.all (fun v => v = 0) then vectorTrap s tid causeColl 2 e.k false
    else { countVirt s t.uid t.ctx (gtCb g) 512 with
           banks := (if s.banks.length = 2 then s.banks.drop 1 else s.banks) ++ [{ gen := gtGen g, levels := levels }] }
  | .noPage _ | .fenced _ | .poison _ => vectorTrap s tid causeColl 2 e.k false

/-- The codebook of a COLL that waits at vcp is loaded, once its pages have been translated. -/
def loadFor (s : State) (tid : Nat) (t : Thread) (e : Entry) : State :=
  match touchColl s (tid / 4) t e.uid e.cap.xa.toNat with
  | (false, s) => s
  | (true, s) =>
    match collCheck s t e with
    | .bad _ _ => s
    | .ok d g =>
      if (bankOf s (gtGen g)).isSome || banksFull s then s else
      match touchRanges (keepGroup s t.launch (cdGroup d) g) (tid / 4) t.uid e.uid [⟨t.ctx, gtCb g, 512, needR⟩] with
      | (false, s) => s
      | (true, s) => loadBank s tid t e g

/-- CODEBOOK_LOAD: a free bank, or that of the older generation when none of its contributions is in flight, is loaded
for the COLL that waits at a thread's vcp. An entry that is to begin nothing new loads none (R291). -/
def execCodebookLoad (thread : Nat) (s : State) : Host.Outcome State Fault Refusal :=
  .next (match threadAt s thread with
    | none => s
    | some t =>
      match t.vq with
      | [] => s
      | e :: _ =>
        match e.instr with
        | .collAred _ _ | .collRsct _ _ | .collAgat _ _ =>
          if t.deferred.isSome || t.stopReq || t.stopped || decide (16 ≤ t.lq.length) || decide (e.uid ∈ s.dropped) then s else loadFor s thread t e
        | _ => s)

/-! ## Exact sums (R345) -/

/-- An exact sum with its flags. -/
structure CSum where
  s : Int := 0
  nan : Bool := false
  pinf : Bool := false
  ninf : Bool := false
deriving DecidableEq, Repr

/-- Sums and flags add. -/
def CSum.add (a b : CSum) : CSum := ⟨a.s + b.s, a.nan || b.nan, a.pinf || b.pinf, a.ninf || b.ninf⟩

/-- m × 2^k rounded to the nearest integer, ties to even. -/
def roundScaled (m : Nat) (k : Int) : Nat :=
  if 0 ≤ k then m * 2 ^ k.toNat
  else
    let d := 2 ^ (-k).toNat
    let q := m / d
    let r := m % d
    if 2 * r < d then q else if d < 2 * r then q + 1 else if q % 2 = 0 then q else q + 1

/-- The injection of an element with exponent E: clamped to ±2^50. -/
def injectElem (ty : ElemTy) (ex : Int) (bits : Nat) : CSum :=
  match fvalOf ty bits with
  | .nan => { nan := true }
  | .inf n => { pinf := !n, ninf := n }
  | .fin n m e =>
    let q : Nat := if m = 0 then 0 else if 60 < e - ex then 2 ^ 50 else min (roundScaled m (e - ex)) (2 ^ 50)
    { s := if n then -(q : Int) else q }

/-- The result element of a sum. -/
def resultOf (ty : ElemTy) (ex : Int) (c : CSum) : IWord :=
  BitVec.ofNat 32 (
    if c.nan ∨ (c.pinf ∧ c.ninf) then producedNan ty
    else if c.pinf then infinityOf ty
    else if c.ninf then infinityOf ty + 2 ^ (ty.bits - 1)
    else roundTo ty .rne (.fin (c.s < 0) c.s.natAbs ex))

/-! ## Compressed blocks (R346) -/

/-- The magnitude of the largest level a format can hold at SH 0. -/
def formatMax (kind : Nat) (cb : List Int) : Nat :=
  if kind = 2 then (cb.map (fun v => v.natAbs)).foldl max 0 else 32767

/-- The least SH for a block. -/
def shiftOf (kind : Nat) (cb : List Int) (l : List CSum) : Nat :=
  (leastBelow 64 (fun sh => l.all (fun c => c.s.natAbs ≤ formatMax kind cb * 2 ^ sh))).getD 63

/-- Of two codes the one nearer to a sum; a tie goes to the smaller magnitude, then to the lower code. -/
def nearer (cb : List Int) (sh : Nat) (v : Int) (a b : Nat) : Nat :=
  let da := (v - cb.getD a 0 * (2 ^ sh : Int)).natAbs
  let db := (v - cb.getD b 0 * (2 ^ sh : Int)).natAbs
  if db < da then b
  else if da < db then a
  else if (cb.getD b 0).natAbs < (cb.getD a 0).natAbs then b else a

/-- The payload element of a sum. -/
def codeOf (kind : Nat) (cb : List Int) (sh : Nat) (c : CSum) : BitVec 16 :=
  if kind = 2 then BitVec.ofNat 16 ((List.range 256).foldl (nearer cb sh c.s) 0)
  else
    let m := roundScaled c.s.natAbs (-(sh : Int))
    BitVec.ofInt 16 (if c.s < 0 then -(m : Int) else m)

/-- The value a payload element decodes to. -/
def decodeCode (kind : Nat) (cb : List Int) (sh : Nat) (x : BitVec 16) : Int :=
  (if kind = 2 then cb.getD x.toNat 0 else x.toInt) * (2 ^ sh : Int)

/-- The header of a block. -/
def headerOf (kind sh : Nat) (l : List CSum) : BitVec 16 :=
  BitVec.ofNat 16 (sh + 64 * (l.length - 1) + 2048 * (l.any (fun c => c.nan)).toNat + 4096 * (l.any (fun c => c.pinf)).toNat +
    8192 * (l.any (fun c => c.ninf)).toNat + 16384 * kind)

/-- The decoded sums of a block; its flags hold for each of its elements. -/
def decodeBlock (cb : List Int) (b : CollBlock) : List CSum :=
  let h := b.header.toNat
  b.payload.map (fun x => ⟨decodeCode (bitsOf h 14 2) cb (bitsOf h 0 6) x, bitsOf h 11 1 = 1, bitsOf h 12 1 = 1, bitsOf h 13 1 = 1⟩)

/-- LEN of a block agrees with its payload, and its format is one of the two. -/
def blockOk (b : CollBlock) : Bool :=
  decide (bitsOf b.header.toNat 6 5 + 1 = b.payload.length) && decide (bitsOf b.header.toNat 14 2 = 1 ∨ bitsOf b.header.toNat 14 2 = 2)

/-- A list cut into blocks of 32, with fuel for their number. -/
def chunks : Nat → List CSum → List (List CSum)
  | 0, _ => []
  | f + 1, l => if l = [] then [] else l.take 32 :: chunks f (l.drop 32)

/-- The blocks a member sends for a level. -/
def compress (gid : Word) (seq : IWord) (level member kind : Nat) (cb : List Int) (l : List CSum) : List CollBlock :=
  ((chunks (l.length / 32 + 1) l).zipIdx).map (fun x =>
    let sh := shiftOf kind cb x.1
    { gid := gid, seq := seq, level := level, member := member, first := 32 * x.2, header := headerOf kind sh x.1,
      payload := x.1.map (codeOf kind cb sh) })

/-! ## A collective in flight (R348) -/

/-- A collective by GID and SEQ. -/
def collOf (s : State) (gid : Word) (seq : IWord) : Option Coll := s.colls.find? (fun c => c.gid = gid ∧ c.seq = seq)

/-- A collective's state is replaced; a new one is added. -/
def putColl (s : State) (c : Coll) : State :=
  if s.colls.any (fun x => x.gid = c.gid ∧ x.seq = c.seq) then
    { s with colls := s.colls.map (fun x => if x.gid = c.gid ∧ x.seq = c.seq then c else x) }
  else { s with colls := s.colls ++ [c] }

/-- Level-0 threads of the whole group, and this device's first rank. -/
def collNt (c : Coll) : Nat := if c.levels.length = 1 then ((c.levels.headD (0, [])).2).length else Config.collThreads c.gid
def collBase (c : Coll) : Nat := if c.levels.length = 1 then 0 else Config.collBefore c.gid
/-- Elements that the sums of a collective have. -/
def collWidth (c : Coll) : Nat := if c.op = 1 then c.count * collNt c else c.count
/-- Members and KIND of a level. -/
def levelMembers (c : Coll) (l : Nat) : List Nat := (c.levels.getD l (0, [])).2
def levelKind (c : Coll) (l : Nat) : Nat := (c.levels.getD l (0, [])).1
/-- The root of a level: its lowest member. -/
def levelRoot (c : Coll) (l : Nat) : Nat := (levelMembers c l).headD 0
/-- This device takes part at a level (R344). -/
def takesPart (c : Coll) (l : Nat) : Bool := l ≤ 1 || decide (levelRoot c (l - 1) = Config.collOrdinal c.gid)
/-- Exponent E of a collective. -/
def collExp (c : Coll) : Int := gtExp c.table
/-- Codebook levels of a collective. -/
def collCb (s : State) (c : Coll) : List Int := ((bankOf s (gtGen c.table)).map (fun b => b.levels)).getD []

/-- The level-0 sum, once every thread of the device's list has contributed. -/
def levelZero (c : Coll) : Option (List CSum) :=
  if c.parts.length = (levelMembers c 0).length then
    some ((List.range (collWidth c)).map (fun i =>
      c.parts.foldl (fun a p => a.add (injectElem c.ty (collExp c) ((p.src.getD i 0).toNat % 2 ^ c.ty.bits))) {}))
  else none

/-- Sums decoded from a member's blocks of a level, once they cover every element. -/
def memberSum (s : State) (c : Coll) (l m : Nat) : Option (List CSum) :=
  let bs := c.blocks.filter (fun b => b.level = l ∧ b.member = m)
  let have' := (List.range (collWidth c)).map (fun i => (bs.find? (fun b => b.first ≤ i ∧ i < b.first + b.payload.length)).bind
    (fun b => (decodeBlock (collCb s c) b)[i - b.first]?))
  if have'.all (fun x => x.isSome) then some (have'.map (fun x => x.getD {})) else none

/-- The sum of a level at its root, once every member's blocks are there. -/
def levelSum (s : State) (c : Coll) : Nat → Option (List CSum)
  | 0 => levelZero c
  | l + 1 =>
    let ms := (levelMembers c (l + 1)).map (memberSum s c (l + 1))
    if ms.all (fun x => x.isSome) then
      some ((List.range (collWidth c)).map (fun i => ms.foldl (fun a x => a.add ((x.getD []).getD i {})) {}))
    else none

/-- A collective ends with a code for every member on the device, and the other devices that its table names learn of it, once, so that
the news goes from level to level (R348). Where no thread here has joined yet they are told when one joins. -/
def loseColl (s : State) (c : Coll) (code : Nat) : State :=
  let code := if c.code = 0 then code else c.code
  let s := putColl s { c with code := code, told := decide (c.table ≠ []) }
  if c.told then s else sendLost code s c

/-- The error feedback that a device's contribution reads and writes. -/
inductive Feedback where
  | none
  | entries (p : CollPart) (e : List Int)
  /-- it cannot be read or written: the code its command ends with (R223, R337) -/
  | bad (p : CollPart) (code : Byte)

/-- The error feedback of a device at a level of KIND 2: the entries of its first member's EFB (R346, R347). -/
def feedback (s : State) (c : Coll) : Feedback :=
  match c.parts.find? (fun p => p.rank = collBase c) with
  | none => .none
  | some p =>
    if p.efb = 0 then .none else
    match readVirt s p.owner c.ctx p.efb.toNat (8 * c.count) with
    | .bytes l => if writableVirt s p.owner c.ctx p.efb.toNat (8 * c.count)
        then .entries p ((List.range c.count).map (fun i => sfieldAt l (8 * i) 8)) else .bad p 4
    | .fenced _ => .bad p 3
    | .noPage _ | .poison _ => .bad p 4

/-- A page of the EFB is being moved (R287). -/
def feedbackMoving (s : State) (c : Coll) : Bool :=
  c.parts.any (fun p => p.efb ≠ 0 && rangeMoving s c.ctx p.efb.toNat (8 * c.count))

/-- This device's contribution to a level: compressed, sent to the root or kept there, its error fed back. Where the EFB is out
of reach its command ends with a code and the collective is lost for the others (log 93). -/
def contribute (s : State) (c : Coll) (l : Nat) : State :=
  match levelSum s c (l - 1) with
  | none => s
  | some sums =>
    let kind := levelKind c l
    match (if kind = 2 then feedback s c else .none) with
    | .bad p code => loseColl (modCmd s p.cmd (fun k => { k with failed := code })) c 9
    | fb =>
    let sums := match fb with
      | .entries _ e => (sums.zipIdx).map (fun x => { x.1 with s := x.1.s + e.getD x.2 0 })
      | .none | .bad _ _ => sums
    let me := Config.collOrdinal c.gid
    let bs := compress c.gid c.seq l me kind (collCb s c) sums
    let s := match fb with
      | .entries p e =>
        let dec := bs.flatMap (fun b => decodeBlock (collCb s c) b)
        (writeVirt s p.owner c.ctx p.efb.toNat ((List.range e.length).flatMap (fun i =>
          bytesOfNat 8 (patternOf 64 ((sums.getD i {}).s - (dec.getD i {}).s))))).1
      | .none | .bad _ _ => s
    let c := { c with sent := c.sent ++ [l] }
    if levelRoot c l = me then putColl s { c with blocks := c.blocks ++ bs }
    else
      let r := bs.foldl (fun (a : Option State) b => a.bind (fun s => sendColl s (levelRoot c l) (.block b))) (some (putColl s c))
      match r with
      | some s => s
      | none => loseColl s c 9

/-- The members of the levels that this device is root of, but itself. -/
def below (c : Coll) : List Nat :=
  let me := Config.collOrdinal c.gid
  (((List.range c.levels.length).drop 1).filter (fun l => levelRoot c l = me)).flatMap (levelMembers c) |>.dedup |>.filter (fun o => o ≠ me)

/-- Results stand for every element. -/
def resultsFull (c : Coll) : Bool :=
  (List.range (collWidth c)).all (fun i => c.results.any (fun r => r.1 ≤ i ∧ i < r.1 + r.2.length))

/-- Results go down from a root to its members, once (R346). -/
def passDown (s : State) (c : Coll) : State :=
  if !resultsFull c || decide (100 ∈ c.sent) then s
  else
    let c := { c with sent := c.sent ++ [100] }
    let r := (below c).foldl (fun (a : Option State) o => a.bind (fun s =>
      c.results.foldl (fun (a : Option State) x => a.bind (fun s => sendColl s o (.result c.gid c.seq x.1 x.2))) (some s)))
      (some (putColl s c))
    match r with
    | some s => s
    | none => loseColl s c 9

/-- One level is taken as far as it goes. -/
def advanceLevel (s : State) (gid : Word) (seq : IWord) (l : Nat) : State :=
  match collOf s gid seq with
  | none => s
  | some c =>
    if c.code ≠ 0 ∨ c.op = 2 ∨ feedbackMoving s c then s
    else if l ≠ 0 ∧ takesPart c l ∧ ¬ l ∈ c.sent ∧ (l = 1 ∨ levelRoot c (l - 1) = Config.collOrdinal gid) then contribute s c l
    else s

/-- A collective is taken as far as it goes: contributions level by level, the result at the top root, results down. -/
def advanceColl (s : State) (gid : Word) (seq : IWord) : State :=
  match collOf s gid seq with
  | none => s
  | some c =>
    if c.table = [] then s else
    let top := c.levels.length - 1
    let s := (List.range c.levels.length).foldl (fun s l => advanceLevel s gid seq l) s
    match collOf s gid seq with
    | none => s
    | some c =>
      if c.code ≠ 0 ∨ c.op = 2 then s
      else
        let atTop := top = 0 ∨ levelRoot c top = Config.collOrdinal gid
        let c' := if c.results = [] ∧ atTop then
            match levelSum s c top with
            | some sums => { c with results := [(0, sums.map (resultOf c.ty (collExp c)))] }
            | none => c
          else c
        passDown (putColl s c') c'

/-! ## Contributions and completion -/

/-- The patterns of `n` elements of a list of bytes. -/
def elemsOf (ty : ElemTy) (l : List Byte) (n : Nat) : List Word :=
  (List.range n).map (fun i => BitVec.ofNat 64 (fieldAt l (i * (ty.bits / 8)) (ty.bits / 8)))

/-- OP, TYPE of a COLL. -/
def collOpTy : Instr → Nat × ElemTy
  | .collAred _ t => (0, t) | .collRsct _ t => (1, t) | .collAgat _ t => (2, t)
  | _ => (0, .f32)

/-- A collective goes once every level-0 member of the device has joined it and left; the device remembers that one of its GID and SEQ
has ended (R348; log 113). -/
def settleColl (s : State) (c : Coll) : State :=
  if c.parts.length = (levelMembers c 0).length && c.parts.all (fun p => p.owner = 0) then
    { s with colls := s.colls.filter (fun x => ¬ (x.gid = c.gid ∧ x.seq = c.seq)), collUses := countUse s.collUses c.gid c.seq }
  else putColl s c

/-- The other members of a level. -/
def othersAt (c : Coll) (l : Nat) : List Nat := (levelMembers c l).filter (fun o => o ≠ Config.collOrdinal c.gid)

/-- The devices to which a contribution of an agat goes on from here: one of this device's own to its level-1 group, and from that
group's root to the other roots too; one that comes to a root from its group to the other roots; one that comes from another root
to its group. Each device so gets it once (R348, R349). -/
def gatherTo (c : Coll) (member : Nat) : List Nat :=
  let me := Config.collOrdinal c.gid
  let root := decide (levelRoot c 1 = me)
  if member = me then othersAt c 1 ++ (if root then othersAt c 2 else [])
  else if !root then []
  else if member ∈ levelMembers c 1 then othersAt c 2 else othersAt c 1

/-- A contribution of an agat goes on; where a device has no way, the collective is lost. -/
def passGather (s : State) (c : Coll) (x : Nat × Nat × List IWord) : State :=
  match (gatherTo c x.1).foldl (fun (a : Option State) o => a.bind (fun s =>
      sendColl s o (.gather c.gid c.seq (Config.collOrdinal c.gid) x.2.1 x.2.2))) (some s) with
  | some s => s
  | none => loseColl s c 9

/-- The devices with which this one exchanges messages of a collective: at each level in which it takes part the root, and as root, or
for an agat, every other member. -/
def collNeeds (c : Coll) : List Nat :=
  let me := Config.collOrdinal c.gid
  ((List.range c.levels.length).drop 1).flatMap (fun l =>
    if !takesPart c l then [] else if c.op = 2 ∨ levelRoot c l = me then othersAt c l else [levelRoot c l])

/-- A member of a collective has lost its route from here (R348). -/
def routeLost (s : State) (c : Coll) : Bool := (collNeeds c).any (fun o => !(routeOf s o).any (fun p => !portDown s p))

/-- A member of the device joins with what it has read: its part, and for agat its elements, which go to the other devices. -/
def contributeSrc (s : State) (x : CmdAt) (c : Coll) (p : CollPart) : State :=
  let own := (Config.collOrdinal c.gid, p.rank, p.src.map (fun w => BitVec.ofNat 32 w.toNat))
  let c := { c with parts := c.parts ++ [p], gathers := if c.op = 2 then c.gathers ++ [own] else c.gathers }
  let s := modCmd (putColl s c) x.cmd.uid (fun k => { k with begun := true, joined := true })
  advanceColl (if c.op = 2 then passGather s c own else s) c.gid c.seq

/-- A COLL command joins its collective: it reads its source and contributes. One that finds the collective already failed
ends with its code, and one that finds a member without a route with CODE 9; one whose source does not read ends with a code of its own, and the collective is lost for the others (R348;
log 93). The first to join passes on what a root had received before it. -/
def joinColl (s : State) (x : CmdAt) : State :=
  match cmdGroup s x.launch x.cmd with
  | none => finishCmd s x 9 0 0
  | some g =>
    let d := x.cmd.desc
    let (op, ty) := collOpTy x.cmd.instr
    let old := (collOf s (gtGid g) (cdSeq d)).getD
      { gid := gtGid g, seq := cdSeq d, launch := 0, ctx := 0, op := 0, ty := .f32, count := 0, table := [] }
    let c : Coll := { old with
      launch := x.launch, ctx := x.ctx, op := op, ty := ty, count := cdCount d, table := g, levels := (collOfTable g (cdSeq d)).levels }
    let n := collWidth c
    let thread := x.tag.toNat % 2 ^ 24
    let p : CollPart := { cmd := x.cmd.uid, thread := thread, owner := x.owner, rank := collBase c + (gtList g 0).idxOf thread,
                          src := [], dst := BitVec.ofNat 64 (cdDst d), efb := BitVec.ofNat 64 (cdEfb d),
                          status := BitVec.ofNat 64 (cdStatus d) }
    if c.code ≠ 0 ∨ routeLost s c then
      loseColl (modCmd s x.cmd.uid (fun k => { k with begun := true, joined := true })) { c with parts := c.parts ++ [p] } 9
    else match readSource s x.owner x.ctx (cdSrc d) (n * (ty.bits / 8)) with
    | .bad code =>
      let c := { c with parts := c.parts ++ [{ p with owner := 0 }] }
      let s := loseColl (finishCmd s x code 0 0) c 9
      settleColl s { c with code := 9, told := true }
    | .ok l =>
      let s := countVirt s x.owner x.ctx (cdSrc d) (n * (ty.bits / 8))
      let s := if old.table = [] then c.gathers.foldl (fun s y => passGather s c y) s else s
      contributeSrc s x c { p with src := elemsOf ty l n }

/-- The elements a rank's DST receives, once they are all there (R348). -/
def outcomeOf (c : Coll) (rank : Nat) : Option (List IWord) :=
  if c.op = 2 then
    let g := (List.range (collNt c)).map (fun r => (c.gathers.find? (fun x => x.2.1 = r)).map (fun x => x.2.2))
    if g.all (fun x => x.isSome) then some (g.flatMap (fun x => x.getD [])) else none
  else if resultsFull c then
    let at' (i : Nat) : IWord := ((c.results.find? (fun r => r.1 ≤ i ∧ i < r.1 + r.2.length)).map (fun r => r.2.getD (i - r.1) 0)).getD 0
    some ((List.range c.count).map (fun i => at' (if c.op = 1 then rank * c.count + i else i)))
  else none

/-- A member's part is over. -/
def leaveColl (s : State) (c : Coll) (cmd : Nat) : State :=
  settleColl s { c with parts := c.parts.map (fun (p : CollPart) => if p.cmd = cmd then { p with owner := 0, src := [] } else p) }

/-- The collective that a command has joined. -/
def collOfCmd (s : State) (uid : Nat) : Option Coll := s.colls.find? (fun c => c.parts.any (fun p => p.cmd = uid))

/-- The result of a collective lands in a member's DST, and its status follows (R348). -/
def landColl (x : CmdAt) (c : Coll) (dst : Nat) (l : List Byte) (s : State) : State :=
  let code := landCode s (localOrigin s x.owner) x.ctx dst l.length
  let (s, n) := writeVirt s x.owner x.ctx dst l
  leaveColl (finishCmd s x code 0 (BitVec.ofNat 64 n)) c x.cmd.uid

/-- A joined COLL command finishes when its collective has a result or a failure: DST lands, then the status (R348). -/
def endColl (s : State) (x : CmdAt) : State :=
  let s := match collOfCmd s x.cmd.uid with
    | some c => advanceColl s c.gid c.seq
    | none => s
  let fail (x : CmdAt) (code : Byte) (f : State → State) : State := withTouch s x (ownStatus x) (fun s => f (finishCmd s x code 0 0))
  match findCmd s x.cmd.uid, collOfCmd s x.cmd.uid with
  | none, _ => s
  | some x, none => fail x 9 id
  | some x, some c =>
    if x.cmd.failed ≠ 0 then fail x x.cmd.failed (fun s => leaveColl s c x.cmd.uid)
    else if c.code ≠ 0 then fail x (BitVec.ofNat 8 c.code) (fun s => leaveColl s c x.cmd.uid)
    else
      match (c.parts.find? (fun p => p.cmd = x.cmd.uid)).bind (fun p => (outcomeOf c p.rank).map (fun o => (p, o))) with
      | none => s
      | some (p, out) =>
        let bytes := out.flatMap (fun v => bytesOfNat (c.ty.bits / 8) v.toNat)
        withTouch s x (⟨x.ctx, p.dst.toNat, bytes.length, needW⟩ :: ownStatus x) (landColl x c p.dst.toNat bytes)

/-! ## Program order of the link class (R237) -/

/-- Physical pieces of a virtual range. -/
def physOf (s : State) (o c va n : Nat) : List (Nat × Nat) :=
  (pagesOf va n).filterMap (fun p => (xlateDirect s o c p.1 {}).map (fun a => (a, p.2)))

/-- The virtual ranges that a COLL reads, and those it writes but for its status. -/
def collReads (g : List Byte) (c : LCmd) : List (Nat × Nat) :=
  let (op, ty) := collOpTy c.instr
  let nt := if gtNlev g = 1 then gtNmem g 0 else Config.collThreads (gtGid g)
  [(cdSrc c.desc, cdCount c.desc * (if op = 1 then nt else 1) * (ty.bits / 8))]
def collWrites (g : List Byte) (c : LCmd) : List (Nat × Nat) :=
  let (op, ty) := collOpTy c.instr
  let nt := if gtNlev g = 1 then gtNmem g 0 else Config.collThreads (gtGid g)
  (cdDst c.desc, cdCount c.desc * (if op = 2 then nt else 1) * (ty.bits / 8)) ::
    (if cdEfb c.desc = 0 then [] else [(cdEfb c.desc, 8 * cdCount c.desc)])

/-- The context and virtual ranges in which a command acts on this device, but for its descriptor and status. -/
def cmdRanges (s : State) (x : CmdAt) : List (Nat × Nat × Nat) :=
  let c := x.cmd
  if isColl c.instr then
    match cmdGroup s x.launch c with
    | none => []
    | some g => (collReads g c ++ collWrites g c).map (fun r => (x.ctx, r.1, r.2))
  else
    let n := if isXfer c.instr then c.cap.xd.toNat else 8
    (if isXfer c.instr then [(x.ctx, c.cap.xa.toNat, n)] else []) ++
      (if rdLocal c.desc && decide (rdKind c.desc ≤ 1) then [(rdCtx c.desc, rdAddr c.desc, n)] else [])

/-- The virtual ranges, in its thread's context, that a command which has not finished has still to write: its status record, and for a
COLL its DST and EFB. -/
def pendingWrites (s : State) (x : CmdAt) (c : LCmd) : List (Nat × Nat) :=
  (if cmdStatus c = 0 then [] else [(cmdStatus c, 16)]) ++
  (if isColl c.instr then ((cmdGroup s x.launch c).map (fun g => collWrites g c)).getD [] else [])

/-- What the next step of a command touches on this device: where it begins, its ranges and its status; else what it has still to
write. -/
def stepRanges (s : State) (x : CmdAt) : List (Nat × Nat × Nat) :=
  (pendingWrites s x x.cmd).map (fun r => (x.ctx, r.1, r.2)) ++ (if x.cmd.begun then [] else cmdRanges s x)

/-- A command ahead of a command in its queue has still to write bytes that the command's next step touches: the link class performs
its accesses to overlapping bytes in program order (R230, R237). -/
def behindLink (s : State) (x : CmdAt) : Bool :=
  let ahead := x.lq.takeWhile (fun c => c.uid ≠ x.cmd.uid)
  let writes := ahead.flatMap (fun c => (pendingWrites s x c).flatMap (fun r => physOf s x.owner x.ctx r.1 r.2))
  let mine := (stepRanges s x).flatMap (fun r => physOf s x.owner r.1 r.2.1 r.2.2)
  decide (ahead ≠ []) && writes.any (fun a => mine.any (fun b => rangesMeet a.1 a.2 b.1 b.2))

/-- A page in which a COLL command acts is being moved (R287). -/
def collCmdMoving (s : State) (x : CmdAt) : Bool :=
  s.migration.isSome && (rangeMoving s x.ctx (cmdStatus x.cmd) 16 || (cmdRanges s x).any (fun r => rangeMoving s r.1 r.2.1 r.2.2))

/-- A COLL joins once its source and its EFB have been translated. -/
def beginColl (s : State) (x : CmdAt) : State :=
  let d := x.cmd.desc
  let reads := ((cmdGroup s x.launch x.cmd).map (fun g => collReads g x.cmd)).getD []
  withTouch s x (reads.map (fun r => ⟨x.ctx, r.1, r.2, needR⟩) ++
    (if cdEfb d = 0 then [] else [⟨x.ctx, cdEfb d, 8 * cdCount d, needRW⟩]) ++ ownStatus x) (fun s => joinColl s x)

/-- LINK_COMMAND_PERFORM: the next step of a queued LINK or COLL command. One whose packet a router has dropped takes none, unless it has
failed (R309). -/
def execLinkCommandPerform (uid : Nat) (reply : LinkReply) (s : State) : Host.Outcome State Fault Refusal :=
  .next (match findCmd s uid with
    | none => s
    | some x =>
      if behindLink s x || (decide (uid ∈ s.dropped) && decide (x.cmd.failed = 0)) then s
      else if isColl x.cmd.instr then
        (if collCmdMoving s x then s
         else if x.cmd.joined then endColl s x
         else if !turnInQueue x || x.stopping || decide (s.fw.running = some .ckpt) then s
         else beginColl s x)
      else linkPerform s x reply)

/-! ## Messages (R346, R348) -/

/-- The state of a collective that a message names, new when no thread here has joined it yet. -/
def collFor (s : State) (gid : Word) (seq : IWord) : Coll :=
  (collOf s gid seq).getD { gid := gid, seq := seq, launch := 0, ctx := 0, op := 0, ty := .f32, count := 0, table := [] }

/-- What a message does to its collective: a block, result or gathered contribution is taken in and goes on; a block whose LEN disagrees
with its payload is rejected whole, and the collective ends with CODE 8 at every member; a failure is passed on. -/
def takeMsg (s : State) (msg : CollMsg) : State :=
  match msg with
  | .block b =>
    let c := collFor s b.gid b.seq
    if blockOk b then advanceColl (putColl s { c with blocks := c.blocks ++ [b] }) b.gid b.seq else loseColl s c 8
  | .result gid seq first values =>
    let c := collFor s gid seq
    advanceColl (putColl s { c with results := c.results ++ [(first, values)] }) gid seq
  | .gather gid seq member rank values =>
    let c := collFor s gid seq
    if c.gathers.any (fun x => x.2.1 = rank) then s
    else
      let c := { c with gathers := c.gathers ++ [(member, rank, values)] }
      if c.table = [] then putColl s c else passGather (putColl s c) c (member, rank, values)
  | .lost gid seq code => loseColl s (collFor s gid seq) code

/-- The table of a GID that a launch which is lost here had read, while no launch here has read another. -/
def lostTable (s : State) (gid : Word) : Option (List Byte) :=
  if s.launches.any (fun l => l.groups.any (fun g => gtGid g.2 = gid)) then none else s.lostTables.find? (fun g => gtGid g = gid)

/-- The number of a message's pair here is brought up to that of its sender, for which an earlier collective of the pair has ended; what
no thread here has joined of that one goes (log 113). -/
def catchUp (s : State) (k : Word × IWord) (use : Nat) : State :=
  if use ≤ useOf s k then s else
  { s with collUses := putUse s.collUses k.1 k.2 use, colls := s.colls.filter (fun c => ¬ (c.gid = k.1 ∧ c.seq = k.2 ∧ c.table = [])) }

/-- A message of a collective whose launch has been lost here: the other members learn that it ends with CODE 9 (R348). -/
def refuseMsg (s : State) (g : List Byte) (msg : CollMsg) : State :=
  let k := msgKey msg
  let s := match msg with
    | .lost _ _ _ => s
    | .block _ | .result _ _ _ _ | .gather _ _ _ _ _ => sendLost 9 s (collOfTable g k.2)
  { s with collUses := countUse s.collUses k.1 k.2 }

/-- COLL_BLOCK_RECEIVE: a message of a collective arrives through a port (R20, R346, R348); one of a collective that has ended here is
dropped (log 113). A port that is down delivers nothing. -/
def execCollBlockReceive (msg : CollArrival) (s : State) : Host.Outcome State Fault Refusal :=
  .next (if portDown s msg.port || decide (29 ≤ msg.port) then s
    else
      let n := s.uid
      let s := bump { s with uid := s.uid + 1 } (640 + msg.port) 1 (Config.linkFlits n)
      if msg.use < useOf s (msgKey msg.body) then s else
      let s := catchUp s (msgKey msg.body) msg.use
      match lostTable s (msgKey msg.body).1 with
      | some g => refuseMsg s g msg.body
      | none => takeMsg s msg.body)

/-! The pushes (R22, R26). -/

def execCollAred (a : Reg) (t : ElemTy) (σ : State) : Host.Outcome State Fault Refusal :=
  .next (pushCur σ (.collAred a t))
def execCollRsct (a : Reg) (t : ElemTy) (σ : State) : Host.Outcome State Fault Refusal :=
  .next (pushCur σ (.collRsct a t))
def execCollAgat (a : Reg) (t : ElemTy) (σ : State) : Host.Outcome State Fault Refusal :=
  .next (pushCur σ (.collAgat a t))

end Sys2Proof.Machine
end

