-- ==== Sys2Proof/Machine/Ctl.lean ====
section
/-! DEFINITION. CTL: reads and writes of the control and status registers (R110 to R115, R123) and the waiting read of an
e register. -/

namespace Sys2Proof.Machine

/-- place (R114): cluster in [8:0], slot in [10:9], die in [12:11]. -/
def placeOf (tid : Nat) : Word := BitVec.ofNat 64 (tid / 4 + 512 * (tid % 4) + 2048 * dieOfCluster (tid / 4))

/-- vcp (R113): the address of the entry at vcp, or that of the reading instruction with bit 0 set. -/
def vcpOf (t : Thread) : Word :=
  match t.vq with
  | [] => t.pc ||| 1
  | e :: _ => e.cap.pc

/-- The value of a CSR that is no e register (R110). -/
def csrRead (s : State) (tid : Nat) (t : Thread) (c : BitVec 12) : Word :=
  match c.toNat with
  | 0x000 => t.csr.vfmt | 0x001 => t.csr.vrows | 0x002 => t.csr.vcols | 0x003 => t.csr.vmode | 0x004 => t.csr.vesr
  | 0x005 => vcpOf t
  | 0x006 => BitVec.ofNat 64 (Config.vlen / 8)
  | 0x010 => t.csr.srseed | 0x011 => t.csr.srbase | 0x020 => t.csr.stctl | 0x021 => t.csr.stloss | 0x030 => t.csr.rsctl
  | 0x040 => t.csr.tcause | 0x041 => t.csr.tval | 0x042 => t.csr.tepc | 0x043 => t.csr.tstat | 0x044 => t.csr.thand
  | 0x045 => t.csr.tkeep
  | 0x080 => BitVec.ofNat 64 (tabGet 0 s.cycles (dieOfCluster (tid / 4)))
  | 0x081 => placeOf tid
  | 0x082 => 1
  | _ => 0

/-- What vfmt holds after a write (R130). -/
def vfmtOf (v : Word) : Word :=
  let ty := fieldOf v 0 4
  BitVec.ofNat 64 (16 * fieldOf v 4 2 + (if 14 ≤ ty then 0 else ty))
/-- What vmode holds after a write (R97, R136). -/
def vmodeOf (v : Word) : Word :=
  let rm := fieldOf v 0 3
  BitVec.ofNat 64 (8 * fieldOf v 3 1 + (if 5 ≤ rm then 0 else rm))
/-- What stctl holds after a write (R199). -/
def stctlOf (v : Word) : Word :=
  let nem := fieldOf v 2 2
  let terms := fieldOf v 4 3
  BitVec.ofNat 64 (128 * fieldOf v 7 1 + 16 * (if terms = 0 ∨ 5 ≤ terms then 4 else terms) +
    4 * (if nem = 3 then 2 else nem) + fieldOf v 0 2)

/-- A CSR written with a value, held as its layout states (R111, R112, R288). -/
def csrWrite (r : Csrs) (c : BitVec 12) (v : Word) : Csrs :=
  match c.toNat with
  | 0x000 => { r with vfmt := vfmtOf v }
  | 0x001 => { r with vrows := v }
  | 0x002 => { r with vcols := v }
  | 0x003 => { r with vmode := vmodeOf v }
  | 0x004 => { r with vesr := v }
  | 0x010 => { r with srseed := v }
  | 0x011 => { r with srbase := v }
  | 0x020 => { r with stctl := stctlOf v }
  | 0x021 => { r with stloss := v &&& 0xFFFF }
  | 0x030 => { r with rsctl := v &&& 7 }
  | 0x040 => { r with tcause := v &&& 0xFF }
  | 0x041 => { r with tval := v }
  | 0x042 => { r with tepc := v &&& ~~~3#64 }
  | 0x044 => { r with thand := v &&& ~~~3#64 }
  | 0x045 => { r with tkeep := v }
  | _ => r

/-- A write form of CTL: the CSR becomes `f old x[A]`; `d` receives the old value when there is one (R123). -/
def ctlWrite (d : Option Reg) (a : Reg) (c : BitVec 12) (f : Word → Word → Word) (s : State) :
    Host.Outcome State Fault Refusal :=
  onCur s (fun t =>
    let old := csrRead s s.cur t c
    let t' := { t with csr := csrWrite t.csr c (f old (rx t a)), pc := t.pc + 4 }
    setThread s s.cur (match d with | some d => wx t' d old | none => t'))

/-- An entry in the vector queue has vN among its destination registers (R115). -/
def writerQueued (t : Thread) (n : Nat) : Bool := t.vq.any (fun e => n ∈ destRegs e.cap.vfmt e.instr)

/-- Element (0,0) of vN under the type in vfmt, as ctl.rd gives it (R115 step 3). -/
def eValue (t : Thread) (n : Nat) : Word :=
  let ty := vfmtTy t.csr.vfmt
  let v := elem t n ty.bits 0
  if ty.isSigned ∨ ty = .bpi then BitVec.ofInt 64 (signedOf ty.bits v) else BitVec.ofNat 64 v

/-- ctl.rd. Of an e register it waits for the last writer in the queue (R115); after VREL it traps (R45). -/
def execCtlRd (d : Reg) (csr : BitVec 12) (s : State) : Host.Outcome State Fault Refusal :=
  onCur s (fun t =>
    if 0x800 ≤ csr.toNat then
      let n := csr.toNat - 0x800
      if t.vrelPushed then scalarTrap s s.cur causeVreleased 0 t.pc
      else if writerQueued t n then setThread s s.cur { t with hold := .eRead d n }
      else writeX s t d (eValue t n)
    else writeX s t d (csrRead s s.cur t csr))

def execCtlWr (a : Reg) (csr : BitVec 12) (s : State) : Host.Outcome State Fault Refusal :=
  ctlWrite none a csr (fun _ x => x) s
def execCtlXchg (d a : Reg) (csr : BitVec 12) (s : State) : Host.Outcome State Fault Refusal :=
  ctlWrite (some d) a csr (fun _ x => x) s
def execCtlBset (a : Reg) (csr : BitVec 12) (s : State) : Host.Outcome State Fault Refusal :=
  ctlWrite none a csr (fun o x => o ||| x) s
def execCtlBclr (a : Reg) (csr : BitVec 12) (s : State) : Host.Outcome State Fault Refusal :=
  ctlWrite none a csr (fun o x => o &&& ~~~x) s
def execCtlAdv (d a : Reg) (csr : BitVec 12) (s : State) : Host.Outcome State Fault Refusal :=
  ctlWrite (some d) a csr (fun o x => o + x) s

/-- E_READ_WAKE: a waiting read of an e register goes on once vcp has passed the last writer (R115). -/
def execEReadWake (thread : Nat) (s : State) : Host.Outcome State Fault Refusal :=
  .next (match threadAt s thread with
    | some t =>
      (match t.hold with
       | .eRead d n =>
         if writerQueued t n || t.stopReq then s
         else setThread s thread { wx t d (eValue t n) with pc := t.pc + 4, hold := .run }
       | .run | .qord _ | .push | .repush _ | .lost => s)
    | none => s)

end Sys2Proof.Machine
end

