-- ==== Sys2Proof/Machine/Fetch.lean ====
section
/-! DEFINITION. Instruction fetch (R54, R121), the passing of time, and where a fetched word is placed for a test of one
instruction. -/

namespace Sys2Proof.Machine

/-- The cycles of each die that pass in a step (R6, R114; log 7): none after a thermal halt, which stops the dies' clocks
(R358). -/
def passTime (s : State) : State :=
  { s with tick := s.tick + 1,
           cycles := if s.fw.state = 4 then s.cycles
             else [0, 1, 2, 3].foldl (fun c d => tabPut c d (tabGet 0 c d + Config.stepCycles d s.tick)) s.cycles }

/-- What a fetch gives. -/
inductive Fetched where
  | word (w : IWord)
  | fault
  /-- the page is moving (R287) -/
  | wait
deriving DecidableEq, Repr

/-- Four bytes of a memory as a word (R5, R54). -/
def wordAt (m : Memory) (pa : Nat) : IWord := BitVec.ofNat 32 (natOfBytes (readBytes m pa 4))

/-- The word that a thread fetches at a physical address: the one that stood there when its launch was placed; a store made
since may or may not have reached the fetch (R121; log 40). -/
def fetchWord (s : State) (t : Thread) (pa : Nat) : IWord :=
  match launchOf s t.launch with
  | none => wordAt s.mem pa
  | some l => if wordAt s.mem pa = wordAt l.code pa ∨ Config.fetchSees s.tick pa then wordAt s.mem pa else wordAt l.code pa

/-- The word at a thread's pc: a translation to an executable page, then the four bytes there (R54, R121). For a fetch whose
home slice is fenced (R223), cannot be reached (R312) or whose granule is poisoned (R225) the spec names no trap: DESIGN
CHOICE (log 83), the word is fetched as if the home answered. -/
def fetchAt (s : State) (tid : Nat) (t : Thread) : Fetched × State :=
  match xlate s (tid / 4) t.uid 0 t.ctx t.area t.pc.toNat needX with
  | (.ok pa, s) => (.word (fetchWord s t pa), endMiss s (tid / 4) t.uid 0)
  | (.fail, s) => (.fault, endMiss s (tid / 4) t.uid 0)
  | (.wait, s) => (.wait, s)

/-- The instruction that a fetched word stands for; a word that is no instruction raises the illegal-instruction trap
(R67, R68), a failed fetch the instruction page fault. -/
def instrOf (pc : Word) : Fetched → Option Instr
  | .word w => some (match decode w with | .ok i => i | .error _ => .illegalWord w)
  | .fault => some (.instructionPageFault pc)
  | .wait => none

/-! A machine with one placed thread, for `withFetchWord`: the context, page tables, launch and thread that the host
driver, ubload and the scheduler set up before a program runs (R90, R280 to R283, R44; log 3). -/

/-- Page-table words: root entry 0, level-1 entry 0, level-0 entry 1. -/
def placeTables (m : Memory) : Memory :=
  writeBytes (writeBytes (writeBytes m 0x80000 (bytesOfNat 8 0x100001)) 0x100000 (bytesOfNat 8 0x108001))
    0x108008 (bytesOfNat 8 0x20001B)

/-- The launch record of the placed thread: one gang level of one member. -/
def placeRecord : List Byte := List.replicate 24 0 ++ [1#8] ++ List.replicate 74 0 ++ [1#8] ++ List.replicate 156 0

/-- Thread 0 of cluster 0 at virtual address 0x10000, which physical page 0x200000 backs. -/
def placeThread (s : State) : State :=
  let s := setDrv (setDrv (setDrv s 0x10000 0x80000) 0x10008 0x400000) 0x10010 0x100000001
  let c := clusterOf s 0
  setThread { setCluster s 0 { c with tlb := [] } with
    mem := placeTables s.mem, cur := 0, uid := s.uid + 1,
    launches := s.launches ++ [{ id := 64, queue := 0, ctx := 0, raw := placeRecord, placed := 1, order := 0, code := placeTables s.mem }] } 0
    { uid := s.uid, launch := 64, ctx := 0, flat := 0, idx := [0], weight := 1, area := 0x400000, pc := 0x10000 }

/-- Where the current thread's next fetch reads, if it has one that succeeds. -/
def fetchPlace (s : State) : Option Nat :=
  match threadAt s s.cur with
  | none => none
  | some t =>
    if canRun t then
      (match xlate s (s.cur / 4) t.uid 0 t.ctx t.area t.pc.toNat needX with
        | (.ok pa, _) => some pa
        | _ => none)
    else none

/-- A word's bytes, in the machine's order (R5), stored in memory and in the code of every launch. -/
def storeCode (s : State) (pa w : Nat) : State :=
  { s with mem := writeBytes s.mem pa (bytesOfNat 4 w),
           launches := s.launches.map (fun (l : Launch) => { l with code := writeBytes l.code pa (bytesOfNat 4 w) }) }

/-- The bytes of a table word stored where the next step fetches, which it takes next. -/
def storeFetchWord (s : State) (w : Nat) : State :=
  match fetchPlace s with
  | some pa => { storeCode s pa w with agenda := [.run s.cur] }
  | none => { storeCode (placeThread s) 0x200000 w with agenda := [.run 0] }

end Sys2Proof.Machine
end

