-- ==== Sys2Proof/Machine/LdSt.lean ====
section
/-! DEFINITION. LD and ST (R119, R120), with the answers of an unavailable home (R223) and of poison (R225). -/

namespace Sys2Proof.Machine

/-- Access width in bytes (R62). -/
def ldBytes : LdW → Nat
  | .s8 | .z8 => 1 | .s16 | .z16 => 2 | .s32 | .z32 => 4 | .i64 => 8
def stBytes : StW → Nat
  | .i8 => 1 | .i16 => 2 | .i32 => 4 | .i64 => 8

/-- The value a load gives x[D] for the bytes it read. -/
def ldValue (w : LdW) (n : Nat) : Word :=
  match w with
  | .s8 | .s16 | .s32 => BitVec.ofInt 64 (signedOf (8 * ldBytes w) n)
  | .z8 | .z16 | .z32 | .i64 => BitVec.ofNat 64 n

/-- The effective address (R119). -/
def effAddr (t : Thread) (a b : Reg) (off : BitVec 4) (width : Nat) : Word :=
  rx t a + rx t b + off.signExtend 64 * BitVec.ofNat 64 width

/-- A strong access of the thread has not performed: a later strong scalar access waits for it (R235, R236; log 21). -/
def strongBusy (s : State) (t : Thread) : Bool := strongBefore s t s.uid

/-- The checks of a scalar access (R119, R223): the address, its alignment, translation, and that its home can be reached. -/
inductive Scalar where
  | at (pa : Nat)
  | trap (cause : BitVec 8)
  | wait

/-- The access check of LD and ST; `fault` is the page fault of the access. A thread has one scalar access at a time, under its own
number. -/
def scalarCheck (s : State) (t : Thread) (ea : Word) (width : Nat) (n : Need) (fault : BitVec 8) : Scalar × State :=
  if 2 ^ 52 ≤ ea.toNat then (.trap fault, s)
  else if ea.toNat % width ≠ 0 then (.trap causeMisaligned, s)
  else match xlate s (s.cur / 4) t.uid t.uid t.ctx t.area ea.toNat n with
    | (.fail, s) => (.trap fault, endMiss s (s.cur / 4) t.uid t.uid)
    | (.wait, s) => (.wait, s)
    | (.ok pa, s) => if reaches s (s.cur / 4) pa then (.at pa, s) else (.trap causeUnavailable, endMiss s (s.cur / 4) t.uid t.uid)

/-- LD. The load reads at its home (R229), after the thread's own stores to its bytes have performed there (R120). -/
def execLd (d a b : Reg) (w : LdW) (strong : Option Scope) (off : BitVec 4) (s : State) : Host.Outcome State Fault Refusal :=
  onCur s (fun t =>
    if strong.isSome && strongBusy s t then s else
    let ea := effAddr t a b off (ldBytes w)
    match scalarCheck s t ea (ldBytes w) needLd causeLoadFault with
    | (.trap c, s) => scalarTrap s s.cur c ea t.pc
    | (.wait, s) => s
    | (.at pa, s) =>
      if loadWaits s t pa (ldBytes w) then s else
      let s := endMiss s (s.cur / 4) t.uid t.uid
      if poisoned s pa (ldBytes w) then scalarTrap s s.cur causePoisoned ea t.pc
      else
        let v := natOfBytes (readBytes s.mem pa (ldBytes w))
        writeX (countAccess s pa) t d (ldValue w v))

/-- ST. The store is issued to its home and counts in the stores class until it has performed there (R120, R229,
R272); a count at its limit holds the thread (R318). -/
def execSt (d a b : Reg) (w : StW) (strong : Option Scope) (off : BitVec 4) (s : State) : Host.Outcome State Fault Refusal :=
  onCur s (fun t =>
    if strong.isSome && strongBusy s t then s
    else if classMax ≤ classCount s t 1 then s else
    let ea := effAddr t a b off (stBytes w)
    match scalarCheck s t ea (stBytes w) needSt causeStoreFault with
    | (.trap c, s) => scalarTrap s s.cur c ea t.pc
    | (.wait, s) => s
    | (.at pa, s) =>
      let s := issue (endMiss s (s.cur / 4) t.uid t.uid)
        { seq := s.uid, owner := t.uid, launch := t.launch, cluster := s.cur / 4, strong := strong.isSome,
          kind := .store pa (bytesOfNat (stBytes w) (rx t d).toNat) }
      setThread s s.cur { t with pc := t.pc + 4 })

end Sys2Proof.Machine
end

