-- ==== Sys2Proof/Machine/Queue.lean ====
section
/-! DEFINITION. Launch queues (R261 to R267, R270): commits by the host and by LNCH (R276), and VREL (R278). -/

namespace Sys2Proof.Machine

/-! ## Records (R264) -/
def recCode (raw : List Byte) : Nat := fieldAt raw 0 8
def recGate (raw : List Byte) : Nat := fieldAt raw 25 1
def recGatew (raw : List Byte) : Nat := fieldAt raw 26 1
def recNdep (raw : List Byte) : Nat := fieldAt raw 27 1
def recPre (raw : List Byte) : Bool := bitsOf (fieldAt raw 28 1) 0 1 = 1
def recKeep (raw : List Byte) : Bool := bitsOf (fieldAt raw 28 1) 1 1 = 1
def recGatev (raw : List Byte) : Nat := fieldAt raw 32 8
/-- The dependences a record names. -/
def recDeps (raw : List Byte) : List Nat := (List.range (min (recNdep raw) 4)).map (fun i => fieldAt raw (40 + 8 * i) 8)

/-- Check 0x08 (R265). -/
def recReserved (raw : List Byte) : Bool :=
  !zeroAt raw 29 3 || !zeroAt raw 88 8 || decide (4 ≤ fieldAt raw 28 1) || decide (recLevels raw = 0) ||
  decide (8 < recLevels raw) || decide (4 < recNdep raw) || decide (1 < recGate raw) ||
  (List.range 4).any (fun i => recNdep raw ≤ i && fieldAt raw (40 + 8 * i) 8 ≠ 0) ||
  (List.range 8).any (fun i => recLevels raw ≤ i && recLevel raw i ≠ 0) ||
  (List.range 8).any (fun i => lvlMembers (recLevel raw i) ≤ recOidx raw i)

/-- STATUS is aligned and its page has W, in a context (check 0x09); a record that could not be read has none. -/
def statusOk (s : State) (ctx : Nat) (raw : List Byte) : Bool :=
  decide (raw ≠ [] ∧ recStatus raw % 64 = 0) && (xlateDirect s 0 ctx (recStatus raw) needW).isSome

/-- Check 0x09 but for the record's own page. -/
def recAddresses (s : State) (ctx : Nat) (raw : List Byte) : Bool :=
  decide (recCode raw % 4 = 0) && (xlateDirect s 0 ctx (recCode raw) needX).isSome && statusOk s ctx raw

/-- Check 0x0A: a dependence that is not yet assigned, or the record's own identifier. -/
def recDepBad (s : State) (id : Nat) (raw : List Byte) : Bool :=
  (recDeps raw).any (fun d => decide ((queueAt s (queueOf d)).seq ≤ d / 64) || decide (d = id))

/-- The record checks of commit, by code; `page` says that the record's own page has RD in the queue's context. A record that
could not be read has no bytes. -/
def recordCheck (s : State) (ctx id : Nat) (page : Bool) (raw : List Byte) : Option Nat :=
  if decide (raw ≠ []) && recReserved raw then some 0x08
  else if raw = [] || !page || (ctxRoot s ctx).isNone || !recAddresses s ctx raw then some 0x09
  else if recDepBad s id raw then some 0x0A
  else none

/-! ## Commit (R263) -/

/-- The die of a queue's home slice. -/
def queueDie (q : Nat) : Nat := Config.queueHome q % 160 / 40
/-- A slice is the home of a queue's control block or of its device buffer (R261, R313). -/
def queueHomedAt (q tile : Nat) : Bool :=
  decide (tileOfSlice (Config.queueHome q % 160) = tile ∨ tileOfSlice (homeOf (controlBlock q)) = tile)
/-- The queue's control block and device buffer are in service (R313). -/
def queueUp (s : State) (q : Nat) : Bool :=
  inService s (tileOfSlice (Config.queueHome q % 160)) && inService s (tileOfSlice (homeOf (controlBlock q)))
/-- A queue-error event (R333). -/
def queueError (s : State) (q cause : Nat) : State :=
  postEvent s 1 (queueDie q) (BitVec.ofNat 64 q) (BitVec.ofNat 64 cause)

/-- A launch that never ran fails with a code: STATE 3, and its outcome (R265, R270). -/
def failRecord (s : State) (id ctx code : Nat) (raw : List Byte) : State :=
  let s := if statusOk s ctx raw then writeStatus s ctx raw 3 code 0 0 id 0 0 0
    else queueError (if raw = [] then s else countOwnWalk s (localOrigin s 0) ctx (recStatus raw)) (queueOf id) 1
  setOutcome s id .failed

/-- A record is committed to a queue (R263, R265, R266). -/
def commit (s : State) (q : Nat) (device page : Bool) (raw : List Byte) : State :=
  let l := queueAt s q
  let id := l.seq * 64 + q
  let ctx := ctxOfQueue s q
  let s := setQueue s q { l with seq := (l.seq + 1) % 2 ^ 58 }
  let s := if raw = [] then s else countOwnWalk s (localOrigin s 0) ctx (recCode raw)
  match recordCheck s ctx id page raw with
  | some code => failRecord s id ctx code raw
  | none =>
    let s := writeStatus s ctx raw 0 0 0 0 id 0 0 0
    let l := queueAt s q
    setQueue s q { l with recs := l.recs ++ [{ id := id, ctx := ctx, device := device, raw := raw }] }

/-- Record n of a queue's ring is committed; the scheduler copies it out, so HEAD advances. A record whose page reads and whose home
does not answer or whose bytes are poisoned has no outcome in the spec: here it fails check 0x09 as one that does not read
(DESIGN CHOICE, log 106). -/
def commitRing (s : State) (q n : Nat) : State :=
  let l := queueAt s q
  let va := l.ring.toNat + 160 * (n % 256)
  let ctx := ctxOfQueue s q
  let s := countVirt (countOwnWalks s (localOrigin s 0) ctx va 160) 0 ctx va 160
  let s := match readVirt s 0 ctx va 160 with
    | .bytes raw => commit s q false true raw
    | .noPage _ | .fenced _ | .poison _ => commit s q false false []
  setQueue s q { queueAt s q with head := n + 1 }

/-- A page that a record names for its own, its code or its status is being moved (R287). -/
def recordMoving (s : State) (ctx : Nat) (raw : List Byte) : Bool :=
  rangeMoving s ctx (recCode raw) 4 || rangeMoving s ctx (recStatus raw) 64

/-- The records that a new TAIL commits: their addresses in the queue's context. -/
def tailRecords (s : State) (q : Nat) (value : Word) : List Nat :=
  let l := queueAt s q
  (List.range (value.toNat - l.tail)).map (fun i => l.ring.toNat + 160 * ((l.tail + i) % 256))

/-- A commit that a new TAIL asks for must wait for a page that is being moved. -/
def tailMoving (s : State) (q : Nat) (value : Word) : Bool :=
  let ctx := ctxOfQueue s q
  s.migration.isSome && (tailRecords s q value).any (fun a => rangeMoving s ctx a 160 || (match readVirt s 0 ctx a 160 with
    | .bytes raw => recordMoving s ctx raw
    | .noPage _ | .fenced _ | .poison _ => false))

/-- A TAIL value that is refused: below the current one, beyond the ring, or of a disabled queue (R263). -/
def tailBad (l : LQueue) (value : Word) : Bool := !l.en || decide (value.toNat < l.tail ∨ l.head + 256 < value.toNat)

/-- TAIL is written: records up to its new value are committed in ring order; a bad value, or a disabled queue, posts a queue
error and changes nothing (R263). -/
def writeTail (s : State) (q : Nat) (value : Word) : State :=
  let l := queueAt s q
  if tailBad l value then queueError s q 0
  else
    let s := (List.range (value.toNat - l.tail)).foldl (fun s i => commitRing s q (l.tail + i)) s
    setQueue s q { queueAt s q with tail := value.toNat }

/-- EN 1 is written, with the ring: HEAD and TAIL become 0 (R262). -/
def enableQueue (s : State) (q : Nat) (ring : Word) : State :=
  { setQueue s q { queueAt s q with en := true, head := 0, tail := 0, ring := ring } with
    fw := { s.fw with fresh := false },
    launches := s.launches.map (fun (l : Launch) => if l.queue = q then { l with parked := false } else l) }

/-- A queue is disabled: every record not yet taken fails with 0x0C (R262, R265). -/
def disableQueue (s : State) (q : Nat) : State :=
  let l := queueAt s q
  let s := setQueue s q { l with en := false, recs := [] }
  let s := { s with candidate := if s.candidate = some q then none else s.candidate }
  l.recs.foldl (fun s r => failRecord s r.id r.ctx 0x0C r.raw) s

/-! ## The host's writes of TAIL and CTRL (R239, R262) -/

/-- A control block and its queue answer the host: its port, the homes and the way there are in service. -/
def queueReach (s : State) (q : Nat) : Bool :=
  hostReach s && queueUp s q && routeUp s (tileOfPort 0) (tileOfSlice (homeOf (controlBlock q)))

/-- A write to a queue's TAIL or CTRL performs (R262, R263). One that finds the control block or its queue out of service is
dropped. -/
def controlWrite (s : State) (op : HostOp) : State :=
  match op with
  | .tail q v => if queueUp s q then writeTail (countHere s (controlBlock q)) q v else s
  | .enable q ring => if queueUp s q then enableQueue (countHere s (controlBlock q)) q ring else s
  | .disable q => if queueUp s q then disableQueue (countHere s (controlBlock q)) q else s
  | .write _ _ _ _ | .read _ _ _ => s

/-- A write to a queue's TAIL or CTRL waits for what the host's order asks, and for a page that is being moved. -/
def controlHeld (s : State) (before : List HostReq) (op : HostOp) : Bool :=
  hostHeld s before op || (match op with
    | .tail q v => !tailBad (queueAt s q) v && tailMoving s q v
    | .enable _ _ | .disable _ | .write _ _ _ _ | .read _ _ _ => false)

/-- A write to a queue's TAIL or CTRL arrives: it performs, or waits among the received accesses until SLICE_REQUEST finds that
it may (R239). -/
def controlArrives (s : State) (q : Nat) (op : HostOp) : State :=
  if !queueReach s q then s
  else if controlHeld s s.posted op then receiveHost (hostFlits s 1) op else controlWrite (hostFlits s 1) op

/-- HOST_TAIL_WRITE: the host writes TAIL of a queue. -/
def execHostTailWrite (q : BitVec 6) (value : Word) (s : State) : Host.Outcome State Fault Refusal :=
  .next (controlArrives s q.toNat (.tail q.toNat value))

/-- QUEUE_ENABLE: the host writes RING and EN 1. A queue homed on a fenced tile stays disabled. -/
def execQueueEnable (q : BitVec 6) (ring : Word) (s : State) : Host.Outcome State Fault Refusal :=
  .next (controlArrives s q.toNat (.enable q.toNat ring))

/-- QUEUE_DISABLE: the host writes EN 0. -/
def execQueueDisable (q : BitVec 6) (s : State) : Host.Outcome State Fault Refusal :=
  .next (controlArrives s q.toNat (.disable q.toNat))

/-! ## LNCH and VREL at vcp -/

/-- The launch trap with its reason. -/
def launchTrap (s : State) (e : Entry) (r : Nat) : Res := .trap s causeLaunch (BitVec.ofNat 64 r) e.k

/-- A virtual range translates readable in every page. -/
def readableVirt (s : State) (o c va n : Nat) : Bool := (pagesOf va n).all (fun p => (xlateDirect s o c p.1 needR).isSome)

/-- lnch at vcp (R276): the checks, the release of the launch latch, the record read in the pusher's context, a free
entry of the device buffer, then the commit, which asks that the record's page has RD in the queue's context too (R265). -/
def lnchAtVcp (s : State) (tid : Nat) (t : Thread) (e : Entry) : Res :=
  let q := e.cap.xb.toNat
  let a := e.cap.xa.toNat
  if 63 < q then launchTrap s e 0
  else if a % 32 ≠ 0 then launchTrap s e 1
  else if !(queueAt s q).en then launchTrap s e 2
  else if !releaseReady s t.uid e.uid then .wait s
  else match touchRanges s (tid / 4) t.uid e.uid [⟨t.ctx, a, 160, needR⟩] with
    | (false, s) => .wait s
    | (true, s) =>
      match readVirt s t.uid t.ctx a 160 with
      | .noPage x | .fenced x | .poison x => .trap s causeLoadFault (BitVec.ofNat 64 x) e.k
      | .bytes raw =>
        if Config.deviceBufCap ≤ ((queueAt s q).recs.filter (fun r => r.device)).length ∨
            recordMoving s (ctxOfQueue s q) raw ∨ rangeMoving s (ctxOfQueue s q) a 160 then .wait s
        else .done (commit (countOwnWalks (countVirt s t.uid t.ctx a 160) (localOrigin s 0) (ctxOfQueue s q) a 160) q true (readableVirt s 0 (ctxOfQueue s q) a 160) raw)

/-- VREL at vcp: after the tile queue is empty, the effect of R45 (R278). -/
def vrelAtVcp (s : State) (tid : Nat) (t : Thread) (e : Entry) : Res :=
  if t.tq ≠ [] then .wait s
  else match vrelEffect s tid e.uid with
    | (s, false) => .wait s
    | (s, true) => .done s

/-! The pushes (R22, R26). -/

def execLnch (a b : Reg) (σ : State) : Host.Outcome State Fault Refusal := .next (pushCur σ (.lnch a b))
def execVrel (σ : State) : Host.Outcome State Fault Refusal := .next (pushCur σ .vrel)

end Sys2Proof.Machine
end

