-- ==== Sys2Proof/Machine/Save.lean ====
section
/-! DEFINITION. Pre-emption: the stop of a thread (R291), the save area (R292) and the restore (R293). -/

namespace Sys2Proof.Machine

/-! ## Stop (R291) -/

/-- A VAMO with AQ that its thread has pushed and that has performed no element (R253), those that its mask leaves out aside. One that
a return from a trap or a restore has pushed again restarts from its record instead (R29, R290). -/
def freshAcquire (t : Thread) (e : Entry) : Bool :=
  vamoAq e.instr && !e.again && (amoOf e.instr).all (fun m => decide (nextActive t m.p.toNat e.cap.vesr.toNat e.k = none))

/-- A VAMO with AQ that has performed nothing leaves the queue: its thread stops before that instruction, the last that it has
pushed (R291; log 22). -/
def unpushAcquire (t : Thread) : Thread :=
  match t.vq.getLast? with
  | some e => if freshAcquire t e then
      { t with vq := t.vq.dropLast, pc := e.cap.pc, csr := { t.csr with vesr := e.cap.vesr } } else t
  | none => t

/-- The accesses of a stopped thread that still wait for a translation are given up, but those of link commands that have begun. -/
def stopMisses (s : State) (tid : Nat) (t : Thread) : State :=
  modMisses s (tid / 4) (fun ms => ms.filter (fun m => m.owner ≠ t.uid ∨ t.lq.any (fun c => c.begun && decide (c.uid = m.id))))

/-- A thread waits for the return of a packet that a router has dropped: the instruction or the entry at vcp never ends (R309). -/
def packetLost (s : State) (t : Thread) : Bool := decide (t.hold = .lost) || t.vq.head?.any (fun e => decide (e.uid ∈ s.dropped))

/-- THREAD_STOP: a thread that the scheduler pre-empts stops before its next instruction; its tile-queue entry is at an
interrupt point; waits at vcp are given up, and the push copies become the committed copies (R183). -/
def stopThread (s : State) (tid : Nat) : State :=
  match threadAt s tid with
  | none => s
  | some t =>
    let c := clusterOf s (tid / 4)
    if t.stopReq = false ∨ t.stopped ∨ c.seqRun = some (tid % 4) ∨ packetLost s t then s
    else
      let s := setCluster s (tid / 4) { c with
        tileWait := setDel c.tileWait (tid % 4), slotWait := setDel c.slotWait (tid % 4),
        deficit := tabErase c.deficit (tid % 4) }
      let s := stopMisses s tid t
      let t := unpushAcquire t
      let vq := (t.vq ++ toPush t).map (fun e => { e with begun := false, sat := [] })
      let waits (w : Waiter) : Bool := decide (w.thread = some tid) ||
        (w.thread.isNone && w.port.isNone && t.lq.any (fun c => c.uid = w.uid))
      setThread { s with waiters := s.waiters.filter (fun w => !waits w) } tid
        { dropPush t with vq := vq, hold := .run, stallOn := [], stopped := true }

def execThreadStop (thread : Nat) (s : State) : Host.Outcome State Fault Refusal := .next (stopThread s thread)

/-! ## The save area (R292) -/

/-- Bytes of a list of words. -/
def wordBytes (l : List Word) : List Byte := l.flatMap (fun w => bytesOfNat 8 w.toNat)

/-- Bits of names that are bound. -/
def nameBits (t : Tab Nat) : Nat := (t.map (fun e => 2 ^ e.1)).sum

/-- The control and status registers in the order of the header. -/
def csrWords (r : Csrs) : List Word :=
  [r.vfmt, r.vrows, r.vcols, r.vmode, r.vesr, r.srseed, r.srbase, r.stctl, r.stloss, r.rsctl, r.tcause, r.tval, r.tepc,
   r.tstat, r.thand, r.tkeep]

/-- The registers from a header's words. -/
def csrOfWords (w : Nat → Word) : Csrs :=
  { vfmt := w 0, vrows := w 1, vcols := w 2, vmode := w 3, vesr := w 4, srseed := w 5, srbase := w 6, stctl := w 7,
    stloss := w 8, rsctl := w 9, tcause := w 10, tval := w 11, tepc := w 12, tstat := w 13, thand := w 14, tkeep := w 15 }

/-- Entries of the vector-queue section: the held ones, which a trap has written, then those of the queue, as many as find a
record (log 96). -/
def recordsOf (t : Thread) : Nat := min 64 (t.held.length + t.vq.length)

/-- The header. -/
def headerBytes (c : Cluster) (t : Thread) : List Byte :=
  let wait := t.barrWait.getD (0, 0)
  let kreg (k : Nat) : List Byte :=
    let r := kreg t.kcomm k
    bytesOfNat 4 r.value ++ [BitVec.ofNat 8 (r.link.getD 31)] ++ bytesOfNat 3 0 ++ bytesOfNat 8 r.extent
  let slot (n : Nat) : List Byte := match tabFind t.q n with
    | some k => wordBytes [(slotAt c k).info, (slotAt c k).stctl, (slotAt c k).stloss]
    | none => bytesOfNat 24 0
  let ids := bytesOfNat 4 t.flat ++ bytesOfNat 8 t.launch ++ bytesOfNat 8 t.pc.toNat ++ [BitVec.ofNat 8 (nameBits t.t)]
  [0x55#8, 0x42#8, 0x53#8, 0x41#8] ++ bytesOfNat 2 1 ++ [2#8, BitVec.ofNat 8 t.tq.length,
    BitVec.ofNat 8 (recordsOf t), BitVec.ofNat 8 t.lq.length,
    BitVec.ofNat 8 (t.lgrp.getD 0xFF), BitVec.ofNat 8 t.latches.length] ++ ids ++
  [BitVec.ofNat 8 t.barrWait.isSome.toNat, BitVec.ofNat 8 wait.1, 0#8] ++ bytesOfNat 4 wait.2 ++
  bytesOfNat 4 (nameBits t.q) ++ bytesOfNat 212 0 ++
  wordBytes ((List.range 32).map (fun i => rx t (BitVec.ofNat 5 i))) ++ wordBytes (csrWords t.csr) ++
  (List.range 8).flatMap kreg ++ wordBytes t.latches ++ bytesOfNat (64 - 8 * t.latches.length) 0 ++ bytesOfNat 64 0 ++
  (List.range 32).flatMap (fun n => bytesOfNat 4 (tabGet 0 t.vext n)) ++ (List.range 32).flatMap slot ++ bytesOfNat 2304 0

/-- The record of a residency register. -/
def regRecord (t : Thread) (n : Nat) : List Byte :=
  match tabFind t.h n with
  | none => bytesOfNat 512 0
  | some h =>
    h.blk ++ h.td ++ (List.range 4).flatMap (fun d => bytesOfNat 8 (patternOf 64 (h.comm.anchor.getD d 0))) ++
    (List.range 4).flatMap (fun d => bytesOfNat 8 (h.comm.limit.getD d 0)) ++
    (List.range 4).flatMap (fun d => bytesOfNat 8 (patternOf 64 (h.comm.lo.getD d 0))) ++ bytesOfNat 8 1 ++
    bytesOfNat 8 (h.comm.wmk.getD 0xFFFF) ++ bytesOfNat 8 (h.comm.latch.getD 0).toNat ++ bytesOfNat 168 0

/-- Lines of a register's region. -/
def regionLines (h : HReg) : List Nat := span (blkLine0 h.blk) (blkLine0 h.blk + blkLines h.blk)
/-- The code of a line's state: 1 full, 2 empty, 3 poisoned. -/
def lineCode (t : Thread) (n : Nat) (h : HReg) (line : Nat) : Nat :=
  match lineState t n h line with
  | .full => 1 | .empty => 2 | .poisoned => 3
/-- Every line of the thread's regions with its code. -/
def threadLines (t : Thread) : List (Nat × Nat) :=
  t.h.flatMap (fun e => (regionLines e.2).map (fun l => (l, lineCode t e.1 e.2 l)))
/-- First scratchpad byte of every dirty element of the thread. -/
def dirtyBytes (t : Thread) : List Nat := t.h.flatMap (fun e => e.2.dirty.map (slotByte e.2))
/-- Lines whose bytes are saved: the full ones (R292). -/
def imageLines (t : Thread) : List Nat := ((threadLines t).filter (fun x => x.2 = 1)).map (fun x => x.1)
/-- Bytes of the dirty elements in lines that are not full, by scratchpad address (log 30). -/
def looseBytes (c : Cluster) (t : Thread) : Tab Byte :=
  (t.h.flatMap (fun e => (e.2.dirty.filter (fun k => lineState t e.1 e.2 (slotLine e.2 k) ≠ .full)).flatMap (fun k =>
    (List.range (tySize (tdType e.2.td))).map (fun i => slotByte e.2 k + i)))).foldl
      (fun m a => tabPut m a (tabGet 0 c.scratch a)) []

/-- The line-state part: 2 bits per line. -/
def lineBytes (t : Thread) : List Byte :=
  let ls := threadLines t
  (List.range 4096).map (fun i => BitVec.ofNat 8 (((List.range 4).map (fun k =>
    ((ls.find? (fun x => x.1 = 4 * i + k)).map (fun x => x.2)).getD 0 * 4 ^ k)).sum))
/-- The dirty-bit part. -/
def dirtyMap (t : Thread) : List Byte :=
  let d := dirtyBytes t
  (List.range 262144).map (fun i => BitVec.ofNat 8 (((d.filter (fun b => b / 8 = i)).map (fun b => 2 ^ (b % 8))).sum))

/-- The parts of a save area for a thread: offset and bytes. -/
def areaParts (c : Cluster) (t : Thread) : List (Nat × List Byte) :=
  let word (i : Instr) : IWord := (encode i).getD 0
  let at' := t.held.length
  let vq := ((t.vq.take (recordsOf t - at')).zipIdx).map (fun e => (0x1000 + 128 * (at' + e.2), vqRecord e.1))
  let tq := (t.tq.zipIdx).map (fun e => (0x3000 + 128 * e.2, entryBytes (word e.1.instr) e.1.cap e.1.k e.1.hnd none e.1.step))
  let lq := (t.lq.zipIdx).map (fun e => (0x3800 + 128 * e.2, entryBytes (word e.1.instr) e.1.cap e.1.k e.1.hnd none 0))
  let regs := (List.range 8).map (fun n => (0x4000 + 512 * n, regRecord t n))
  let ps := (List.range 8).map (fun n => (0x6000 + 2048 * n, bytesOfNat 2048 (rp t n).toNat))
  let vs := (List.range 32).map (fun n => (0x10000 + 2048 * n, bytesOfNat (64 * tabGet 0 t.vext n) (rv t n).toNat))
  let ts := t.t.map (fun e => (0x20000 + 16384 * e.1, tilePairs.flatMap (fun x => bytesOfNat 4 (tileElem c e.2 x.1 x.2))))
  let qs := t.q.map (fun e => (0x40000 + 8192 * e.1, (List.range 8192).map (fun i => tabGet 0 (slotAt c e.2).bytes i)))
  let image := (imageLines t).map (fun l => (0x100000 + 128 * l, (List.range 128).map (fun i => tabGet 0 c.scratch (128 * l + i))))
  [(0, headerBytes c t)] ++ vq ++ tq ++ lq ++ regs ++ [(0x5000, lineBytes t)] ++ ps ++ vs ++ ts ++ qs ++
    [(0x80000, dirtyMap t)] ++ image

/-- Everything that a save waits for has performed: stores, releases but those held over the save, publications, and link commands that
have begun. -/
def drained (s : State) (t : Thread) : Bool :=
  !s.inflight.any (fun r => r.owner = t.uid) && !s.releases.any (fun r => decide (r.owner = t.uid) && !heldOver s r) &&
  !s.pubs.any (fun p => p.owner = t.uid) && !t.lq.any (fun c => c.begun || c.joined)

/-- Slots that only entries of the tile queue still need. -/
def spareSlots (c : Cluster) (t : Thread) : Tab CSlot :=
  (((t.tq.flatMap (fun e => e.slots)).filter (fun k => ¬ t.q.any (fun e => e.2 = k))).dedup).foldl
    (fun m k => tabPut m k (slotAt c k)) []

/-- What the save area of a thread has no place for; `rels` are the latches whose release is held over the save. -/
def savedOfThread (c : Cluster) (t : Thread) (rels : List Word) : Saved :=
  { uid := t.uid, area := t.area, flat := t.flat, idx := t.idx, tq := t.tq, lq := t.lq, remote := t.remote,
    vrelPushed := t.vrelPushed, vreleased := t.vreleased, held := t.held, vq := t.vq.drop (recordsOf t - t.held.length),
    dirty := looseBytes c t, lost := t.lost, rels := rels, t := t.t, q := t.q, spare := spareSlots c t }

/-- A router on the way from a tile to a part of a save area has stopped: what the context-save engine does there waits (R307). -/
def areaStuck (s : State) (tile a n : Nat) : Bool := decide (s.silent ≠ []) && rangeStuck s (some tile) a n

/-- CONTEXT_SAVE: the area of a stopped thread is written from its cluster's tile and the thread leaves its cluster. What falls on a
home that cannot perform it, or to which there is no way, is lost (R7, R10, R223, R312; log 37). One of whose packets a router has
dropped never ends (R309). -/
def saveThread (s : State) (tid : Nat) : State :=
  match threadAt s tid with
  | none => s
  | some t =>
    let c := clusterOf s (tid / 4)
    let tile := tileOfCluster (tid / 4)
    if !t.stopped || !drained s t || decide (t.uid ∈ s.dropped) || (areaParts c t).any (fun p => areaStuck s tile (t.area + p.1) p.2.length) then s
    else
      let rels := (s.releases.filter (fun r => r.owner = t.uid)).map (fun r => r.addr)
      let s := (areaParts c t).foldl (fun s p => physWrite s (some tile) (t.area + p.1) p.2) s
      let s := dropThread (freeUnits (dropMisses s (tid / 4) t.uid) tid t) tid
      modLaunch s t.launch (fun l => { l with saved := l.saved ++ [savedOfThread c t rels] })

def execContextSave (thread : Nat) (s : State) : Host.Outcome State Fault Refusal := .next (saveThread s thread)

/-! ## Restore (R293) -/

/-- The number of a thread of this device from its member index. -/
def localOf (ls : List Word) (idx : List Nat) : Nat :=
  ((ls.zip idx).zipIdx.map (fun x => if offDevice x.1.1 then 0 else x.1.2 * sizeHere ls x.2)).sum

/-- A residency register from its record, both copies the committed one; `none` when it is not configured. -/
def regOfRecord (r : List Byte) (dirty : Nat → Bool) : Option HReg :=
  if fieldAt r 320 1 % 2 = 0 then none else
  let c : HCopy := { anchor := (List.range 4).map (fun d => sfieldAt r (224 + 8 * d) 8),
                     limit := (List.range 4).map (fun d => fieldAt r (256 + 8 * d) 8),
                     lo := (List.range 4).map (fun d => sfieldAt r (288 + 8 * d) 8),
                     wmk := if fieldAt r 328 8 < 256 then some (fieldAt r 328 8) else none,
                     latch := if fieldAt r 336 8 = 0 then none else some (BitVec.ofNat 64 (fieldAt r 336 8)) }
  let h : HReg := { blk := r.take 160, td := (r.drop 160).take 64, push := c, comm := c }
  some { h with dirty := (List.range (boxV h.blk)).filter (fun k => dirty (slotByte h k)) }

/-- An entry of the saved vector queue. -/
def entryAtRecord (r : List Byte) (phase : Option Nat) : Option Entry :=
  match decode (BitVec.ofNat 32 (fieldAt r 0 4)) with
  | .error _ => none
  | .ok i =>
    let fl := fieldAt r 4 4
    some { uid := 0, instr := i, cap := capOfRecord r (BitVec.ofNat 64 (fieldAt r 8 8)), k := fieldAt r 40 8,
           hnd := decide (bitsOf fl 1 1 = 1), eb := if bitsOf fl 3 1 = 1 then some (BitVec.ofNat 64 (fieldAt r 120 8)) else none,
           phase := match i with | .syncBarr _ _ => phase | _ => none }

/-- The saved vector queue: the records after the held ones, and the entries beyond them. They take their numbers when they are
pushed. -/
def savedQueue (s : State) (tile : Option Nat) (v : Saved) : List Entry :=
  let phase := if areaNat s tile v 0x21 1 = 1 then some (areaNat s tile v 0x24 4) else none
  (span v.held.length (areaNat s tile v 8 1)).filterMap (fun i => entryAtRecord (areaBytes s tile v (0x1000 + 128 * i) 128) phase) ++ v.vq

/-- Registers of a saved thread as restore configures them. -/
def savedRegs (s : State) (tile : Option Nat) (v : Saved) : Tab HReg :=
  (List.range 8).filterMap (fun n =>
    (regOfRecord (areaBytes s tile v (0x4000 + 512 * n) 512)
      (fun b => bitsOf (areaByte s tile (v.area + 0x80000 + b / 8)).toNat (b % 8) 1 = 1)).map (fun h => (n, h)))

/-- The state of a line in a save area. -/
def savedLine (s : State) (tile : Option Nat) (v : Saved) (line : Nat) : Nat :=
  bitsOf (areaByte s tile (v.area + 0x5000 + line / 4)).toNat (2 * (line % 4)) 2

/-- Lines that a saved thread's regions take. -/
def savedLines (s : State) (tile : Option Nat) (v : Saved) : List Nat := (savedRegs s tile v).flatMap (fun e => regionLines e.2)
/-- Tiles a saved thread needs: its names, and tiles that a waiting tile.off still has to return. -/
def tilesNeeded (v : Saved) : List Nat :=
  (v.t.map (fun e => e.2) ++ (v.tq.filter (fun e => match e.instr with | .tileOff _ => true | _ => false)).map
    (fun e => e.tile)).dedup
/-- Slots a saved thread needs. -/
def slotsNeeded (v : Saved) : List Nat := (v.q.map (fun e => e.2) ++ v.spare.map (fun e => e.1)).dedup

/-- A cluster suits a saved thread beside others restored there with it: lines, tiles and slots (R293); and the context-save engine
gets from its tile to the save area without waiting (R307). -/
def clusterSuits (s : State) (saved : Nat → Option Saved) (m cl : Nat) (here : List Nat) : Bool :=
  match saved m with
  | none => false
  | some v =>
    let tile := some (tileOfCluster cl)
    let others := here.filterMap saved
    let used := (threadsOf s cl).flatMap (fun e => e.2.h.flatMap (fun r => regionLines r.2)) ++ others.flatMap (savedLines s tile)
    let c := clusterOf s cl
    !areaStuck s (tileOfCluster cl) v.area (2 ^ 22) && decide ((savedLines s tile v).all (fun l => ¬ l ∈ used)) &&
    decide (c.tileBusy.length + (others.map (fun o => (tilesNeeded o).length)).sum + (tilesNeeded v).length ≤ 16) &&
    decide (c.slotBusy.length + (others.map (fun o => (slotsNeeded o).length)).sum + (slotsNeeded v).length ≤ 64)

/-- A map of old numbers to new ones. -/
def renumber (old new : List Nat) (x : Nat) : Nat := ((old.zip new).find? (fun p => p.1 = x)).elim x (fun p => p.2)

/-- Step 1: tiles and slots are bound and filled; answers the thread's names and tile queue with the new hardware. -/
def restoreUnits (s : State) (cl : Nat) (v : Saved) : State × Tab Nat × Tab Nat × List TEntry :=
  let c := clusterOf s cl
  let tile := some (tileOfCluster cl)
  let tl := (((List.range 16).filter (fun k => ¬ k ∈ c.tileBusy)).take (tilesNeeded v).length)
  let sl := ((freeSlots c).take (slotsNeeded v).length)
  let tmap := renumber (tilesNeeded v) tl
  let smap := renumber (slotsNeeded v) sl
  let slot (n : Nat) : CSlot :=
    let bytes := (areaBytes s tile v (0x40000 + 8192 * n) 8192).zipIdx.foldl (fun m b => tabSet 0 m b.2 b.1) []
    let w (k : Nat) : Word := areaWord s tile v (0x400 + 24 * n + 8 * k)
    let x : CSlot := { bytes := bytes, info := w 0, stctl := w 1, stloss := w 2 }
    if miStr (w 0) then { strain x (w 1) (w 2) with info := w 0 } else x
  let c := { c with tileBusy := tl.foldl setAdd c.tileBusy, slotBusy := sl.foldl setAdd c.slotBusy }
  let c := v.t.foldl (fun (c : Cluster) (e : Nat × Nat) => tilePairs.foldl (fun c x =>
    setTileElem c (tmap e.2) x.1 x.2 (areaNat s tile v (0x20000 + 16384 * e.1 + 256 * x.1 + 4 * x.2) 4)) c) c
  let c := { c with slots := v.q.foldl (fun (m : Tab CSlot) (e : Nat × Nat) => tabPut m (smap e.2) (slot e.1)) c.slots }
  let c := { c with slots := v.spare.foldl (fun (m : Tab CSlot) (e : Nat × CSlot) => tabPut m (smap e.1) e.2) c.slots }
  (setCluster s cl c, v.t.map (fun e => (e.1, tmap e.2)), v.q.map (fun e => (e.1, smap e.2)),
    v.tq.map (fun e => { e with tile := if e.tile < 16 then tmap e.tile else e.tile, slots := e.slots.map smap }))

/-- Step 2: lines come back from the image, dirty elements of other lines get their bytes back (log 30), and the other elements
of lines that were not full are fetched again. -/
def restoreLines (s : State) (tid : Nat) (v : Saved) : State :=
  match threadAt s tid with
  | none => s
  | some t =>
    let c := clusterOf s (tid / 4)
    let tile := some (tileOfCluster (tid / 4))
    let put (sp : Tab Byte) (l : Nat) : Tab Byte := spWrite sp (128 * l) (areaBytes s tile v (0x100000 + 128 * l) 128)
    let sp := t.h.foldl (fun sp e => ((regionLines e.2).filter (fun l => savedLine s tile v l = 1)).foldl put sp) c.scratch
    let sp := v.dirty.foldl (fun sp e => tabSet 0 sp e.1 e.2) sp
    let s := setCluster s (tid / 4) { c with scratch := sp }
    t.h.foldl (fun s e =>
      match threadAt s tid with
      | none => s
      | some t =>
        if blkMode e.2.blk = modeWo ∨ blkMode e.2.blk = modeAcc then s else
        let slots := (List.range (boxV e.2.blk)).filter (fun k => savedLine s tile v (slotLine e.2 k) ≠ 1 ∧ ¬ k ∈ e.2.dirty)
        let (s, t) := refetch s tid t e.1 e.2 slots
        setThread s tid t) s

/-- The counter registers of a save area. -/
def savedCounters (s : State) (tile : Option Nat) (v : Saved) : Tab KReg :=
  (List.range 8).foldl (fun ks k =>
    let r := areaBytes s tile v (0x280 + 16 * k) 16
    let link := fieldAt r 4 1
    let reg : KReg := { value := fieldAt r 0 4, extent := fieldAt r 8 8, link := if link < 8 then some link else none }
    tabSet {} ks k reg) []

/-- One thread is restored in its slot (R293 steps 1 to 6), as the context-save engine reads its area from the slot's tile: what does
not get there is a free value (R7, R10, R312; log 37). Releases held over the save go on from there. -/
def restoreThread (s : State) (l : Launch) (v : Saved) (tid : Nat) (lane : Option Nat) : State :=
  let tile := some (tileOfCluster (tid / 4))
  let (s, ts, qs, tq) := restoreUnits s (tid / 4) v
  let ks := savedCounters s tile v
  let vext := (List.range 32).foldl (fun m n => tabSet 0 m n (areaNat s tile v (0x380 + 4 * n) 4)) []
  let vs := vext.foldl (fun m e => tabSet 0 m e.1 (BitVec.ofNat 16384 (areaNat s tile v (0x10000 + 2048 * e.1) (64 * e.2)))) []
  let ps := (List.range 7).foldl (fun m n =>
    tabSet 0 m (n + 1) (BitVec.ofNat 16384 (areaNat s tile v (0x6000 + 2048 * (n + 1)) 2048))) []
  let xs := (List.range 31).foldl (fun m n => tabSet 0 m (n + 1) (areaWord s tile v (0x100 + 8 * (n + 1)))) []
  let bwait := if areaNat s tile v 0x21 1 = 1 then some (areaNat s tile v 0x22 1, areaNat s tile v 0x24 4) else none
  let t : Thread :=
  { uid := v.uid, launch := l.id, ctx := l.ctx, flat := v.flat, idx := v.idx,
    weight := lvlWeight (recLevel l.raw 0), lgrp := lane, area := v.area, x := xs, pc := areaWord s tile v 0x18,
    csr := csrOfWords (fun i => areaWord s tile v (0x200 + 8 * i)), v := vs, vext := vext, p := ps, kpush := ks, kcomm := ks,
    h := savedRegs s tile v, t := ts, q := qs, tq := tq, lq := v.lq, held := v.held,
    latches := savedLatches s tile v, remote := v.remote,
    vrelPushed := v.vrelPushed, vreleased := v.vreleased, barrWait := bwait, lost := v.lost }
  let vq := savedQueue s tile v
  let s := setThread { s with releases := s.releases.map (fun r => if r.owner = v.uid then { r with thread := tid } else r) } tid t
  let c := clusterOf s (tid / 4)
  let s := setCluster s (tid / 4) { c with deficit := tabErase c.deficit (tid % 4) }
  let s := vext.foldl (fun s e => rsTake s (tid / 4) (tid % 4) e.1 0) s
  let s := (List.range 7).foldl (fun s n => rsTagMask s (tid / 4) (tid % 4) (n + 1)) s
  repush (restoreLines s tid v) tid vq

/-- The number of a saved thread, and of its gang group, in its launch. -/
def savedNum (l : Launch) (v : Saved) : Nat := localOf (levelsOf l.raw) v.idx
def savedAtom (l : Launch) (v : Saved) : Nat := savedNum l v / atomSize (levelsOf l.raw)

/-- The saved thread of a number among those of a gang group. -/
def savedOf (l : Launch) (a m : Nat) : Option Saved := l.saved.find? (fun x => savedAtom l x = a ∧ savedNum l x = m)

/-- The lane group a saved thread held, as the scheduler reads it. -/
def savedLane (s : State) (v : Saved) : Option Nat := if areaNat s none v 0xA 1 < 4 then some (areaNat s none v 0xA 1) else none

/-- Where the gang group of a saved thread can stand again: the whole of it has been saved, and there is room with the
lane groups its threads held (R39, R293). -/
def restorePlan (s : State) (l : Launch) (v : Saved) : Option PlaceAcc :=
  let ls := levelsOf l.raw
  let a := savedAtom l v
  let find (m : Nat) : Option Saved := savedOf l a m
  let pol : Policy := { only := fun m => (find m).isSome, want := fun m => (find m).bind (savedLane s), suits := clusterSuits s find }
  let units := l.units.filter (fun e => ¬ (e.1 / 2 ^ 40 ≤ gangHeight ls ∧
    e.1 % 2 ^ 40 * sizeHere ls (e.1 / 2 ^ 40) / atomSize ls = a))
  if s.threads.any (fun e => e.2.launch = l.id && localOf ls e.2.idx / atomSize ls = a) then none
  else placeAtom (occupied s []) pol (clustersUp s) ls units (a * atomSize ls)

/-- The first gang group of a launch with a saved thread that can stand again, with its place: each is restored as soon as it
fits (R269). -/
def restorable (s : State) (l : Launch) : Option (Nat × PlaceAcc) :=
  ((l.saved.map (savedAtom l)).dedup).findSome? (fun a =>
    (l.saved.find? (fun v => savedAtom l v = a)).bind (fun v => (restorePlan s l v).map (fun acc => (a, acc))))

/-- The threads of a gang group are restored in their places. -/
def restoreAtom (s : State) (l : Launch) (a : Nat) (acc : PlaceAcc) : State :=
  let s := modLaunch s l.id (fun k => { k with saved := k.saved.filter (fun x => ¬ savedAtom l x = a), units := acc.units })
  acc.taken.foldl (fun s x => match savedOf l a x.2.1 with
    | some w => restoreThread s l w x.1 (savedLane s w)
    | none => s) s

/-- CONTEXT_RESTORE: a gang group of a launch is restored, when all of it has been saved and it has room again (R39, R269,
R293); not while a checkpoint runs, nor before its queue is enabled after RESTORE (R355, R356). -/
def execContextRestore (launch : Nat) (s : State) : Host.Outcome State Fault Refusal :=
  .next (match launchOf s launch with
    | none => s
    | some l =>
      if l.parked || decide (s.fw.running = some .ckpt) then s else
      match restorable s l with
      | none => s
      | some (a, acc) => restoreAtom s l a acc)

end Sys2Proof.Machine
end

