-- ==== Sys2Proof/Machine/Sched.lean ====
section
/-! DEFINITION. The scheduler (R266 to R269), pre-emption of lower priorities, and the completion of a launch (R46, R47). -/

namespace Sys2Proof.Machine

/-! ## Heads of queues -/

/-- What a dependence says of a head (R266): `some true` satisfied, `some false` failed, `none` not yet. -/
def depState (s : State) (d : Nat) : Option Bool :=
  match tabFind (queueAt s (queueOf d)).outcomes (d / 64 % 1024) with
  | none => none
  | some (seq, o) =>
    if seq = d / 64 then some (decide (o = .completed)) else if d / 64 < seq then some true else none

/-- What the scheduler finds at the head of a queue. -/
inductive Head where
  | none
  | fail (code : Nat)
  | wait
  | ready
deriving DecidableEq, Repr

/-- A queue with saved groups places no new record before they are restored (R269). -/
def restoresFirst (s : State) (q : Nat) : Bool := s.launches.any (fun l => l.queue = q && l.saved ≠ [])

/-- The state of a queue's head: its level checks, its dependences and its gate (R265 to R267). Of a head that fails both a level check
and 0x0B, which R265 both makes at the head in no stated order, the level check gives the code (DESIGN CHOICE, log 122). A head that is
otherwise ready, of a queue with saved groups that R269 restores first, waits and holds no other head back, which R268 and R269 do not
say (DESIGN CHOICE, log 124). -/
def headState (s : State) (q : Nat) : Head :=
  match (queueAt s q).recs with
  | [] => .none
  | r :: _ =>
    let deps := (recDeps r.raw).map (depState s)
    match levelCheck (levelsOf r.raw) with
    | some c => .fail c
    | none =>
      if deps.any (fun d => d = some false) then .fail 0x0B
      else if deps.any (fun d => d = none) then .wait
      else if recGate r.raw = 1 ∧ (tabGet 0 s.wmk (recGatew r.raw)).toNat < recGatev r.raw then .wait
      else if restoresFirst s q then .wait
      else .ready

/-- Priority of a queue (R261). -/
def prioOf (q : Nat) : Nat := q / 8
/-- The queues in the order the scheduler scans them (R268). -/
def scanOrder (s : State) : List Nat :=
  [7, 6, 5, 4, 3, 2, 1, 0].flatMap (fun p => (List.range 8).map (fun i => 8 * p + (tabGet 0 s.scan p + i) % 8))

/-- The candidate: a head of a higher priority takes the place of the one that holds the scan; else that one while it is
ready; else the first ready head in scan order. A head of its own priority that lies ahead of it in scan order and becomes ready later
does not take its place, also when the scheduler scans again after the placement of another: R268 says this of higher priorities alone
(DESIGN CHOICE, log 123). -/
def candidateOf (s : State) : Option Nat :=
  let ready := (scanOrder s).filter (fun q => headState s q = .ready)
  match s.candidate with
  | some c =>
    if headState s c = .ready then
      (match ready.find? (fun q => prioOf c < prioOf q) with | some q => some q | none => some c)
    else ready.head?
  | none => ready.head?

/-- The head of a queue leaves it. -/
def dropHead (s : State) (q : Nat) : State :=
  let l := queueAt s q
  setQueue { s with candidate := if s.candidate = some q then none else s.candidate } q { l with recs := l.recs.drop 1 }

/-! ## Pre-emption (R269) -/

/-- Slots of the threads of one gang group of a launch. -/
def atomSlots (s : State) (l : Launch) (a : Nat) : List Nat :=
  let ls := levelsOf l.raw
  (s.threads.filter (fun e => e.2.launch = l.id ∧ localOf ls e.2.idx / atomSize ls = a)).map (fun e => e.1)

/-- A gang group put into a list by its rank at step n. -/
def byRank (n a : Nat) : List Nat → List Nat
  | [] => [a]
  | x :: r => if Config.victimRank n a ≤ Config.victimRank n x then a :: x :: r else x :: byRank n a r

/-- Gang groups of a launch with threads on the device, in the order in which they are pre-empted (log 31). -/
def atomsOn (s : State) (l : Launch) : List Nat :=
  let ls := levelsOf l.raw
  ((List.range (l.placed / atomSize ls)).filter (fun a => atomSlots s l a ≠ [])).foldr (byRank s.tick) []

/-- A launch put into a list with the most recently placed first. -/
def byOrder (l : Launch) : List Launch → List Launch
  | [] => [l]
  | x :: r => if x.order ≤ l.order then l :: x :: r else x :: byOrder l r

/-- The gang groups that may be pre-empted for a priority, in order: lowest priority first, most recently placed launch
first. -/
def victims (s : State) (prio : Nat) : List (List Nat) :=
  let ls := s.launches.filter (fun l => prioOf l.queue < prio ∧ !recKeep l.raw)
  let byPrio := (List.range prio).flatMap (fun p => (ls.filter (fun l => prioOf l.queue = p)).foldr byOrder [])
  byPrio.flatMap (fun l => (atomsOn s l).map (atomSlots s l))

/-- The fewest groups, taken in order, whose leaving makes room. -/
def enough (s : State) (l : Launch) (gone : List Nat) : List (List Nat) → Option (List Nat)
  | [] => none
  | v :: r =>
    let gone := gone ++ v
    if (roomFor s gone l).isSome then some gone else enough s l gone r

/-- Threads are told to stop. -/
def requestStop (s : State) (tids : List Nat) : State :=
  { s with threads := s.threads.map (fun (e : Nat × Thread) => (e.1, if e.1 ∈ tids then { e.2 with stopReq := true } else e.2)) }

/-- Pre-empt for a candidate launch; nothing when even every victim would not make room, or when the threads already
stopping make it. -/
def preemptFor (s : State) (l : Launch) : State :=
  let leaving := (s.threads.filter (fun e => e.2.stopReq)).map (fun e => e.1)
  if (roomFor s leaving l).isSome then s
  else match enough s l leaving (victims s (prioOf l.queue)) with
    | some gone => requestStop s gone
    | none => s

/-! ## One placement -/

/-- The launch a record becomes. -/
def launchOfRec (s : State) (q : Nat) (r : QRec) : Launch := { id := r.id, queue := q, ctx := r.ctx, raw := r.raw, order := s.uid, code := s.mem }

/-- The first atom of every group that a launch has, by thread number. -/
def atomStarts (ls : List Word) : List Nat := (List.range (threadsHere ls / max 1 (atomSize ls))).map (fun a => a * atomSize ls)

/-- Check 0x07 speaks of a launch: it has a gang group, or a level pinned to units of this device. Any other waits where no unit in
service has room (R35, R37). -/
def lostChecked (ls : List Word) : Bool := decide (gangHeight ls ≠ 0) || ls.any (fun w => decide (lvlPlace w = 2) && !offDevice w)

/-- A launch fails check 0x07, which R35 makes of every group before any thread is placed. -/
def levelLost (s : State) (ls : List Word) : Bool := lostChecked ls && (atomStarts ls).any (fun m => !fitsEmpty s ls m)

/-- The candidate fails check 0x07; else it is placed, or holds the scan and may pre-empt. -/
def placeCandidate (s : State) (q : Nat) (r : QRec) : State :=
  let l := launchOfRec s q r
  if levelLost s (levelsOf r.raw) then failRecord (dropHead s q) r.id r.ctx 0x07 r.raw
  else if rangeMoving s r.ctx (recStatus r.raw) 64 then s
  else match roomFor s [] l with
  | some acc =>
    let p := prioOf q
    let s := dropHead { s with uid := s.uid + 1, scan := tabSet 0 s.scan p ((q + 1) % 8), launches := s.launches ++ [l] } q
    let s := startAtom s l acc
    writeStatus s l.ctx l.raw 1 0 0 0 l.id 0 0 0
  | none =>
    let s := { s with candidate := some q }
    if recPre r.raw then preemptFor s l else s

/-- The launch whose remaining groups are placed next: the first placed. -/
def unfinished (s : State) : Option Launch :=
  (s.launches.filter (fun l => l.placed < threadsHere (levelsOf l.raw) && !l.parked)).foldl (fun (a : Option Launch) l =>
    match a with
    | none => some l
    | some b => if l.order < b.order then some l else some b) none

/-- The first head, in scan order, that fails its checks, with its code. -/
def failingHead (s : State) : Option (Nat × Nat) :=
  (scanOrder s).findSome? (fun q => match headState s q with
    | .fail c => some (q, c)
    | .none | .wait | .ready => none)

/-- The next group of a placed launch goes where it has room, and else waits; where none is left, the candidate (R268). -/
def placeNext (s : State) : State :=
  match unfinished s with
  | some l => (match roomFor s [] l with
    | some acc => startAtom s l acc
    | none => s)
  | none =>
    match candidateOf s with
    | none => s
    | some q => (match (queueAt s q).recs with
      | r :: _ => placeCandidate s q r
      | [] => s)

/-- SCHEDULER_PLACE: one action of the scheduler: a head that fails its checks ends, whatever waits for room (R265); else a
placement (R268). It places nothing while a checkpoint runs (R355). -/
def execSchedulerPlace (s : State) : Host.Outcome State Fault Refusal :=
  .next (if s.fw.running = some .ckpt then s else match failingHead s with
    | some (q, c) => (match (queueAt s q).recs with
      | r :: _ => failRecord (dropHead s q) r.id r.ctx c r.raw
      | [] => s)
    | none => placeNext s)

/-! ## Completion (R46, R47) -/

/-- Nothing of an entry of the retirement tracker is outstanding. -/
def trackerDone (s : State) (r : Retired) : Bool :=
  !s.inflight.any (fun x => x.owner = r.uid) && !s.pubs.any (fun p => p.owner = r.uid) && decide (r.lq = [])

/-- Every thread of the launch on this device has left the tracker. -/
def launchDone (s : State) (l : Launch) : Bool :=
  decide (threadsHere (levelsOf l.raw) ≤ l.placed) && decide (l.saved = []) &&
  !s.threads.any (fun e => e.2.launch = l.id) && !s.clusters.any (fun e => e.2.tracker.any (fun r => r.launch = l.id))

/-- The launch completes: the release of its launch latch, its bindings and barriers go, its status and outcome. -/
def completeLaunch (s : State) (l : Launch) : State :=
  let s := { s with bindings := s.bindings.filter (fun b => b.launch ≠ some l.id),
                    barriers := s.barriers.filter (fun b => b.launch ≠ l.id),
                    launches := s.launches.filter (fun x => x.id ≠ l.id) }
  setOutcome (writeStatus s l.ctx l.raw 2 0 0 0 l.id 0 0 0) l.id .completed

/-- RETIREMENT_ENTRY_FREE: an entry of a cluster's tracker is freed once its operations have performed; remote latches
its thread still held are broken; the launch completes with its last entry. Of a launch that RESTORE has written back none is freed
before its queue is enabled, which is when it goes on (R356). -/
def execRetirementEntryFree (cluster : Nat) (index : Nat) (s : State) : Host.Outcome State Fault Refusal :=
  let c := clusterOf s cluster
  .next (match c.tracker[index]? with
    | none => s
    | some r =>
      if trackerDone s r && !isParked s r.launch && !(launchOf s r.launch).any (fun l => rangeMoving s l.ctx (recStatus l.raw) 64) then
        let s := breakRemotes (setCluster s cluster { c with tracker := c.tracker.eraseIdx index }) r.tag r.remote
        match launchOf s r.launch with
        | some l => if launchDone s l then completeLaunch s l else s
        | none => s
      else s)

end Sys2Proof.Machine
end

