-- ==== Sys2Proof/Machine/Snapshot.lean ====
section
/-! DEFINITION. Broadcasts in the order of a die's side network (R310, R326), snapshots of the event counters (R325 to R327)
and power modes (R16 to R18, R332). -/

namespace Sys2Proof.Machine

/-! ## Broadcasts -/

/-- The die on whose side network a broadcast travels. -/
def bcastDie : Bcast → Nat
  | .accuse t _ _ | .retract t _ | .appeal t | .vote t _ _ => dieOfTile t
  | .snapshot d _ _ => d

/-- The next broadcast of a die in its network's order. -/
def nextBcast (s : State) (die : Nat) : Option Bcast := s.bcasts.find? (fun b => bcastDie b = die)

/-- A broadcast is posted on the side network, unless its station has been bypassed (R310). -/
def post (s : State) (sender : Nat) (b : Bcast) : State := if sender ∈ s.bypassed then s else { s with bcasts := s.bcasts ++ [b] }

/-- A broadcast is taken from the network. -/
def dropBcast (s : State) (b : Bcast) : State := { s with bcasts := s.bcasts.erase b }

/-- The tiles of a die, ascending. -/
def tilesOfDie (die : Nat) : List Nat := (List.range 40).map (fun i => 40 * die + i)

/-! ## Snapshots -/

/-- SNAPTRIG_WRITE: a host write of SNAPTRIG posts a trigger. -/
def execSnaptrigWrite (s : State) : Host.Outcome State Fault Refusal :=
  .next (driverArrives s 0x2000 0 (fun s => { s with trigPosted := s.trigPosted + 1 }))

/-- SNAPSHOT_TRIGGER_ARRIVE: a trigger reaches the sequencer on the host-port tile, and is dropped while that is fenced. -/
def execSnapshotTriggerArrive (s : State) : Host.Outcome State Fault Refusal :=
  .next (if s.trigPosted = 0 then s
    else { s with trigPosted := s.trigPosted - 1, trigRound := if hostReach s then s.trigRound + 1 else s.trigRound })

/-- SNAPSHOT_ROUND_END: with at least one trigger in the round the sequence number advances, and a snapshot is broadcast on the
network of each die, where it takes its place among the other broadcasts. -/
def execSnapshotRoundEnd (s : State) : Host.Outcome State Fault Refusal :=
  .next (if s.trigRound = 0 then s
    else if !hostReach s then { s with trigRound := 0 }
    else (List.range 4).foldl (fun s d => post s (tileOfPort 0) (.snapshot d s.snapSeq (tilesOfDie d)))
      { s with trigRound := 0, snapSeq := s.snapSeq + 1 })

/-- The counter pages of the blocks that a station serves (R322). -/
def pagesOn (tile : Nat) : List Nat := (List.range 669).filter (fun p => tileOfPage p = tile)

/-- One block copies its live counters, and writes SNAPCYC and SNAPSEQ (R322, R326). -/
def latchPage (s : State) (seq : IWord) (page : Nat) : State :=
  let snaps := (List.range 254).foldl (fun m k => tabSet 0 m (256 * page + k) (tabGet 0 s.counters (256 * page + k))) s.snaps
  let cyc := BitVec.ofNat 64 (tabGet 0 s.cycles (dieOfTile (tileOfPage page)))
  { s with snaps := tabSet 0 (tabSet 0 snaps (256 * page + 254) cyc) (256 * page + 255) (seq.zeroExtend 64) }

/-- The stations of a die that have still to apply a snapshot; the broadcast has been applied when there are none. -/
def setTodo (s : State) (die : Nat) (seq : IWord) (todo left : List Nat) : State :=
  let b := Bcast.snapshot die seq todo
  { s with bcasts := if left = [] then s.bcasts.erase b else s.bcasts.map (fun x => if x = b then .snapshot die seq left else x) }

/-- SNAPSHOT_APPLY: a station applies the next broadcast of its die, a snapshot; the blocks of a tile out of service latch
nothing. On die 0 a snapshot is ignored while its sender, the sequencer's station, is fenced (R310). -/
def execSnapshotApply (station : Nat) (s : State) : Host.Outcome State Fault Refusal :=
  .next (match nextBcast s (dieOfTile station) with
    | some (.snapshot die seq todo) =>
      if ¬ station ∈ todo then s
      else
        let s := setTodo s die seq todo (todo.filter (fun t => t ≠ station))
        if inService s station && (decide (die ≠ 0) || decide (tabGet 0 s.fence (tileOfPort 0) ≠ 1)) then
          (pagesOn station).foldl (fun s p => latchPage s seq p) s
        else s
    | some (.accuse _ _ _) | some (.retract _ _) | some (.appeal _) | some (.vote _ _ _) | none => s)

/-! ## Power -/

/-- The mode changes, and the host is told (R333). -/
def changeMode (s : State) (mode die cause : Nat) : State :=
  if s.power = mode then s
  else postEvent { s with power := mode } 5 die (BitVec.ofNat 64 mode) (BitVec.ofNat 64 cause)

/-- POWER is written: bits 1:0 select a mode; 3 is ignored (R332). -/
def writePower (s : State) (value : Word) : State := if fieldOf value 0 2 = 3 then s else changeMode s (fieldOf value 0 2) 0 0

/-- POWER_WRITE: the host selects a mode. -/
def execPowerWrite (value : Word) (s : State) : Host.Outcome State Fault Refusal :=
  .next (driverArrives s 0x1000 value (fun s => writePower s value))

/-- POWER_MODE_APPLY: a die takes up the selected mode at its next cycle boundary (R18). -/
def execPowerModeApply (die : Nat) (s : State) : Host.Outcome State Fault Refusal :=
  .next (if 4 ≤ die then s else { s with dieMode := tabSet 0 s.dieMode die s.power })

/-- COOLANT_LIMIT_EXIT: the device moves to Capped (R17). -/
def execCoolantLimitExit (die : Nat) (s : State) : Host.Outcome State Fault Refusal :=
  .next (if 4 ≤ die then s else changeMode s 2 die 1)

end Sys2Proof.Machine
end

