-- ==== Sys2Proof/Machine/Cupping.lean ====
section
/-! DEFINITION. Cupping (R306 to R316): heartbeats, observer tests, votes, the fence and what it ends (R13, R43, R313),
self-test, appeal and reinstatement. -/

namespace Sys2Proof.Machine

/-! ## Tiles and records -/

/-- A tile's entry of the fence table: 0 in service, 1 fenced, 2 appealing (R306). -/
def fenceOf (s : State) (t : Nat) : Nat := tabGet 0 s.fence t
/-- A tile's router runs. -/
def routerRuns (s : State) (t : Nat) : Bool := (tabFind s.silent t).isNone
/-- An observer's record of a neighbour. -/
def obsOf (s : State) (o n : Nat) : Obs := tabGet {} s.obs (160 * o + n)
/-- An observer's record is replaced. -/
def setObs (s : State) (o n : Nat) (r : Obs) : State := { s with obs := tabSet {} s.obs (160 * o + n) r }

/-! ## Flits on a link (R307, R309, R312) -/

/-- The links that a packet takes from one tile to another, none where no way leads there (R10, R312). -/
def linksOf (s : State) (a b : Nat) : List (Nat × Nat) :=
  let w := a :: (way s a b).getD []
  w.zip w.tail

/-- A packet on its way: an operation with its number, a walk, or the instruction fetch or the scalar load of a thread. -/
inductive OnWay where
  | op (uid : Nat)
  | walk (w : Walk)
  | load (thread : Nat)
deriving DecidableEq, Repr

/-- A packet with the tiles between which it travels. -/
structure Flow where
  what : OnWay
  src : Nat
  dest : Nat

/-- A packet and its return between two tiles. -/
def roundTrip (x : OnWay) (a b : Nat) : List Flow := [⟨x, a, b⟩, ⟨x, b, a⟩]

/-- The tiles that hold a physical range. -/
def homeTiles (a n : Nat) : List Nat := ((granulesOf a n).map (fun g => tileOfSlice (homeOf g.1))).dedup

/-- The tiles that hold virtual ranges of a thread's context. -/
def virtTiles (s : State) (o c : Nat) (l : List (Nat × Nat)) : List Nat :=
  (l.flatMap (fun r => (physOf s o c r.1 r.2).flatMap (fun p => homeTiles p.1 p.2))).dedup

/-- What a thread or a retired thread of a cluster has sent to a port and waits for, there and back (R336). -/
def queueFlows (cl : Nat) (lq : List LCmd) : List Flow :=
  lq.flatMap (fun c => match c.via with
    | some p => if c.begun then roundTrip (.op c.uid) (tileOfCluster cl) (tileOfPort p) else []
    | none => [])

/-- The accesses on this device of the commands of a link queue whose turn it is: those of their next step. -/
def commandFlows (s : State) (cl : Nat) (lq : List LCmd) : List Flow :=
  lq.flatMap (fun c => match findCmd s c.uid with
    | none => []
    | some x =>
      if x.stopping || !turnInQueue x then [] else
      let barrier := if rdLocal c.desc && decide (rdKind c.desc = 3) && !isColl c.instr && !isXfer c.instr then
        [barrierTile (rdAddr c.desc) (rdLvl c.desc) (rdValue c.desc)] else []
      let homes := (stepRanges s x).flatMap (fun r => virtTiles s x.owner r.1 [r.2])
      (barrier ++ homes).dedup.flatMap (roundTrip (.op c.uid) (tileOfCluster cl)))

/-- The reads of a thread's fetches, there and back. -/
def fetchFlows (cl : Nat) (t : Thread) : List Flow :=
  (threadFetches t).flatMap (fun x => match x.2.2.state with
    | .sent pa => roundTrip (.op x.2.2.id) (tileOfCluster cl) (tileOfSlice (homeOf pa))
    | .walk | .data _ | .noPage | .bad => [])

/-- The reads of a walk, there and back. -/
def walkFlows (s : State) (w : Walk) : List Flow :=
  (walkReads s (some (tileOfCluster w.cl)) 0 w.ctx (65536 * w.page)).flatMap (fun x => match x.1 with
    | some t => roundTrip (.walk w) t (tileOfSlice (homeOf x.2))
    | none => [])

/-- The physical addresses of an instruction fetch that a thread makes next, and of the scalar load it then makes. -/
def scalarReads (s : State) (tid : Nat) (t : Thread) : List Nat :=
  if !canRun t then [] else
  match (xlate s (tid / 4) t.uid 0 t.ctx t.area t.pc.toNat needX).1 with
  | .fail | .wait => []
  | .ok pa => pa :: (match decode (fetchWord s t pa) with
    | .ok (.ld _ a b w _ off) =>
      (match (xlate s (tid / 4) t.uid t.uid t.ctx t.area (effAddr t a b off (ldBytes w)).toNat needLd).1 with
       | .ok x => [x]
       | .fail | .wait => [])
    | _ => [])

/-- The virtual ranges that the entry at vcp of a thread reads or updates at their homes while it stands there: elements of a returning
VAMO and of a VWTC, the latch of an acquire that has not joined its waiters and of a release, and what a hand-off reads. -/
def headRanges (s : State) (t : Thread) (e : Entry) : List (Nat × Nat) :=
  match e.instr with
  | .vwtc _ _ b p _ w64 =>
    let n := if w64 then 8 else 4
    ((span e.k (nElems e.cap)).filter (fun i => maskBit t p.toNat i && decide (¬ i ∈ e.sat))).map (fun i => ((atomEa t e.cap b n i).toNat, n))
  | .syncAcq _ _ => if hasJoined s e then [] else [(e.cap.xa.toNat, 8)]
  | .syncRel _ _ => [(e.cap.xa.toNat, 8)]
  | .hresSet _ _ | .lnch _ _ => [(e.cap.xa.toNat, 160)]
  | .linkXfer _ _ _ _ _ | .linkLacq _ | .linkLrel _ | .linkLsig _ => [(e.cap.xb.toNat, 64)]
  | .collAred _ _ | .collRsct _ _ | .collAgat _ _ => [(e.cap.xa.toNat, 64)]
  | i => match amoOf i with
    | none => []
    | some m =>
      let n := if m.w64 then 8 else 4
      if m.ret then ((nextActive t m.p.toNat e.k (nElems e.cap)).map (fun i => ((atomEa t e.cap m.b n i).toNat, n))).toList else []

/-- The barrier that the entry at vcp acts on, while its arrival has not been made. -/
def headBarrier (s : State) (t : Thread) (e : Entry) : List Nat :=
  let at' (l : BitVec 4) : List Nat :=
    let g := groupOf s t l.toNat
    if g.2 && e.phase.isNone then [barrierTile t.launch l.toNat g.1] else []
  match e.instr with
  | .syncBarr _ l | .syncArrv _ l | .syncExpt _ _ l => at' l
  | _ => []

/-- The packets of the entry at vcp of a thread. -/
def headFlows (s : State) (tid : Nat) (t : Thread) : List Flow :=
  match t.vq with
  | [] => []
  | e :: _ =>
    if t.stopReq || t.stopped || t.deferred.isSome then []
    else (headBarrier s t e ++ virtTiles s t.uid t.ctx (headRanges s t e)).flatMap (roundTrip (.op e.uid) (tileOfCluster (tid / 4)))

/-- The packets of the context-save engine for a thread that is to be saved. -/
def saveFlows (s : State) (tid : Nat) (t : Thread) : List Flow :=
  if !t.stopped || !drained s t then [] else
  (((areaParts (clusterOf s (tid / 4)) t).flatMap (fun p => homeTiles (t.area + p.1) p.2.length)).dedup).flatMap
    (roundTrip (.op t.uid) (tileOfCluster (tid / 4)))

/-- The tiles at which a received host access performs. -/
def hostTiles (s : State) : HostOp → List Nat
  | .tail q _ | .enable q _ | .disable q => [tileOfSlice (homeOf (controlBlock q))]
  | .write bar off l _ => if bar = 0 then wmkTiles off else ((barPa s bar off).map (fun a => homeTiles a l.length)).getD []
  | .read bar off n => if bar = 0 then wmkTiles off else ((barPa s bar off).map (fun a => homeTiles a n)).getD []
where
  wmkTiles (off : Nat) : List Nat := if 0x20000 ≤ off ∧ off < 0x21000 then [wmkTile (off % 2048 / 8)] else []

/-- The packets of a received host access, which go back for a read alone. -/
def hostFlows (s : State) (x : HostReq) : List Flow :=
  (hostTiles s x.op).flatMap (fun d => if isHostWrite x.op then [⟨.op x.uid, tileOfPort 0, d⟩] else roundTrip (.op x.uid) (tileOfPort 0) d)

/-- The packets of a thread. -/
def threadFlows (s : State) (tid : Nat) (t : Thread) : List Flow :=
  let cl := tid / 4
  fetchFlows cl t ++ queueFlows cl t.lq ++ commandFlows s cl t.lq ++ headFlows s tid t ++ saveFlows s tid t ++
  (scalarReads s tid t).flatMap (fun pa => roundTrip (.load tid) (tileOfCluster cl) (tileOfSlice (homeOf pa)))

/-- The packets that are on their way: requests, latch releases and publications to their homes, and the host's writes; walks, the
host's reads, and what threads and their link commands read or update and wait for, there and back. What performs in one step here
is on its way until that step. An access of a peer performs in the step of its arrival, and is on its way before it on the peer's link
(log 98). -/
def flows (s : State) : List Flow :=
  s.inflight.map (fun r => ⟨.op r.uid, tileOfCluster r.cluster, tileOfSlice (homeOf (reqSpan r.kind).1)⟩) ++
  s.releases.map (fun r => ⟨.op r.uid, tileOfCluster (r.thread / 4), tileOfSlice (homeOf r.pa)⟩) ++
  s.pubs.flatMap (fun p => ((tileOfOwner s p.owner).map (fun t => (⟨.op p.uid, t, wmkTile p.wmk⟩ : Flow))).toList) ++
  s.threads.flatMap (fun e => threadFlows s e.1 e.2) ++
  s.clusters.flatMap (fun e => e.2.tracker.flatMap (fun r => queueFlows e.1 r.lq ++ commandFlows s e.1 r.lq)) ++
  s.walks.flatMap (walkFlows s) ++ s.posted.flatMap (hostFlows s)

/-- The packets on their way that take the link from one router to another. -/
def onLink (s : State) (u v : Nat) : List OnWay :=
  ((flows s).filter (fun x => (u, v) ∈ linksOf s x.src x.dest)).map (fun x => x.what)

/-- A packet is dropped: what it belongs to never performs, and has no return (R309). -/
def losePacket (s : State) : OnWay → State
  | .op uid => { s with dropped := setAdd s.dropped uid, posted := s.posted.filter (fun x => x.uid ≠ uid) }
  | .load tid => modThread s tid (fun t => { t with hold := .lost })
  | .walk w => { s with walks := s.walks.map (fun x => if x = w then { x with lost := true } else x) }

/-- A router drops a flit of a neighbour, and with it the packet that it belongs to, where that is one of `ways`, those that take the link
(R309, R323 DROPS; log 98). -/
def dropFlit (s : State) (tile : Nat) (ways : List OnWay) : State :=
  let s := bump s (480 + tile) 1 1
  match ways[Config.flitOf s.tick]? with
  | some x => losePacket s x
  | none => s

/-- A header that its code corrects is counted and changes nothing (R307, R323 HDR_CE). -/
def correctHeader (s : State) (tile sender : Nat) : State :=
  if Config.headerFixed s.tick tile sender then bump s (480 + tile) 3 1 else s

/-- The flits of a neighbour in the window pass what its credits and the buffer of 32 flits allow (R309). -/
def overLimit (r : Obs) : Bool := r.credits + 32 < r.flits

/-- A heartbeat flit reaches an observing router; it counts in the window in which it arrives, unless it is over the limit.
HB holds at most 3. -/
def receiveBeat (s : State) (tile sender : Nat) : State :=
  let r := obsOf s tile sender
  let r := { r with flits := min (r.flits + 1) 65535 }
  if ¬ sender ∈ neighbours tile ∨ 160 ≤ tile ∨ !routerRuns s tile then s
  else if overLimit r then bump (setObs s tile sender r) (480 + tile) 1 1
  else correctHeader (setObs s tile sender { r with hb := min (r.hb + 1) 3 }) tile sender

/-- A heartbeat flit on its way arrives. -/
def deliverBeat (s : State) (b : Beat) : State := receiveBeat { s with beats := s.beats.erase b } b.observer b.sender

/-! ## Observer tests (R308, R309) -/

/-- A neighbour has babbled in the window (R309): the cause it gives, 1 by quota or heartbeats, 2 a malformed header. -/
def babbleCause (r : Obs) : Option Nat :=
  if r.malformed then some 2 else if overLimit r ∨ 2 < r.hb then some 1 else none

/-- The test of one neighbour at the end of a window, with the broadcasts it posts; a vote for an appealing tile falls
when CLEAN reaches 64 and is withdrawn at a bad window (R308, R315). -/
def observe (s : State) (o n : Nat) : State :=
  let r := obsOf s o n
  let miss := if r.hb = 0 then min (r.miss + 1) 3 else 0
  let babble := babbleCause r
  let bad := decide (miss = 3) || babble.isSome
  let clean := if bad then 0 else min (r.clean + 1) 127
  let accuses := bad && !r.acc
  let cause := if accuses then babble.getD 0 else r.cause
  let retracts := (r.acc || accuses) && decide (8 ≤ clean)
  let s := setObs s o n { miss := miss, clean := clean, acc := (r.acc || accuses) && !retracts, cause := cause }
  let s := if accuses then bump (post s o (.accuse n o cause)) (480 + o) 2 1 else s
  let s := if retracts then post s o (.retract n o) else s
  if fenceOf s n = 2 then
    let s := if r.clean < 64 ∧ clean = 64 then post s o (.vote n o false) else s
    if bad && decide (64 ≤ r.clean) then post s o (.vote n o true) else s
  else s

/-- The tests of one router: its neighbours that are not fenced. -/
def observeAll (s : State) (o : Nat) : State :=
  ((neighbours o).filter (fun n => fenceOf s n ≠ 1)).foldl (fun s n => observe s o n) s

/-- A tile's own state: appealing from the moment its self-test passes (R314). -/
def ownState (s : State) (t : Nat) : Nat := if t ∈ s.appealing then 2 else fenceOf s t
/-- A tile sends heartbeats: its router runs, and it is in service or appealing. -/
def sendsBeats (s : State) (t : Nat) : Bool := routerRuns s t && decide (ownState s t ≠ 1)

/-- A tile sends one heartbeat flit on each of its links, with its own state and its next sequence number. -/
def sendBeats (s : State) (t : Nat) : State :=
  let q := tabGet 0 s.beatSeq t
  let l := (neighbours t).map (fun n => ({ observer := n, sender := t, fence := ownState s t, seq := q } : Beat))
  bump { s with beats := s.beats ++ l, beatSeq := tabSet 0 s.beatSeq t (q + 1) } (480 + t) 0 l.length

/-- HEARTBEAT_TICK: the next tick of a die, once its cycle has been reached: the heartbeats of the tick before have arrived,
every router that runs tests its neighbours, then every tile in service or appealing sends its heartbeats; a tick at a multiple
of 65,536 is skipped (R307, R308). -/
def execHeartbeatTick (die : Nat) (s : State) : Host.Outcome State Fault Refusal :=
  let k := tabGet 0 s.ticks die + 1
  .next (if tabGet 0 s.cycles die < 4096 * k ∨ 4 ≤ die then s
    else
      let s := { s with ticks := tabSet 0 s.ticks die k }
      if k % 16 = 0 then s
      else
        let s := (s.beats.filter (fun b => dieOfTile b.sender = die)).foldl deliverBeat s
        let s := ((tilesOfDie die).filter (routerRuns s)).foldl observeAll s
        ((tilesOfDie die).filter (sendsBeats s)).foldl sendBeats s)

/-- HEARTBEAT_RECEIVE: a heartbeat flit of a neighbour reaches a router: the next one on its way, or one too many, which its router has
sent beside those of its ticks and counts (R323 FLITS). -/
def execHeartbeatReceive (tile sender : Nat) (s : State) : Host.Outcome State Fault Refusal :=
  .next (match s.beats.find? (fun b => b.observer = tile ∧ b.sender = sender) with
    | some b => deliverBeat s b
    | none => receiveBeat (if sender ∈ neighbours tile ∧ tile < 160 then bump s (480 + sender) 0 1 else s) tile sender)

/-- ROUTER_FLIT_RECEIVE: a flit of a neighbour reaches a router that has returned `credits` credits since the last one. A
flit over the limit, one of a malformed packet, and one of a fenced neighbour are dropped (R309, R312). -/
def execRouterFlitReceive (tile sender : Nat) (credits : Nat) (malformed : Bool) (s : State) :
    Host.Outcome State Fault Refusal :=
  let r := obsOf s tile sender
  let r := { r with flits := min (r.flits + 1) 65535, credits := r.credits + credits, malformed := r.malformed || malformed }
  let ways := onLink s sender tile
  .next (if ¬ sender ∈ neighbours tile ∨ 160 ≤ tile ∨ !routerRuns s tile ∨ !routerRuns s sender then s
    else
      let s := bump s (480 + sender) 0 1
      if fenceOf s sender = 1 then bump s (480 + tile) 1 1
      else
        let s := setObs s tile sender r
        if malformed || overLimit r then dropFlit s tile ways else correctHeader s tile sender)

/-! ## What a fence ends (R13, R43, R313) -/

/-- Launches that have threads, or entries of a retirement tracker, on the clusters of a tile: identifier and flat index
of the thread that counts as lost first. R270 does not say which that is where one fence loses several: here it is that of the lowest
slot, and a retired one only where no thread of the launch is left on the tile (DESIGN CHOICE, log 110). -/
def launchesOn (s : State) (tile : Nat) : List (Nat × Nat) :=
  let live := (s.threads.filter (fun e => tileOfCluster (e.1 / 4) = tile)).map (fun e => (e.2.launch, e.2.flat))
  let gone := (s.clusters.filter (fun e => tileOfCluster e.1 = tile)).flatMap (fun e =>
    e.2.tracker.map (fun r => (r.launch, r.tag.toNat % 2 ^ 24)))
  (live ++ gone).foldl (fun l x => if l.any (fun y => y.1 = x.1) then l else l ++ [x]) []

/-- Of the latch releases of a tile's threads those that another router had accepted perform (R313; log 33): such a release had left
its cluster, since nothing that it waits for was outstanding. -/
def settleReleasesOf (s : State) (tile : Nat) : State :=
  (s.releases.filter (fun r => tileOfCluster (r.thread / 4) = tile && Config.accepted r.uid && releaseReady s r.owner r.uid)).foldl
    performRelease s

/-- A request had left its cluster: nothing that a strong access waits for was outstanding (R235). -/
def hadLeft (s : State) (r : Req) : Bool := !r.strong || !requestWaits s r

/-- Requests and publications of the tile's clusters: one that had left its cluster and that another router had accepted still performs,
and belongs to no launch any more; any other is dropped, and so are the walks of the tile's clusters (R313; log 33). -/
def settleRequestsOf (s : State) (tile : Nat) : State :=
  let s := settleReleasesOf s tile
  { s with
    inflight := s.inflight.filterMap (fun (r : Req) =>
      if tileOfCluster r.cluster ≠ tile then some r
      else if Config.accepted r.uid && hadLeft s r then some { r with launch := 0 } else none),
    pubs := s.pubs.filterMap (fun (p : Pub) =>
      if tileOfOwner s p.owner ≠ some tile then some p
      else if Config.accepted p.uid && releaseReady s p.owner p.uid then some { p with launch := 0 } else none),
    walks := s.walks.filter (fun w => tileOfCluster w.cl ≠ tile) }

/-- Every launch with work on the tile's clusters ends with domain loss. -/
def endLaunchesOn (s : State) (tile : Nat) : State :=
  (launchesOn s tile).foldl (fun (s : State) (x : Nat × Nat) => endLaunch s x.1 4 tile x.2 0 0 0) (settleRequestsOf s tile)

/-- Latch releases bound for a slice of the tile are lost, and their threads hold the latch no more; publications bound for it come back
fenced, and their commands fail (R223, R313, R320). -/
def settleReleasesTo (s : State) (tile : Nat) : State :=
  let gone := s.releases.filter (fun r => tileOfSlice (homeOf r.pa) = tile)
  let pubs := s.pubs.filter (fun p => wmkTile p.wmk = tile)
  let s := gone.foldl (fun (s : State) r => { s with
    releases := s.releases.erase r,
    threads := s.threads.map (fun (e : Nat × Thread) =>
      (e.1, if e.2.uid = r.owner then { e.2 with latches := e.2.latches.erase r.addr } else e.2)) }) s
  pubs.foldl (fun (s : State) p => modCmd { s with pubs := s.pubs.erase p } p.uid (fun c => { c with failed := 3 })) s

/-- Received host accesses bound for a slice of the tile: a write of a queue's control block or of a watermark is lost, of a write of
memory what goes there, and a read completes with Completer Abort (R223, R313, R331). -/
def settleHostTo (s : State) (tile : Nat) : State :=
  let hits (x : HostReq) : Bool := decide (tile ∈ hostTiles s x.op)
  let after (x : HostReq) : Option HostReq :=
    if !hits x then some x else
    match x.op with
    | .write bar _ _ _ => if bar = 0 then none else some { x with gone := x.gone ++ [tile] }
    | .tail _ _ | .enable _ _ | .disable _ | .read _ _ _ => none
  { s with
    hostReads := s.hostReads ++ (s.posted.filter (fun x => !isHostWrite x.op && hits x)).map (fun _ => .abort),
    posted := s.posted.filterMap after }

/-- What is bound for a slice of the tile: a store, write-back or atomic on its way is lost, and a fetch comes back fenced
(R313). -/
def settleRequestsTo (s : State) (tile : Nat) : State :=
  let back (f : Fetch) : Fetch := match f.state with
    | .sent pa => if tileOfSlice (homeOf pa) = tile then { f with state := .bad } else f
    | .walk | .data _ | .noPage | .bad => f
  { s with
    inflight := s.inflight.filter (fun r => tileOfSlice (homeOf (reqSpan r.kind).1) ≠ tile),
    threads := s.threads.map (fun (e : Nat × Thread) => (e.1, { e.2 with
      recomps := e.2.recomps.map (fun (r : Recomp) => { r with fetches := r.fetches.map back }) })) }

/-- A host write reaches the registers of the event ring, which alone of the driver area are held on the tile of the host port
(R13, R332). -/
def hitsRing : HostOp → Bool
  | .write bar off l _ => decide (bar = 0) && rangesMeet off l.length 0x3000 0x40
  | .tail _ _ | .enable _ _ | .disable _ | .read _ _ _ => false

/-- A host access that has been received and has not performed, when the tile of the host port is fenced: a read completes with
Completer Abort, and a write performs if another router had accepted it (R13, R313; log 33). One to the event ring is bound for
that tile itself, and is lost. -/
def settleHost (s : State) : State :=
  { s with
    hostReads := s.hostReads ++ (s.posted.filter (fun x => !isHostWrite x.op)).map (fun _ => .abort),
    posted := s.posted.filter (fun x => isHostWrite x.op && Config.accepted x.uid && !hitsRing x.op) }

/-- Waiters on latches homed on a tile: each acquire ends as at a home that is down. -/
def failWaitersOn (s : State) (tile : Nat) : State :=
  let gone := s.waiters.filter (fun w => tileOfSlice (homeOf w.pa) = tile)
  gone.foldl (fun (s : State) (w : Waiter) =>
    if w ∈ s.waiters then failWaiter { s with waiters := s.waiters.erase w } w causeUnavailable 3 else s) s

/-- Barrier state homed on a tile: every launch with a group using it ends. Where it has lost no thread, R270's FLAT of the thread lost
first has no value, and is 0 here (DESIGN CHOICE, log 110). -/
def endBarriersOn (s : State) (tile : Nat) : State :=
  let gone := (s.barriers.filter (fun b => tileOfSlice (Config.barrierHome b.launch b.lvl b.group % 160) = tile)).map (fun b => b.launch)
  gone.foldl (fun (s : State) id => endLaunch s id 4 tile 0 0 0 0) s

/-- Launch queues homed on a tile: disabled, their records failed, and a queue-error event each. -/
def failQueuesOn (s : State) (tile : Nat) : State :=
  ((List.range 64).filter (fun q => queueHomedAt q tile)).foldl (fun (s : State) q => queueError (disableQueue s q) q 2) s

/-- Commands that left by a port end with code 5, a peer's acquire that came by it waits no more, and a collective with a
member beyond it is lost (R330, R348). -/
def failPort (s : State) (port : Nat) : State :=
  let s := modQueues s (fun l => l.map (fun c => if c.via = some port then { c with failed := 5 } else c))
  let s := { s with waiters := s.waiters.filter (fun w => w.port ≠ some port) }
  (s.colls.filter (fun c => (collPeers c).any (fun o => decide (routeOf s o = some port)))).foldl
    (fun s c => loseColl s c 9) s

/-- A port goes down: its link must train again, and the host is told (R13, R330, R333). What it held to send is gone. The link
of the host port stays up when the port's tile is fenced (R13). -/
def portFails (s : State) (port cause : Nat) : State :=
  let p := tabGet {} s.ports port
  let p := { p with trained := p.trained && decide (port = 0 ∧ cause = 0), replay := [], waiting := [], sent := [] }
  let s := failPort { s with ports := tabPut s.ports port p } port
  postEvent s 4 (dieOfTile (tileOfPort port)) (BitVec.ofNat 64 (640 + port)) (BitVec.ofNat 64 cause)

/-- The port interfaces of a tile. -/
def portsOn (tile : Nat) : List Nat := (List.range 29).filter (fun p => tileOfPort p = tile)

/-- Bit b of a tally entry stands for the b-th neighbour (R306). -/
def tallyBit (n sender : Nat) : Nat := 2 ^ ((neighbours n).idxOf sender)
/-- The bit is set or cleared. -/
def putBit (w bit : Nat) (on : Bool) : Nat := if on then w ||| bit else (if w &&& bit = 0 then w else w - bit)

/-- A fenced tile's bits leave every tally of its neighbours (R311). -/
def strike (s : State) (tile : Nat) : State :=
  (neighbours tile).foldl (fun s n => { s with
    tally := tabSet 0 s.tally n (putBit (tabGet 0 s.tally n) (tallyBit n tile) false),
    votes := tabSet 0 s.votes n (putBit (tabGet 0 s.votes n) (tallyBit n tile) false) }) s

/-- A tile is fenced (R312) and the work it touches ends (R313). The next drain of its die is skipped. `cycle` is that of the
broadcast that decided it. -/
def fenceTile (s : State) (tile cause cycle : Nat) : State :=
  let die := dieOfTile tile
  let d := tabGet {} s.drains die
  let s := { s with
    fence := tabSet 0 s.fence tile 1, appealing := setDel s.appealing tile, tally := tabSet 0 s.tally tile 0, votes := tabSet 0 s.votes tile 0,
    appeals := tabSet 0 s.appeals tile (min (tabGet 0 s.appeals tile + 1) 7),
    drains := tabSet {} s.drains die { d with skip := true },
    fw := { s.fw with fenced := s.fw.fenced || decide (s.fw.running = some .ckpt) } }
  let s := strike s tile
  let s := postRecord s { eventOf s 2 die (BitVec.ofNat 64 tile) (BitVec.ofNat 64 cause) with cycle := BitVec.ofNat 64 cycle }
  let s := endLaunchesOn s tile
  let s := failWaitersOn s tile
  let s := endBarriersOn s tile
  let s := failQueuesOn s tile
  let s := settleHostTo (settleReleasesTo (settleRequestsTo s tile) tile) tile
  let s := if tile = tileOfPort 0 then settleHost s else s
  (portsOn tile).foldl (fun s p => portFails s p 0) s

/-- All SRAM of a tile is zero: its slices, the control blocks of launch queues that lie there (R262, R331) included, and what its clusters
hold. The outcomes of a queue's launches and its identifier count, which no host access reads, stay (DESIGN CHOICE, log 131). -/
def zeroTile (s : State) (tile : Nat) : State :=
  let mine (a : Nat) : Bool := decide (a < Config.sramEnd) && decide (tileOfSlice (homeOf a) = tile)
  { s with mem := s.mem.filter (fun e => !mine e.1), poison := s.poison.filter (fun g => !mine (32 * g)),
           clusters := s.clusters.filter (fun e => tileOfCluster e.1 ≠ tile),
           queues := s.queues.map (fun (e : Nat × LQueue) => (e.1,
             if tileOfSlice (homeOf (controlBlock e.1)) = tile then { e.2 with en := false, tail := 0, head := 0, ring := 0 } else e.2)) }

/-! ## Votes (R310, R311) -/

/-- In-service neighbours of a tile. -/
def liveNeighbours (s : State) (n : Nat) : List Nat := (neighbours n).filter (inService s)
/-- T(m) for a tile. -/
def threshold (s : State) (n : Nat) : Nat := (liveNeighbours s n).length / 2 + 1
/-- Bits of in-service neighbours in a tally entry. -/
def tallyCount (s : State) (w n : Nat) : Nat := ((liveNeighbours s n).filter (fun u => w &&& tallyBit n u ≠ 0)).length
/-- The tally of a tile in service calls for its fence, which is not yet decided. -/
def fenceDue (s : State) (n : Nat) : Bool :=
  inService s n && decide (threshold s n ≤ tallyCount s (tabGet 0 s.tally n) n) &&
  !(tabGet {} s.drains (dieOfTile n)).pending.any (fun p => p.1 = n)

/-- The cause that the lowest accuser of a tile in service holds against it. -/
def accusedOf (s : State) (n : Nat) : Nat :=
  (((liveNeighbours s n).find? (fun u => tabGet 0 s.tally n &&& tallyBit n u ≠ 0)).map (fun u => (obsOf s u n).cause)).getD 0

/-- After a fence every other tile of the die is tested again, ascending, with fuel for the tiles there are (R311). -/
def retest : Nat → State → Nat → State
  | 0, s, _ => s
  | f + 1, s, die =>
    match (tilesOfDie die).find? (fenceDue s) with
    | some n => retest f (fenceTile s n (accusedOf s n) (tabGet 0 s.cycles die)) die
    | none => s

/-- The reinstatement tally of an appealing tile holds T(m) votes of in-service neighbours (R316). -/
def voteDue (s : State) (n : Nat) : Bool :=
  decide (fenceOf s n = 2) && decide (threshold s n ≤ tallyCount s (tabGet 0 s.votes n) n)

/-- A tile is in service again, empty (R316): its counters start from zero (R324), and with the host port the event ring
takes its reset values and the tile-reinstated record waits until the ring is set up (R13). Of a record that still waits from an
earlier reinstatement of that tile the spec says nothing: the new one takes its place, and it is not counted in OVF (DESIGN
CHOICE, log 97). -/
def reinstate (s : State) (tile : Nat) : State :=
  let pages := pagesOn tile
  let s := zeroTile s tile
  let s := { s with
    fence := tabSet 0 s.fence tile 0, tally := tabSet 0 s.tally tile 0, votes := tabSet 0 s.votes tile 0,
    bypassed := setDel s.bypassed tile,
    counters := s.counters.filter (fun e => ¬ e.1 / 256 ∈ pages) }
  let ev := eventOf s 3 (dieOfTile tile) (BitVec.ofNat 64 tile) 0
  if tile = tileOfPort 0 then
    { s with driver := s.driver.filter (fun e => ¬ (0x3000 ≤ e.1 ∧ e.1 < 0x3040)), evHeld := some ev }
  else postEvent s 3 (dieOfTile tile) (BitVec.ofNat 64 tile) 0

/-- Appealing tiles of a die that hold their votes return to service, ascending, with fuel for the tiles there are (R316). -/
def readmit : Nat → State → Nat → State
  | 0, s, _ => s
  | f + 1, s, die =>
    match (tilesOfDie die).find? (voteDue s) with
    | some n => readmit f (reinstate s n) die
    | none => s

/-- The tests that follow a fence: of every tile in service (R311), and of the votes, whose threshold it changes (R316). -/
def afterFence (s : State) (die : Nat) : State := readmit 40 (retest 40 s die) die

/-- Step 2 of R311 for a tile: it is fenced when its tally calls for it, now or when the drain in progress ends (R312). -/
def testTally (s : State) (tile cause : Nat) : State :=
  let die := dieOfTile tile
  let d := tabGet {} s.drains die
  let cycle := tabGet 0 s.cycles die
  if !fenceDue s tile then s
  else if d.active then { s with drains := tabSet {} s.drains die { d with pending := d.pending ++ [(tile, cause, cycle)] } }
  else afterFence (fenceTile s tile cause cycle) die

/-- ACCUSATION_APPLY: the next broadcast of the die is an accusation; its bit is set, and the tile is fenced when its
tally reaches T(m) (R311). One from a fenced sender is ignored (R310). -/
def execAccusationApply (tile accuser : Nat) (s : State) : Host.Outcome State Fault Refusal :=
  .next (match nextBcast s (dieOfTile tile) with
    | some (.accuse t o cause) =>
      if t ≠ tile ∨ o ≠ accuser then s
      else
        let s := dropBcast s (.accuse t o cause)
        if fenceOf s o = 1 then s
        else
          testTally { s with tally := tabSet 0 s.tally t (putBit (tabGet 0 s.tally t) (tallyBit t o) true) } t cause
    | some (.retract _ _) | some (.appeal _) | some (.vote _ _ _) | some (.snapshot _ _ _) | none => s)

/-- RETRACTION_APPLY: the next broadcast is a retraction; its bit is cleared, and the tally tested (R311). -/
def execRetractionApply (tile accuser : Nat) (s : State) : Host.Outcome State Fault Refusal :=
  .next (match nextBcast s (dieOfTile tile) with
    | some (.retract t o) =>
      if t ≠ tile ∨ o ≠ accuser then s
      else
        let s := dropBcast s (.retract t o)
        if fenceOf s o = 1 then s
        else
          let s := { s with tally := tabSet 0 s.tally t (putBit (tabGet 0 s.tally t) (tallyBit t o) false) }
          testTally s t (accusedOf s t)
    | some (.accuse _ _ _) | some (.appeal _) | some (.vote _ _ _) | some (.snapshot _ _ _) | none => s)

/-- TOKEN_BYPASS: a station has held the token too long; what it posts from here on is lost (R310). -/
def execTokenBypass (tile : Nat) (s : State) : Host.Outcome State Fault Refusal :=
  .next (if 160 ≤ tile then s else { s with bypassed := setAdd s.bypassed tile })

/-- TILE_FALLS_SILENT: a tile's router stops: no heartbeat or flit leaves it from here on (R307). -/
def execTileFallsSilent (tile : Nat) (s : State) : Host.Outcome State Fault Refusal :=
  .next (if 160 ≤ tile ∨ !routerRuns s tile then s else { s with silent := tabPut s.silent tile s.uid })

/-! ## Drains (R307, R312) -/

/-- PERIODIC_DRAIN: the drain of a die starts at the latest multiple of 65,536 that its clock has reached, unless a fence
has it skipped. -/
def execPeriodicDrain (die : Nat) (s : State) : Host.Outcome State Fault Refusal :=
  let d := tabGet {} s.drains die
  let k := tabGet 0 s.cycles die / 65536
  .next (if k ≤ d.round ∨ d.active ∨ 4 ≤ die then s
    else
      let d' : Drain := if d.skip then { d with skip := false, round := k } else { d with active := true, round := k }
      { s with drains := tabSet {} s.drains die d' })

/-- DRAIN_END: the drain ends; every router counts it, and fences decided during it take effect (R312, R323). -/
def execDrainEnd (die : Nat) (s : State) : Host.Outcome State Fault Refusal :=
  let d := tabGet {} s.drains die
  .next (if !d.active then s
    else
      let s := { s with drains := tabSet {} s.drains die { d with active := false, pending := [] } }
      let s := (tilesOfDie die).foldl (fun s t => bump s (480 + t) 4 1) s
      let s := d.pending.foldl (fun s p => if inService s p.1 then fenceTile s p.1 p.2.1 p.2.2 else s) s
      if d.pending = [] then s else afterFence s die)

/-- BUSY_LANE_ROTATE: the die's clock reaches its next multiple of 65,536, and with it the busy lane group of Capped mode
moves up by one (R375). -/
def execBusyLaneRotate (die : Nat) (s : State) : Host.Outcome State Fault Refusal :=
  .next (if 4 ≤ die then s
    else { s with cycles := tabPut s.cycles die ((tabGet 0 s.cycles die / 65536 + 1) * 65536) })

/-! ## Self-test, appeal, reinstatement (R314 to R316) -/

/-- SELF_TEST_COMPLETE: the self-test of a fenced tile that still runs ends; all its SRAM is zero. A failed tile stays fenced;
one that passes sets its own state to appealing and sends heartbeats again, and posts an appeal, with which its station rejoins
the ring, unless its appeal count has reached 4 (R314). -/
def execSelfTestComplete (tile : Nat) (pass : Bool) (s : State) : Host.Outcome State Fault Refusal :=
  .next (if fenceOf s tile ≠ 1 ∨ !routerRuns s tile ∨ tile ∈ s.testFailed ∨ tile ∈ s.appealing then s
    else
      let s := zeroTile s tile
      if !pass then { s with testFailed := setAdd s.testFailed tile }
      else
        let s := { s with appealing := setAdd s.appealing tile }
        if 4 ≤ tabGet 0 s.appeals tile then s
        else post { s with bypassed := setDel s.bypassed tile } tile (.appeal tile))

/-- APPEAL_APPLY: the next broadcast is an appeal; the tile's entry becomes 2, and its neighbours clear their records of
it (R315). -/
def execAppealApply (tile : Nat) (s : State) : Host.Outcome State Fault Refusal :=
  .next (match nextBcast s (dieOfTile tile) with
    | some (.appeal t) =>
      if t ≠ tile then s
      else
        let s := dropBcast s (.appeal t)
        if fenceOf s t ≠ 1 then s
        else (neighbours t).foldl (fun s o => setObs s o t {})
          { s with fence := tabSet 0 s.fence t 2, appealing := setDel s.appealing t }
    | some (.accuse _ _ _) | some (.retract _ _) | some (.vote _ _ _) | some (.snapshot _ _ _) | none => s)

/-- REINSTATEMENT_VOTE_APPLY: the next broadcast is a vote or its withdrawal; with T(m) votes the appealing tile returns
to service (R315, R316). -/
def execReinstatementVoteApply (tile voter : Nat) (withdraw : Bool) (s : State) : Host.Outcome State Fault Refusal :=
  .next (match nextBcast s (dieOfTile tile) with
    | some (.vote t o w) =>
      if t ≠ tile ∨ o ≠ voter ∨ w ≠ withdraw then s
      else
        let s := dropBcast s (.vote t o w)
        if fenceOf s o = 1 ∨ fenceOf s t ≠ 2 then s
        else
          readmit 40 { s with votes := tabSet 0 s.votes t (putBit (tabGet 0 s.votes t) (tallyBit t o) (!w)) } (dieOfTile t)
    | some (.accuse _ _ _) | some (.retract _ _) | some (.appeal _) | some (.snapshot _ _ _) | none => s)

end Sys2Proof.Machine
end

