-- ==== Sys2Proof/Machine/Shake.lean ====
section
/-! DEFINITION. SHAKE256 with 512 bits of output (FIPS 202), which R353 names for M. R353 gives no text of the function itself: it is
that of the standard (PRESUMED, log 130). -/

namespace Sys2Proof.Machine

/-- A Keccak state: 25 lanes of 64 bits, the lane of column x and row y at 5 y + x. -/
abbrev Lanes := List Word

/-- A lane by column and row, both modulo 5. -/
def laneAt (a : Lanes) (x y : Nat) : Word := a.getD (x % 5 + 5 * (y % 5)) 0

/-- A state from its lanes. -/
def lanesOf (f : Nat → Nat → Word) : Lanes := (List.range 25).map (fun i => f (i % 5) (i / 5))

/-- Offsets by which the lanes rotate. -/
def keccakOffsets : List Nat :=
  [0, 1, 62, 28, 27, 36, 44, 6, 55, 20, 3, 10, 43, 25, 39, 41, 45, 15, 21, 8, 18, 2, 61, 56, 14]

/-- Constants of the 24 rounds. -/
def keccakConstants : List Word :=
  [0x0000000000000001, 0x0000000000008082, 0x800000000000808A, 0x8000000080008000, 0x000000000000808B, 0x0000000080000001,
   0x8000000080008081, 0x8000000000008009, 0x000000000000008A, 0x0000000000000088, 0x0000000080008009, 0x000000008000000A,
   0x000000008000808B, 0x800000000000008B, 0x8000000000008089, 0x8000000000008003, 0x8000000000008002, 0x8000000000000080,
   0x000000000000800A, 0x800000008000000A, 0x8000000080008081, 0x8000000000008080, 0x0000000080000001, 0x8000000080008008]

/-- Each lane with the parities of two neighbouring columns. -/
def keccakTheta (a : Lanes) : Lanes :=
  let c : List Word := (List.range 5).map (fun x => (List.range 5).foldl (fun w y => w ^^^ laneAt a x y) 0)
  lanesOf (fun x y => laneAt a x y ^^^ c.getD ((x + 4) % 5) 0 ^^^ (c.getD ((x + 1) % 5) 0).rotateLeft 1)

/-- The lanes rotate and change places. -/
def keccakRhoPi (a : Lanes) : Lanes :=
  lanesOf (fun x y => (laneAt a (x + 3 * y) x).rotateLeft (keccakOffsets.getD ((x + 3 * y) % 5 + 5 * x) 0))

/-- Each lane with the two that follow in its row. -/
def keccakChi (a : Lanes) : Lanes := lanesOf (fun x y => laneAt a x y ^^^ (~~~(laneAt a (x + 1) y) &&& laneAt a (x + 2) y))

/-- The permutation. -/
def keccakF (a : Lanes) : Lanes :=
  keccakConstants.foldl (fun a rc =>
    let b := keccakChi (keccakRhoPi (keccakTheta a))
    b.set 0 (b.getD 0 0 ^^^ rc)) a

/-- Bytes of a block: the rate of SHAKE256. -/
def shakeRate : Nat := 136

/-- A lane of a block, least significant byte first. -/
def blockLane (l : List Byte) (i : Nat) : Word :=
  ((l.drop (8 * i)).take 8).foldr (fun b w => (w <<< 8) ||| b.zeroExtend 64) 0

/-- The bytes that fill the last block after `n` bytes of message: the suffix of SHAKE, and the closing bit. -/
def shakePad (n : Nat) : List Byte :=
  let q := shakeRate - n % shakeRate
  if q = 1 then [0x9F] else 0x1F#8 :: List.replicate (q - 2) 0 ++ [0x80]

/-- Blocks of a padded message are taken in, with fuel for their number. -/
def shakeAbsorb : Nat → List Byte → Lanes → Lanes
  | 0, _, a => a
  | n + 1, l, a =>
    shakeAbsorb n (l.drop shakeRate) (keccakF ((List.range 25).map (fun i =>
      a.getD i 0 ^^^ (if i < 17 then blockLane l i else 0))))

/-- SHAKE256 of a message, 64 bytes of output (R353). -/
def shake256 (l : List Byte) : List Byte :=
  let a := shakeAbsorb (l.length / shakeRate + 1) (l ++ shakePad l.length) (List.replicate 25 0)
  (List.range 64).map (fun i => ((a.getD (i / 8) 0) >>> (8 * (i % 8))).setWidth 8)

end Sys2Proof.Machine
end

