-- ==== Sys2Proof/Machine/Firmware.lean ====
section
/-! DEFINITION. Reset, firmware load, attestation, checkpoint and restore (R350 to R356), and the thermal halt (R358). -/

namespace Sys2Proof.Machine

/-- DEVICE_RESET: every part of the device takes its reset value; memory keeps its contents, and so do the persistence
side, the load count and M (R352, R353, R354). What has left the device stays recorded, and with it how often each pair of GID and SEQ
has served, by which the other devices know its messages (log 113). -/
def resetDevice (s : State) : State :=
  { State.reset with
    mem := s.mem, poison := s.poison, cxlCap := s.cxlCap, image := s.image,
    fw := { loads := s.fw.loads, measure := s.fw.measure },
    events := s.events, hostReads := s.hostReads, portOut := s.portOut, collUses := s.collUses,
    agenda := s.agenda, cur := s.cur, uid := s.uid, tick := s.tick }

def execDeviceReset (s : State) : Host.Outcome State Fault Refusal := .next (resetDevice s)

/-- All work ends without a status write: threads and launches with what they had on its way, the queues' records, messages
between routers, and the commands of the driver area. -/
def haltWork (s : State) : State :=
  { setDrv (setDrv s 0x4000 0) 0x5000 0 with
    threads := [], clusters := [], launches := [], inflight := [], dropped := [], walks := [], waiters := [], releases := [],
    bindings := [], barriers := [], pubs := [], candidate := none, bcasts := [], beats := [], colls := [],
    queues := s.queues.map (fun (e : Nat × LQueue) => (e.1, { e.2 with en := false, recs := [] })),
    trigPosted := 0, trigRound := 0, migration := none, inval := none, migrate := none }

/-- THERMAL_HALT: every clock but the host port's stops, every launch ends without a status write, STATE is 4 (R358). -/
def execThermalHalt (s : State) : Host.Outcome State Fault Refusal :=
  .next { haltWork s with fw := { s.fw with state := 4, running := none, fresh := false } }

/-! ## Commands (R350, R351) -/

/-- A command is refused with an error code. -/
def fwError (s : State) (e : Nat) : State := { s with fw := { s.fw with err := e } }
/-- A command starts: STATE is 1. -/
def fwStart (s : State) (c : FwCmd) : State := { s with fw := { s.fw with state := 1, running := some c, fresh := false, fenced := false } }
/-- A command ends well: STATE 2, ERR 0. -/
def fwDone (s : State) : State := { s with fw := { s.fw with state := 2, err := 0, running := none, up := true } }
/-- A command fails: STATE 3 with the code. -/
def fwFail (s : State) (e : Nat) : State := { s with fw := { s.fw with state := 3, err := e, running := none } }

/-- FWADDR and FWLEN, or REPADDR, are written. -/
def setImage (s : State) (addr : Word) (len : Nat) : State := { s with fw := { s.fw with addr := addr, len := len % 2 ^ 32 } }
def setReport (s : State) (addr : Word) : State := { s with fw := { s.fw with rep := addr } }

/-- Host writes have been received and have not performed: those of an image or a nonce, for which a command waits (log 68). -/
def writesOut (s : State) : Bool := s.posted.any (fun x => isHostWrite x.op)

/-- LOAD starts with the image that FWADDR and FWLEN name. In STATE 2 it first performs the reset, from which those two registers
are kept; in any other state what still runs on the device ends (R353, R314; log 35). -/
def startLoad (s : State) : State :=
  let r := if s.fw.state = 2 then setImage (resetDevice s) s.fw.addr s.fw.len else haltWork s
  fwStart r (.load s.fw.addr s.fw.len)

/-- FWCTL is written (R350, R351): more than one bit, or a write while STATE is 1, gives ERR 3; a command that its STATE does not
allow gives ERR 4. No bit, or one that is reserved, starts nothing. -/
def writeFwctl (s : State) (v : Nat) : State :=
  let b := v % 2 ^ 32
  if s.fw.state = 1 then fwError s 3
  else if b = 0 ∨ (16 ≤ b ∧ b &&& (b - 1) = 0) then s
  else if b = 1 then (if writesOut s then s else startLoad s)
  else if b = 2 then
    (if s.fw.state ≠ 2 then fwError s 4 else if writesOut s then s else fwStart s (.attest s.fw.rep))
  else if b = 4 then
    (if s.fw.state ≠ 2 then fwError s 4 else requestStop (fwStart s .ckpt) (s.threads.map (fun e => e.1)))
  else if b = 8 then (if s.fw.state ≠ 2 ∨ s.fw.fresh = false then fwError s 4 else fwStart s .restore)
  else fwError s 3

/-- FW_LOAD: the host writes FWADDR and FWLEN and sets LOAD. -/
def execFwLoad (addr : Word) (len : Nat) (s : State) : Host.Outcome State Fault Refusal :=
  .next (writeFwctl (setImage s addr len) 1)

/-- FW_ATTEST: the host writes REPADDR and sets ATTEST. -/
def execFwAttest (addr : Word) (s : State) : Host.Outcome State Fault Refusal := .next (writeFwctl (setReport s addr) 2)

/-- FW_CKPT: the scheduler stops placing, and every running gang group is pre-empted (R355). -/
def execFwCkpt (s : State) : Host.Outcome State Fault Refusal := .next (writeFwctl s 4)

/-- FW_RESTORE: allowed right after a successful LOAD, before any queue is enabled. -/
def execFwRestore (s : State) : Host.Outcome State Fault Refusal := .next (writeFwctl s 8)

/-! ## The configuration space (R350)

The model names the DVSEC capability bar 6 of HOST_POSTED_WRITE and HOST_NONPOSTED_READ (log 68). -/

/-- A 64-bit register with one half written. -/
def setHalf (w : Word) (high : Bool) (v : Nat) : Word :=
  if high then BitVec.ofNat 64 (w.toNat % 2 ^ 32 + 2 ^ 32 * (v % 2 ^ 32)) else BitVec.ofNat 64 (w.toNat / 2 ^ 32 * 2 ^ 32 + v % 2 ^ 32)

/-- A 4-byte configuration write. -/
def dvsecWrite (s : State) (off v : Nat) : State :=
  if off = 0x0C then writeFwctl s v
  else if off = 0x14 then setImage s (setHalf s.fw.addr false v) s.fw.len
  else if off = 0x18 then setImage s (setHalf s.fw.addr true v) s.fw.len
  else if off = 0x1C then setImage s s.fw.addr v
  else if off = 0x20 then setReport s (setHalf s.fw.rep false v)
  else if off = 0x24 then setReport s (setHalf s.fw.rep true v)
  else s

/-- FWSTAT: STATE, ERR and HPDOWN. -/
def fwstat (s : State) : Nat := s.fw.state % 16 + 256 * (s.fw.err % 256) + 65536 * (!hostReach s).toNat

/-- The DVSEC ID of the capability, which PCI Express puts into the low half of the third word of the header (log 17). -/
def dvsecId : Nat := 0x0001

/-- A 4-byte configuration read. -/
def dvsecRead (s : State) (off : Nat) : Nat :=
  if off < 0x08 then (Config.dvsecHeader (off / 4)).toNat
  else if off < 0x0C then (Config.dvsecHeader 2).toNat / 2 ^ 16 * 2 ^ 16 + dvsecId
  else if off = 0x10 then fwstat s
  else if off = 0x14 then s.fw.addr.toNat % 2 ^ 32
  else if off = 0x18 then s.fw.addr.toNat / 2 ^ 32
  else if off = 0x1C then s.fw.len
  else if off = 0x20 then s.fw.rep.toNat % 2 ^ 32
  else if off = 0x24 then s.fw.rep.toNat / 2 ^ 32
  else 0

/-! ## LOAD (R353) -/

/-- The tiles that fail the self-test of a load. -/
def failingTiles (s : State) : List Nat := (List.range 160).filter (fun t => !Config.tilePasses t s.fw.loads)

/-- Step 4: SRAM is zero, that of replay buffers and queue storage (R11, R261) included, every fence of before ends (R314), and the
tiles that fail their self-test are fenced, reported and their ports go down. -/
def startImage (s : State) : State :=
  let s := { s with ports := s.ports.map (fun (e : Nat × Port) => (e.1, { e.2 with replay := [], waiting := [], sent := [] })),
                    queues := s.queues.map (fun (e : Nat × LQueue) => (e.1, { seq := e.2.seq })),
                    mem := s.mem.filter (fun e => Config.sramEnd ≤ e.1), poison := s.poison.filter (fun g => Config.sramEnd ≤ 32 * g),
                    clusters := [], fence := [], tally := [], votes := [], testFailed := [], appealing := [], bypassed := [] }
  (failingTiles s).foldl (fun s t =>
    fenceTile { s with testFailed := setAdd s.testFailed t } t (Config.selfTestCause t).toNat (tabGet 0 s.cycles (dieOfTile t))) s

/-- Step 5: the ports of tiles in service train: the host port, the memory ports, and the links that have a partner. -/
def trainPorts (s : State) : State :=
  ((List.range 29).filter (fun p => inService s (tileOfPort p) && (decide (p ≤ 16) || Config.portPartner p s.fw.loads))).foldl
    (fun s p => { s with ports := tabPut s.ports p { tabGet {} s.ports p with trained := true } }) s

/-- The steps of a load, in order. -/
def finishLoad (s : State) (addr : Word) (len : Nat) : State :=
  if len < 1281 ∨ 2 ^ 26 < len then fwFail s 1
  else
    let img := readBytes s.mem addr.toNat len
    let s := { s with fw := { s.fw with measure := shake256 img } }
    if !Config.imageSigned img then fwFail s 2
    else
      let s := startImage s
      if failingTiles s = List.range 160 then fwFail s 5
      else
        let s := trainPorts s
        let s := { s with queues := s.queues.map (fun (e : Nat × LQueue) => (e.1, { e.2 with en := false, recs := [] })),
                          wmk := [], power := 0, dieMode := [] }
        let s := fwDone s
        { s with fw := { s.fw with loads := s.fw.loads + 1, fresh := true } }

/-! ## ATTEST (R354) -/

/-- Bit t set when tile t is fenced, 20 bytes. -/
def fencedBits (s : State) : List Byte :=
  bytesOfNat 20 (((List.range 160).filter (fun t => fenceOf s t = 1)).map (fun t => 2 ^ t)).sum

/-- Bytes 0 to 255 of the report. -/
def reportBody (s : State) (nonce : List Byte) : List Byte :=
  [0x55#8, 0x42#8, 0x41#8, 0x54#8] ++ bytesOfNat 2 1 ++ bytesOfNat 1 s.power ++ [0#8] ++
  (List.range 16).map (fun i => Config.serial.getD i 0) ++ bytesOfNat 8 s.fw.loads ++ bytesOfNat 32 0 ++
  nonce ++ (List.range 64).map (fun i => s.fw.measure.getD i 0) ++ fencedBits s ++ bytesOfNat 76 0

/-- The report is written at an address and signed. -/
def finishAttest (s : State) (addr : Word) : State :=
  let a := addr.toNat
  let body := reportBody s (readBytes s.mem (a + 64) 32)
  fwDone (physWrite s none a (body ++ (List.range 1280).map (fun i => (Config.reportSignature body).getD i 0)))

/-! ## CKPT and RESTORE (R355, R356) -/

/-- A thread of a launch has been saved. -/
def savedOwner (s : State) (owner : Nat) : Bool := s.launches.any (fun l => l.saved.any (fun v => v.uid = owner))

/-- Every group is saved, and every command that has begun and every store has finished, releases aside that are held over the save; no
page is being moved, whose new place no page table names yet (R287); the replay buffers are empty. -/
def quiet (s : State) : Bool :=
  decide (s.threads = []) && decide (s.inflight = []) && s.releases.all (fun r => savedOwner s r.owner) && decide (s.pubs = []) &&
  s.migration.isNone &&
  !s.clusters.any (fun e => e.2.tracker.any (fun r => r.lq.any (fun c => c.begun || c.joined))) &&
  s.ports.all (fun e => e.2.replay = [] && e.2.waiting = [])

/-- A barrier once the cycles that its phases were waiting for have passed: what was due has completed, and expectations have joined
(R247). Nothing in it names a cycle any more. -/
def restingBarrier (b : Barrier) : Barrier :=
  { settlePhases (b.dueAt.getD 0 + b.lateAt + b.arrived + 3) (b.arrived + 2) b with lateAt := 0 }

/-- The image that step 4 writes, at a time when nothing is on its way; a device that RESTORE fills counts its cycles from a reset of
its own, so that barriers are saved at rest. -/
def takeImage (s : State) : Image :=
  { valid := true, cxlCap := s.cxlCap, mem := s.mem, poison := s.poison, queues := s.queues, wmk := s.wmk,
    bindings := s.bindings, barriers := s.barriers.map restingBarrier, launches := s.launches, releases := s.releases,
    retired := (s.clusters.filter (fun e => e.2.tracker ≠ [])).map (fun e => (e.1, e.2.tracker)),
    fenced := (List.range 160).filter (fun t => !inService s t) }

/-- Threads that have been told to stop and have not go on. -/
def resumeThreads (s : State) : State :=
  { s with threads := s.threads.map (fun (e : Nat × Thread) => (e.1, if e.2.stopped then e.2 else { e.2 with stopReq := false })) }

/-- The checkpoint goes on: it fails when a tile was fenced; once everything is quiet it marks the image invalid, and then takes
the image, which ends it. -/
def finishCkpt (s : State) : State :=
  let marked := { s with image := { s.image with valid := false } }
  if s.fw.fenced then fwFail (resumeThreads marked) 6
  else if !quiet s then s
  else if s.image.valid then marked
  else fwDone { s with image := takeImage s }

/-- The 32-byte granules of slice SRAM and of CXL memory homed on some tiles. -/
def granulesOn (s : State) (tiles : List Nat) : List Nat :=
  (List.range (Config.sramEnd / 32) ++ (List.range (s.cxlCap / 32)).map (fun g => Config.cxlBase / 32 + g)).filter
    (fun g => tileOfSlice (homeOf (32 * g)) ∈ tiles)

/-- Entries of the retirement trackers are written back: to their clusters, or to the lowest in service (log 57). -/
def restoreRetired (s : State) (l : Tab (List Retired)) : State :=
  l.foldl (fun s e =>
    let cl := if inService s (tileOfCluster e.1) then e.1 else (clustersUp s).headD e.1
    setCluster s cl { clusterOf s cl with tracker := (clusterOf s cl).tracker ++ e.2 }) s

/-- RESTORE: every saved item is written back; granules homed on a tile that is fenced now are lost, and those of one
that was fenced at the checkpoint read as poisoned. -/
def finishRestore (s : State) : State :=
  let i := s.image
  if !i.valid then fwFail s 7
  else if i.cxlCap ≠ s.cxlCap then fwFail s 8
  else
    let lost (a : Nat) : Bool := !inService s (tileOfSlice (homeOf a))
    let was := if i.fenced = [] then [] else granulesOn s i.fenced
    fwDone { restoreRetired s i.retired with
      mem := i.mem.filter (fun e => !lost e.1),
      poison := was.foldl setAdd (i.poison.filter (fun g => !lost (32 * g))),
      queues := i.queues.map (fun (e : Nat × LQueue) => (e.1, { e.2 with en := false })), wmk := i.wmk,
      bindings := i.bindings, barriers := i.barriers, releases := i.releases,
      launches := i.launches.map (fun (l : Launch) => { l with parked := true }) }

/-- FW_COMMAND_DONE: the command that runs goes on to its end (R351). -/
def execFwCommandDone (s : State) : Host.Outcome State Fault Refusal :=
  .next (match s.fw.running with
    | none => s
    | some (.load addr len) => finishLoad s addr len
    | some (.attest addr) => finishAttest s addr
    | some .ckpt => finishCkpt s
    | some .restore => finishRestore s)

end Sys2Proof.Machine
end

