-- ==== Sys2Proof/Machine/HostIf.lean ====
section
/-! DEFINITION. The host interface (R239, R331 to R334), the links' own events (R329, R330), migration and invalidation
(R286, R287), and memory errors (R225). -/

namespace Sys2Proof.Machine

/-! ## INVAL and MIGRATE (R286, R287, R334) -/

/-- The leaf entry of a page: its address, value and whether it maps 16 MiB (R283). -/
def leafPlace (s : State) (c va : Nat) : Option (Nat × Word × Bool) :=
  match ctxRoot s c, walkLeaf s none 0 c va with
  | some root, some (leaf, big) =>
    let a1 := pteAddr (pteRead s none 0 (rootEntry root va)) + 8 * bitsOf va 24 12
    some (if big then a1 else pteAddr (pteRead s (walkerTile root va) 0 a1) + 8 * bitsOf va 16 8, leaf, big)
  | _, _ => none

/-- A thread is one of a context, in its cluster or in a retirement tracker. -/
def ownerIn (s : State) (ctx owner : Nat) : Bool :=
  s.threads.any (fun e => e.2.uid = owner ∧ e.2.ctx = ctx) || s.clusters.any (fun e => e.2.tracker.any (fun r => r.uid = owner ∧ r.ctx = ctx))

/-- Cached translations of a context for a range leave every cluster, and what walks have found there for accesses that have not
performed. -/
def dropCached (s : State) (ctx va n : Nat) : State :=
  let hit (x : Tlb) : Bool := decide (x.ctx = ctx) &&
    rangesMeet va n x.va (if x.big then 2 ^ 24 else 65536)
  let stale (m : Miss) : Bool := rangesMeet va n (65536 * m.page) 65536 && ownerIn s ctx m.owner
  { s with clusters := s.clusters.map (fun (e : Nat × Cluster) => (e.1, { e.2 with
      tlb := e.2.tlb.filter (fun x => !hit x),
      missed := e.2.missed.map (fun m => if stale m then { m with leaf := none } else m) })) }

/-- ERR of an INVAL command. -/
def invalErr (s : State) : Nat :=
  let va := (drv s 0x4010).toNat
  let n := (drv s 0x4018).toNat
  if (ctxRoot s (drv s 0x4008).toNat).isNone ∨ 64 ≤ (drv s 0x4008).toNat then 1
  else if va % 65536 ≠ 0 ∨ n = 0 ∨ 2 ^ 52 < va + 65536 * n then 2
  else 0

/-- GO of the INVAL block is written; the cached translations of the range go. -/
def startInval (s : State) : State :=
  if s.inval.isSome then s
  else
    let e := invalErr s
    let s := setDrv { s with inval := some ⟨s.uid, e⟩ } 0x4000 1
    if e = 0 then dropCached s (drv s 0x4008).toNat (drv s 0x4010).toNat (65536 * (drv s 0x4018).toNat) else s

/-- INVAL_COMMAND: the host writes GO. -/
def execInvalCommand (s : State) : Host.Outcome State Fault Refusal := .next (driverArrives s 0x4000 1 startInval)

/-- Bytes of a page. -/
def pageBytes (big : Bool) : Nat := if big then 2 ^ 24 else 65536

/-- ERR of a MIGRATE command. -/
def migrateErr (s : State) : Nat :=
  let ctx := (drv s 0x5008).toNat
  let va := (drv s 0x5010).toNat
  let new := drv s 0x5018
  if 64 ≤ ctx ∨ (ctxRoot s ctx).isNone then 1
  else if 2 ^ 52 ≤ va then 2
  else match leafPlace s ctx va with
    | none => 2
    | some (_, leaf, big) =>
      if va % pageBytes big ≠ 0 then 2
      else if !(if big then bigOk s new else smallOk s new) || pteTs new then 3
      else if !homesUp s (leafPa 0 leaf big va) (pageBytes big) || !homesUp s (leafPa 0 new big va) (pageBytes big) then 4
      else 0

/-- GO of the MIGRATE block is written; the page's cached translations go, and its walks wait until the move completes. -/
def startMigrate (s : State) : State :=
  if s.migrate.isSome then s
  else
    let e := migrateErr s
    let ctx := (drv s 0x5008).toNat
    let va := drv s 0x5010
    let s := setDrv { s with migrate := some ⟨s.uid, e⟩ } 0x5000 1
    let s := if (ctxRoot s ctx).isSome ∧ ctx < 64 ∧ va.toNat < 2 ^ 52 then countWalk s none 0 ctx va.toNat else s
    match (if e = 0 then leafPlace s ctx va.toNat else none) with
    | some (_, _, big) =>
      dropCached { s with migration := some { ctx := ctx, va := va, leaf := drv s 0x5018 } } ctx va.toNat (pageBytes big)
    | none => s

/-- MIGRATE_COMMAND: the host writes GO. -/
def execMigrateCommand (s : State) : Host.Outcome State Fault Refusal := .next (driverArrives s 0x5000 1 startMigrate)

/-- An access on its way to a page that has moved goes to the new place. -/
def moveKind (f : Nat → Nat) : ReqKind → ReqKind
  | .store pa l => .store (f pa) l
  | .writeBack pa l => .writeBack (f pa) l
  | .planes pa e p v => .planes (f pa) e p v
  | .merge pa t c => .merge (f pa) t c
  | .atom pa o w v => .atom (f pa) o w v

/-- A fetch on its way likewise. -/
def moveFetch (f : Nat → Nat) (x : Fetch) : Fetch :=
  match x.state with
  | .sent pa => { x with state := .sent (f pa) }
  | .walk | .data _ | .noPage | .bad => x

/-- The accesses on their way to the `n` bytes at `old`: number and address of requests, fetches and releases. -/
def accessesTo (s : State) (old n : Nat) : List (Nat × Nat) :=
  (s.inflight.map (fun r => (r.uid, (reqSpan r.kind).1)) ++ s.releases.map (fun r => (r.uid, r.pa)) ++
    s.threads.flatMap (fun e => (threadFetches e.2).filterMap (fun x => match x.2.2.state with
      | .sent pa => if x.2.2.share.isNone then some (x.2.2.id, pa) else none
      | .walk | .data _ | .noPage | .bad => none))).filter (fun x => old ≤ x.2 ∧ x.2 < old + n)

/-- An access with a number has not performed. -/
def stillOut (s : State) (uid : Nat) : Bool :=
  s.inflight.any (fun r => r.uid = uid) || s.releases.any (fun r => r.uid = uid) ||
  s.threads.any (fun e => (threadFetches e.2).any (fun x => decide (x.2.2.id = uid) && (match x.2.2.state with
    | .sent _ => true
    | .walk | .data _ | .noPage | .bad => false)))

/-- The data of a page moves from `old` to `new`, poison with it; accesses on their way are forwarded (R287). -/
def movePage (s : State) (old new n : Nat) : State :=
  let f (pa : Nat) : Nat := if old ≤ pa ∧ pa < old + n then pa - old + new else pa
  let bad := (s.poison.filter (fun g => old / 32 ≤ g ∧ g < (old + n) / 32)).map (fun g => g - old / 32 + new / 32)
  { s with
    mem := writeBytes s.mem new (readBytes s.mem old n),
    poison := bad.foldl setAdd (s.poison.filter (fun g => ¬ (new / 32 ≤ g ∧ g < (new + n) / 32))),
    inflight := s.inflight.map (fun (r : Req) => { r with kind := moveKind f r.kind }),
    waiters := s.waiters.map (fun (w : Waiter) => { w with pa := f w.pa }),
    releases := s.releases.map (fun (r : PendRel) => { r with pa := f r.pa }),
    launches := s.launches.map (fun (l : Launch) => { l with code := writeBytes l.code new (readBytes l.code old n) }),
    threads := s.threads.map (fun (e : Nat × Thread) => (e.1, { e.2 with
      recomps := e.2.recomps.map (fun (r : Recomp) => { r with fetches := r.fetches.map (moveFetch f) }) })) }

/-- A move whose data stands at its new home ends when no forwarded access is on its way: NEWPTE is stored, and the walks that
wait go on (R287, R334). -/
def finishMove (s : State) (m : Move) : State :=
  let s := { s with migration := some m }
  if m.forwarded.any (stillOut s) then s
  else match leafPlace s m.ctx m.va.toNat with
    | some (a, _, _) => { physWrite s none (forwardedPa s a) (bytesOfNat 8 m.leaf.toNat) with migration := none }
    | none => { s with migration := none }

/-- A move is given up, and its command fails. -/
def failMove (s : State) (err : Nat) : State :=
  { s with migration := none, migrate := s.migrate.map (fun (b : BlockRun) => { b with err := err }) }

/-- A granule of a page has no way from its old home to its new one (R7, R10, R312), or a router on it has stopped (R307). -/
def copyLost (s : State) (old new n : Nat) : Bool :=
  decide (s.fence ≠ []) && (List.range (n / 256)).any (fun i =>
    !routeUp s (tileOfSlice (homeOf (old + 256 * i))) (tileOfSlice (homeOf (new + 256 * i))))
def copyStuck (s : State) (old new n : Nat) : Bool :=
  decide (s.silent ≠ []) && (List.range (n / 256)).any (fun i =>
    wayStopped s (tileOfSlice (homeOf (old + 256 * i))) (tileOfSlice (homeOf (new + 256 * i))))

/-- MIGRATION_COMPLETE: the page's data moves, and the move ends once what was forwarded has performed. A home fenced before the
data has moved, or one that the data does not get to, fails the command, which then has changed nothing; a stopped router holds it
(R287, R307, R312, R334). -/
def execMigrationComplete (s : State) : Host.Outcome State Fault Refusal :=
  .next (match s.migration with
    | none => s
    | some m =>
      if m.moved then finishMove s m
      else match leafPlace s m.ctx m.va.toNat with
        | none => failMove s 2
        | some (_, old, big) =>
          let n := pageBytes big
          let pOld := leafPa 0 old big m.va.toNat
          let pNew := leafPa 0 m.leaf big m.va.toNat
          if !homesUp s pOld n || !homesUp s pNew n || copyLost s pOld pNew n then failMove s 4
          else if copyStuck s pOld pNew n then s
          else finishMove (movePage s pOld pNew n) { m with moved := true, old := pOld, new := pNew, size := n, forwarded := (accessesTo s pOld n).map (fun x => x.1) })

/-- An access of a context that may have used an old translation has not performed: one issued before the command, latch
operations included (R286). A request that a fenced tile left behind counts for every context. -/
def oldAccesses (s : State) (ctx mark : Nat) : Bool :=
  s.inflight.any (fun r => decide (r.uid < mark) && (match launchOf s r.launch with
    | some l => decide (l.ctx = ctx)
    | none => true)) ||
  s.releases.any (fun r => r.uid < mark ∧ r.ctx = ctx) || s.waiters.any (fun w => w.uid < mark ∧ w.ctx = ctx) ||
  s.threads.any (fun e => decide (e.2.ctx = ctx) && e.2.recomps.any (fun r => r.fetches.any (fun f =>
    decide (f.id < mark) && (match f.state with
      | .sent _ => true
      | .walk | .data _ | .noPage | .bad => false))))

/-- COMMAND_BLOCK_DONE: a command has done what its rule requires; ERR is written and GO cleared. -/
def execCommandBlockDone (migrate : Bool) (s : State) : Host.Outcome State Fault Refusal :=
  .next (if migrate then
      match s.migrate with
      | none => s
      | some b => if s.migration.isSome then s else setDrv { s with migrate := none } 0x5000 (BitVec.ofNat 64 (256 * b.err))
    else
      match s.inval with
      | none => s
      | some b =>
        if b.err = 0 && oldAccesses s (drv s 0x4008).toNat b.mark then s
        else setDrv { s with inval := none } 0x4000 (BitVec.ofNat 64 (256 * b.err)))

/-! ## Driver-area writes (R332) -/

/-- The event ring is set up: RSIZE is written. OVF takes the events lost while the host port was fenced, and the
tile-reinstated record that waits is the first (R13). R13 does not say which write of the host sets the ring up again: here it is that
of RSIZE, and one of RSIZE 0 too moves the lost count to OVF (DESIGN CHOICE, log 115). -/
def setUpRing (s : State) (size : Word) : State :=
  let s := setDrv s 0x3008 size
  let s := setDrv { s with evLost := 0 } 0x3020 (drv s 0x3020 + BitVec.ofNat 64 s.evLost)
  match s.evHeld with
  | some e => if size = 0 then s else recordEvent { s with evHeld := none } e
  | none => s

/-- PORTCTL of a long-haul port is written: bit 0 enables it, which brings back a port that went down, whose link then trains
again (R330). -/
def writePortctl (s : State) (port : Nat) (enable : Bool) : State :=
  if port < 25 ∨ 29 ≤ port then s
  else
    let s := setDrv s (0x14000 + 1024 * (port - 25)) (BitVec.ofNat 64 enable.toNat)
    let p := tabGet {} s.ports port
    if enable && p.fault then { s with ports := tabPut s.ports port { p with fault := false } } else s

/-- PORTCTL_ENABLE: the host writes PORTCTL. -/
def execPortctlEnable (port : Nat) (enable : Bool) (s : State) : Host.Outcome State Fault Refusal :=
  .next (driverArrives s (0x14000 + 1024 * (port - 25)) (BitVec.ofNat 64 enable.toNat) (fun s => writePortctl s port enable))

/-- What a write of a driver-area word does. A command's parameters are ignored while its GO is 1, and what is not listed
ignores writes. -/
def driverPerform (s : State) (off : Nat) (v : Word) : State :=
  if off % 8 ≠ 0 then s
  else if off = 0x1000 then writePower s v
  else if off = 0x2000 then { s with trigPosted := s.trigPosted + 1 }
  else if off = 0x3008 then setUpRing s v
  else if off = 0x3000 ∨ off = 0x3018 ∨ off = 0x3020 then setDrv s off v
  else if off = 0x4000 then (if v.getLsbD 0 then startInval s else s)
  else if 0x4008 ≤ off ∧ off < 0x4020 then (if s.inval.isNone then setDrv s off v else s)
  else if off = 0x5000 then (if v.getLsbD 0 then startMigrate s else s)
  else if 0x5008 ≤ off ∧ off < 0x5020 then (if s.migrate.isNone then setDrv s off v else s)
  else if off = 0x6000 then setDrv s off (v &&& ~~~0xFFFFFFFFF#64)
  else if 0x10000 ≤ off ∧ off < 0x10840 ∨ 0x11000 ≤ off ∧ off < 0x13000 then setDrv s off v
  else if 0x14000 ≤ off ∧ off < 0x15000 ∧ off % 1024 = 0 then writePortctl s (25 + (off - 0x14000) / 1024) (v.getLsbD 0)
  else if 0x14000 ≤ off ∧ off < 0x15000 ∧ 0x100 ≤ off % 1024 then setDrv s off v
  else if 0x18000 ≤ off ∧ off < 0x180E8 then writeInj s ((off - 0x18000) / 8) v
  else if 0x20000 ≤ off ∧ off < 0x20800 then hostPublish s ((off - 0x20000) / 8) v
  else if 0x20800 ≤ off ∧ off < 0x21000 then hostClear s ((off - 0x20800) / 8)
  else s

/-- DRIVER_AREA_WRITE: the host writes a word of the driver area. -/
def execDriverAreaWrite (offset value : Word) (s : State) : Host.Outcome State Fault Refusal :=
  .next (driverArrives s offset.toNat value (fun s => driverPerform s offset.toNat value))

/-! ## BAR2 and BAR4 (R331) -/

/-- A window has memory at a physical address: BAR4 shows CXL memory only. -/
def barHas (s : State) (bar a : Nat) : Bool := paExists s a && (bar ≠ 4 || decide (Config.cxlBase ≤ a))
/-- The host reaches the home of an address, or the home to which its access is forwarded (R287). -/
def hostUp (s : State) (a : Nat) : Bool := reachesFrom s (tileOfPort 0) (forwardedPa s a)

/-- A control block as the host reads it (R262): TAIL, HEAD, RING, CTRL and zeros. -/
def controlBytes (s : State) (q : Nat) : List Byte :=
  let l := queueAt s q
  bytesOfNat 8 l.tail ++ bytesOfNat 8 l.head ++ bytesOfNat 8 l.ring.toNat ++ bytesOfNat 8 l.en.toNat ++ bytesOfNat 32 0

/-- The queue of the control block that a byte belongs to. -/
def controlAt (a : Nat) : Option Nat := (List.range 64).find? (fun q => controlBlock q ≤ a ∧ a < controlBlock q + 64)

/-- `n` bytes as the host reads them: those of control blocks from the queues, any other from memory, at the new place of a page that
has moved (R287). -/
def hostBytes (s : State) (a n : Nat) : List Byte :=
  if rangesMeet a n (controlBlock 0) 4096 || s.migration.isSome then
    (List.range n).map (fun i => match controlAt (a + i) with
      | some q => (controlBytes s q).getD (a + i - controlBlock q) 0
      | none => readByte s.mem (forwardedPa s (a + i)))
  else readBytes s.mem a n

/-- A field of a control block, with the bytes of a write laid over it; none when the write touches no byte of it. -/
def controlField (s : State) (q a : Nat) (l : List Byte) (field : Nat) : Option Word :=
  let at' := controlBlock q + field
  if rangesMeet a l.length at' 8 then
    some (BitVec.ofNat 64 (natOfBytes ((List.range 8).map (fun i =>
      if a ≤ at' + i ∧ at' + i < a + l.length then l.getD (at' + i - a) 0 else (controlBytes s q).getD (field + i) 0))))
  else none

/-- A host write acts on a control block: RING, then CTRL, then TAIL; HEAD and the reserved bytes are the device's (R262; log
88). -/
def controlStore (s : State) (q a : Nat) (l : List Byte) : State :=
  let ring := controlField s q a l 16
  let ctrl := controlField s q a l 24
  let tail := controlField s q a l 0
  if !queueUp s q || !hostUp s (controlBlock q) then s
  else
    let s := match ring with
      | some v => setQueue s q { queueAt s q with ring := v }
      | none => s
    let s := match ctrl with
      | some v => if v.getLsbD 0 then enableQueue s q (queueAt s q).ring else disableQueue s q
      | none => s
    match tail with
    | some v => writeTail s q v
    | none => s

/-- A posted write performs at its homes, granule by granule: one at a fenced home is lost, as is one for a tile in `gone`, which was
fenced while it was on its way (R313); one to a reserved address is refused (R223, R331); one at the old place of a page that has moved
is forwarded (R287). What it writes of control blocks acts on their queues. -/
def hostStore (s : State) (bar a : Nat) (l : List Byte) (gone : List Nat) : State :=
  let lost (x : Nat) : Bool := decide (tileOfSlice (homeOf x) ∈ gone)
  let s := (granulesOf a l.length).foldl (fun s g =>
    if barHas s bar g.1 && hostUp s g.1 && !lost g.1 then
      countPa (performWrite s (forwardedPa s g.1) ((l.drop (g.1 - a)).take g.2)) g.1
    else s) s
  if rangesMeet a l.length (controlBlock 0) 4096 then
    (List.range 64).foldl (fun s q => if rangesMeet a l.length (controlBlock q) 64 && !lost (controlBlock q) then controlStore s q a l else s) s
  else s

/-- Bytes of a byte table from 8 entries. -/
def fenceWord (s : State) (die k : Nat) : Word :=
  BitVec.ofNat 64 (natOfBytes ((List.range 8).map (fun i =>
    if 8 * k + i < 40 then BitVec.ofNat 8 (fenceOf s (40 * die + 8 * k + i)) else 0)))

/-- A counter page as the host reads it (R322, R324): live counters, snapshot copies, SNAPCYC and SNAPSEQ. -/
def counterWord (s : State) (page k : Nat) : Word :=
  if !inService s (tileOfPage page) then 0
  else if k < 256 then tabGet 0 s.counters (256 * page + k)
  else tabGet 0 s.snaps (256 * page + (k - 256))

/-- The identity block (R332): part code, VLEN, dies, clusters, slices and ISA level, a word each (log 17). -/
def identityWord (k : Nat) : Word :=
  match k with
  | 1 => BitVec.ofNat 64 Config.vlen
  | 2 => 4
  | 3 => 320
  | 4 => 160
  | 5 => 1
  | k => Config.identity k

/-- A word of the driver area as the host reads it (R332). -/
def driverWord (s : State) (off : Nat) : Word :=
  if !s.fw.up then 0
  else if off < 64 then identityWord (off / 8)
  else if off = 0x1000 then BitVec.ofNat 64 s.power
  else if 0x3000 ≤ off ∧ off < 0x3028 ∨ 0x4000 ≤ off ∧ off < 0x4020 ∨ 0x5000 ≤ off ∧ off < 0x5020 ∨ off = 0x6000 ∨
      0x10000 ≤ off ∧ off < 0x10840 ∨ 0x11000 ≤ off ∧ off < 0x13000 then drv s off
  else if 0x14000 ≤ off ∧ off < 0x15000 ∧ off % 1024 = 0 then drv s off
  else if 0x18000 ≤ off ∧ off < 0x180E8 then (tabGet {} s.ports ((off - 0x18000) / 8)).inj
  else if 0x20000 ≤ off ∧ off < 0x20800 then tabGet 0 s.wmk ((off - 0x20000) / 8)
  else if 0x30000 ≤ off ∧ off < 0x30100 then fenceWord s ((off - 0x30000) / 64) ((off - 0x30000) % 64 / 8)
  else if 0x100000 ≤ off ∧ off < 0x100000 + 669 * 4096 then
    counterWord s ((off - 0x100000) / 4096) ((off - 0x100000) % 4096 / 8)
  else 0

/-- How a host read completes (R13, R331, R332). -/
def hostRead (s : State) (bar off len : Nat) : Option HostDone :=
  if bar = 6 then some (.data (bytesOfNat 4 (dvsecRead s off)))
  else if bar = 0 then
    if !hostReach s then some .abort
    else if off % 8 ≠ 0 ∨ len ≠ 8 ∨ 0x400000 ≤ off then some .unsupported
    else if 0x20000 ≤ off ∧ off < 0x20800 ∧ !hostWmk s ((off - 0x20000) / 8) then some .abort
    else some (.data (bytesOfNat 8 (driverWord s off).toNat))
  else match barPa s bar off with
    | none => none
    | some a =>
      let gs := granulesOf a len
      some (if !hostReach s then .abort
        else if gs.any (fun g => !barHas s bar g.1) then .unsupported
        else if gs.any (fun g => !hostUp s g.1) then .abort
        else .data (hostBytes s a len))

/-- A host read completes: its answer goes back. -/
def answerRead (s : State) (bar off len : Nat) : State :=
  match hostRead s bar off len with
  | none => s
  | some r =>
    let s := match barPa s bar off, r with
      | some a, .data _ => (granulesOf a len).foldl (fun s (g : Nat × Nat) => countPa s g.1) s
      | none, .data _ => if bar = 0 ∧ 0x20000 ≤ off ∧ off < 0x20800 then countWmk s ((off - 0x20000) / 8) else s
      | _, _ => s
    hostFlits { s with hostReads := s.hostReads ++ [r] } 0

/-! ## Host accesses in their order (R239) -/

/-- A received host access performs, but for what was bound for a tile in `gone`. -/
def hostPerform (s : State) (op : HostOp) (gone : List Nat) : State :=
  match op with
  | .write bar off l _ =>
    if bar = 0 then driverPerform s off (BitVec.ofNat 64 (natOfBytes l))
    else match barPa s bar off with
      | some a => hostStore s bar a l gone
      | none => s
  | .read bar off len => answerRead s bar off len
  | .tail _ _ | .enable _ _ | .disable _ => controlWrite s op

/-- A received host access must not perform yet: what the order asks has not performed, or a record that it commits lies in a
page that is being moved. -/
def hostOpHeld (s : State) (before : List HostReq) (op : HostOp) : Bool :=
  controlHeld s before op || (match op with
    | .write bar off l _ => s.migration.isSome && (match barPa s bar off with
      | some a => (List.range 64).any (fun q => (controlField s q a l 0).any (fun v => !tailBad (queueAt s q) v && tailMoving s q v))
      | none => false)
    | .read _ _ _ | .tail _ _ | .enable _ _ | .disable _ => false)

/-- A received host access performs where the order lets it. -/
def performPosted (s : State) (uid : Nat) : State :=
  match s.posted.find? (fun x => x.uid = uid) with
  | none => s
  | some x =>
    if hostOpHeld s (s.posted.takeWhile (fun y => y.uid ≠ uid)) x.op then s
    else hostPerform { s with posted := s.posted.filter (fun y => y.uid ≠ uid) } x.op x.gone

/-- SLICE_REQUEST: a request arrives at its home slice, or a received host access at its own, and performs. -/
def execSliceRequest (uid : Nat) (s : State) : Host.Outcome State Fault Refusal :=
  .next (match s.inflight.find? (fun r => r.uid = uid) with
    | some r => performAt s r
    | none => performPosted s uid)

/-- HOST_POSTED_WRITE: the host port receives a posted write, which performs by a SLICE_REQUEST when its order lets it (R239);
a write of the configuration space acts at once. A write of the driver area is of one aligned word. -/
def execHostPostedWrite (bar off : Nat) (bytes : List Byte) (relaxed : Bool) (s : State) :
    Host.Outcome State Fault Refusal :=
  let op := HostOp.write bar off bytes relaxed
  .next (if bar = 6 then dvsecWrite s off (natOfBytes bytes)
    else if !hostReach s then s
    else if bar = 0 then (if off % 8 ≠ 0 ∨ bytes.length ≠ 8 ∨ 0x400000 ≤ off then s else receiveHost (hostFlits s 1) op)
    else if (barPa s bar off).isSome then receiveHost (hostFlits s 1) op
    else s)

/-- HOST_NONPOSTED_READ: a host read completes at once, or once the writes that were received before it without Relaxed Ordering
have performed (R239). While the tile of its port is fenced it completes with Completer Abort (R13). -/
def execHostNonpostedRead (bar off len : Nat) (s : State) : Host.Outcome State Fault Refusal :=
  let op := HostOp.read bar off len
  .next (if bar ≠ 6 && hostReach s && hostHeld s s.posted op then receiveHost (hostFlits s 1) op
    else answerRead (hostFlits s 1) bar off len)

/-! ## Links (R329, R330) -/

/-- What a short-reach port sends again: a transfer's source is read again from memory; where it no longer reads, the bytes it
had (R329; log 54). -/
def sentAgain (s : State) (x : Sent) : Packet :=
  match x.packet, x.source with
  | .command uid (.xfer ctx ra l run), some src =>
    (match readSource s src.owner src.ctx src.va src.len with
     | .ok l => .command uid (.xfer ctx ra l run)
     | .bad _ => .command uid (.xfer ctx ra l run))
  | p, _ => p

/-- Every flit of a packet has been acknowledged: its sequence numbers lie before the first that the partner has not taken, modulo
2^32 (R329; log 54). -/
def acknowledged (seq : Nat) (x : Sent) : Bool := decide ((seq + 2 ^ 32 - (x.seq + x.flits) % 2 ^ 32) % 2 ^ 32 < 2 ^ 31)
/-- A packet carries the flit of a sequence number. -/
def carries (seq : Nat) (x : Sent) : Bool := decide ((seq + 2 ^ 32 - x.seq) % 2 ^ 32 < x.flits)

/-- SHORT_REACH_FLIT_RECEIVE: a flit arrives with the acknowledgement of its trailer, which frees the packets it covers, and is the next
that this port acknowledges. One that fails its check is dropped, counted and asked for again by the number it has in their order (log
54); where the partner asks, the flit of that sequence number is sent again, from the source of the packet that carries it (R329,
R323). -/
def execShortReachFlitReceive (port : Nat) (kind : ShortFlit) (s : State) : Host.Outcome State Fault Refusal :=
  .next (if port < 17 ∨ 25 ≤ port ∨ portDown s port then s
    else
      let s := bump s (640 + port) 1 1
      let p := tabGet {} s.ports port
      match kind with
      | .good ack => { s with ports := tabPut s.ports port { p with sent := p.sent.dropWhile (acknowledged ack.toNat),
                                                                          rxSeq := (p.rxSeq + 1) % 2 ^ 32 } }
      | .bad =>
        let x := framed s port (Config.farEnd port) (.askAgain p.rxSeq)
        bump (bump { s with portOut := s.portOut ++ [(port, x)] } (640 + port) 3 1) (640 + port) 0 1
      | .again seq =>
        match p.sent.find? (carries seq.toNat) with
        | some x => bump (bump { s with portOut := s.portOut ++ [(port, framed s port x.dest (sentAgain s x))] } (640 + port) 0 1) (640 + port) 2 1
        | none => s)

/-- Flits of a list of held frames. -/
def heldFlits (l : List (Nat × Nat)) : Nat := (l.map (fun x => x.2)).sum

/-- LONG_HAUL_FRAME_RECEIVE: a frame arrives, and RX counts its flits, of which a call for a resend has one. The expected frame is
taken; one beyond a gap calls for a resend; one that fails is dropped and counted; at the partner's call every frame from that number
on is sent again (R323, R330). -/
def execLongHaulFrameReceive (port : Nat) (seq : IWord) (kind : FrameKind) (s : State) : Host.Outcome State Fault Refusal :=
  .next (if port < 25 ∨ 29 ≤ port ∨ portDown s port then s
    else
      let p := tabGet {} s.ports port
      let n := Config.linkFlits s.uid
      let s := bump { s with uid := s.uid + 1 } (640 + port) 1 (match kind with | .again => 1 | .good | .bad => n)
      match kind with
      | .bad => bump s (640 + port) 3 1
      | .good =>
        if seq.toNat = p.rxSeq then { s with ports := tabPut s.ports port { p with rxSeq := (p.rxSeq + 1) % 2 ^ 32 } }
        else if (seq.toNat + 2 ^ 32 - p.rxSeq) % 2 ^ 32 < 2 ^ 31 then
          bump { s with portOut := s.portOut ++ [(port, .nack p.rxSeq)] } (640 + port) 0 1
        else s
      | .again =>
        let again := p.replay.dropWhile (fun x => x.1 ≠ seq.toNat)
        bump (bump { s with portOut := s.portOut ++ again.map (fun x => (port, .resend x.1)) } (640 + port) 0 (heldFlits again))
          (640 + port) 2 (heldFlits again))

/-- CUMULATIVE_ACKNOWLEDGEMENT: the receivers of a long-haul link acknowledge, a flit each way: this port's tells what it has, and
frames that the partner's has, those before `seq`, leave the replay buffer, where those that wait then find room (R323, R330). -/
def execCumulativeAcknowledgement (port : Nat) (seq : IWord) (s : State) : Host.Outcome State Fault Refusal :=
  .next (if port < 25 ∨ 29 ≤ port ∨ portDown s port then s
    else
      let p := tabGet {} s.ports port
      let left := if seq.toNat = p.txSeq then [] else
        (if p.replay.any (fun x => x.1 = seq.toNat) then p.replay.dropWhile (fun x => x.1 ≠ seq.toNat) else p.replay)
      let s := bump (bump { s with portOut := s.portOut ++ [(port, .ack p.rxSeq)] } (640 + port) 0 1) (640 + port) 1 1
      pumpPort { s with ports := tabPut s.ports port { p with replay := left } } port [])

/-- A long-haul port goes down until the host enables it again (R330). -/
def longHaulDown (s : State) (port : Nat) : State :=
  let s := portFails s port 1
  { s with ports := tabPut s.ports port { tabGet {} s.ports port with fault := true } }

/-- LONG_HAUL_ACK_TIMEOUT: no progress on acknowledgements for 100 ms. -/
def execLongHaulAckTimeout (port : Nat) (s : State) : Host.Outcome State Fault Refusal :=
  .next (if port < 25 ∨ 29 ≤ port ∨ portDown s port ∨ (tabGet {} s.ports port).replay = [] then s else longHaulDown s port)

/-- PORT_PHY_FAULT: a port's physical layer reports a fault; a long-haul port then waits for the host, any other port for
its link to train again. -/
def execPortPhyFault (port : Nat) (s : State) : Host.Outcome State Fault Refusal :=
  .next (if 29 ≤ port ∨ portDown s port then s
    else if 25 ≤ port then longHaulDown s port else portFails s port 1)

/-- PORT_LINK_TRAINED: the link of a port has trained with a partner (R338). -/
def execPortLinkTrained (port : Nat) (s : State) : Host.Outcome State Fault Refusal :=
  .next (if 29 ≤ port ∨ !inService s (tileOfPort port) then s
    else { s with ports := tabPut s.ports port { tabGet {} s.ports port with trained := true } })

/-! ## Memory errors (R225) -/

/-- The slots of a register that have a byte in a scratchpad line. -/
def slotsTouching (h : HReg) (line : Nat) : List Nat :=
  if blkMode h.blk = modeAcc then
    (List.range (boxV h.blk)).filter (fun k => (List.range 64).any (fun l => copyByte h l k / 128 = line))
  else slotsOfLine h line

/-- A scratchpad line is poisoned: its slots in every region are, and none of them is dirty. -/
def poisonLine (s : State) (cl line : Nat) : State :=
  (threadsOf s cl).foldl (fun s e =>
    let hs := e.2.h.map (fun (x : Nat × HReg) =>
      if blkLine0 x.2.blk ≤ line ∧ line < blkLine0 x.2.blk + blkLines x.2.blk then
        let slots := slotsTouching x.2 line
        let bad := slots.map (fun k => (⟨k, BitVec.ofInt 64 (elemVa x.2.td (coordOfSlot x.2.comm.lo (boxW x.2.blk) k)), true⟩ : FailedSlot))
        (x.1, { x.2 with dirty := x.2.dirty.filter (fun k => ¬ k ∈ slots),
                         failed := x.2.failed.filter (fun f => ¬ f.slot ∈ slots) ++ bad })
      else x)
    setThread s e.1 { e.2 with h := hs }) s

/-- SRAM_ECC_ERROR: a corrected error is only counted; an uncorrectable one poisons its granule or line. -/
def execSramEccError (place : SramPlace) (corrected : Bool) (s : State) : Host.Outcome State Fault Refusal :=
  .next (match place with
    | .slice pa =>
      if Config.sramEnd ≤ pa then s
      else if corrected then bump s (320 + homeOf pa) 3 1
      else bump { s with poison := setAdd s.poison (pa / 32) } (320 + homeOf pa) 4 1
    | .scratch cl line =>
      if 320 ≤ cl ∨ 16384 ≤ line then s
      else if corrected then bump s cl 4 1
      else bump (poisonLine s cl line) cl 5 1)

/-- CXL_READ_RETURN: a read returns on a CXL port; data marked poisoned poisons its granule (R225, R323). -/
def execCxlReadReturn (pa : Nat) (poisoned : Bool) (s : State) : Host.Outcome State Fault Refusal :=
  .next (if pa < Config.cxlBase ∨ !paExists s pa ∨ portDown s (cxlPortOf pa) then s
    else
      let page := 640 + cxlPortOf pa
      let s := bump { s with uid := s.uid + 1 } page 1 (Config.linkFlits s.uid)
      if poisoned then bump { s with poison := setAdd s.poison (pa / 32) } page 4 1 else s)

end Sys2Proof.Machine
end

