-- ==== Sys2Proof/Machine/Reuse.lean ====
section
/-! DEFINITION. The reuse table (R294 to R305): keys, lookup, insertion, and the merge of equal registers. Reuse is kept as
the spec's own state; the values a hit gives are computed (log 12). -/

namespace Sys2Proof.Machine

/-! ## Keys (R296, R297, R301) -/

/-- When the destination group's old registers belong in the key (R297). -/
inductive OldRule where
  | unlessFull | unlessStart0 | always | load
deriving DecidableEq, Repr

/-- The eligible instructions; `none` for every other (R297). -/
def oldRule : Instr → Option OldRule
  | .valuAdd _ _ _ _ _ _ | .valuSub _ _ _ _ _ _ | .valuMul _ _ _ _ _ _ | .valuMin _ _ _ _ _ _ | .valuMax _ _ _ _ _ _
  | .valuSadd _ _ _ _ _ _ | .valuSsub _ _ _ _ _ _ | .valuAbsd _ _ _ _ _ _
  | .valuiAdd _ _ _ _ _ | .valuiRsub _ _ _ _ _ | .valuiMin _ _ _ _ _ | .valuiMax _ _ _ _ _ | .valuiSadd _ _ _ _ _
  | .valuiSll _ _ _ _ _ | .valuiSrl _ _ _ _ _ | .valuiSra _ _ _ _ _ | .valuiAnd _ _ _ _ _ | .valuiOr _ _ _ _ _
  | .valuiXor _ _ _ _ _ | .valuiMov _ _ _ _
  | .vbplAnd _ _ _ _ _ | .vbplOr _ _ _ _ _ | .vbplXor _ _ _ _ _ | .vbplAndn _ _ _ _ _ | .vbplNot _ _ _ _
  | .vbplSll _ _ _ _ _ | .vbplSrl _ _ _ _ _ | .vbplSra _ _ _ _ _ | .vbplPopc _ _ _ _ | .vbplPext _ _ _ _
  | .vscaMul _ _ _ _ _ _ | .vscaRmul _ _ _ _ _ _ | .vscaCmul _ _ _ _ _ _
  | .vprmSldn _ _ _ _ _ _ | .vprmGath _ _ _ _ _ _ | .vprmBcst _ _ _ _ _ _ | .vprmTran _ _ _ _ | .vprmMov _ _ _ _ _
  | .vcvt _ _ _ _ _ => some .unlessFull
  | .vsxIsec _ _ _ _ _ | .vsxUnio _ _ _ _ _ | .vsxDiff _ _ _ _ _ | .vsxMrge _ _ _ _ _ => some .unlessStart0
  | .vfmaFma _ _ _ _ _ _ | .vfmaFms _ _ _ _ _ _ | .vfmaFnma _ _ _ _ _ _ | .vfmaFnms _ _ _ _ _ _ | .vfmaDot2 _ _ _ _ _ _
  | .vbplPins _ _ _ _ | .vbplPmac _ _ _ _
  | .vscaMacc _ _ _ _ _ _ | .vscaRmac _ _ _ _ _ _ | .vscaCmac _ _ _ _ _ _
  | .vredSum _ _ _ _ _ | .vredMax _ _ _ _ _ | .vredMin _ _ _ _ _ | .vredAmax _ _ _ _ _
  | .vprmSlup _ _ _ _ _ _ | .vprmCmpr _ _ _ _ _ | .vprmExpd _ _ _ _ _ | .vsxIcnt _ _ _ _ _ => some .always
  | .vwld _ _ _ _ _ _ _ _ | .vidxLd _ _ _ _ _ _ => some .load
  | _ => none

/-- A window load. -/
def isLoad (i : Instr) : Bool := oldRule i = some .load

/-- rsctl lets the entry use the table (R295). -/
def rsAllows (e : Entry) : Bool :=
  (oldRule e.instr).isSome && !e.cap.rsctl.getLsbD 0 && !(isLoad e.instr && e.cap.rsctl.getLsbD 1)

/-- Width of a destination element. -/
def destWidth (f : Word) : Instr → Nat
  | .vcvt _ _ _ tt _ => tt.bits
  | _ => vfmtW f

/-- Full: mask p0, start 0, and every bit of the destination group is written (R297). -/
def isFull (e : Entry) : Bool :=
  decide (maskOf e.instr = 0) && decide (e.k = 0) &&
  decide (nElems e.cap * destWidth e.cap.vfmt e.instr = destGroup e.cap.vfmt e.instr * Config.vlen)

/-- The old registers are in the key. -/
def needsOld (e : Entry) : Bool :=
  match oldRule e.instr with
  | some .unlessFull => !isFull e
  | some .unlessStart0 => decide (e.k ≠ 0)
  | some .always => true
  | some .load => !(isFull e && (match e.instr with
      | .vwld _ _ _ _ _ _ _ keep | .vidxLd _ _ _ _ _ keep => !keep
      | _ => false))
  | none => false

/-- Registers of a v source group: A of a conversion by its own width, else GM (R57). -/
def sourceGroup (f : Word) : Instr → Nat
  | .vcvt _ _ _ tt ft => ((cvtGroups (vfmtGm f) tt ft).getD (0, vfmtGm f)).2
  | _ => vfmtGm f

/-- Registers that hold the indices of a vidx.ld (R189). -/
def indexRegs (c : Cap) (iw : IdxW) : Nat := (nElems c * iwBits iw + Config.vlen - 1) / Config.vlen

/-- The vector sources of an instruction as register numbers, in field order (R296): whole groups, that of vprm.bcst row or col
(R155) and the indices of vidx.ld (R189) included. -/
def sourceRegs (c : Cap) (i : Instr) : List Nat :=
  let sh := shapeOf i
  let from' (r : Reg) (n : Nat) : List Nat := (List.range n).map (fun k => (r.toNat + k) % 32)
  let grp (r : Option Reg) : List Nat := match r with | some r => from' r (sourceGroup c.vfmt i) | none => []
  let one (r : Option Reg) : List Nat := match r with | some r => [r.toNat] | none => []
  match i with
  | .vprmBcst _ a _ _ dim _ => from' a (if dim = .lin then 1 else vfmtGm c.vfmt)
  | .vidxLd _ _ b _ iw _ => from' b (max (vfmtGm c.vfmt) (indexRegs c iw))
  | _ => grp sh.av ++ one sh.ae ++ grp sh.bv ++ one sh.be

/-- The word without D and without the register fields that name vector sources. -/
def keyWord (i : Instr) : IWord :=
  let sh := shapeOf i
  let w := (encode i).getD 0 &&& ~~~0x03E00000#32
  let w := if sh.av.isSome || sh.ae.isSome then w &&& ~~~0x001F0000#32 else w
  if sh.bv.isSome || sh.be.isSome then w &&& ~~~0x0000F800#32 else w

/-- LOAD of a key; a register that is not configured has no box (R301). -/
def loadKeyOf (s : State) (tid : Nat) (t : Thread) (e : Entry) : Option LoadKey :=
  let c := clusterOf s (tid / 4)
  let mk (h : Reg) (xb : Option Word) (idx : List Nat) : Option LoadKey :=
    some { slot := tid % 4, h := h.toNat, lo := ((tabFind t.h h.toNat).map (fun r => r.comm.lo)).getD [], xb := xb, index := idx }
  match e.instr with
  | .vwld _ a _ _ _ _ _ _ => mk a (some e.cap.xb) []
  | .vidxLd _ a b _ iw _ =>
    mk a none ((List.range (indexRegs e.cap iw)).map (fun k => rsName c (tid % 4) (b.toNat + k)))
  | _ => none

/-- The key of an entry at vcp; `none` when it looks nothing up. -/
def keyOf (s : State) (tid : Nat) (t : Thread) (e : Entry) : Option RsKey :=
  let c := clusterOf s (tid / 4)
  let name (v : Nat) : Nat := rsName c (tid % 4) v
  if !rsAllows e then none else
  some { ctx := t.ctx, opc := keyWord e.instr, src := (sourceRegs e.cap e.instr).map name,
         old := if needsOld e then (destRegs e.cap.vfmt e.instr).map name else [],
         mask := if maskOf e.instr = 0 then 0 else tabGet 0 c.rs.ptags (8 * (tid % 4) + maskOf e.instr),
         ctl := [e.cap.vfmt, e.cap.vrows, e.cap.vcols, e.cap.vmode, e.cap.srseed, e.cap.srbase, BitVec.ofNat 64 e.k],
         load := loadKeyOf s tid t e }

/-! ## Hit and insertion (R298, R299) -/

/-- A hit's effect on the table and the name map: the entry becomes the most recently used, the destination names move to
its result registers, all at once, and the counters count. -/
def rsHit (s : State) (tid : Nat) (e : Entry) (x : RsEntry) : State :=
  let c := clusterOf s (tid / 4)
  let s := setCluster s (tid / 4) { c with rs := { c.rs with table := x :: c.rs.table.erase x } }
  let s := rsMapAll s (tid / 4) (tid % 4) ((destRegs e.cap.vfmt e.instr).zip x.result)
  bump s (tid / 4) (if isLoad e.instr then 8 else 7) 1

/-- A list with its length before it. -/
def counted (l : List Nat) : List Nat := l.length :: l

/-- A key as a list of numbers, from which its digest is made (R296; log 129). -/
def keyNumbers (k : RsKey) : List Nat :=
  [k.ctx, k.opc.toNat] ++ counted k.src ++ counted k.old ++ [k.mask] ++ counted (k.ctl.map (fun w => w.toNat)) ++
  (match k.load with
   | none => []
   | some l => [l.slot, l.h] ++ counted (l.lo.map (patternOf 64)) ++ counted (l.xb.toList.map (fun w => w.toNat)) ++ l.index)

/-- An entry that missed has completed without a trap: it is inserted with its digest, in place of the least recently used one when the
table is full, unless its own write took a register of its key (R299) or cleared a mask bit (R301). -/
def rsInsert (s : State) (tid : Nat) (e : Entry) : State :=
  match e.key with
  | none => s
  | some k =>
    let c := clusterOf s (tid / 4)
    let res := (destRegs e.cap.vfmt e.instr).map (rsName c (tid % 4))
    let used := k.src ++ k.old ++ (match k.load with | some l => l.index | none => [])
    if e.cleared || used.any (fun p => p ∈ res) then s
    else bump (setCluster s (tid / 4) { c with rs := { c.rs with table := { key := k, result := res, digest := Config.rsDigest (keyNumbers k) } :: c.rs.table.take 63 } })
      (tid / 4) 9 1

/-! ## Merge (R300, R304) -/

/-- Names of a physical register: thread number and register. -/
def namesOf (c : Cluster) (cl p : Nat) : List (Nat × Nat) :=
  (c.rs.names.filter (fun e => e.2 = p)).map (fun e => (4 * cl + e.1 / 32, e.1 % 32))

/-- The contents and context of a live register; the shared zero register holds zero and belongs to every context. -/
def physReg (s : State) (cl p : Nat) : Option (VReg × Option Nat) :=
  if p = 0 then some (0, none) else
  match namesOf (clusterOf s cl) cl p with
  | [] => none
  | (tid, v) :: _ => (threadAt s tid).map (fun t => (rv t v, some t.ctx))

/-- The element groups of a live register up to the highest one that a write has changed (R292, VEXT). -/
def extOf (s : State) (cl p : Nat) : Nat :=
  match namesOf (clusterOf s cl) cl p with
  | [] => 0
  | (tid, v) :: _ => ((threadAt s tid).map (fun t => tabGet 0 t.vext v)).getD 0

/-- The content hash of a register (R300). -/
def contentHash (v : VReg) : IWord := ~~~crcUpdate 0xFFFFFFFF#32 (bytesOfNat 2048 v.toNat)

/-- An entry at vcp has begun to write a register. -/
def beingWritten (s : State) (cl p : Nat) : Bool :=
  (threadsOf s cl).any (fun x => match x.2.vq with
    | e :: _ => e.begun && (destRegs e.cap.vfmt e.instr).any (fun v => rsName (clusterOf s cl) (x.1 % 4) v = p)
    | [] => false)

/-- The step at which a register was last taken for a write; the zero register is older than any. -/
def ageOf (c : Cluster) (p : Nat) : Nat := if p = 0 then 0 else tabGet 0 c.rs.ages p

/-- What a hit gives when carrying the instruction out would trap or wait, which a hit never does (R298): the contents of the
result registers, and element groups as far as writes have changed them under one of their names (R292, VEXT). -/
def copyResults (s : State) (tid : Nat) (e : Entry) (x : RsEntry) : State :=
  modThread s tid (fun t => ((destRegs e.cap.vfmt e.instr).zip x.result).foldl (fun t m =>
    match physReg s (tid / 4) m.2 with
    | some (v, _) => { t with v := tabSet 0 t.v m.1 v, vext := tabSet 0 t.vext m.1 (max (tabGet 0 t.vext m.1) (extOf s (tid / 4) m.2)) }
    | none => t) t)

/-- RESTEEP_MERGE: two registers with equal hashes are compared in full; equal ones merge into the older, and a pair whose
contents differ is counted, once until one of the two is written. Registers that the event names in the wrong order of their
ages are no candidates (R300; log 81). -/
def execResteepMerge (cluster : Nat) (older newer : Nat) (s : State) : Host.Outcome State Fault Refusal :=
  let c := clusterOf s cluster
  .next (match physReg s cluster older, physReg s cluster newer with
    | some (a, ca), some (b, cb) =>
      if newer = 0 ∨ older = newer ∨ newer ∈ c.rs.noMerge ∨ older ∈ c.rs.noMerge then s
      else if (ca.isSome && decide (ca ≠ cb)) || beingWritten s cluster older || beingWritten s cluster newer then s
      else if contentHash a ≠ contentHash b then s
      else if ageOf c newer < ageOf c older then s
      else if a ≠ b then
        if (older, newer) ∈ c.rs.unequal then s
        else bump (setCluster s cluster { c with rs := { c.rs with unequal := c.rs.unequal ++ [(older, newer)] } }) cluster 12 1
      else
        bump ((namesOf c cluster newer).foldl (fun s n => rsMap s cluster (n.1 % 4) n.2 older) s) cluster 11 1
    | _, _ => s)

end Sys2Proof.Machine
end

