-- ==== Sys2Proof/Machine/Valu.lean ====
section
/-! DEFINITION. VALU (R143) and VALUI (R144): the value of each operation, and the pushes. -/

namespace Sys2Proof.Machine

/-- A floating result, rounded once. -/
def fOp (t : ElemTy) (rm : RMode) (x : FVal) : Nat := roundTo t rm x

/-- add. -/
def vAdd (t : ElemTy) (rm : RMode) (a b : Nat) : Nat :=
  if t.isFloat3 then fOp t rm (fadd rm (fvalOf t a) (fvalOf t b)) else (a + b) % 2 ^ t.bits
/-- sub. -/
def vSub (t : ElemTy) (rm : RMode) (a b : Nat) : Nat :=
  if t.isFloat3 then fOp t rm (fadd rm (fvalOf t a) (fneg (fvalOf t b))) else patternOf t.bits ((a : Int) - (b : Int))
/-- mul. -/
def vMul (t : ElemTy) (rm : RMode) (a b : Nat) : Nat :=
  if t.isFloat3 then fOp t rm (fmul (fvalOf t a) (fvalOf t b)) else a * b % 2 ^ t.bits
/-- min. -/
def vMin (t : ElemTy) (a b : Nat) : Nat :=
  if t.isFloat3 then fOp t .rne (fmin (fvalOf t a) (fvalOf t b)) else if intOf t a ≤ intOf t b then a else b
/-- max. -/
def vMax (t : ElemTy) (a b : Nat) : Nat :=
  if t.isFloat3 then fOp t .rne (fmax (fvalOf t a) (fvalOf t b)) else if intOf t a ≤ intOf t b then b else a
/-- sadd. -/
def vSadd (t : ElemTy) (a b : Nat) : Nat := patternOf t.bits (clampTo t (intOf t a + intOf t b))
/-- ssub. -/
def vSsub (t : ElemTy) (a b : Nat) : Nat := patternOf t.bits (clampTo t (intOf t a - intOf t b))
/-- absd. -/
def vAbsd (t : ElemTy) (rm : RMode) (a b : Nat) : Nat :=
  if t.isFloat3 then fOp t rm (fabs (fadd rm (fvalOf t a) (fneg (fvalOf t b)))) else (intOf t a - intOf t b).natAbs % 2 ^ t.bits

/-- The pattern of a sign-extended SIMM5 (R144). -/
def simmBits (t : ElemTy) (imm : BitVec 5) : Nat := patternOf t.bits imm.toInt

/-- sra of a w-bit pattern: copies of the top bit come in. -/
def sraBits (w a sh : Nat) : Nat := patternOf w (signedOf w a / 2 ^ sh)

/-- The lane work of a VALU or VALUI entry. -/
def valuWork (t : Thread) (e : Entry) : Option Work :=
  let c := e.cap
  let two (d a b : Reg) (p : PReg) (s : Bool) (ty : ElemTy) (f : RMode → Nat → Nat → Nat) : Option Work :=
    some (.groups d.toNat p.toNat ty.bits
      (fun i => f (modeOf c i) (elem t a.toNat ty.bits i) (bOperand t e s b ty.bits i)))
  let imm (d a : Reg) (p : PReg) (ty : ElemTy) (f : Nat → Nat) : Option Work :=
    some (.groups d.toNat p.toNat ty.bits (fun i => f (elem t a.toNat ty.bits i)))
  match e.instr with
  | .valuAdd d a b p s ty => two d a b p s ty (vAdd ty)
  | .valuSub d a b p s ty => two d a b p s ty (vSub ty)
  | .valuMul d a b p s ty => two d a b p s ty (vMul ty)
  | .valuMin d a b p s ty => two d a b p s ty (fun _ => vMin ty)
  | .valuMax d a b p s ty => two d a b p s ty (fun _ => vMax ty)
  | .valuSadd d a b p s ty => two d a b p s ty (fun _ => vSadd ty)
  | .valuSsub d a b p s ty => two d a b p s ty (fun _ => vSsub ty)
  | .valuAbsd d a b p s ty => two d a b p s ty (vAbsd ty)
  | .valuiAdd d a i p ty => imm d a p ty (fun x => (x + simmBits ty i) % 2 ^ ty.bits)
  | .valuiRsub d a i p ty => imm d a p ty (fun x => patternOf ty.bits ((simmBits ty i : Int) - (x : Int)))
  | .valuiMin d a i p ty => imm d a p ty (fun x => vMin ty x (simmBits ty i))
  | .valuiMax d a i p ty => imm d a p ty (fun x => vMax ty x (simmBits ty i))
  | .valuiSadd d a i p ty => imm d a p ty (fun x => vSadd ty x (simmBits ty i))
  | .valuiSll d a i p ty => imm d a p ty (fun x => x * 2 ^ i.toNat % 2 ^ ty.bits)
  | .valuiSrl d a i p ty => imm d a p ty (fun x => x / 2 ^ i.toNat)
  | .valuiSra d a i p ty => imm d a p ty (fun x => sraBits ty.bits x i.toNat)
  | .valuiAnd d a i p ty => imm d a p ty (fun x => x &&& simmBits ty i)
  | .valuiOr d a i p ty => imm d a p ty (fun x => x ||| simmBits ty i)
  | .valuiXor d a i p ty => imm d a p ty (fun x => x ^^^ simmBits ty i)
  | .valuiMov d i p ty => some (.groups d.toNat p.toNat ty.bits (fun _ => simmBits ty i))
  | _ => none

/-! The pushes (R22, R26). -/

def execValuAdd (d a b : Reg) (p : PReg) (s : Bool) (t : ElemTy) (σ : State) : Host.Outcome State Fault Refusal :=
  .next (pushCur σ (.valuAdd d a b p s t))
def execValuSub (d a b : Reg) (p : PReg) (s : Bool) (t : ElemTy) (σ : State) : Host.Outcome State Fault Refusal :=
  .next (pushCur σ (.valuSub d a b p s t))
def execValuMul (d a b : Reg) (p : PReg) (s : Bool) (t : ElemTy) (σ : State) : Host.Outcome State Fault Refusal :=
  .next (pushCur σ (.valuMul d a b p s t))
def execValuMin (d a b : Reg) (p : PReg) (s : Bool) (t : ElemTy) (σ : State) : Host.Outcome State Fault Refusal :=
  .next (pushCur σ (.valuMin d a b p s t))
def execValuMax (d a b : Reg) (p : PReg) (s : Bool) (t : ElemTy) (σ : State) : Host.Outcome State Fault Refusal :=
  .next (pushCur σ (.valuMax d a b p s t))
def execValuSadd (d a b : Reg) (p : PReg) (s : Bool) (t : ElemTy) (σ : State) : Host.Outcome State Fault Refusal :=
  .next (pushCur σ (.valuSadd d a b p s t))
def execValuSsub (d a b : Reg) (p : PReg) (s : Bool) (t : ElemTy) (σ : State) : Host.Outcome State Fault Refusal :=
  .next (pushCur σ (.valuSsub d a b p s t))
def execValuAbsd (d a b : Reg) (p : PReg) (s : Bool) (t : ElemTy) (σ : State) : Host.Outcome State Fault Refusal :=
  .next (pushCur σ (.valuAbsd d a b p s t))
def execValuiAdd (d a : Reg) (imm : BitVec 5) (p : PReg) (t : ElemTy) (σ : State) : Host.Outcome State Fault Refusal :=
  .next (pushCur σ (.valuiAdd d a imm p t))
def execValuiRsub (d a : Reg) (imm : BitVec 5) (p : PReg) (t : ElemTy) (σ : State) : Host.Outcome State Fault Refusal :=
  .next (pushCur σ (.valuiRsub d a imm p t))
def execValuiMin (d a : Reg) (imm : BitVec 5) (p : PReg) (t : ElemTy) (σ : State) : Host.Outcome State Fault Refusal :=
  .next (pushCur σ (.valuiMin d a imm p t))
def execValuiMax (d a : Reg) (imm : BitVec 5) (p : PReg) (t : ElemTy) (σ : State) : Host.Outcome State Fault Refusal :=
  .next (pushCur σ (.valuiMax d a imm p t))
def execValuiSadd (d a : Reg) (imm : BitVec 5) (p : PReg) (t : ElemTy) (σ : State) : Host.Outcome State Fault Refusal :=
  .next (pushCur σ (.valuiSadd d a imm p t))
def execValuiSll (d a : Reg) (imm : BitVec 5) (p : PReg) (t : ElemTy) (σ : State) : Host.Outcome State Fault Refusal :=
  .next (pushCur σ (.valuiSll d a imm p t))
def execValuiSrl (d a : Reg) (imm : BitVec 5) (p : PReg) (t : ElemTy) (σ : State) : Host.Outcome State Fault Refusal :=
  .next (pushCur σ (.valuiSrl d a imm p t))
def execValuiSra (d a : Reg) (imm : BitVec 5) (p : PReg) (t : ElemTy) (σ : State) : Host.Outcome State Fault Refusal :=
  .next (pushCur σ (.valuiSra d a imm p t))
def execValuiAnd (d a : Reg) (imm : BitVec 5) (p : PReg) (t : ElemTy) (σ : State) : Host.Outcome State Fault Refusal :=
  .next (pushCur σ (.valuiAnd d a imm p t))
def execValuiOr (d a : Reg) (imm : BitVec 5) (p : PReg) (t : ElemTy) (σ : State) : Host.Outcome State Fault Refusal :=
  .next (pushCur σ (.valuiOr d a imm p t))
def execValuiXor (d a : Reg) (imm : BitVec 5) (p : PReg) (t : ElemTy) (σ : State) : Host.Outcome State Fault Refusal :=
  .next (pushCur σ (.valuiXor d a imm p t))
def execValuiMov (d : Reg) (imm : BitVec 5) (p : PReg) (t : ElemTy) (σ : State) : Host.Outcome State Fault Refusal :=
  .next (pushCur σ (.valuiMov d imm p t))

end Sys2Proof.Machine
end

