-- ==== Sys2Proof/Machine/Vbpl.lean ====
section
/-! DEFINITION. VBPL (R161, R162): bit operations and bit-plane elements, and the pushes. -/

namespace Sys2Proof.Machine

/-- One bits of a w-bit pattern. -/
def popcBits (w a : Nat) : Nat := ((List.range w).filter (fun i => a.testBit i)).length

/-- The plane count an eB value gives: as s8, held to 0 to 8 (R162). -/
def planeCount (eb : Nat) : Nat := (min (max (signedOf 8 eb) 0) 8).toNat

/-- pext: the first p planes, sign kept. -/
def bplPext (p a : Nat) : Nat := patternOf 8 (signedOf 8 a / 2 ^ (8 - p))
/-- pins: the low p bits of a above the low 8 − p bits of d. -/
def bplPins (p a d : Nat) : Nat := a % 2 ^ p * 2 ^ (8 - p) + d % 2 ^ (8 - p)
/-- pmac: a scaled, plus d, clamped to s8. -/
def bplPmac (p a d : Nat) : Nat := patternOf 8 (max (-128) (min 127 (signedOf 8 a * 2 ^ (8 - p) + signedOf 8 d)))

/-- The lane work of a VBPL entry. -/
def vbplWork (t : Thread) (e : Entry) : Option Work :=
  let two (d a b : Reg) (p : PReg) (ty : ElemTy) (f : Nat → Nat → Nat) : Option Work :=
    some (.groups d.toNat p.toNat ty.bits (fun i => f (elem t a.toNat ty.bits i) (elem t b.toNat ty.bits i)))
  let one (d a : Reg) (p : PReg) (ty : ElemTy) (f : Nat → Nat) : Option Work :=
    some (.groups d.toNat p.toNat ty.bits (fun i => f (elem t a.toNat ty.bits i)))
  let plane (d a : Reg) (p : PReg) (f : Nat → Nat → Nat → Nat) : Option Work :=
    let n := planeCount ((e.eb.getD 0).toNat % 256)
    some (.groups d.toNat p.toNat 8 (fun i => f n (elem t a.toNat 8 i) (elem t d.toNat 8 i)))
  match e.instr with
  | .vbplAnd d a b p ty => two d a b p ty (fun x y => x &&& y)
  | .vbplOr d a b p ty => two d a b p ty (fun x y => x ||| y)
  | .vbplXor d a b p ty => two d a b p ty (fun x y => x ^^^ y)
  | .vbplAndn d a b p ty => two d a b p ty (fun x y => x &&& (2 ^ ty.bits - 1 - y))
  | .vbplNot d a p ty => one d a p ty (fun x => 2 ^ ty.bits - 1 - x)
  | .vbplSll d a b p ty => two d a b p ty (fun x y => if ty.bits ≤ y then 0 else x * 2 ^ y % 2 ^ ty.bits)
  | .vbplSrl d a b p ty => two d a b p ty (fun x y => if ty.bits ≤ y then 0 else x / 2 ^ y)
  | .vbplSra d a b p ty => two d a b p ty (fun x y => sraBits ty.bits x (min y ty.bits))
  | .vbplPopc d a p ty => one d a p ty (popcBits ty.bits)
  | .vbplPext d a _ p => plane d a p (fun n x _ => bplPext n x)
  | .vbplPins d a _ p => plane d a p bplPins
  | .vbplPmac d a _ p => plane d a p bplPmac
  | _ => none

/-! The pushes (R22, R26). -/

def execVbplAnd (d a b : Reg) (p : PReg) (t : ElemTy) (σ : State) : Host.Outcome State Fault Refusal :=
  .next (pushCur σ (.vbplAnd d a b p t))
def execVbplOr (d a b : Reg) (p : PReg) (t : ElemTy) (σ : State) : Host.Outcome State Fault Refusal :=
  .next (pushCur σ (.vbplOr d a b p t))
def execVbplXor (d a b : Reg) (p : PReg) (t : ElemTy) (σ : State) : Host.Outcome State Fault Refusal :=
  .next (pushCur σ (.vbplXor d a b p t))
def execVbplAndn (d a b : Reg) (p : PReg) (t : ElemTy) (σ : State) : Host.Outcome State Fault Refusal :=
  .next (pushCur σ (.vbplAndn d a b p t))
def execVbplNot (d a : Reg) (p : PReg) (t : ElemTy) (σ : State) : Host.Outcome State Fault Refusal :=
  .next (pushCur σ (.vbplNot d a p t))
def execVbplSll (d a b : Reg) (p : PReg) (t : ElemTy) (σ : State) : Host.Outcome State Fault Refusal :=
  .next (pushCur σ (.vbplSll d a b p t))
def execVbplSrl (d a b : Reg) (p : PReg) (t : ElemTy) (σ : State) : Host.Outcome State Fault Refusal :=
  .next (pushCur σ (.vbplSrl d a b p t))
def execVbplSra (d a b : Reg) (p : PReg) (t : ElemTy) (σ : State) : Host.Outcome State Fault Refusal :=
  .next (pushCur σ (.vbplSra d a b p t))
def execVbplPopc (d a : Reg) (p : PReg) (t : ElemTy) (σ : State) : Host.Outcome State Fault Refusal :=
  .next (pushCur σ (.vbplPopc d a p t))
def execVbplPext (d a b : Reg) (p : PReg) (σ : State) : Host.Outcome State Fault Refusal :=
  .next (pushCur σ (.vbplPext d a b p))
def execVbplPins (d a b : Reg) (p : PReg) (σ : State) : Host.Outcome State Fault Refusal :=
  .next (pushCur σ (.vbplPins d a b p))
def execVbplPmac (d a b : Reg) (p : PReg) (σ : State) : Host.Outcome State Fault Refusal :=
  .next (pushCur σ (.vbplPmac d a b p))

end Sys2Proof.Machine
end

