-- ==== Sys2Proof/Machine/Vperm.lean ====
section
/-! DEFINITION. Lines (R154), VPRM (R155, R156), and the pushes. -/

namespace Sys2Proof.Machine

/-- A line of the two-dimensional view (R154): L[j] is base + stride × j for j below len. -/
structure Line where
  base : Nat
  stride : Nat
  len : Nat
deriving DecidableEq, Repr

/-- L[j]. -/
def Line.at (l : Line) (j : Nat) : Nat := l.base + l.stride * j

/-- The line that holds index i, and the position of i on it. -/
def lineOf (c : Cap) (dim : Dim) (i : Nat) : Line × Nat :=
  match dim with
  | .lin => (⟨0, 1, nElems c⟩, i)
  | .row => (⟨i / ncols c * ncols c, 1, ncols c⟩, i % ncols c)
  | .col => (⟨i % ncols c, ncols c, nrows c⟩, i / ncols c)

/-- Every line, the first one first. -/
def linesOf (c : Cap) (dim : Dim) : List Line :=
  match dim with
  | .lin => [⟨0, 1, nElems c⟩]
  | .row => (List.range (nrows c)).map (fun r => ⟨r * ncols c, 1, ncols c⟩)
  | .col => (List.range (ncols c)).map (fun k => ⟨k, ncols c, nrows c⟩)

/-- The elements from `start` to n that are governed and have a value are written, all values read before (R151). -/
def writeWhole (t : Thread) (p d w start n : Nat) (f : Nat → Option Nat) : Thread :=
  (span start n).foldl (fun u i => if maskBit t p i then
    (match f i with | some v => setElem u d w i v | none => u) else u) t

/-- The moves of cmpr or expd in one line: destination and source indices (R156). -/
def packMoves (t : Thread) (p start : Nat) (expand : Bool) (l : Line) : List (Nat × Nat) :=
  let act := ((List.range l.len).map l.at).filter (fun i => start ≤ i)
  let sel := act.filter (fun i => maskBit t p i)
  if expand then sel.zip act else act.zip sel

/-- cmpr and expd. -/
def packWork (t : Thread) (c : Cap) (start : Nat) (d a : Reg) (p : PReg) (dim : Dim) (expand : Bool) : Thread :=
  let w := vfmtW c.vfmt
  ((linesOf c dim).flatMap (packMoves t p.toNat start expand)).foldl
    (fun u m => setElem u d.toNat w m.1 (elem t a.toNat w m.2)) t

/-- The lane work of a VPRM entry. -/
def vprmWork (t : Thread) (e : Entry) : Option Work :=
  let c := e.cap
  let w := vfmtW c.vfmt
  let n := nElems c
  let go (d : Reg) (p : PReg) (f : Nat → Option Nat) : Option Work := some (.whole (writeWhole t p.toNat d.toNat w e.k n f))
  match e.instr with
  | .vprmSlup d a _ p dim _ => go d p (fun i =>
      let (l, j) := lineOf c dim i
      let amt := (e.eb.getD 0).toNat % 2 ^ w
      if amt ≤ j then some (elem t a.toNat w (l.at (j - amt))) else none)
  | .vprmSldn d a _ p dim _ => go d p (fun i =>
      let (l, j) := lineOf c dim i
      let amt := (e.eb.getD 0).toNat % 2 ^ w
      some (if j + amt < l.len then elem t a.toNat w (l.at (j + amt)) else 0))
  | .vprmGath d a b p dim _ => go d p (fun i =>
      let (l, _) := lineOf c dim i
      let x := elem t b.toNat w i
      some (if x < l.len then elem t a.toNat w (l.at x) else 0))
  | .vprmCmpr d a p dim _ => some (.whole (packWork t c e.k d a p dim false))
  | .vprmExpd d a p dim _ => some (.whole (packWork t c e.k d a p dim true))
  | .vprmBcst d a _ p dim _ => go d p (fun i =>
      let j := (lineOf c dim i).2
      some (match dim with
        | .lin => elem t a.toNat w 0
        | .row => elem t a.toNat w j
        | .col => elem t a.toNat w (j * ncols c)))
  | .vprmTran d a p _ => go d p (fun i => some (elem t a.toNat w (i % nrows c * ncols c + i / nrows c)))
  | .vprmMov d a p _ _ => go d p (fun i => some (elem t a.toNat w i))
  | _ => none

/-! The pushes (R22, R26). -/

def execVprmSlup (d a b : Reg) (p : PReg) (dim : Dim) (w : PWidth) (σ : State) : Host.Outcome State Fault Refusal :=
  .next (pushCur σ (.vprmSlup d a b p dim w))
def execVprmSldn (d a b : Reg) (p : PReg) (dim : Dim) (w : PWidth) (σ : State) : Host.Outcome State Fault Refusal :=
  .next (pushCur σ (.vprmSldn d a b p dim w))
def execVprmGath (d a b : Reg) (p : PReg) (dim : Dim) (w : PWidth) (σ : State) : Host.Outcome State Fault Refusal :=
  .next (pushCur σ (.vprmGath d a b p dim w))
def execVprmCmpr (d a : Reg) (p : PReg) (dim : Dim) (w : PWidth) (σ : State) : Host.Outcome State Fault Refusal :=
  .next (pushCur σ (.vprmCmpr d a p dim w))
def execVprmExpd (d a : Reg) (p : PReg) (dim : Dim) (w : PWidth) (σ : State) : Host.Outcome State Fault Refusal :=
  .next (pushCur σ (.vprmExpd d a p dim w))
def execVprmBcst (d a b : Reg) (p : PReg) (dim : Dim) (w : PWidth) (σ : State) : Host.Outcome State Fault Refusal :=
  .next (pushCur σ (.vprmBcst d a b p dim w))
def execVprmTran (d a : Reg) (p : PReg) (w : PWidth) (σ : State) : Host.Outcome State Fault Refusal :=
  .next (pushCur σ (.vprmTran d a p w))
def execVprmMov (d a : Reg) (p : PReg) (dim : Dim) (w : PWidth) (σ : State) : Host.Outcome State Fault Refusal :=
  .next (pushCur σ (.vprmMov d a p dim w))

end Sys2Proof.Machine
end

