-- ==== Sys2Proof/Machine/Vcvt.lean ====
section
/-! DEFINITION. VCVT (R99, R159, R160), and its push. -/

namespace Sys2Proof.Machine

/-- The conversion of one element (R99). -/
def convert (tt ft : ElemTy) (rm : RMode) (v : Nat) : Nat :=
  if ft.isInt then
    if tt.isInt then patternOf tt.bits (clampTo tt (intOf ft v)) else roundTo tt rm (fvalOfInt (intOf ft v))
  else if tt.isInt then patternOf tt.bits (fvalToInt tt rm (fvalOf ft v))
  else roundTo tt rm (fvalOf ft v)

/-- The lane work of a VCVT entry: by element group for equal widths, else whole (R151). -/
def vcvtWork (t : Thread) (e : Entry) : Option Work :=
  match e.instr with
  | .vcvt d a p tt ft =>
    let f (i : Nat) : Nat := convert tt ft (modeOf e.cap i) (elem t a.toNat ft.bits i)
    if tt.bits = ft.bits then some (.groups d.toNat p.toNat tt.bits f)
    else some (.whole (writeWhole t p.toNat d.toNat tt.bits e.k (nElems e.cap) (fun i => some (f i))))
  | _ => none

/-! The push (R22, R26). -/

def execVcvt (d a : Reg) (p : PReg) (tt ft : ElemTy) (σ : State) : Host.Outcome State Fault Refusal :=
  .next (pushCur σ (.vcvt d a p tt ft))

end Sys2Proof.Machine
end

