-- ==== Sys2Proof/Machine/Vfma.lean ====
section
/-! DEFINITION. VFMA (R145, R146): the value of each operation, and the pushes. -/

namespace Sys2Proof.Machine

/-- ±(a × b) ± d with one rounding; the low 32 bits for s32 and z32. `negP` and `negD` say which signs change. -/
def vFma (t : ElemTy) (rm : RMode) (negP negD : Bool) (a b d : Nat) : Nat :=
  if t.isFloat3 then
    let p := fmul (fvalOf t a) (fvalOf t b)
    let p := if negP then fneg p else p
    let x := fvalOf t d
    fOp t rm (fadd rm p (if negD then fneg x else x))
  else
    patternOf t.bits ((if negP then -1 else 1) * ((a * b : Nat) : Int) + (if negD then -1 else 1) * ((d : Nat) : Int))

/-- The inner product of a dot2 pair, rounded to f32 by rne; `second` is the pair's second elements when it has them
(R146). -/
def dotPair (t : ElemTy) (a0 b0 : Nat) (second : Option (Nat × Nat)) : FVal :=
  let p := fmul (fvalOf t a0) (fvalOf t b0)
  fvalOf .f32 (roundTo .f32 .rne (match second with
    | none => p
    | some (a1, b1) => fadd .rne p (fmul (fvalOf t a1) (fvalOf t b1))))

/-- Whether index i is the first element of a column pair (R146). -/
def pairStart (c : Cap) (i : Nat) : Bool := i % ncols c % 2 = 0

/-- dot2 at the pair that starts at index i. -/
def dot2At (t : Thread) (e : Entry) (d a b : Reg) (s : Bool) (ty : ElemTy) (i : Nat) : Nat :=
  let w := ty.bits
  let second := if i % ncols e.cap + 1 < ncols e.cap then
      some (elem t a.toNat w (i + 1), bOperand t e s b w (i + 1)) else none
  let p := dotPair ty (elem t a.toNat w i) (bOperand t e s b w i) second
  let rm := modeOf e.cap i
  fOp ty rm (fadd rm (fvalOf ty (elem t d.toNat w i)) p)

/-- The lane work of a VFMA entry. A dot2 writes the first element of each pair and keeps the second. -/
def vfmaWork (t : Thread) (e : Entry) : Option Work :=
  let go (d a b : Reg) (p : PReg) (s : Bool) (ty : ElemTy) (np nd : Bool) : Option Work :=
    some (.groups d.toNat p.toNat ty.bits (fun i =>
      vFma ty (modeOf e.cap i) np nd (elem t a.toNat ty.bits i) (bOperand t e s b ty.bits i) (elem t d.toNat ty.bits i)))
  match e.instr with
  | .vfmaFma d a b p s ty => go d a b p s ty false false
  | .vfmaFms d a b p s ty => go d a b p s ty false true
  | .vfmaFnma d a b p s ty => go d a b p s ty true true
  | .vfmaFnms d a b p s ty => go d a b p s ty true false
  | .vfmaDot2 d a b p s ty => some (.groups d.toNat p.toNat ty.bits (fun i =>
      if pairStart e.cap i then dot2At t e d a b s ty i else elem t d.toNat ty.bits i))
  | _ => none

/-! The pushes (R22, R26). -/

def execVfmaFma (d a b : Reg) (p : PReg) (s : Bool) (t : ElemTy) (σ : State) : Host.Outcome State Fault Refusal :=
  .next (pushCur σ (.vfmaFma d a b p s t))
def execVfmaFms (d a b : Reg) (p : PReg) (s : Bool) (t : ElemTy) (σ : State) : Host.Outcome State Fault Refusal :=
  .next (pushCur σ (.vfmaFms d a b p s t))
def execVfmaFnma (d a b : Reg) (p : PReg) (s : Bool) (t : ElemTy) (σ : State) : Host.Outcome State Fault Refusal :=
  .next (pushCur σ (.vfmaFnma d a b p s t))
def execVfmaFnms (d a b : Reg) (p : PReg) (s : Bool) (t : ElemTy) (σ : State) : Host.Outcome State Fault Refusal :=
  .next (pushCur σ (.vfmaFnms d a b p s t))
def execVfmaDot2 (d a b : Reg) (p : PReg) (s : Bool) (t : ElemTy) (σ : State) : Host.Outcome State Fault Refusal :=
  .next (pushCur σ (.vfmaDot2 d a b p s t))

end Sys2Proof.Machine
end

