-- ==== Sys2Proof/Machine/Vmsk.lean ====
section
/-! DEFINITION. VCMP (R147) and VMSK (R148): their results, and the pushes. -/

namespace Sys2Proof.Machine

/-- The lowest index below n whose bit of pA and of P are both 1. -/
def firstBoth (t : Thread) (a p n : Nat) : Option Nat := leastBelow n (fun i => maskBit t a i && maskBit t p i)

/-- How many indices below n have the bit of pA and of P both 1. -/
def countBoth (t : Thread) (a p n : Nat) : Nat := ((List.range n).filter (fun i => maskBit t a i && maskBit t p i)).length

/-- The lane work of a VCMP or VMSK entry. VMSK ignores the captured start (R137); frst and popc write nothing when n is
0 (R131). -/
def vmskWork (t : Thread) (e : Entry) : Option Work :=
  let n := nElems e.cap
  let mask (d : Reg) (p : PReg) (f : Nat → Bool) : Option Work :=
    some (.whole (clearFrom (writeBits t p.toNat d.toNat 0 n f) d.toNat n))
  match e.instr with
  | .vcmp d a b p s cc ty => some (.bits d.toNat p.toNat ty.bits (fun i =>
      vcondHolds cc (cmpOf ty (elem t a.toNat ty.bits i) (bOperand t e s b ty.bits i))))
  | .vmskAnd d a b p => mask d p (fun i => maskBit t a.toNat i && maskBit t b.toNat i)
  | .vmskOr d a b p => mask d p (fun i => maskBit t a.toNat i || maskBit t b.toNat i)
  | .vmskXor d a b p => mask d p (fun i => maskBit t a.toNat i != maskBit t b.toNat i)
  | .vmskAndn d a b p => mask d p (fun i => maskBit t a.toNat i && !maskBit t b.toNat i)
  | .vmskOrn d a b p => mask d p (fun i => maskBit t a.toNat i || !maskBit t b.toNat i)
  | .vmskNot d a p => mask d p (fun i => !maskBit t a.toNat i)
  | .vmskMov d a p => mask d p (fun i => maskBit t a.toNat i)
  | .vmskFrst d a p => some (.whole (if n = 0 then t else
      writeE t e.cap d (match firstBoth t a.toNat p.toNat n with | some i => i | none => 2 ^ 64 - 1)))
  | .vmskPopc d a p => some (.whole (if n = 0 then t else writeE t e.cap d (countBoth t a.toNat p.toNat n)))
  | _ => none

/-! The pushes (R22, R26). -/

def execVcmp (d a b : Reg) (p : PReg) (s : Bool) (cc : VCond) (t : ElemTy) (σ : State) : Host.Outcome State Fault Refusal :=
  .next (pushCur σ (.vcmp d a b p s cc t))
def execVmskAnd (d a b : Reg) (p : PReg) (σ : State) : Host.Outcome State Fault Refusal :=
  .next (pushCur σ (.vmskAnd d a b p))
def execVmskOr (d a b : Reg) (p : PReg) (σ : State) : Host.Outcome State Fault Refusal :=
  .next (pushCur σ (.vmskOr d a b p))
def execVmskXor (d a b : Reg) (p : PReg) (σ : State) : Host.Outcome State Fault Refusal :=
  .next (pushCur σ (.vmskXor d a b p))
def execVmskAndn (d a b : Reg) (p : PReg) (σ : State) : Host.Outcome State Fault Refusal :=
  .next (pushCur σ (.vmskAndn d a b p))
def execVmskOrn (d a b : Reg) (p : PReg) (σ : State) : Host.Outcome State Fault Refusal :=
  .next (pushCur σ (.vmskOrn d a b p))
def execVmskNot (d a : Reg) (p : PReg) (σ : State) : Host.Outcome State Fault Refusal :=
  .next (pushCur σ (.vmskNot d a p))
def execVmskMov (d a : Reg) (p : PReg) (σ : State) : Host.Outcome State Fault Refusal :=
  .next (pushCur σ (.vmskMov d a p))
def execVmskFrst (d a : Reg) (p : PReg) (σ : State) : Host.Outcome State Fault Refusal :=
  .next (pushCur σ (.vmskFrst d a p))
def execVmskPopc (d a : Reg) (p : PReg) (σ : State) : Host.Outcome State Fault Refusal :=
  .next (pushCur σ (.vmskPopc d a p))

end Sys2Proof.Machine
end

