-- ==== Sys2Proof/Machine/Vred.lean ====
section
/-! DEFINITION. VRED (R157, R158) with the orders of floating sums (R103, R104), and the pushes. -/

namespace Sys2Proof.Machine

/-- f32 addition of two positions, an absent one having no part (R103). -/
def addOpt (a b : Option Nat) : Option Nat :=
  match a, b with
  | none, x | x, none => x
  | some x, some y => some (f32Add x y)

/-- One level of the tree: adjacent pairs, lower first. -/
def pairUp : List (Option Nat) → List (Option Nat)
  | [] => []
  | [a] => [a]
  | a :: b :: r => addOpt a b :: pairUp r

/-- `n` levels of the tree. -/
def treeLevels : Nat → List (Option Nat) → List (Option Nat)
  | 0, l => l
  | n + 1, l => treeLevels n (pairUp l)

/-- The sum of one block. -/
def treeSum (levels : Nat) (l : List (Option Nat)) : Option Nat := (treeLevels levels l).headD none

/-- A sequence cut into blocks of `k`, with fuel. -/
def blocksOf (k : Nat) : Nat → List (Option Nat) → List (List (Option Nat))
  | 0, _ => []
  | f + 1, l => if l = [] then [] else l.take k :: blocksOf k f (l.drop k)

/-- The f32 sum of a carry-in and a sequence of positions: the canonical fold of R103, or this part's order of R104. -/
def sumSeq (lam : Bool) (carry : Nat) (l : List (Option Nat)) : Nat :=
  if lam then (blocksOf 32 l.length l).foldl (fun s b => (addOpt (some s) (treeSum 5 b)).getD s) carry
  else
    let rs := (blocksOf 64 l.length l).map (treeSum 6)
    (addOpt (treeSum 16 rs) (some carry)).getD carry

/-- A floating element widened exactly to f32 (R103). -/
def widen (t : ElemTy) (v : Nat) : Nat := roundTo .f32 .rne (fvalOf t v)

/-- The magnitude of a signed integer pattern, clamped (R158, amax). -/
def intAmax (t : ElemTy) (m : Int) (v : Nat) : Int := max m (min ((intOf t v).natAbs : Int) (2 ^ (t.bits - 1) - 1))

/-- The reduction of a line: `carry` is the element at the result position, `ins` its positions. -/
def redLine (op : Nat) (t : ElemTy) (lam : Bool) (rm : RMode) (carry : Nat) (ins : List (Option Nat)) : Nat :=
  let vals := ins.filterMap id
  match op with
  | 0 =>
    if t.isFloat3 then fOp t rm (fvalOf .f32 (sumSeq lam (widen t carry) (ins.map (fun x => x.map (widen t)))))
    else vals.foldl (fun s v => (s + v) % 2 ^ t.bits) carry
  | 1 => if t.isFloat3 then fOp t .rne (vals.foldl (fun s v => fmax s (fvalOf t v)) (fvalOf t carry)) else vals.foldl (vMax t) carry
  | 2 => if t.isFloat3 then fOp t .rne (vals.foldl (fun s v => fmin s (fvalOf t v)) (fvalOf t carry)) else vals.foldl (vMin t) carry
  | _ =>
    if t.isFloat3 then fOp t .rne (vals.foldl (fun s v => fmax s (fabs (fvalOf t v))) (fabs (fvalOf t carry)))
    else patternOf t.bits (vals.foldl (intAmax t) (intAmax t 0 carry))

/-- VRED: every result position is written when n is above 0 (R157). -/
def redWork (t : Thread) (e : Entry) (op : Nat) (d a : Reg) (p : PReg) (dim : Dim) (ty : ElemTy) : Option Work :=
  let c := e.cap
  let w := ty.bits
  some (.whole (if nElems c = 0 then t else (linesOf c dim).foldl (fun u l =>
    let ins := (List.range l.len).map (fun j =>
      if e.k ≤ l.at j ∧ maskBit t p.toNat (l.at j) then some (elem t a.toNat w (l.at j)) else none)
    setElem u d.toNat w l.base
      (redLine op ty (c.vmode.getLsbD 3) (modeOf c l.base) (elem t d.toNat w l.base) ins)) t))

/-- The lane work of a VRED entry. -/
def vredWork (t : Thread) (e : Entry) : Option Work :=
  match e.instr with
  | .vredSum d a p dim ty => redWork t e 0 d a p dim ty
  | .vredMax d a p dim ty => redWork t e 1 d a p dim ty
  | .vredMin d a p dim ty => redWork t e 2 d a p dim ty
  | .vredAmax d a p dim ty => redWork t e 3 d a p dim ty
  | _ => none

/-! The pushes (R22, R26). -/

def execVredSum (d a : Reg) (p : PReg) (dim : Dim) (t : ElemTy) (σ : State) : Host.Outcome State Fault Refusal :=
  .next (pushCur σ (.vredSum d a p dim t))
def execVredMax (d a : Reg) (p : PReg) (dim : Dim) (t : ElemTy) (σ : State) : Host.Outcome State Fault Refusal :=
  .next (pushCur σ (.vredMax d a p dim t))
def execVredMin (d a : Reg) (p : PReg) (dim : Dim) (t : ElemTy) (σ : State) : Host.Outcome State Fault Refusal :=
  .next (pushCur σ (.vredMin d a p dim t))
def execVredAmax (d a : Reg) (p : PReg) (dim : Dim) (t : ElemTy) (σ : State) : Host.Outcome State Fault Refusal :=
  .next (pushCur σ (.vredAmax d a p dim t))

end Sys2Proof.Machine
end

