-- ==== Sys2Proof/Machine/Vsca.lean ====
section
/-! DEFINITION. VSCA (R163): scale and accumulate, and the pushes. -/

namespace Sys2Proof.Machine

/-- The exact product of an element and its scale. -/
def scaProduct (ty : ElemTy) (a s : Nat) : FVal :=
  if ty = .f32 then fmul (fvalOf .f32 a) (fvalOf .f32 s) else fvalOfInt (intOf ty a * intOf ty s)

/-- Which element of the B group scales index i: `sel` 0 its own, 1 that of its row, 2 that of its column. -/
def scaIndex (c : Cap) (sel i : Nat) : Nat :=
  match sel with
  | 0 => i
  | 1 => i / ncols c
  | _ => i % ncols c

/-- The value of an element of a VSCA. -/
def scaVal (t : Thread) (e : Entry) (sel : Nat) (acc : Bool) (d a b : Reg) (s : Bool) (ty : ElemTy) (i : Nat) : Nat :=
  let rm := modeOf e.cap i
  let x := scaProduct ty (elem t a.toNat 32 i) (bOperand t e s b 32 (scaIndex e.cap sel i))
  fOp .f32 rm (if acc then fadd rm x (fvalOf .f32 (elem t d.toNat 32 i)) else x)

/-- The lane work of a VSCA entry: mul and macc by element group, the others whole (R151). -/
def vscaWork (t : Thread) (e : Entry) : Option Work :=
  let own (acc : Bool) (d a b : Reg) (p : PReg) (s : Bool) (ty : ElemTy) : Option Work :=
    some (.groups d.toNat p.toNat 32 (scaVal t e 0 acc d a b s ty))
  let line (sel : Nat) (acc : Bool) (d a b : Reg) (p : PReg) (s : Bool) (ty : ElemTy) : Option Work :=
    some (.whole (writeWhole t p.toNat d.toNat 32 e.k (nElems e.cap) (fun i => some (scaVal t e sel acc d a b s ty i))))
  match e.instr with
  | .vscaMul d a b p s ty => own false d a b p s ty
  | .vscaMacc d a b p s ty => own true d a b p s ty
  | .vscaRmul d a b p s ty => line 1 false d a b p s ty
  | .vscaCmul d a b p s ty => line 2 false d a b p s ty
  | .vscaRmac d a b p s ty => line 1 true d a b p s ty
  | .vscaCmac d a b p s ty => line 2 true d a b p s ty
  | _ => none

/-! The pushes (R22, R26). -/

def execVscaMul (d a b : Reg) (p : PReg) (s : Bool) (t : ElemTy) (σ : State) : Host.Outcome State Fault Refusal :=
  .next (pushCur σ (.vscaMul d a b p s t))
def execVscaMacc (d a b : Reg) (p : PReg) (s : Bool) (t : ElemTy) (σ : State) : Host.Outcome State Fault Refusal :=
  .next (pushCur σ (.vscaMacc d a b p s t))
def execVscaRmul (d a b : Reg) (p : PReg) (s : Bool) (t : ElemTy) (σ : State) : Host.Outcome State Fault Refusal :=
  .next (pushCur σ (.vscaRmul d a b p s t))
def execVscaCmul (d a b : Reg) (p : PReg) (s : Bool) (t : ElemTy) (σ : State) : Host.Outcome State Fault Refusal :=
  .next (pushCur σ (.vscaCmul d a b p s t))
def execVscaRmac (d a b : Reg) (p : PReg) (s : Bool) (t : ElemTy) (σ : State) : Host.Outcome State Fault Refusal :=
  .next (pushCur σ (.vscaRmac d a b p s t))
def execVscaCmac (d a b : Reg) (p : PReg) (s : Bool) (t : ElemTy) (σ : State) : Host.Outcome State Fault Refusal :=
  .next (pushCur σ (.vscaCmac d a b p s t))

end Sys2Proof.Machine
end

