-- ==== Sys2Proof/Machine/Vsx.lean ====
section
/-! DEFINITION. VSX: set operations on sorted streams (R164, R165), and the pushes. -/

namespace Sys2Proof.Machine

/-- The end marker of a type: its largest value (R164). -/
def topOf (t : ElemTy) : Nat := if t.isSigned then 2 ^ (t.bits - 1) - 1 else 2 ^ t.bits - 1

/-- Which values of the walk of R164 an operation keeps: those of la alone, of lb alone, one of a match, both of it. -/
structure Keep where
  left : Bool
  right : Bool
  one : Bool
  both : Bool
deriving DecidableEq, Repr

/-- The walk of R164, with fuel for the steps it can take: what it appends, and how many matches it found. -/
def walkLists (t : ElemTy) (o : Keep) : Nat → List Nat → List Nat → List Nat × Nat
  | 0, _, _ => ([], 0)
  | f + 1, la, lb =>
    match la, lb with
    | [], lb => (if o.right then lb else [], 0)
    | la, [] => (if o.left then la else [], 0)
    | x :: ra, y :: rb =>
      if intOf t x < intOf t y then
        let (l, n) := walkLists t o f ra (y :: rb)
        (if o.left then x :: l else l, n)
      else if intOf t y < intOf t x then
        let (l, n) := walkLists t o f (x :: ra) rb
        (if o.right then y :: l else l, n)
      else
        let (l, n) := walkLists t o f ra rb
        (if o.one then x :: l else if o.both then x :: y :: l else l, n + 1)

/-- A list of R164: active, governed values that are not top, in ascending index. -/
def streamOf (t : Thread) (e : Entry) (v : Reg) (p : PReg) (ty : ElemTy) : List Nat :=
  ((span e.k (nElems e.cap)).filter (fun i => maskBit t p.toNat i)).map (fun i => elem t v.toNat ty.bits i) |>.filter
    (fun x => x ≠ topOf ty)

/-- What the walk of an instruction gives. -/
def vsxWalk (t : Thread) (e : Entry) (a b : Reg) (p : PReg) (ty : ElemTy) (o : Keep) : List Nat × Nat :=
  let la := streamOf t e a p ty
  let lb := streamOf t e b p ty
  walkLists ty o (la.length + lb.length + 1) la lb

/-- Every position from the start to n − 1 is written, the unused ones with top (R165). -/
def vsxWrite (t : Thread) (e : Entry) (d : Reg) (ty : ElemTy) (out : List Nat) : Thread :=
  (span e.k (nElems e.cap)).foldl (fun u i => setElem u d.toNat ty.bits i (out.getD (i - e.k) (topOf ty))) t

/-- The lane work of a VSX entry. -/
def vsxWork (t : Thread) (e : Entry) : Option Work :=
  let go (d a b : Reg) (p : PReg) (ty : ElemTy) (o : Keep) : Option Work :=
    some (.whole (vsxWrite t e d ty (vsxWalk t e a b p ty o).1))
  match e.instr with
  | .vsxIsec d a b p ty => go d a b p ty ⟨false, false, true, false⟩
  | .vsxUnio d a b p ty => go d a b p ty ⟨true, true, true, false⟩
  | .vsxDiff d a b p ty => go d a b p ty ⟨true, false, false, false⟩
  | .vsxMrge d a b p ty => go d a b p ty ⟨true, true, false, true⟩
  | .vsxIcnt d a b p ty => some (.whole (if nElems e.cap = 0 then t else
      writeE t e.cap d (vsxWalk t e a b p ty ⟨false, false, false, false⟩).2))
  | _ => none

/-! The pushes (R22, R26). -/

def execVsxIsec (d a b : Reg) (p : PReg) (t : ElemTy) (σ : State) : Host.Outcome State Fault Refusal :=
  .next (pushCur σ (.vsxIsec d a b p t))
def execVsxIcnt (d a b : Reg) (p : PReg) (t : ElemTy) (σ : State) : Host.Outcome State Fault Refusal :=
  .next (pushCur σ (.vsxIcnt d a b p t))
def execVsxUnio (d a b : Reg) (p : PReg) (t : ElemTy) (σ : State) : Host.Outcome State Fault Refusal :=
  .next (pushCur σ (.vsxUnio d a b p t))
def execVsxDiff (d a b : Reg) (p : PReg) (t : ElemTy) (σ : State) : Host.Outcome State Fault Refusal :=
  .next (pushCur σ (.vsxDiff d a b p t))
def execVsxMrge (d a b : Reg) (p : PReg) (t : ElemTy) (σ : State) : Host.Outcome State Fault Refusal :=
  .next (pushCur σ (.vsxMrge d a b p t))

end Sys2Proof.Machine
end

