-- ==== Sys2Proof/Machine/Issue.lean ====
section
/-! DEFINITION. The vector unit: what an entry does when it reaches vcp (R27, R28, R200), and the grants of lane groups
(R133, R273, R274). -/

namespace Sys2Proof.Machine

/-! ## Entries that need lanes -/

/-- The register work of an entry that needs lanes. -/
def laneWork (t : Thread) (e : Entry) : Option Work :=
  (valuWork t e).or ((vfmaWork t e).or ((vmskWork t e).or ((vprmWork t e).or ((vredWork t e).or ((vcvtWork t e).or
    ((vbplWork t e).or ((vscaWork t e).or (vsxWork t e))))))))

/-- An entry that needs lanes: register arithmetic, window access and accw.upd (R273). -/
def needsLanes (i : Instr) : Bool :=
  (oldRule i).isSome || (match i with
    | .vcmp _ _ _ _ _ _ _ | .vmskAnd _ _ _ _ | .vmskOr _ _ _ _ | .vmskXor _ _ _ _ | .vmskAndn _ _ _ _ | .vmskOrn _ _ _ _
    | .vmskNot _ _ _ | .vmskMov _ _ _ | .vmskFrst _ _ _ | .vmskPopc _ _ _ | .vwst _ _ _ _ _ _ _ | .vidxSt _ _ _ _ _
    | .accwUpd _ _ _ _ _ => true
    | _ => false)

/-- The work of one grant on registers: an element group, or the whole of an instruction that commits whole. -/
def workStep (s : State) (tid : Nat) (t : Thread) (e : Entry) : Res :=
  let n := nElems e.cap
  let tag (s : State) : State := match maskDest e.instr with
    | some d => rsTagMask s (tid / 4) (tid % 4) d
    | none => s
  match laneWork t e with
  | none => .done s
  | some (.whole g) => .done (tag (setThread s tid g))
  | some (.groups d p w f) =>
    let hi := min n (groupEnd w e.k)
    let s := setThread s tid (writeGroup t p d w e.k hi f)
    if n ≤ hi then .done s else .more (modHead s tid (fun e => { e with k := hi }))
  | some (.bits d p w f) =>
    let hi := min n (groupEnd w e.k)
    let u := writeBits t p d e.k hi f
    if n ≤ hi then .done (tag (setThread s tid (clearFrom u d (max n e.k))))
    else .more (modHead (tag (setThread s tid u)) tid (fun e => { e with k := hi }))

/-- One grant's work for an entry that needs lanes. -/
def laneStep (s : State) (tid : Nat) (t : Thread) (e : Entry) : Res :=
  match accessOf t e with
  | some a => winStep s tid t e a
  | none =>
    match e.instr with
    | .accwUpd d a b p ty => accwStep s tid t e d a b p ty
    | _ => workStep s tid t e

/-- The entry at vcp run from where it stands to its end, with fuel for its element groups; `none` when a group of it
waits or traps. -/
def laneRun : Nat → State → Nat → Option State
  | 0, _, _ => none
  | f + 1, s, tid =>
    match threadAt s tid with
    | none => none
    | some t =>
      match t.vq with
      | [] => none
      | e :: _ =>
        match laneStep s tid t e with
        | .done s => some s
        | .more s => laneRun f s tid
        | .wait _ | .trap _ _ _ _ => none

/-- Element groups of the longest entry, and one more. -/
def laneFuel : Nat := 257

/-- The e operand of an entry, read once before it writes any element (R139). -/
def readE (t : Thread) (e : Entry) : Entry :=
  let sh := shapeOf e.instr
  match sh.be.or sh.ae with
  | some r => { e with eb := some (e.eb.getD (BitVec.ofNat 64 (elem t r.toNat (vfmtW e.cap.vfmt) 0))) }
  | none => e

/-- Destination names take registers to write (R298). -/
def takeDests (s : State) (tid : Nat) (e : Entry) : State :=
  (destRegs e.cap.vfmt e.instr).foldl (fun s v => rsTake s (tid / 4) (tid % 4) v e.cap.rsctl) s

/-- An entry has no element group to issue (R131, R133, R273): n is 0, or its start lies past the last element of an
elementwise form. -/
def noGroups (t : Thread) (e : Entry) : Bool :=
  let n := nElems e.cap
  decide (n = 0) || (decide (n ≤ e.k) && (match laneWork t e with | some (.whole _) => false | _ => true))

/-- An entry whose lookup missed waits for grants; one without an element group completes at once. -/
def awaitGrants (s : State) (tid : Nat) (t : Thread) (e : Entry) : Res :=
  let s := modHead (takeDests s tid e) tid (fun _ => e)
  if noGroups t e then
    (match laneStep s tid t e with
     | .done s => .done (rsInsert s tid e)
     | r => r)
  else .more s

/-- An entry that needs lanes reaches vcp: the table is looked up; on a hit the entry completes in this step, with the
values that executing it gives, or where that would trap or wait with those of its result registers (R298, R303). -/
def beginLanes (s : State) (tid : Nat) (t : Thread) (e : Entry) : Res :=
  let e := { readE t e with begun := true, cleared := false }
  let s := modHead s tid (fun _ => e)
  let miss (s : State) (k : Option RsKey) : Res := awaitGrants s tid t { e with key := k }
  match keyOf s tid t e with
  | none => miss s none
  | some k =>
    let s := bump s (tid / 4) 6 1
    match (clusterOf s (tid / 4)).rs.table.find? (fun x => x.key = k) with
    | none => miss s (some k)
    | some x =>
      .done (rsHit ((laneRun laneFuel s tid).getD (copyResults s tid e x)) tid e x)

/-! ## Entries at vcp -/

/-- What an entry that needs no lanes does at vcp (R175, R186, R200, R242, R251, R256, R258, R271, R276 to R278). -/
def engineAtVcp (s : State) (tid : Nat) (t : Thread) (e : Entry) : Res :=
  match e.instr with
  | .hresSet d _ => hresSetAtVcp s tid t e d.toNat
  | .hresClr d => hresClrAtVcp s tid t e d.toNat
  | .hresAnch _ _ _ | .hresLim _ _ _ | .hresBind _ _ | .hresWmk _ _
  | .kcntExt _ _ | .kcntLink _ _ | .kcntAdv _ | .kcntSet _ _ | .kcntRst _ => markerAtVcp s tid t e
  | .tileMma d a b p ty => mmaAtVcp s tid t e d a b p ty
  | .tileZero d p => tileAtVcp s tid t e d p 0
  | .tileScal d a p => tileAtVcp s tid t e d p (BitVec.ofNat 2048 (elem t a.toNat 32 0))
  | .tileOn d => tileOnAtVcp s tid t d
  | .tileOff d => tileAtVcp s tid t e d 0 0
  | .cdyClaim a b => claimAtVcp s tid t e a b
  | .cdyLoad d a _ => cdyLoadAtVcp s tid t e d a false
  | .cdyLstr d a _ => cdyLoadAtVcp s tid t e d a true
  | .cdyRel a b => relAtVcp s tid t e a b
  | .cdyMeta d a => metaAtVcp s tid t e d a
  | .tmovRtov d a b p => tmovOutAtVcp s tid t e d a b p false
  | .tmovCtov d a b p => tmovOutAtVcp s tid t e d a b p true
  | .tmovVtor d a b p | .tmovVtoc d a b p => tmovInAtVcp s tid t e d a b p
  | .syncAcq _ sc => if e.begun then .wait s else acqAtVcp s tid t e sc
  | .syncRel _ sc => relLatchAtVcp s tid t e sc
  | .syncBind _ _ _ sc => bindAtVcp s tid t e sc
  | .syncUbnd _ _ sc => ubndAtVcp s tid t e sc
  | .syncFenc _ => fencAtVcp s t
  | .syncBarr _ l => barrAtVcp s tid t e l
  | .syncArrv _ l => arrvAtVcp s t e l
  | .syncExpt _ _ l => exptAtVcp s t e l
  | .vwtc d _ b p cc w64 => if e.begun then .wait s else vwtcAtVcp s tid t e d b p cc w64
  | .accwMrge d ty => accwMrgeAtVcp s tid t e d ty
  | .accwClr d ty => accwClrAtVcp s tid t e d ty
  | .linkXfer _ _ _ _ _ | .linkLacq _ | .linkLrel _ | .linkLsig _ => linkAtVcp s tid t e
  | .collAred _ _ | .collRsct _ _ | .collAgat _ _ => collAtVcp s tid t e
  | .lnch _ _ => lnchAtVcp s tid t e
  | .vrel => vrelAtVcp s tid t e
  | i => (match amoOf i with
    | some m => amoAtVcp s tid t e m
    | none => .done s)

/-- The entry at vcp may go on: the thread is not to stop and holds no deferred trap (R289, R291). -/
def headFree (t : Thread) : Bool := !t.stopReq && !t.stopped && t.deferred.isNone

/-- What a turn of the entry at vcp leads to. -/
def settle (tid : Nat) : Res → State
  | .done s => completeHead s tid
  | .more s | .wait s => s
  | .trap s c v k => vectorTrap s tid c v k false

/-- ENTRY_AT_VCP: the entry at vcp of a thread is carried out or handed off, or begins to wait for lanes; one whose packet a router has
dropped waits for ever (R309). -/
def execEntryAtVcp (thread : Nat) (s : State) : Host.Outcome State Fault Refusal :=
  .next (match threadAt s thread with
    | none => s
    | some t =>
      match t.vq with
      | [] => s
      | e :: _ =>
        if !headFree t || decide (e.uid ∈ s.dropped) then s
        else if needsLanes e.instr then (if e.begun then s else settle thread (beginLanes s thread t e))
        else settle thread (engineAtVcp s thread t e))

/-! ## The issue arbiter (R273, R274) -/

/-- A thread that is ready, with the outcome of its next grant: its entry at vcp needs lanes, has begun, and its next
element group waits on no line. A thread whose next group waits on an empty line is not ready, so that it is granted nothing and
keeps no thread of weight 0 from its grants: R273 counts any element group not yet issued and does not speak of that wait (DESIGN
CHOICE, log 107). -/
def readyStep (s : State) (tid : Nat) : Option Res :=
  match threadAt s tid with
  | none => none
  | some t =>
    match t.vq with
    | [] => none
    | e :: _ =>
      if !headFree t || !needsLanes e.instr || !e.begun then none else
      match laneStep s tid t e with
      | .wait _ => none
      | r => some r

/-- A grant: the thread's next element group, counted (R323). -/
def grant (s : State) (tid : Nat) (r : Res) : State :=
  let insert (s : State) : State := match (threadAt s tid).bind (fun t => t.vq.head?) with
    | some e => rsInsert s tid e
    | none => s
  let count (s : State) : State := bump s (tid / 4) 1 1
  match r with
  | .done s => completeHead (insert (count s)) tid
  | .more s => count s
  | .wait _ => s
  | .trap s c v k => vectorTrap (count s) tid c v k false

/-- A lane group is busy in Capped mode (R375). -/
def groupBusy (s : State) (cl g : Nat) : Bool :=
  let die := dieOfCluster cl
  decide (tabGet 0 s.dieMode die = 2) && decide (g = (3 + tabGet 0 s.cycles die / 65536) % 4)

/-- The slot of a thread that holds a lane group of a cluster (R38). -/
def groupHolder (s : State) (cl g : Nat) : Option Nat :=
  (List.range 4).find? (fun k => match threadAt s (4 * cl + k) with
    | some t => decide (t.lgrp = some g)
    | none => false)

/-- The slots of a cluster in ring order from its pointer. -/
def ringFrom (ptr : Nat) : List Nat := [ptr, ptr + 1, ptr + 2, ptr + 3].map (fun k => k % 4)

/-- The weight of the thread in a slot. -/
def weightAt (s : State) (cl k : Nat) : Nat := ((threadAt s (4 * cl + k)).map (fun t => t.weight)).getD 0

/-- A slot of a cluster that shares lane groups is ready. -/
def sharesReady (s : State) (cl k : Nat) : Bool :=
  (readyStep s (4 * cl + k)).isSome && ((threadAt s (4 * cl + k)).all (fun t => t.lgrp.isNone))

/-- The deficits after the refill that R274 makes when no thread of E has any left. -/
def refill (s : State) (cl : Nat) (es : List Nat) : Tab Nat :=
  let c := clusterOf s cl
  if es.any (fun k => 0 < tabGet 0 c.deficit k) then c.deficit
  else es.foldl (fun d k => tabSet 0 d k (weightAt s cl k)) []

/-- A thread of nonzero weight that holds a lane group of the cluster is ready: it takes no other group, and keeps those of weight
0 from theirs (R32, R273). -/
def heldReady (s : State) (cl : Nat) : Bool :=
  (List.range 4).any (fun k => decide (weightAt s cl k ≠ 0) && (readyStep s (4 * cl + k)).isSome &&
    (threadAt s (4 * cl + k)).any (fun t => t.lgrp.isSome))

/-- The slot that a grantable lane group goes to, with the deficits after it (R32, R274). -/
def arbitrate (s : State) (cl : Nat) : Option (Nat × Tab Nat) :=
  let c := clusterOf s cl
  let ring := (ringFrom c.ptr).filter (sharesReady s cl)
  let es := ring.filter (fun k => weightAt s cl k ≠ 0)
  if es = [] then (if heldReady s cl then none else ring.head?.map (fun k => (k, c.deficit)))
  else
    let d := refill s cl es
    (es.find? (fun k => 0 < tabGet 0 d k)).map (fun k => (k, tabSet 0 d k (tabGet 0 d k - 1)))

/-- One lane group of a cluster in one cycle. A thread that holds the group is granted it in every cycle in which it is ready, one of
weight 0 too, also while a thread of nonzero weight is ready (R273 against R32; DESIGN CHOICE, log 114). -/
def issueGroup (cl : Nat) (s : State) (g : Nat) : State :=
  if groupBusy s cl g then s else
  let give (s : State) (k : Nat) : State := match readyStep s (4 * cl + k) with
    | some r => grant s (4 * cl + k) r
    | none => s
  match groupHolder s cl g with
  | some k => give s k
  | none =>
    match arbitrate s cl with
    | none => s
    | some (k, d) =>
      let c := clusterOf s cl
      give (setCluster s cl { c with deficit := d, ptr := (k + 1) % 4 }) k

/-- ISSUE_GRANT: the arbiter of a cluster binds its lane groups, ascending. -/
def execIssueGrant (cluster : Nat) (s : State) : Host.Outcome State Fault Refusal :=
  .next ([0, 1, 2, 3].foldl (issueGroup cluster) s)

end Sys2Proof.Machine
end

