-- ==== Sys2Proof/Machine/Mdv.lean ====
section
/-! DEFINITION. MDV: multiplication and saturating division (R117). -/

namespace Sys2Proof.Machine

/-- The quotient of w-bit signed values: truncated, saturating by a zero divisor or when it does not fit. -/
def satDiv (w : Nat) (a b : Int) : Int :=
  if b = 0 then (if 0 < a then 2 ^ (w - 1) - 1 else if a < 0 then -2 ^ (w - 1) else 0)
  else max (-2 ^ (w - 1)) (min (2 ^ (w - 1) - 1) (Int.tdiv a b))

/-- The remainder that goes with `satDiv`: 0 whenever the quotient saturates. -/
def satRem (w : Nat) (a b : Int) : Int :=
  if b = 0 ∨ (a = -2 ^ (w - 1) ∧ b = -1) then 0 else a - b * Int.tdiv a b

/-- The signed value of the low 32 bits. -/
def int32 (w : Word) : Int := (w.extractLsb' 0 32).toInt

def execMdvMul (d a b : Reg) (s : State) : Host.Outcome State Fault Refusal := alu d a b (· * ·) s
def execMdvMulh (d a b : Reg) (s : State) : Host.Outcome State Fault Refusal :=
  alu d a b (fun x y => BitVec.ofInt 64 (x.toInt * y.toInt / 2 ^ 64)) s
def execMdvMulhu (d a b : Reg) (s : State) : Host.Outcome State Fault Refusal :=
  alu d a b (fun x y => BitVec.ofNat 64 (x.toNat * y.toNat / 2 ^ 64)) s
def execMdvDiv (d a b : Reg) (s : State) : Host.Outcome State Fault Refusal :=
  alu d a b (fun x y => BitVec.ofInt 64 (satDiv 64 x.toInt y.toInt)) s
/-- A quotient by zero is 0 for 0 and all ones otherwise. -/
def execMdvDivu (d a b : Reg) (s : State) : Host.Outcome State Fault Refusal :=
  alu d a b (fun x y => if y = 0 then (if x = 0 then 0 else BitVec.allOnes 64) else BitVec.ofNat 64 (x.toNat / y.toNat)) s
def execMdvRem (d a b : Reg) (s : State) : Host.Outcome State Fault Refusal :=
  alu d a b (fun x y => BitVec.ofInt 64 (satRem 64 x.toInt y.toInt)) s
def execMdvRemu (d a b : Reg) (s : State) : Host.Outcome State Fault Refusal :=
  alu d a b (fun x y => if y = 0 then 0 else BitVec.ofNat 64 (x.toNat % y.toNat)) s
def execMdvMulw (d a b : Reg) (s : State) : Host.Outcome State Fault Refusal := alu d a b (fun x y => low32 (x * y)) s
def execMdvDivw (d a b : Reg) (s : State) : Host.Outcome State Fault Refusal :=
  alu d a b (fun x y => BitVec.ofInt 64 (satDiv 32 (int32 x) (int32 y))) s
def execMdvRemw (d a b : Reg) (s : State) : Host.Outcome State Fault Refusal :=
  alu d a b (fun x y => BitVec.ofInt 64 (satRem 32 (int32 x) (int32 y))) s

end Sys2Proof.Machine
end

