-- ==== Sys2Proof/Machine/Qord.lean ====
section
/-! DEFINITION. QORD (R277), and a thread that resumes after a stall at push (R25, R177, R318). -/

namespace Sys2Proof.Machine

/-- qord.wait: every class with a threshold below 15 counts at most that many. -/
def waitHolds (s : State) (t : Thread) (l : List (BitVec 4)) : Bool :=
  (l.zipIdx).all (fun x => decide (x.1 = 15) || decide (classCount s t x.2 ≤ x.1.toNat))

/-- An entry that counts in a class, or causes operations of it when it completes. -/
def causes (e : Entry) : Nat → Bool
  | 0 => countsL0 e.instr
  | 1 => countsL1 e.instr || entryIsMarker e || (match e.instr with | .hresClr _ | .vrel => true | _ => false)
  | 2 => entryIsMarker e
  | 3 => (match e.instr with
    | .tileMma _ _ _ _ _ | .tileZero _ _ | .tileScal _ _ _ | .tileOff _ | .cdyRel _ _ | .tmovVtor _ _ _ _
    | .tmovVtoc _ _ _ _ => true
    | _ => false)
  | _ => countsL4 e.instr

/-- qord.join: no entry of a selected class, or that causes operations of it, is still in the queue, and the selected
classes are empty. -/
def joinHolds (s : State) (t : Thread) (l : List (BitVec 4)) : Bool :=
  (l.zipIdx).all (fun x => decide (x.1 ≠ 1) || (!t.vq.any (fun e => causes e x.2) && decide (classCount s t x.2 = 0)))

/-- The condition of a QORD holds. -/
def qordHolds (s : State) (t : Thread) (i : Instr) : Bool :=
  match i with
  | .qordWait a b c d e => waitHolds s t [a, b, c, d, e]
  | .qordJoin a b c d e => joinHolds s t [a, b, c, d, e]
  | _ => true

/-- A QORD at its push: the checks of any push, then it holds the thread until its condition holds (R277). -/
def qordPush (s : State) (i : Instr) : State :=
  match threadAt s s.cur with
  | none => s
  | some t =>
    if t.vrelPushed then scalarTrap s s.cur causeVreleased 0 t.pc
    else if qordHolds s t i then pushCur s i
    else setThread s s.cur { t with hold := .qord i }

def execQordWait (l0 l1 l2 l3 l4 : BitVec 4) (s : State) : Host.Outcome State Fault Refusal :=
  .next (qordPush s (.qordWait l0 l1 l2 l3 l4))
def execQordJoin (l0 l1 l2 l3 l4 : BitVec 4) (s : State) : Host.Outcome State Fault Refusal :=
  .next (qordPush s (.qordJoin l0 l1 l2 l3 l4))

/-- QORD_RELEASE: the condition of a held QORD comes to hold; it takes its queue entry and the thread goes on. -/
def execQordRelease (thread : Nat) (s : State) : Host.Outcome State Fault Refusal :=
  .next (match threadAt s thread with
    | none => s
    | some t =>
      match t.hold with
      | .qord i => if qordHolds s t i && !t.stopReq then push s thread i else s
      | .run | .eRead _ _ | .push | .repush _ | .lost => s)

/-- PUSH_STALL_RESUME: a thread stalled at a push tries it again (R25), once the older recomputations that it waits for have left
delivery (R177); one that pushes entries again goes on with it. -/
def execPushStallResume (thread : Nat) (s : State) : Host.Outcome State Fault Refusal :=
  .next (match threadAt s thread with
    | none => s
    | some t =>
      if t.stopReq || stallHeld t then s else
      let go := setThread s thread { t with hold := .run, stallOn := [] }
      match t.hold with
      | .push => go
      | .repush l => repush go thread l
      | .run | .eRead _ _ | .qord _ | .lost => s)

end Sys2Proof.Machine
end

