-- ==== Sys2Proof/Machine/Sys.lean ====
section
/-! DEFINITION. SYS (R124 to R128), and the two traps of fetch and decoding (R68, R121). -/

namespace Sys2Proof.Machine

/-- sys.call: the system-call trap; tepc is the next address (R124). -/
def execSysCall (s : State) : Host.Outcome State Fault Refusal :=
  onCur s (fun t => scalarTrap s s.cur causeSyscall 0 (t.pc + 4))

/-- sys.trap: the software trap with its code (R124). -/
def execSysTrap (code : BitVec 6) (s : State) : Host.Outcome State Fault Refusal :=
  onCur s (fun t => scalarTrap s s.cur causeSoftware (code.zeroExtend 64) (t.pc + 4))

/-- sys.tret: return from the handler (R126, R290). -/
def execSysTret (s : State) : Host.Outcome State Fault Refusal := .next (trapReturn s s.cur)

/-- sys.tend: the thread ends (R46, R127). -/
def execSysTend (s : State) : Host.Outcome State Fault Refusal := .next (threadEnd s s.cur)

/-- A snapshot trigger is posted on a side notification network (R325). It arrives also where the token ring has bypassed the station
of its cluster: R310 speaks of broadcasts alone, and R325 drops triggers for a fenced sequencer alone (DESIGN CHOICE, log 112). -/
def postTrigger (s : State) : State := { s with trigPosted := s.trigPosted + 1 }

/-- sys.snap: posts a snapshot trigger and completes (R128). -/
def execSysSnap (s : State) : Host.Outcome State Fault Refusal :=
  onCur s (fun t => setThread (postTrigger s) s.cur { t with pc := t.pc + 4 })

/-- sys.brk: the breakpoint trap at its own address (R124). -/
def execSysBrk (s : State) : Host.Outcome State Fault Refusal :=
  onCur s (fun t => scalarTrap s s.cur causeBreak t.pc t.pc)

/-- A word that is no instruction: the illegal-instruction trap (R67, R68). -/
def execIllegalWord (w : IWord) (s : State) : Host.Outcome State Fault Refusal :=
  onCur s (fun t => scalarTrap s s.cur causeIllegal (w.zeroExtend 64) t.pc)

/-- A fetch without an executable page: the instruction page fault (R121). -/
def execInstructionPageFault (va : Word) (s : State) : Host.Outcome State Fault Refusal :=
  onCur s (fun _ => scalarTrap s s.cur causeFetchFault va va)

end Sys2Proof.Machine
end

