-- ==== Sys2Proof/Machine/Vset.lean ====
section
/-! DEFINITION. VSET (R142). Its effect is made at the push (`vsetEffect`); its entry has no further effect. -/

namespace Sys2Proof.Machine

def execVsetLen (a b : Reg) (σ : State) : Host.Outcome State Fault Refusal := .next (pushCur σ (.vsetLen a b))
def execVsetLenf (a b : Reg) (g : GMul) (t : ElemTy) (σ : State) : Host.Outcome State Fault Refusal :=
  .next (pushCur σ (.vsetLenf a b g t))

end Sys2Proof.Machine
end

