-- ==== Sys2Proof/Machine/Dispatch.lean ====
section
/-! DEFINITION. The meaning of every instruction and event, one arm each. -/

namespace Sys2Proof.Machine

/-- What an instruction or event does. -/
def exec (i : Instr) (s : State) : Host.Outcome State Fault Refusal :=
  match i with
  | .sysTrap code => Sys2Proof.Machine.execSysTrap code s
  | .aluAdd d a b => Sys2Proof.Machine.execAluAdd d a b s
  | .aluSub d a b => Sys2Proof.Machine.execAluSub d a b s
  | .aluAnd d a b => Sys2Proof.Machine.execAluAnd d a b s
  | .aluOr d a b => Sys2Proof.Machine.execAluOr d a b s
  | .aluXor d a b => Sys2Proof.Machine.execAluXor d a b s
  | .aluSll d a b => Sys2Proof.Machine.execAluSll d a b s
  | .aluSrl d a b => Sys2Proof.Machine.execAluSrl d a b s
  | .aluSra d a b => Sys2Proof.Machine.execAluSra d a b s
  | .aluSlt d a b => Sys2Proof.Machine.execAluSlt d a b s
  | .aluSltu d a b => Sys2Proof.Machine.execAluSltu d a b s
  | .aluAddw d a b => Sys2Proof.Machine.execAluAddw d a b s
  | .aluSubw d a b => Sys2Proof.Machine.execAluSubw d a b s
  | .aluMin d a b => Sys2Proof.Machine.execAluMin d a b s
  | .aluMax d a b => Sys2Proof.Machine.execAluMax d a b s
  | .aluMinu d a b => Sys2Proof.Machine.execAluMinu d a b s
  | .aluMaxu d a b => Sys2Proof.Machine.execAluMaxu d a b s
  | .alui d a imm => Sys2Proof.Machine.execAlui d a imm s
  | .upi d imm => Sys2Proof.Machine.execUpi d imm s
  | .mdvMul d a b => Sys2Proof.Machine.execMdvMul d a b s
  | .mdvMulh d a b => Sys2Proof.Machine.execMdvMulh d a b s
  | .mdvMulhu d a b => Sys2Proof.Machine.execMdvMulhu d a b s
  | .mdvDiv d a b => Sys2Proof.Machine.execMdvDiv d a b s
  | .mdvDivu d a b => Sys2Proof.Machine.execMdvDivu d a b s
  | .mdvRem d a b => Sys2Proof.Machine.execMdvRem d a b s
  | .mdvRemu d a b => Sys2Proof.Machine.execMdvRemu d a b s
  | .mdvMulw d a b => Sys2Proof.Machine.execMdvMulw d a b s
  | .mdvDivw d a b => Sys2Proof.Machine.execMdvDivw d a b s
  | .mdvRemw d a b => Sys2Proof.Machine.execMdvRemw d a b s
  | .bitSlli d a sh => Sys2Proof.Machine.execBitSlli d a sh s
  | .bitSrli d a sh => Sys2Proof.Machine.execBitSrli d a sh s
  | .bitSrai d a sh => Sys2Proof.Machine.execBitSrai d a sh s
  | .bitClz d a => Sys2Proof.Machine.execBitClz d a s
  | .bitCtz d a => Sys2Proof.Machine.execBitCtz d a s
  | .bitPopc d a => Sys2Proof.Machine.execBitPopc d a s
  | .bitRev8 d a => Sys2Proof.Machine.execBitRev8 d a s
  | .ld d a b w strong off => Sys2Proof.Machine.execLd d a b w strong off s
  | .st d a b w strong off => Sys2Proof.Machine.execSt d a b w strong off s
  | .brEq a b off => Sys2Proof.Machine.execBrEq a b off s
  | .brNe a b off => Sys2Proof.Machine.execBrNe a b off s
  | .brLt a b off => Sys2Proof.Machine.execBrLt a b off s
  | .brLtu a b off => Sys2Proof.Machine.execBrLtu a b off s
  | .jlGo off => Sys2Proof.Machine.execJlGo off s
  | .jlLn off => Sys2Proof.Machine.execJlLn off s
  | .jlr d a imm => Sys2Proof.Machine.execJlr d a imm s
  | .ctlRd d csr => Sys2Proof.Machine.execCtlRd d csr s
  | .ctlWr a csr => Sys2Proof.Machine.execCtlWr a csr s
  | .ctlXchg d a csr => Sys2Proof.Machine.execCtlXchg d a csr s
  | .ctlBset a csr => Sys2Proof.Machine.execCtlBset a csr s
  | .ctlBclr a csr => Sys2Proof.Machine.execCtlBclr a csr s
  | .ctlAdv d a csr => Sys2Proof.Machine.execCtlAdv d a csr s
  | .valuAdd d a b p sb t => Sys2Proof.Machine.execValuAdd d a b p sb t s
  | .valuSub d a b p sb t => Sys2Proof.Machine.execValuSub d a b p sb t s
  | .valuMul d a b p sb t => Sys2Proof.Machine.execValuMul d a b p sb t s
  | .valuMin d a b p sb t => Sys2Proof.Machine.execValuMin d a b p sb t s
  | .valuMax d a b p sb t => Sys2Proof.Machine.execValuMax d a b p sb t s
  | .valuSadd d a b p sb t => Sys2Proof.Machine.execValuSadd d a b p sb t s
  | .valuSsub d a b p sb t => Sys2Proof.Machine.execValuSsub d a b p sb t s
  | .valuAbsd d a b p sb t => Sys2Proof.Machine.execValuAbsd d a b p sb t s
  | .valuiAdd d a imm p t => Sys2Proof.Machine.execValuiAdd d a imm p t s
  | .valuiRsub d a imm p t => Sys2Proof.Machine.execValuiRsub d a imm p t s
  | .valuiMin d a imm p t => Sys2Proof.Machine.execValuiMin d a imm p t s
  | .valuiMax d a imm p t => Sys2Proof.Machine.execValuiMax d a imm p t s
  | .valuiSadd d a imm p t => Sys2Proof.Machine.execValuiSadd d a imm p t s
  | .valuiSll d a imm p t => Sys2Proof.Machine.execValuiSll d a imm p t s
  | .valuiSrl d a imm p t => Sys2Proof.Machine.execValuiSrl d a imm p t s
  | .valuiSra d a imm p t => Sys2Proof.Machine.execValuiSra d a imm p t s
  | .valuiAnd d a imm p t => Sys2Proof.Machine.execValuiAnd d a imm p t s
  | .valuiOr d a imm p t => Sys2Proof.Machine.execValuiOr d a imm p t s
  | .valuiXor d a imm p t => Sys2Proof.Machine.execValuiXor d a imm p t s
  | .valuiMov d imm p t => Sys2Proof.Machine.execValuiMov d imm p t s
  | .vfmaFma d a b p sb t => Sys2Proof.Machine.execVfmaFma d a b p sb t s
  | .vfmaFms d a b p sb t => Sys2Proof.Machine.execVfmaFms d a b p sb t s
  | .vfmaFnma d a b p sb t => Sys2Proof.Machine.execVfmaFnma d a b p sb t s
  | .vfmaFnms d a b p sb t => Sys2Proof.Machine.execVfmaFnms d a b p sb t s
  | .vfmaDot2 d a b p sb t => Sys2Proof.Machine.execVfmaDot2 d a b p sb t s
  | .vcmp d a b p sb cc t => Sys2Proof.Machine.execVcmp d a b p sb cc t s
  | .vmskAnd d a b p => Sys2Proof.Machine.execVmskAnd d a b p s
  | .vmskOr d a b p => Sys2Proof.Machine.execVmskOr d a b p s
  | .vmskXor d a b p => Sys2Proof.Machine.execVmskXor d a b p s
  | .vmskAndn d a b p => Sys2Proof.Machine.execVmskAndn d a b p s
  | .vmskOrn d a b p => Sys2Proof.Machine.execVmskOrn d a b p s
  | .vmskNot d a p => Sys2Proof.Machine.execVmskNot d a p s
  | .vmskMov d a p => Sys2Proof.Machine.execVmskMov d a p s
  | .vmskFrst d a p => Sys2Proof.Machine.execVmskFrst d a p s
  | .vmskPopc d a p => Sys2Proof.Machine.execVmskPopc d a p s
  | .vprmSlup d a b p dim w => Sys2Proof.Machine.execVprmSlup d a b p dim w s
  | .vprmSldn d a b p dim w => Sys2Proof.Machine.execVprmSldn d a b p dim w s
  | .vprmGath d a b p dim w => Sys2Proof.Machine.execVprmGath d a b p dim w s
  | .vprmCmpr d a p dim w => Sys2Proof.Machine.execVprmCmpr d a p dim w s
  | .vprmExpd d a p dim w => Sys2Proof.Machine.execVprmExpd d a p dim w s
  | .vprmBcst d a b p dim w => Sys2Proof.Machine.execVprmBcst d a b p dim w s
  | .vprmTran d a p w => Sys2Proof.Machine.execVprmTran d a p w s
  | .vprmMov d a p dim w => Sys2Proof.Machine.execVprmMov d a p dim w s
  | .vredSum d a p dim t => Sys2Proof.Machine.execVredSum d a p dim t s
  | .vredMax d a p dim t => Sys2Proof.Machine.execVredMax d a p dim t s
  | .vredMin d a p dim t => Sys2Proof.Machine.execVredMin d a p dim t s
  | .vredAmax d a p dim t => Sys2Proof.Machine.execVredAmax d a p dim t s
  | .vcvt d a p tt ft => Sys2Proof.Machine.execVcvt d a p tt ft s
  | .vbplAnd d a b p t => Sys2Proof.Machine.execVbplAnd d a b p t s
  | .vbplOr d a b p t => Sys2Proof.Machine.execVbplOr d a b p t s
  | .vbplXor d a b p t => Sys2Proof.Machine.execVbplXor d a b p t s
  | .vbplAndn d a b p t => Sys2Proof.Machine.execVbplAndn d a b p t s
  | .vbplNot d a p t => Sys2Proof.Machine.execVbplNot d a p t s
  | .vbplSll d a b p t => Sys2Proof.Machine.execVbplSll d a b p t s
  | .vbplSrl d a b p t => Sys2Proof.Machine.execVbplSrl d a b p t s
  | .vbplSra d a b p t => Sys2Proof.Machine.execVbplSra d a b p t s
  | .vbplPopc d a p t => Sys2Proof.Machine.execVbplPopc d a p t s
  | .vbplPext d a b p => Sys2Proof.Machine.execVbplPext d a b p s
  | .vbplPins d a b p => Sys2Proof.Machine.execVbplPins d a b p s
  | .vbplPmac d a b p => Sys2Proof.Machine.execVbplPmac d a b p s
  | .vscaMul d a b p sb t => Sys2Proof.Machine.execVscaMul d a b p sb t s
  | .vscaMacc d a b p sb t => Sys2Proof.Machine.execVscaMacc d a b p sb t s
  | .vscaRmul d a b p sb t => Sys2Proof.Machine.execVscaRmul d a b p sb t s
  | .vscaCmul d a b p sb t => Sys2Proof.Machine.execVscaCmul d a b p sb t s
  | .vscaRmac d a b p sb t => Sys2Proof.Machine.execVscaRmac d a b p sb t s
  | .vscaCmac d a b p sb t => Sys2Proof.Machine.execVscaCmac d a b p sb t s
  | .vsetLen a b => Sys2Proof.Machine.execVsetLen a b s
  | .vsetLenf a b g t => Sys2Proof.Machine.execVsetLenf a b g t s
  | .vwld d a b p rd cd str keep => Sys2Proof.Machine.execVwld d a b p rd cd str keep s
  | .vwst d a b p rd cd str => Sys2Proof.Machine.execVwst d a b p rd cd str s
  | .vidxLd d a b p iw keep => Sys2Proof.Machine.execVidxLd d a b p iw keep s
  | .vidxSt d a b p iw => Sys2Proof.Machine.execVidxSt d a b p iw s
  | .vsxIsec d a b p t => Sys2Proof.Machine.execVsxIsec d a b p t s
  | .vsxIcnt d a b p t => Sys2Proof.Machine.execVsxIcnt d a b p t s
  | .vsxUnio d a b p t => Sys2Proof.Machine.execVsxUnio d a b p t s
  | .vsxDiff d a b p t => Sys2Proof.Machine.execVsxDiff d a b p t s
  | .vsxMrge d a b p t => Sys2Proof.Machine.execVsxMrge d a b p t s
  | .hresSet d a => Sys2Proof.Machine.execHresSet d a s
  | .hresAnch d a n => Sys2Proof.Machine.execHresAnch d a n s
  | .hresLim d a n => Sys2Proof.Machine.execHresLim d a n s
  | .hresBind d a => Sys2Proof.Machine.execHresBind d a s
  | .hresWmk d a => Sys2Proof.Machine.execHresWmk d a s
  | .hresClr d => Sys2Proof.Machine.execHresClr d s
  | .kcntExt d a => Sys2Proof.Machine.execKcntExt d a s
  | .kcntLink d b => Sys2Proof.Machine.execKcntLink d b s
  | .kcntAdv d => Sys2Proof.Machine.execKcntAdv d s
  | .kcntSet d a => Sys2Proof.Machine.execKcntSet d a s
  | .kcntRst d => Sys2Proof.Machine.execKcntRst d s
  | .qordWait l0 l1 l2 l3 l4 => Sys2Proof.Machine.execQordWait l0 l1 l2 l3 l4 s
  | .qordJoin l0 l1 l2 l3 l4 => Sys2Proof.Machine.execQordJoin l0 l1 l2 l3 l4 s
  | .tileMma d a b p t => Sys2Proof.Machine.execTileMma d a b p t s
  | .tileZero d p => Sys2Proof.Machine.execTileZero d p s
  | .tileScal d a p => Sys2Proof.Machine.execTileScal d a p s
  | .tileOn d => Sys2Proof.Machine.execTileOn d s
  | .tileOff d => Sys2Proof.Machine.execTileOff d s
  | .cdyClaim a b => Sys2Proof.Machine.execCdyClaim a b s
  | .cdyLoad d a b => Sys2Proof.Machine.execCdyLoad d a b s
  | .cdyLstr d a b => Sys2Proof.Machine.execCdyLstr d a b s
  | .cdyRel a b => Sys2Proof.Machine.execCdyRel a b s
  | .cdyMeta d a => Sys2Proof.Machine.execCdyMeta d a s
  | .tmovRtov d a b p => Sys2Proof.Machine.execTmovRtov d a b p s
  | .tmovCtov d a b p => Sys2Proof.Machine.execTmovCtov d a b p s
  | .tmovVtor d a b p => Sys2Proof.Machine.execTmovVtor d a b p s
  | .tmovVtoc d a b p => Sys2Proof.Machine.execTmovVtoc d a b p s
  | .syncAcq a sc => Sys2Proof.Machine.execSyncAcq a sc s
  | .syncRel a sc => Sys2Proof.Machine.execSyncRel a sc s
  | .syncBind d a b sc => Sys2Proof.Machine.execSyncBind d a b sc s
  | .syncUbnd d a sc => Sys2Proof.Machine.execSyncUbnd d a sc s
  | .syncFenc sc => Sys2Proof.Machine.execSyncFenc sc s
  | .syncBarr sc lvl => Sys2Proof.Machine.execSyncBarr sc lvl s
  | .syncArrv sc lvl => Sys2Proof.Machine.execSyncArrv sc lvl s
  | .syncExpt a sc lvl => Sys2Proof.Machine.execSyncExpt a sc lvl s
  | .vamoAdd d a b p ret aq rl w64 => Sys2Proof.Machine.execVamoAdd d a b p ret aq rl w64 s
  | .vamoMin d a b p ret aq rl w64 => Sys2Proof.Machine.execVamoMin d a b p ret aq rl w64 s
  | .vamoMax d a b p ret aq rl w64 => Sys2Proof.Machine.execVamoMax d a b p ret aq rl w64 s
  | .vamoAnd d a b p ret aq rl w64 => Sys2Proof.Machine.execVamoAnd d a b p ret aq rl w64 s
  | .vamoOr d a b p ret aq rl w64 => Sys2Proof.Machine.execVamoOr d a b p ret aq rl w64 s
  | .vamoXor d a b p ret aq rl w64 => Sys2Proof.Machine.execVamoXor d a b p ret aq rl w64 s
  | .vamoSwap d a b p ret aq rl w64 => Sys2Proof.Machine.execVamoSwap d a b p ret aq rl w64 s
  | .vamoCas d a b p aq rl w64 => Sys2Proof.Machine.execVamoCas d a b p aq rl w64 s
  | .vamoFadd d a b p ret aq rl => Sys2Proof.Machine.execVamoFadd d a b p ret aq rl s
  | .vwtc d a b p cc w64 => Sys2Proof.Machine.execVwtc d a b p cc w64 s
  | .accwUpd d a b p t => Sys2Proof.Machine.execAccwUpd d a b p t s
  | .accwMrge d t => Sys2Proof.Machine.execAccwMrge d t s
  | .accwClr d t => Sys2Proof.Machine.execAccwClr d t s
  | .linkXfer d a b ch last => Sys2Proof.Machine.execLinkXfer d a b ch last s
  | .linkLacq b => Sys2Proof.Machine.execLinkLacq b s
  | .linkLrel b => Sys2Proof.Machine.execLinkLrel b s
  | .linkLsig b => Sys2Proof.Machine.execLinkLsig b s
  | .collAred a t => Sys2Proof.Machine.execCollAred a t s
  | .collRsct a t => Sys2Proof.Machine.execCollRsct a t s
  | .collAgat a t => Sys2Proof.Machine.execCollAgat a t s
  | .lnch a b => Sys2Proof.Machine.execLnch a b s
  | .entryAtVcp thread => Sys2Proof.Machine.execEntryAtVcp thread s
  | .issueGrant cluster => Sys2Proof.Machine.execIssueGrant cluster s
  | .eReadWake thread => Sys2Proof.Machine.execEReadWake thread s
  | .qordRelease thread => Sys2Proof.Machine.execQordRelease thread s
  | .pushStallResume thread => Sys2Proof.Machine.execPushStallResume thread s
  | .tileEngineStep cluster => Sys2Proof.Machine.execTileEngineStep cluster s
  | .tilePoolGrant cluster => Sys2Proof.Machine.execTilePoolGrant cluster s
  | .caddySlotGrant cluster => Sys2Proof.Machine.execCaddySlotGrant cluster s
  | .fetchReturn thread h fetch => Sys2Proof.Machine.execFetchReturn thread h fetch s
  | .deliveryLanding thread h fetch => Sys2Proof.Machine.execDeliveryLanding thread h fetch s
  | .sliceRequest uid => Sys2Proof.Machine.execSliceRequest uid s
  | .pageWalkComplete cluster ctx va => Sys2Proof.Machine.execPageWalkComplete cluster ctx va s
  | .watermarkPublish uid => Sys2Proof.Machine.execWatermarkPublish uid s
  | .hostWatermarkWrite n value => Sys2Proof.Machine.execHostWatermarkWrite n value s
  | .hostWatermarkClear n => Sys2Proof.Machine.execHostWatermarkClear n s
  | .latchGrant pa => Sys2Proof.Machine.execLatchGrant pa s
  | .latchAcquireRetry thread => Sys2Proof.Machine.execLatchAcquireRetry thread s
  | .latchReleasePerform uid => Sys2Proof.Machine.execLatchReleasePerform uid s
  | .barrierPhaseComplete launch lvl group => Sys2Proof.Machine.execBarrierPhaseComplete launch lvl group s
  | .vwtcReread thread => Sys2Proof.Machine.execVwtcReread thread s
  | .retirementEntryFree cluster index => Sys2Proof.Machine.execRetirementEntryFree cluster index s
  | .hostTailWrite q value => Sys2Proof.Machine.execHostTailWrite q value s
  | .queueEnable q ring => Sys2Proof.Machine.execQueueEnable q ring s
  | .queueDisable q => Sys2Proof.Machine.execQueueDisable q s
  | .threadStop thread => Sys2Proof.Machine.execThreadStop thread s
  | .contextSave thread => Sys2Proof.Machine.execContextSave thread s
  | .contextRestore launch => Sys2Proof.Machine.execContextRestore launch s
  | .heartbeatTick die => Sys2Proof.Machine.execHeartbeatTick die s
  | .heartbeatReceive tile sender => Sys2Proof.Machine.execHeartbeatReceive tile sender s
  | .periodicDrain die => Sys2Proof.Machine.execPeriodicDrain die s
  | .drainEnd die => Sys2Proof.Machine.execDrainEnd die s
  | .busyLaneRotate die => Sys2Proof.Machine.execBusyLaneRotate die s
  | .accusationApply tile accuser => Sys2Proof.Machine.execAccusationApply tile accuser s
  | .retractionApply tile accuser => Sys2Proof.Machine.execRetractionApply tile accuser s
  | .selfTestComplete tile pass => Sys2Proof.Machine.execSelfTestComplete tile pass s
  | .appealApply tile => Sys2Proof.Machine.execAppealApply tile s
  | .reinstatementVoteApply tile voter withdraw => Sys2Proof.Machine.execReinstatementVoteApply tile voter withdraw s
  | .snapshotApply station => Sys2Proof.Machine.execSnapshotApply station s
  | .powerWrite value => Sys2Proof.Machine.execPowerWrite value s
  | .powerModeApply die => Sys2Proof.Machine.execPowerModeApply die s
  | .sramEccError place corrected => Sys2Proof.Machine.execSramEccError place corrected s
  | .commandBlockDone migrate => Sys2Proof.Machine.execCommandBlockDone migrate s
  | .portctlEnable port enable => Sys2Proof.Machine.execPortctlEnable port enable s
  | .injWrite port value => Sys2Proof.Machine.execInjWrite port value s
  | .driverAreaWrite offset value => Sys2Proof.Machine.execDriverAreaWrite offset value s
  | .hostPostedWrite bar off bytes relaxed => Sys2Proof.Machine.execHostPostedWrite bar off bytes relaxed s
  | .hostNonpostedRead bar off len => Sys2Proof.Machine.execHostNonpostedRead bar off len s
  | .shortReachFlitReceive port kind => Sys2Proof.Machine.execShortReachFlitReceive port kind s
  | .longHaulFrameReceive port seq kind => Sys2Proof.Machine.execLongHaulFrameReceive port seq kind s
  | .longHaulAckTimeout port => Sys2Proof.Machine.execLongHaulAckTimeout port s
  | .portPhyFault port => Sys2Proof.Machine.execPortPhyFault port s
  | .remoteCommandReceive port cmd => Sys2Proof.Machine.execRemoteCommandReceive port cmd s
  | .linkCommandPerform uid reply => Sys2Proof.Machine.execLinkCommandPerform uid reply s
  | .collBlockReceive msg => Sys2Proof.Machine.execCollBlockReceive msg s
  | .codebookLoad thread => Sys2Proof.Machine.execCodebookLoad thread s
  | .resteepMerge cluster older newer => Sys2Proof.Machine.execResteepMerge cluster older newer s
  | .fwLoad addr len => Sys2Proof.Machine.execFwLoad addr len s
  | .fwAttest addr => Sys2Proof.Machine.execFwAttest addr s
  | .illegalWord w => Sys2Proof.Machine.execIllegalWord w s
  | .instructionPageFault va => Sys2Proof.Machine.execInstructionPageFault va s
  | .sysCall => Sys2Proof.Machine.execSysCall s
  | .sysTret => Sys2Proof.Machine.execSysTret s
  | .sysTend => Sys2Proof.Machine.execSysTend s
  | .sysSnap => Sys2Proof.Machine.execSysSnap s
  | .sysBrk => Sys2Proof.Machine.execSysBrk s
  | .vrel => Sys2Proof.Machine.execVrel s
  | .schedulerPlace => Sys2Proof.Machine.execSchedulerPlace s
  | .snaptrigWrite => Sys2Proof.Machine.execSnaptrigWrite s
  | .snapshotTriggerArrive => Sys2Proof.Machine.execSnapshotTriggerArrive s
  | .snapshotRoundEnd => Sys2Proof.Machine.execSnapshotRoundEnd s
  | .thermalHalt => Sys2Proof.Machine.execThermalHalt s
  | .invalCommand => Sys2Proof.Machine.execInvalCommand s
  | .migrateCommand => Sys2Proof.Machine.execMigrateCommand s
  | .migrationComplete => Sys2Proof.Machine.execMigrationComplete s
  | .fwCkpt => Sys2Proof.Machine.execFwCkpt s
  | .fwRestore => Sys2Proof.Machine.execFwRestore s
  | .fwCommandDone => Sys2Proof.Machine.execFwCommandDone s
  | .deviceReset => Sys2Proof.Machine.execDeviceReset s
  | .tokenBypass tile => Sys2Proof.Machine.execTokenBypass tile s
  | .tileFallsSilent tile => Sys2Proof.Machine.execTileFallsSilent tile s
  | .coolantLimitExit die => Sys2Proof.Machine.execCoolantLimitExit die s
  | .routerFlitReceive tile sender credits malformed => Sys2Proof.Machine.execRouterFlitReceive tile sender credits malformed s
  | .portLinkTrained port => Sys2Proof.Machine.execPortLinkTrained port s
  | .cumulativeAcknowledgement port seq => Sys2Proof.Machine.execCumulativeAcknowledgement port seq s
  | .cxlReadReturn pa poisoned => Sys2Proof.Machine.execCxlReadReturn pa poisoned s
  | .staticBinding ctx latch base length sc => Sys2Proof.Machine.execStaticBinding ctx latch base length sc s

end Sys2Proof.Machine
end

