-- ==== Sys2Proof/Machine/Turn.lean ====
section
/-! DEFINITION. Whose turn it is: which turn comes next when none has been chosen from outside (log 4), and which events
can happen while the clocks stand still (R358). -/

namespace Sys2Proof.Machine

/-! ## Events that a state offers -/

/-- A command that waits for nothing but its peer's answer. -/
def awaitsPeer (c : LCmd) : Bool := c.begun && !c.joined && decide (c.failed = 0) && decide (fieldAt c.desc 0 2 ≠ 0xFFFF)

/-- What a thread's link queue offers: every command but those whose peer has still to answer. -/
def commandTurns (lq : List LCmd) : List Instr :=
  (lq.filter (fun c => !awaitsPeer c)).map (fun c => Instr.linkCommandPerform c.uid { code := 1, run := 0, bytes := 0 })

/-- The events that a thread's fetches offer. -/
def fetchTurns (tid : Nat) (t : Thread) : List Instr :=
  t.recomps.flatMap (fun r => r.fetches.filterMap (fun f => match f.state with
    | .walk => none
    | .sent _ => some (Instr.fetchReturn tid r.h f.id)
    | .data _ | .noPage | .bad => some (Instr.deliveryLanding tid r.h f.id)))

/-- The events that the entry at vcp offers. -/
def headTurns (tid : Nat) (e : Entry) : List Instr :=
  match e.instr with
  | .vwtc _ _ _ _ _ _ => [Instr.entryAtVcp tid, Instr.vwtcReread tid]
  | .syncAcq _ _ => [Instr.entryAtVcp tid, Instr.latchAcquireRetry tid]
  | .collAred _ _ | .collRsct _ _ | .collAgat _ _ => [Instr.entryAtVcp tid, Instr.codebookLoad tid]
  | _ => [Instr.entryAtVcp tid]

/-- The event that ends a thread's wait. -/
def holdTurns (tid : Nat) : Hold → List Instr
  | .run => []
  | .eRead _ _ => [Instr.eReadWake tid]
  | .qord _ => [Instr.qordRelease tid]
  | .push | .repush _ => [Instr.pushStallResume tid]
  | .lost => []

/-- The event of a thread that is to stop. -/
def stopTurns (tid : Nat) (t : Thread) : List Instr :=
  if t.stopped then [Instr.contextSave tid] else if t.stopReq then [Instr.threadStop tid] else []

/-- The events that a thread offers. -/
def threadTurns (tid : Nat) (t : Thread) : List Instr :=
  List.flatten [t.vq.head?.elim [] (headTurns tid), holdTurns tid t.hold, stopTurns tid t, fetchTurns tid t, commandTurns t.lq]

/-- The events of a cluster's retirement tracker. -/
def trackerTurns (cl : Nat) (c : Cluster) : List Instr :=
  (List.range c.tracker.length).map (fun i => Instr.retirementEntryFree cl i)

/-- An event, when it is offered. -/
def turnIf (b : Bool) (i : Instr) : List Instr := if b then [i] else []

/-- The events that a cluster offers. -/
def clusterTurns (cl : Nat) (c : Cluster) : List Instr :=
  List.flatten [[Instr.issueGrant cl, Instr.tileEngineStep cl], turnIf (!c.tileWait.isEmpty) (Instr.tilePoolGrant cl),
    turnIf (!c.slotWait.isEmpty) (Instr.caddySlotGrant cl), trackerTurns cl c,
    c.tracker.flatMap (fun r => commandTurns r.lq)]

/-- The events that apply a broadcast. -/
def bcastTurns : Bcast → List Instr
  | .accuse t o _ => [Instr.accusationApply t o]
  | .retract t o => [Instr.retractionApply t o]
  | .appeal t => [Instr.appealApply t]
  | .vote t o w => [Instr.reinstatementVoteApply t o w]
  | .snapshot _ _ todo => todo.map Instr.snapshotApply

/-- The events of walks, requests, received host accesses, waiters, releases, publications and barriers. -/
def memoryTurns (s : State) : List Instr :=
  List.flatten [s.walks.map (fun w => Instr.pageWalkComplete w.cl w.ctx (BitVec.ofNat 64 (65536 * w.page))),
    s.posted.map (fun x => Instr.sliceRequest x.uid), s.inflight.map (fun r => Instr.sliceRequest r.uid), s.waiters.map (fun w => Instr.latchGrant w.pa),
    s.releases.map (fun r => Instr.latchReleasePerform r.uid), s.pubs.map (fun p => Instr.watermarkPublish p.uid),
    s.barriers.map (fun b => Instr.barrierPhaseComplete b.launch b.lvl b.group)]

/-- The events of one die: a tick that is due, a drain in progress, a mode to take up. -/
def dieTurns (s : State) (d : Nat) : List Instr :=
  List.flatten [turnIf (decide (4096 * (tabGet 0 s.ticks d + 1) ≤ tabGet 0 s.cycles d)) (Instr.heartbeatTick d),
    turnIf (tabGet {} s.drains d).active (Instr.drainEnd d),
    turnIf (decide (tabGet 0 s.dieMode d ≠ s.power)) (Instr.powerModeApply d)]

/-- The events of the scheduler, the side network, snapshots, command blocks and the firmware. -/
def systemTurns (s : State) : List Instr :=
  List.flatten [turnIf (s.queues.any (fun e => !e.2.recs.isEmpty) || !s.launches.isEmpty) Instr.schedulerPlace,
    (s.launches.filter (fun l => !l.saved.isEmpty)).map (fun l => Instr.contextRestore l.id),
    s.bcasts.flatMap bcastTurns, s.beats.map (fun b => Instr.heartbeatReceive b.observer b.sender), dieTurns s 0, dieTurns s 1, dieTurns s 2,
    dieTurns s 3, turnIf (decide (s.trigPosted ≠ 0)) Instr.snapshotTriggerArrive,
    turnIf (decide (s.trigRound ≠ 0)) Instr.snapshotRoundEnd,
    turnIf s.migration.isSome Instr.migrationComplete, turnIf s.migrate.isSome (Instr.commandBlockDone true),
    turnIf s.inval.isSome (Instr.commandBlockDone false), turnIf s.fw.running.isSome Instr.fwCommandDone]

/-- Clusters with a thread or an entry of the retirement tracker. -/
def busyClusters (s : State) : List Nat :=
  let live : List Nat := s.threads.map (fun (e : Nat × Thread) => e.1 / 4)
  let gone : List Nat := (s.clusters.filter (fun (e : Nat × Cluster) => !e.2.tracker.isEmpty)).map (fun e => e.1)
  (live ++ gone).dedup

/-- The events of the device's own logic that a state offers. -/
def deviceTurns (s : State) : List Instr :=
  List.flatten [s.threads.flatMap (fun e => threadTurns e.1 e.2),
    (busyClusters s).flatMap (fun cl => clusterTurns cl (clusterOf s cl)), memoryTurns s, systemTurns s]

/-- The threads that may execute an instruction. -/
def runnable (s : State) : List Nat := (s.threads.filter (fun e => canRun e.2)).map (fun e => e.1)

/-- The turn of a state whose agenda is empty: by turns a thread and an event of the device's own logic, each in rotation;
with neither, the current thread. -/
def defaultTurn (s : State) : Turn :=
  let ts := runnable s
  let es := deviceTurns s
  let n := s.tick / 2
  let thread (alt : Turn) : Turn := (ts[n % ts.length]?).elim alt (fun t => .run t)
  let event (alt : Turn) : Turn := (es[n % es.length]?).elim alt (fun i => .event i)
  if s.tick % 2 = 0 then event (thread (.run s.cur)) else thread (event (.run s.cur))

/-- The turn the next step takes. -/
def nextTurn (s : State) : Turn :=
  match s.agenda with
  | [] => defaultTurn s
  | a :: _ => a

/-- An event can happen: after a thermal halt only what needs no clock but the host port's: bring-up commands, reset and
the windows through which an image is written, with the accesses received there (R353, R358). -/
def eventAllowed (s : State) (i : Instr) : Bool :=
  decide (s.fw.state ≠ 4) || (match i with
    | .fwLoad _ _ | .fwAttest _ | .fwCkpt | .fwRestore | .fwCommandDone | .deviceReset | .hostPostedWrite _ _ _ _
    | .hostNonpostedRead _ _ _ | .sliceRequest _ => true
    | _ => false)

end Sys2Proof.Machine
end

