-- ==== Sys2Proof/Machine/Step.lean ====
section
/-! DEFINITION. One step of the device: the next turn is a thread's next instruction or an event. -/

namespace Sys2Proof.Machine

/-- A thread's turn: fetch, decode, execute. A thread that waits does nothing. -/
def runThread (s : State) (tid : Nat) : Host.Outcome State Fault Refusal :=
  if 1280 ≤ tid then .fault .noSuchThread else
  match threadAt s tid with
  | none => .next s
  | some t =>
    if canRun t then
      let f := fetchAt s tid t
      match instrOf t.pc f.1 with
      | some i => exec i { f.2 with cur := tid }
      | none => .next f.2
    else .next s

/-- One step: time passes, and the next turn is taken. -/
def step (s : State) : Host.Outcome State Fault Refusal :=
  match nextTurn s with
  | .run tid => runThread { passTime s with agenda := s.agenda.drop 1 } tid
  | .event i => if eventAllowed s i then exec i { passTime s with agenda := s.agenda.drop 1 }
    else .next { passTime s with agenda := s.agenda.drop 1 }

/-- The state with the instruction of a table row stored where the next step fetches it. -/
def State.withFetchWord (s : State) (nbits w : Nat) : State := storeFetchWord s (w % 2 ^ nbits)

end Sys2Proof.Machine
end

