-- ==== Sys2Proof/Safety.lean ====
section
/-! DEFINITION. What counts as a safe run, and the words that claims use: what an instruction gives a register, a trap
that is taken, a push that enters the queue, and the invariant of memory. -/

namespace Sys2Proof.Machine

/-- A step that goes on. -/
def Goes (o : Host.Outcome State Fault Refusal) : Prop := ∃ s', o = .next s'

/-- A state from which every number of steps goes on. -/
def SafeFor : Nat → State → Prop
  | 0, _ => True
  | n + 1, s => ∃ s', step s = .next s' ∧ SafeFor n s'

/-! ## Scalar instructions -/

/-- `u` is `t` with x[d] holding `v`, x0 still reading zero, every other x register as it was, and the pc at the next
instruction; nothing else of the thread differs (R54, R56). -/
structure WritesX (t u : Thread) (d : Reg) (v : Word) : Prop where
  value : rx u d = if d = 0 then 0 else v
  others : ∀ r, r ≠ d → rx u r = rx t r
  rest : u = { t with x := u.x, pc := t.pc + 4 }

/-- Executing `i` answers a next state that differs from `s` only in the current thread, which goes on with x[d] = v. -/
def GivesX (i : Instr) (s : State) (t : Thread) (d : Reg) (v : Word) : Prop :=
  ∃ u, exec i s = .next (setThread s s.cur u) ∧ WritesX t u d v

/-- Executing `i` answers a next state that differs from `s` only in the current thread, whose pc is `pc`. -/
def GoesTo (i : Instr) (s : State) (t : Thread) (pc : Word) : Prop :=
  exec i s = .next (setThread s s.cur { t with pc := pc })

/-- Executing `i` at `s` answers `s1` with the current thread in its handler for a scalar trap (R125, R126): the cause,
tval and tepc are saved, tstat holds INH, HELD when entries are held, and not VEC, and the pc is thand. The vector queue,
the x registers and everything else of the thread are as they were. -/
def TrapsFrom (i : Instr) (s s1 : State) (t : Thread) (cause : BitVec 8) (tval tepc : Word) : Prop :=
  exec i s = .next (setThread s1 s.cur { t with
    csr := { t.csr with tcause := cause.zeroExtend 64, tval := tval, tepc := tepc &&& ~~~3#64,
                        tstat := if t.held = [] then 1 else 3 },
    pc := t.csr.thand, hold := .run })

/-- The same with everything outside the current thread as it was. -/
def Traps (i : Instr) (s : State) (t : Thread) (cause : BitVec 8) (tval tepc : Word) : Prop :=
  TrapsFrom i s s t cause tval tepc

/-- The thread can enter its handler: it is not in it, and one is installed (R112, R126). -/
def handlerFree (t : Thread) : Prop := inh t = false ∧ t.csr.thand ≠ 0

/-- Nothing of a launch that stood at `s` is left at `s'`: no thread, no request or publication, no release or latch waiter of one of
its threads, no tracker entry, no binding, barrier or collective, and no launch (R43, R126). -/
structure LaunchGone (s s' : State) (id : Nat) : Prop where
  threads : ∀ tid t, threadAt s' tid = some t → t.launch ≠ id
  requests : ∀ r ∈ s'.inflight, r.launch ≠ id
  releases : ∀ tid t, threadAt s tid = some t → t.launch = id → ∀ r ∈ s'.releases, r.owner ≠ t.uid
  pubs : ∀ p ∈ s'.pubs, p.launch ≠ id
  waiters : ∀ tid t, threadAt s tid = some t → t.launch = id → ∀ w ∈ s'.waiters, w.thread ≠ some tid
  trackers : ∀ cl, ∀ r ∈ (clusterOf s' cl).tracker, r.launch ≠ id
  bindings : ∀ b ∈ s'.bindings, b.launch ≠ some id
  barriers : ∀ b ∈ s'.barriers, b.launch ≠ id
  colls : ∀ c ∈ s'.colls, c.launch ≠ id
  launch : launchOf s' id = none

/-- `s'` is `s` but for the event counters, and for the translation cache and the counted misses of cluster `cl`. -/
structure OnlyCaches (s s' : State) (cl : Nat) : Prop where
  rest : s' = { s with counters := s'.counters, clusters := s'.clusters }
  here : clusterOf s' cl = { clusterOf s cl with tlb := (clusterOf s' cl).tlb, missed := (clusterOf s' cl).missed }
  others : ∀ c, c ≠ cl → clusterOf s' c = clusterOf s c

/-! ## Pushes -/

/-- A push of `i` finds room and nothing to trap on: its word is legal with the captured vfmt and the launch (R26, R40),
no VREL has been pushed (R45), an entry is free (R25) and no outstanding-operation count is full (R318). -/
structure PushOk (s : State) (t : Thread) (i : Instr) : Prop where
  legal : pushLegal s t i = true
  unreleased : t.vrelPushed = false
  room : t.vq.length < 64
  counts : ∀ k, k < 5 → classCount s t k < 65535

/-- The entry that a push of `i` makes: everything R23 has captured, starting at the element that vesr gives (R137). -/
def entryFor (s : State) (t : Thread) (i : Instr) : Entry :=
  { uid := s.uid, instr := i, cap := captureOf t i, k := t.csr.vesr.toNat, hnd := inh t }

/-- The instructions whose push does nothing but enter the queue: every vector-side instruction but VREL, which closes the
queue (R45), VSET, which acts at push (R142), QORD, which holds its thread (R277), and those of KCNT and HRES that change
push copies (R174, R186). -/
def plainPush : Instr → Bool
  | .valuAdd .. | .valuSub .. | .valuMul .. | .valuMin .. | .valuMax .. | .valuSadd .. | .valuSsub .. | .valuAbsd ..
  | .valuiAdd .. | .valuiRsub .. | .valuiMin .. | .valuiMax .. | .valuiSadd .. | .valuiSll .. | .valuiSrl ..
  | .valuiSra .. | .valuiAnd .. | .valuiOr .. | .valuiXor .. | .valuiMov .. | .vfmaFma .. | .vfmaFms ..
  | .vfmaFnma .. | .vfmaFnms .. | .vfmaDot2 .. | .vcmp .. | .vmskAnd .. | .vmskOr .. | .vmskXor .. | .vmskAndn ..
  | .vmskOrn .. | .vmskNot .. | .vmskMov .. | .vmskFrst .. | .vmskPopc .. | .vprmSlup .. | .vprmSldn ..
  | .vprmGath .. | .vprmCmpr .. | .vprmExpd .. | .vprmBcst .. | .vprmTran .. | .vprmMov .. | .vredSum ..
  | .vredMax .. | .vredMin .. | .vredAmax .. | .vcvt .. | .vbplAnd .. | .vbplOr .. | .vbplXor .. | .vbplAndn ..
  | .vbplNot .. | .vbplSll .. | .vbplSrl .. | .vbplSra .. | .vbplPopc .. | .vbplPext .. | .vbplPins .. | .vbplPmac ..
  | .vscaMul .. | .vscaMacc .. | .vscaRmul .. | .vscaCmul .. | .vscaRmac .. | .vscaCmac .. | .vwld .. | .vwst ..
  | .vidxLd .. | .vidxSt .. | .vsxIsec .. | .vsxIcnt .. | .vsxUnio .. | .vsxDiff .. | .vsxMrge .. | .hresSet ..
  | .hresClr .. | .tileMma .. | .tileZero .. | .tileScal .. | .tileOn .. | .tileOff .. | .cdyClaim .. | .cdyLoad ..
  | .cdyLstr .. | .cdyRel .. | .cdyMeta .. | .tmovRtov .. | .tmovCtov .. | .tmovVtor .. | .tmovVtoc .. | .syncAcq ..
  | .syncRel .. | .syncBind .. | .syncUbnd .. | .syncFenc .. | .syncBarr .. | .syncArrv .. | .syncExpt ..
  | .vamoAdd .. | .vamoMin .. | .vamoMax .. | .vamoAnd .. | .vamoOr .. | .vamoXor .. | .vamoSwap .. | .vamoCas ..
  | .vamoFadd .. | .vwtc .. | .accwUpd .. | .accwMrge .. | .accwClr .. | .linkXfer .. | .linkLacq .. | .linkLrel ..
  | .linkLsig .. | .collAred .. | .collRsct .. | .collAgat .. | .lnch .. => true
  | _ => false

/-- Executing `i` answers the state in which its entry has joined the current thread's queue as the last one, vesr is 0
(R137) and the pc is at the next instruction; apart from the next unique number nothing else differs. -/
def Pushes (i : Instr) (s : State) (t : Thread) : Prop :=
  exec i s = .next (setThread { s with uid := s.uid + 1 } s.cur { t with
    csr := { t.csr with vesr := 0 }, pc := t.pc + 4, hold := .run, vq := t.vq ++ [entryFor s t i] })

/-! ## Encodings -/

/-- The rows of the opcode table that are no instruction word: what the device does on its own and what reaches it from
outside. -/
def isEvent : Instr → Bool
  | .entryAtVcp .. | .issueGrant .. | .eReadWake .. | .qordRelease .. | .pushStallResume .. | .tileEngineStep ..
  | .tilePoolGrant .. | .caddySlotGrant .. | .fetchReturn .. | .deliveryLanding .. | .sliceRequest ..
  | .pageWalkComplete .. | .watermarkPublish .. | .hostWatermarkWrite .. | .hostWatermarkClear .. | .latchGrant ..
  | .latchAcquireRetry .. | .latchReleasePerform .. | .barrierPhaseComplete .. | .vwtcReread ..
  | .retirementEntryFree .. | .hostTailWrite .. | .queueEnable .. | .queueDisable .. | .threadStop ..
  | .contextSave .. | .contextRestore .. | .heartbeatTick .. | .heartbeatReceive .. | .periodicDrain ..
  | .drainEnd .. | .busyLaneRotate .. | .accusationApply .. | .retractionApply .. | .selfTestComplete ..
  | .appealApply .. | .reinstatementVoteApply .. | .snapshotApply .. | .powerWrite .. | .powerModeApply ..
  | .sramEccError .. | .commandBlockDone .. | .portctlEnable .. | .injWrite .. | .driverAreaWrite ..
  | .hostPostedWrite .. | .hostNonpostedRead .. | .shortReachFlitReceive .. | .longHaulFrameReceive ..
  | .longHaulAckTimeout .. | .portPhyFault .. | .remoteCommandReceive .. | .linkCommandPerform ..
  | .collBlockReceive .. | .codebookLoad .. | .resteepMerge .. | .fwLoad .. | .fwAttest .. | .illegalWord ..
  | .instructionPageFault .. | .schedulerPlace .. | .snaptrigWrite .. | .snapshotTriggerArrive ..
  | .snapshotRoundEnd .. | .thermalHalt .. | .invalCommand .. | .migrateCommand .. | .migrationComplete ..
  | .fwCkpt .. | .fwRestore .. | .fwCommandDone .. | .deviceReset .. | .tokenBypass .. | .tileFallsSilent ..
  | .coolantLimitExit .. | .routerFlitReceive .. | .portLinkTrained .. | .cumulativeAcknowledgement ..
  | .cxlReadReturn .. | .staticBinding .. => true
  | _ => false

/-! ## The entry at vcp -/

/-- Thread `tid` is `t`, its entry at vcp is `e`, nothing keeps it from going on (R289, R291), and no packet of it has been dropped
(R309). -/
structure AtVcp (s : State) (tid : Nat) (t : Thread) (e : Entry) (rest : List Entry) : Prop where
  here : threadAt s tid = some t
  queue : t.vq = e :: rest
  free : headFree t = true
  whole : ¬ e.uid ∈ s.dropped

/-- Every other thread, and memory, are as they were. -/
structure OnlyThread (s s' : State) (tid : Nat) : Prop where
  threads : ∀ j, j ≠ tid → threadAt s' j = threadAt s j
  mem : s'.mem = s.mem

/-- A thread without the keys that its queued entries have looked up and missed: the table of R296 forgets a key when a
register it names is freed, whichever thread of the cluster looked it up (R299). -/
def unkeyed (t : Thread) : Thread := { t with vq := t.vq.map (fun e => { e with key := none }) }

/-- Every other thread, but for keys that the reuse table has forgotten, and memory are as they were. -/
structure OnlyThreadRs (s s' : State) (tid : Nat) : Prop where
  threads : ∀ j, j ≠ tid → (threadAt s' j).map unkeyed = (threadAt s j).map unkeyed
  mem : s'.mem = s.mem

/-- A turn of the entry at vcp of thread `tid` completes it and leads to `s'`: the thread is `u` with `rest` for its queue; no
other thread and no memory changes. -/
def CompletesTo (s s' : State) (tid : Nat) (u : Thread) (rest : List Entry) : Prop :=
  exec (.entryAtVcp tid) s = .next s' ∧ OnlyThread s s' tid ∧ threadAt s' tid = some { u with vq := rest }

/-- The same, whatever else the state becomes. -/
def Completes (s : State) (tid : Nat) (u : Thread) (rest : List Entry) : Prop := ∃ s', CompletesTo s s' tid u rest

/-- The same for an entry that writes registers under a new name: keys that name a register it freed are forgotten (R299). -/
def CompletesRs (s : State) (tid : Nat) (u : Thread) (rest : List Entry) : Prop :=
  ∃ s' u', exec (.entryAtVcp tid) s = .next s' ∧ OnlyThreadRs s s' tid ∧ threadAt s' tid = some u' ∧
    unkeyed u' = unkeyed { u with vq := rest }

/-- The entry at vcp waits: nothing changes. -/
def VcpWaits (s : State) (tid : Nat) : Prop := exec (.entryAtVcp tid) s = .next s

/-- The entry `e` at vcp of thread `tid`, `t`, traps at element `k` (R29, R289, R290): it and the entries after it are
held, and stand as records in the save area; the thread is in its handler with the cause and tval, k in vesr, INH, HELD and
VEC 1 in tstat; the registers are as they were and the push copies are the committed ones. A record at a home of the save
area that is down, or to which there is no way from the cluster's tile, is lost (log 37). -/
def VecTraps (s : State) (tid : Nat) (t : Thread) (e : Entry) (rest : List Entry) (cause : BitVec 8) (tval : Word)
    (k : Nat) : Prop :=
  ∃ s' u, exec (.entryAtVcp tid) s = .next s' ∧ threadAt s' tid = some u ∧ (∀ j, j ≠ tid → threadAt s' j = threadAt s j) ∧
    u.vq = [] ∧ u.held = { e with k := k, begun := false, sat := [] } :: rest ∧ u.pc = t.csr.thand ∧
    u.csr = { t.csr with tcause := cause.zeroExtend 64, tval := tval, tepc := t.pc &&& ~~~3#64, tstat := 7,
                         vesr := BitVec.ofNat 64 k } ∧
    u.x = t.x ∧ u.v = t.v ∧ u.p = t.p ∧ u.t = t.t ∧ u.q = t.q ∧ u.tq = t.tq ∧ u.kcomm = t.kcomm ∧ u.kpush = t.kcomm ∧
    ((∀ a, t.area + 0x1000 ≤ a → a < t.area + 0x1000 + 128 * u.held.length → paExists s a = true ∧
        upFrom s (some (tileOfCluster (tid / 4))) a = true) →
      ∀ i x, u.held[i]? = some x → readBytes s'.mem (t.area + 0x1000 + 128 * i) 128 = vqRecord x)

/-- Thread 4 × cl + k is ready and alone in its cluster, and holds lane group `g`, which is not busy: the issue arbiter has
one grant to give, and gives it to the entry `e` at its vcp (R273, R274). -/
structure SoleHolder (s : State) (cl k g : Nat) (t : Thread) (e : Entry) (rest : List Entry) : Prop where
  vcp : AtVcp s (4 * cl + k) t e rest
  slot : k < 4
  alone : ∀ j, j < 4 → j ≠ k → threadAt s (4 * cl + j) = none
  group : g < 4
  holds : t.lgrp = some g
  free : groupBusy s cl g = false
  lanes : needsLanes e.instr = true
  begun : e.begun = true

/-! ## Sums -/

/-- The sum of the 2^n positions from `i` on as the tree of R103 forms it: adjacent pairs, lower first; an absent position adds
nothing. -/
def treeOf (f : Nat → Option Nat) : Nat → Nat → Option Nat
  | 0, i => f i
  | n + 1, i => addOpt (treeOf f n i) (treeOf f n (i + 2 ^ n))

/-! ## Memory -/

/-- The page of a virtual address stands in a cluster's translation cache with what an access needs, no router on the way has
stopped, the home can perform the access and a way leads there, and none of the `n` bytes at the physical address `pa` is
poisoned (R223, R225, R284, R285, R287, R312). -/
structure Reaches (s : State) (cl : Nat) (t : Thread) (va : Word) (n : Nat) (need : Need) (pa : Nat) : Prop where
  inside : va.toNat < 2 ^ 52
  cached : ∃ leaf big, tlbFind (clusterOf s cl).tlb t.ctx va.toNat = some (leaf, big) ∧ leafAllows leaf need = true ∧
    forwardedPa s (leafPa t.area leaf big va.toNat) = pa
  open_ : cutOff s cl pa = false
  up : reaches s cl pa = true
  clean : poisoned s pa n = false

/-- `n` bytes at `pa` hold `v`, and every other byte is as it was. -/
def Holds (s s' : State) (pa n v : Nat) : Prop :=
  natOfBytes (readBytes s'.mem pa n) = v ∧ ∀ a, a < pa ∨ pa + n ≤ a → readByte s'.mem a = readByte s.mem a

/-- The host reaches the device, no write of the host has been received and not performed, and no router in service has stopped: a
write that arrives takes effect at once (R13, R239, R307). -/
def hostQuiet (s : State) : Prop :=
  hostReach s = true ∧ (∀ x ∈ s.posted, isHostWrite x.op = false) ∧ ∀ tile, stopped s tile = false

/-- Memory and the memory of the persistence image are in their canonical form. -/
def Canonical (s : State) : Prop := s.mem.wf = true ∧ s.image.mem.wf = true

end Sys2Proof.Machine
end

