-- ==== Sys2Proof/Certificates/Slice0/Obligations.lean ====
section
/-! DEFINITION. The statements for the provers, family by family. Each docstring says which rule of spec/ the statement
formalises, and which clauses are the model's choice. -/

open Sys2Proof Sys2Proof.Machine

/-! ## Scalar arithmetic -/

/-- R116, table: what every ALU instruction, alui and upi give x[D], x0 discarding the write (R56); nothing else changes
but the pc, which advances by 4 (R54). sh is x[B][5:0]. -/
def Obligations.AluGivesTableResult : Prop :=
  ∀ (s : State) (t : Thread) (d a b : Reg) (imm : BitVec 16) (big : BitVec 21), threadAt s s.cur = some t →
    GivesX (.aluAdd d a b) s t d (rx t a + rx t b) ∧
    GivesX (.aluSub d a b) s t d (rx t a - rx t b) ∧
    GivesX (.aluAnd d a b) s t d (rx t a &&& rx t b) ∧
    GivesX (.aluOr d a b) s t d (rx t a ||| rx t b) ∧
    GivesX (.aluXor d a b) s t d (rx t a ^^^ rx t b) ∧
    GivesX (.aluSll d a b) s t d (rx t a <<< ((rx t b).extractLsb' 0 6)) ∧
    GivesX (.aluSrl d a b) s t d (rx t a >>> ((rx t b).extractLsb' 0 6)) ∧
    GivesX (.aluSra d a b) s t d ((rx t a).sshiftRight' ((rx t b).extractLsb' 0 6)) ∧
    GivesX (.aluSlt d a b) s t d (if (rx t a).toInt < (rx t b).toInt then 1 else 0) ∧
    GivesX (.aluSltu d a b) s t d (if (rx t a).toNat < (rx t b).toNat then 1 else 0) ∧
    GivesX (.aluAddw d a b) s t d (((rx t a + rx t b).extractLsb' 0 32).signExtend 64) ∧
    GivesX (.aluSubw d a b) s t d (((rx t a - rx t b).extractLsb' 0 32).signExtend 64) ∧
    GivesX (.aluMin d a b) s t d (BitVec.ofInt 64 (min (rx t a).toInt (rx t b).toInt)) ∧
    GivesX (.aluMax d a b) s t d (BitVec.ofInt 64 (max (rx t a).toInt (rx t b).toInt)) ∧
    GivesX (.aluMinu d a b) s t d (BitVec.ofNat 64 (min (rx t a).toNat (rx t b).toNat)) ∧
    GivesX (.aluMaxu d a b) s t d (BitVec.ofNat 64 (max (rx t a).toNat (rx t b).toNat)) ∧
    GivesX (.alui d a imm) s t d (rx t a + imm.signExtend 64) ∧
    GivesX (.upi d big) s t d (big.signExtend 64 * 65536)

/-- R117: what every MDV instruction gives x[D]: exact products, quotients truncated toward zero that saturate, and the
remainder, 0 whenever the quotient saturates. -/
def Obligations.MdvGivesSaturatingResult : Prop :=
  ∀ (s : State) (t : Thread) (d a b : Reg), threadAt s s.cur = some t →
    let x := rx t a
    let y := rx t b
    let xw : BitVec 32 := x.extractLsb' 0 32
    let yw : BitVec 32 := y.extractLsb' 0 32
    GivesX (.mdvMul d a b) s t d (x * y) ∧
    GivesX (.mdvMulh d a b) s t d ((x.signExtend 128 * y.signExtend 128).extractLsb' 64 64) ∧
    GivesX (.mdvMulhu d a b) s t d ((x.zeroExtend 128 * y.zeroExtend 128).extractLsb' 64 64) ∧
    GivesX (.mdvDiv d a b) s t d (BitVec.ofInt 64 (
      if y.toInt = 0 then (if 0 < x.toInt then 2 ^ 63 - 1 else if x.toInt < 0 then -2 ^ 63 else 0)
      else min (2 ^ 63 - 1) (x.toInt.tdiv y.toInt))) ∧
    GivesX (.mdvRem d a b) s t d (BitVec.ofInt 64 (
      if y.toInt = 0 ∨ (x.toInt = -2 ^ 63 ∧ y.toInt = -1) then 0 else x.toInt - y.toInt * x.toInt.tdiv y.toInt)) ∧
    GivesX (.mdvDivu d a b) s t d (
      if y = 0 then (if x = 0 then 0 else 0xFFFFFFFFFFFFFFFF) else BitVec.ofNat 64 (x.toNat / y.toNat)) ∧
    GivesX (.mdvRemu d a b) s t d (if y = 0 then 0 else BitVec.ofNat 64 (x.toNat % y.toNat)) ∧
    GivesX (.mdvMulw d a b) s t d ((xw * yw).signExtend 64) ∧
    GivesX (.mdvDivw d a b) s t d ((BitVec.ofInt 32 (
      if yw.toInt = 0 then (if 0 < xw.toInt then 2 ^ 31 - 1 else if xw.toInt < 0 then -2 ^ 31 else 0)
      else min (2 ^ 31 - 1) (xw.toInt.tdiv yw.toInt))).signExtend 64) ∧
    GivesX (.mdvRemw d a b) s t d ((BitVec.ofInt 32 (
      if yw.toInt = 0 ∨ (xw.toInt = -2 ^ 31 ∧ yw.toInt = -1) then 0
      else xw.toInt - yw.toInt * xw.toInt.tdiv yw.toInt)).signExtend 64)

/-- R118, table: what every BIT instruction gives x[D]. A count of leading or trailing zeros is the number n of zero bits
before the first one bit, 64 when there is none; byte n of rev8 is byte 7 − n. -/
def Obligations.BitGivesTableResult : Prop :=
  ∀ (s : State) (t : Thread) (d a : Reg) (sh : BitVec 6), threadAt s s.cur = some t →
    let x := rx t a
    GivesX (.bitSlli d a sh) s t d (x <<< sh) ∧
    GivesX (.bitSrli d a sh) s t d (x >>> sh) ∧
    GivesX (.bitSrai d a sh) s t d (x.sshiftRight' sh) ∧
    (∃ n : Nat, GivesX (.bitClz d a) s t d (BitVec.ofNat 64 n) ∧ n ≤ 64 ∧
      (∀ k, k < n → x.getLsbD (63 - k) = false) ∧ (n < 64 → x.getLsbD (63 - n) = true)) ∧
    (∃ n : Nat, GivesX (.bitCtz d a) s t d (BitVec.ofNat 64 n) ∧ n ≤ 64 ∧
      (∀ k, k < n → x.getLsbD k = false) ∧ (n < 64 → x.getLsbD n = true)) ∧
    GivesX (.bitPopc d a) s t d (BitVec.ofNat 64 ((List.range 64).countP (fun i => x.getLsbD i))) ∧
    (∃ v : Word, GivesX (.bitRev8 d a) s t d v ∧
      ∀ n, n < 8 → v.extractLsb' (8 * n) 8 = x.extractLsb' (8 * (7 - n)) 8)

/-! ## Control transfers -/

/-- R122 and R54: where each branch and jump goes, counted from the instruction's own address, offsets in words; jl.ln
and jlr leave the return address; every target of BR and JL is a multiple of 4 when the pc is. A jlr whose target is not a
multiple of 4 raises the instruction-misaligned trap (code 0x02 of R288): tval holds the target, tepc the address of the
jlr, and x[D] keeps its value. -/
def Obligations.TransfersReachTheirTarget : Prop :=
  (∀ (s : State) (t : Thread) (d a b : Reg) (off : BitVec 14) (far : BitVec 25) (imm : BitVec 16),
      threadAt s s.cur = some t →
      let near : Word := t.pc + 4 * off.signExtend 64
      let long : Word := t.pc + 4 * far.signExtend 64
      let target : Word := rx t a + imm.signExtend 64
      GoesTo (.brEq a b off) s t (if rx t a = rx t b then near else t.pc + 4) ∧
      GoesTo (.brNe a b off) s t (if rx t a ≠ rx t b then near else t.pc + 4) ∧
      GoesTo (.brLt a b off) s t (if (rx t a).toInt < (rx t b).toInt then near else t.pc + 4) ∧
      GoesTo (.brLtu a b off) s t (if (rx t a).toNat < (rx t b).toNat then near else t.pc + 4) ∧
      GoesTo (.jlGo far) s t long ∧
      (∃ u, exec (.jlLn far) s = .next (setThread s s.cur u) ∧ rx u 31 = t.pc + 4 ∧ (∀ r, r ≠ 31 → rx u r = rx t r) ∧
        u = { t with x := u.x, pc := long }) ∧
      (target.extractLsb' 0 2 = 0 →
        ∃ u, exec (.jlr d a imm) s = .next (setThread s s.cur u) ∧ rx u d = (if d = 0 then 0 else t.pc + 4) ∧
          (∀ r, r ≠ d → rx u r = rx t r) ∧ u = { t with x := u.x, pc := target }) ∧
      (t.pc.toNat % 4 = 0 → near.toNat % 4 = 0 ∧ long.toNat % 4 = 0)) ∧
  (∀ (s : State) (t : Thread) (d a : Reg) (imm : BitVec 16), threadAt s s.cur = some t → handlerFree t →
      (rx t a + imm.signExtend 64).extractLsb' 0 2 ≠ 0 →
      Traps (.jlr d a imm) s t 0x02 (rx t a + imm.signExtend 64) t.pc)

/-! ## Control and status registers -/

/-- R113: a read of vcp gives the address of the entry at vcp, or with an empty queue the address of the reading
instruction with bit 0 set, and never waits. -/
def Obligations.VcpReadSamplesQueue : Prop :=
  ∀ (s : State) (t : Thread) (d : Reg), threadAt s s.cur = some t →
    (t.vq = [] → GivesX (.ctlRd d 0x005) s t d (t.pc ||| 1)) ∧
    (∀ e rest, t.vq = e :: rest → GivesX (.ctlRd d 0x005) s t d e.cap.pc)

/-- R110, R111, R114: what ctl.rd gives for every CSR that is no e register, vcp apart: the value the register holds,
and the constants of this part. lcyc is the cycle count of the thread's die; place holds the cluster, slot and die. -/
def Obligations.CtlReadGivesRegister : Prop :=
  ∀ (s : State) (t : Thread) (d : Reg), threadAt s s.cur = some t →
    GivesX (.ctlRd d 0x000) s t d t.csr.vfmt ∧ GivesX (.ctlRd d 0x001) s t d t.csr.vrows ∧
    GivesX (.ctlRd d 0x002) s t d t.csr.vcols ∧ GivesX (.ctlRd d 0x003) s t d t.csr.vmode ∧
    GivesX (.ctlRd d 0x004) s t d t.csr.vesr ∧ GivesX (.ctlRd d 0x006) s t d 2048 ∧
    GivesX (.ctlRd d 0x010) s t d t.csr.srseed ∧ GivesX (.ctlRd d 0x011) s t d t.csr.srbase ∧
    GivesX (.ctlRd d 0x020) s t d t.csr.stctl ∧ GivesX (.ctlRd d 0x021) s t d t.csr.stloss ∧
    GivesX (.ctlRd d 0x030) s t d t.csr.rsctl ∧ GivesX (.ctlRd d 0x040) s t d t.csr.tcause ∧
    GivesX (.ctlRd d 0x041) s t d t.csr.tval ∧ GivesX (.ctlRd d 0x042) s t d t.csr.tepc ∧
    GivesX (.ctlRd d 0x043) s t d t.csr.tstat ∧ GivesX (.ctlRd d 0x044) s t d t.csr.thand ∧
    GivesX (.ctlRd d 0x045) s t d t.csr.tkeep ∧ GivesX (.ctlRd d 0x082) s t d 1 ∧
    GivesX (.ctlRd d 0x080) s t d (BitVec.ofNat 64 (tabGet 0 s.cycles (s.cur / 320))) ∧
    (s.cur < 1280 → ∃ v : Word, GivesX (.ctlRd d 0x081) s t d v ∧ v.extractLsb' 0 9 = BitVec.ofNat 9 (s.cur / 4) ∧
      v.extractLsb' 9 2 = BitVec.ofNat 2 (s.cur % 4) ∧ v.extractLsb' 11 2 = BitVec.ofNat 2 (s.cur / 320) ∧
      v.extractLsb' 13 51 = 0)

/-- R123: the five write forms of CTL. The read comes before the write; the CSR then holds what its layout gives for the
value, xchg and adv leave the old value in x[D], and nothing else changes but the pc. -/
def Obligations.CtlWriteSetsRegister : Prop :=
  ∀ (s : State) (t : Thread) (d a : Reg) (c : BitVec 12), threadAt s s.cur = some t → csrWritable c = true →
    let old := csrRead s s.cur t c
    let x := rx t a
    let sets (i : Instr) (v : Word) : Prop :=
      exec i s = .next (setThread s s.cur { t with csr := csrWrite t.csr c v, pc := t.pc + 4 })
    let swaps (i : Instr) (v : Word) : Prop :=
      ∃ u, exec i s = .next (setThread s s.cur u) ∧ rx u d = (if d = 0 then 0 else old) ∧
        (∀ r, r ≠ d → rx u r = rx t r) ∧ u = { t with csr := csrWrite t.csr c v, x := u.x, pc := t.pc + 4 }
    sets (.ctlWr a c) x ∧ sets (.ctlBset a c) (old ||| x) ∧ sets (.ctlBclr a c) (old &&& ~~~x) ∧
    swaps (.ctlXchg d a c) x ∧ (csrAdv c = true → swaps (.ctlAdv d a c) (old + x))

/-- R97, R111, R112, R130, R136, R199, R288: what each writable CSR holds after a write of `v`, and that no other
register changes: reserved type and rounding codes become 0, a reserved TERMS becomes 4, undefined bits read as zero, and
the two low bits of tepc and thand stay zero. A reserved NEM holds 2 (R199). Of vfmt, a type code written is the type it
holds, with its width, and GM 0 to 3 gives the group multipliers 1, 2, 4 and 8; it reads as it holds. -/
def Obligations.CsrHoldsItsLayout : Prop :=
  ∀ (r : Csrs) (v : Word),
    let ty : BitVec 4 := v.extractLsb' 0 4
    let rm : BitVec 3 := v.extractLsb' 0 3
    let nem : BitVec 2 := v.extractLsb' 2 2
    let terms : BitVec 3 := v.extractLsb' 4 3
    csrWrite r 0x000 v = { r with vfmt := 0#58 ++ v.extractLsb' 4 2 ++ (if 14 ≤ ty.toNat then 0#4 else ty) } ∧
    (∀ (ty : ElemTy) (g : GMul), let f := (csrWrite r 0x000 (0#58 ++ g.code ++ ty.code)).vfmt
      vfmtTy f = ty ∧ vfmtW f = ty.bits ∧ vfmtGm f = (match g with | .m1 => 1 | .m2 => 2 | .m4 => 4 | .m8 => 8)) ∧
    (∀ s tid t, t.csr = r → csrRead s tid t 0x000 = r.vfmt) ∧
    csrWrite r 0x001 v = { r with vrows := v } ∧ csrWrite r 0x002 v = { r with vcols := v } ∧
    csrWrite r 0x003 v = { r with vmode := 0#60 ++ v.extractLsb' 3 1 ++ (if 5 ≤ rm.toNat then 0#3 else rm) } ∧
    csrWrite r 0x004 v = { r with vesr := v } ∧ csrWrite r 0x010 v = { r with srseed := v } ∧
    csrWrite r 0x011 v = { r with srbase := v } ∧
    csrWrite r 0x020 v = { r with stctl := 0#56 ++ v.extractLsb' 7 1 ++
      (if terms = 0 ∨ 5 ≤ terms.toNat then 4#3 else terms) ++ (if nem = 3 then 2#2 else nem) ++ v.extractLsb' 0 2 } ∧
    csrWrite r 0x021 v = { r with stloss := 0#48 ++ v.extractLsb' 0 16 } ∧
    csrWrite r 0x030 v = { r with rsctl := 0#61 ++ v.extractLsb' 0 3 } ∧
    csrWrite r 0x040 v = { r with tcause := 0#56 ++ v.extractLsb' 0 8 } ∧
    csrWrite r 0x041 v = { r with tval := v } ∧
    csrWrite r 0x042 v = { r with tepc := v.extractLsb' 2 62 ++ 0#2 } ∧
    csrWrite r 0x044 v = { r with thand := v.extractLsb' 2 62 ++ 0#2 } ∧
    csrWrite r 0x045 v = { r with tkeep := v }

/-- R115 and R45: ctl.rd of e register n. With no writer of vn in the queue it gives element (0,0) of vn under the type
in vfmt, sign-extended for the signed types and bpi, zero-extended for the others. With a writer in the queue the thread
waits at the read, and E_READ_WAKE gives the value once vcp has passed every writer. After VREL the read raises the
vector-released trap (code 0x0B). -/
def Obligations.ERegisterReadSynchronises : Prop :=
  ∀ (s : State) (t : Thread) (d n : Reg) (tid : Nat),
    let ty := vfmtTy t.csr.vfmt
    let low : BitVec ty.bits := (rv t n.toNat).extractLsb' 0 ty.bits
    let v : Word := if ty.isSigned ∨ ty = .bpi then low.signExtend 64 else low.zeroExtend 64
    let writers : Prop := ∃ e ∈ t.vq, n.toNat ∈ destRegs e.cap.vfmt e.instr
    let read : Instr := .ctlRd d (0x800 + n.zeroExtend 12)
    (threadAt s s.cur = some t → t.vrelPushed = false → ¬ writers → GivesX read s t d v) ∧
    (threadAt s s.cur = some t → t.vrelPushed = false → writers →
      exec read s = .next (setThread s s.cur { t with hold := .eRead d n.toNat })) ∧
    (threadAt s s.cur = some t → t.vrelPushed = true → handlerFree t → Traps read s t 0x0B 0 t.pc) ∧
    (threadAt s tid = some t → t.hold = .eRead d n.toNat → t.stopReq = false → ¬ writers →
      ∃ u, exec (.eReadWake tid) s = .next (setThread s tid u) ∧ rx u d = (if d = 0 then 0 else v) ∧
        (∀ r, r ≠ d → rx u r = rx t r) ∧ u = { t with x := u.x, pc := t.pc + 4, hold := .run }) ∧
    (threadAt s tid = some t → t.hold = .eRead d n.toNat → writers → exec (.eReadWake tid) s = .next s)

/-! ## Loads and stores -/

/-- R119, R120, R125, R223, R225, R229, R288, R369: loads. A load whose address is below 2^52, aligned, translated to a
readable page and reaches its home without poison reads at the home: x[D] receives the bytes there, little-endian (R5),
extended as W says; nothing else changes but the counters, and the translation cache of the cluster with the misses that await a
walk, of which those of the load itself end with it, also where it traps (log 8).
First a store of the thread to those bytes that is on its way must have performed, and a merge of its own accw.mrge (log 82). A strong
load waits for the thread's earlier strong accesses (R235, R236): stores and latch operations on their way, those through LINK on this
device included, and atomics of its queue (log 21, DEDUCED). The traps come in the order of their checks, each with the effective address in tval: load page fault (0x05) for an address of 2^52 or more,
misaligned (0x04), load page fault for a page that does not translate or is not readable, unavailable (0x0D) at a home that the
access does not reach, poisoned data (0x0E). -/
def Obligations.LoadsReadAtTheirHome : Prop :=
  (∀ (s s1 : State) (t : Thread) (d a b : Reg) (w : LdW) (strong : Option Scope) (off : BitVec 4) (pa : Nat),
      let n := ldBytes w
      let ea : Word := rx t a + rx t b + off.signExtend 64 * BitVec.ofNat 64 n
      let i : Instr := .ld d a b w strong off
      let s2 := endMiss s1 (s.cur / 4) t.uid t.uid
      threadAt s s.cur = some t →
      (strong.isSome = true → strongBusy s t = true → exec i s = .next s) ∧
      ((strong = none ∨ strongBusy s t = false) →
        (handlerFree t → 2 ^ 52 ≤ ea.toNat → Traps i s t 0x05 ea t.pc) ∧
        (handlerFree t → ea.toNat < 2 ^ 52 → ea.toNat % n ≠ 0 → Traps i s t 0x04 ea t.pc) ∧
        (ea.toNat < 2 ^ 52 → ea.toNat % n = 0 →
          (handlerFree t → xlate s (s.cur / 4) t.uid t.uid t.ctx t.area ea.toNat needLd = (.fail, s1) →
            TrapsFrom i s s2 t 0x05 ea t.pc) ∧
          (xlate s (s.cur / 4) t.uid t.uid t.ctx t.area ea.toNat needLd = (.ok pa, s1) →
            (handlerFree t → reaches s1 (s.cur / 4) pa = false → TrapsFrom i s s2 t 0x0D ea t.pc) ∧
            (reaches s1 (s.cur / 4) pa = true →
              (loadWaits s1 t pa n = true → exec i s = .next s1) ∧
              (loadWaits s1 t pa n = false →
                (handlerFree t → poisoned s1 pa n = true → TrapsFrom i s s2 t 0x0E ea t.pc) ∧
                (poisoned s1 pa n = false →
                  let v := natOfBytes (readBytes s.mem pa n)
                  let x : Word := match w with
                    | .s8 => (BitVec.ofNat 8 v).signExtend 64 | .s16 => (BitVec.ofNat 16 v).signExtend 64
                    | .s32 => (BitVec.ofNat 32 v).signExtend 64
                    | .z8 | .z16 | .z32 | .i64 => BitVec.ofNat 64 v
                  ∃ s3 u, exec i s = .next (setThread s3 s.cur u) ∧ WritesX t u d x ∧ OnlyCaches s s3 (s.cur / 4)))))))) ∧
  (∀ (s : State) (t : Thread) (pa n : Nat),
      let shares (q m : Nat) : Prop := ∃ a, pa ≤ a ∧ a < pa + n ∧ q ≤ a ∧ a < q + m
      (strongBusy s t = true ↔
        (∃ r ∈ s.inflight, r.owner = t.uid ∧ r.strong = true ∧ r.seq < s.uid) ∨
        (∃ r ∈ s.releases, r.owner = t.uid ∧ r.uid < s.uid) ∨ linkLatchBefore s t.uid s.uid = true ∨
        (t.deferred = none ∧ ∃ e ∈ t.vq, countsL1 e.instr = true ∧ e.uid < s.uid)) ∧
      ((∀ e ∈ t.vq, ∀ h ty, e.instr ≠ .accwMrge h ty) → (loadWaits s t pa n = true ↔
        ∃ r ∈ s.inflight, r.owner = t.uid ∧ ((∃ q l, r.kind = .store q l ∧ shares q l.length) ∨
          (∃ q ty c, r.kind = .merge q ty c ∧ r.part = true ∧ shares q (ty.bits / 8))))))

/-- R119, R120, R229, R272, R318: a store whose address passes the checks of R119 and that reaches its home is issued to it as
the thread's youngest request, with the low bytes of x[D], and the thread goes on at the next instruction; memory does not change
before the request performs, nor anything else but counters and what its translation leaves (log 8). Its failing addresses trap as a load's do, with the store page fault (0x06). A strong store waits as a
strong load does (R235, R236; log 21), and with 65,535 operations of the stores class outstanding a store waits. -/
def Obligations.StoreIssuesItsBytes : Prop :=
  ∀ (s s1 : State) (t : Thread) (d a b : Reg) (w : StW) (strong : Option Scope) (off : BitVec 4) (pa : Nat),
    let n := stBytes w
    let ea : Word := rx t a + rx t b + off.signExtend 64 * BitVec.ofNat 64 n
    let i : Instr := .st d a b w strong off
    let s2 := endMiss s1 (s.cur / 4) t.uid t.uid
    threadAt s s.cur = some t →
    (strong.isSome = true → strongBusy s t = true → exec i s = .next s) ∧
    (65535 ≤ classCount s t 1 → exec i s = .next s) ∧
    ((strong = none ∨ strongBusy s t = false) → classCount s t 1 < 65535 →
      (2 ^ 52 ≤ ea.toNat → handlerFree t → Traps i s t 0x06 ea t.pc) ∧
      (ea.toNat < 2 ^ 52 → ea.toNat % n ≠ 0 → handlerFree t → Traps i s t 0x04 ea t.pc) ∧
      (ea.toNat < 2 ^ 52 → ea.toNat % n = 0 →
        xlate s (s.cur / 4) t.uid t.uid t.ctx t.area ea.toNat needSt = (.fail, s1) → handlerFree t →
        TrapsFrom i s s2 t 0x06 ea t.pc) ∧
      (ea.toNat < 2 ^ 52 → ea.toNat % n = 0 →
        xlate s (s.cur / 4) t.uid t.uid t.ctx t.area ea.toNat needSt = (.ok pa, s1) →
        (reaches s1 (s.cur / 4) pa = false → handlerFree t → TrapsFrom i s s2 t 0x0D ea t.pc) ∧
        (reaches s1 (s.cur / 4) pa = true → OnlyCaches s s2 (s.cur / 4) ∧
          exec i s = .next (setThread { s2 with uid := s2.uid + 1, inflight := s2.inflight ++
            [{ uid := s2.uid, seq := s2.uid, owner := t.uid, launch := t.launch, cluster := s.cur / 4,
               strong := strong.isSome,
               kind := .store pa ((List.range n).map (fun k => (rx t d).extractLsb' (8 * k) 8)) }] } s.cur
            { t with pc := t.pc + 4 }))))

/-- R223, R227 to R229, R236, R252, R253, R260, R309, R312: requests at their homes. A request waits while one that must precede it,
an earlier entry or release of its thread that it is ordered after (which: logs 21 and 82, DEDUCED), or a stopped router (log 67,
DEDUCED) stands before it, and never performs once its packet has been dropped (which packet that is: log 98, DESIGN CHOICE); one
that does not reach its home is lost; any other performs there as one action and is no longer in flight. A store or write-back
leaves its bytes in memory, every other byte as it was, and the poison of granules it covers whole gone; planes change one bit of
each plane; an atomic element, or with those of its address that the home combines with it (log 41) several, leaves its operation's
result; a merge adds the 64 copies in order. An atomic or merge on poisoned bytes writes nothing (log 87). -/
def Obligations.RequestsPerformAtHome : Prop :=
  ∀ (s : State) (r : Req), s.inflight.find? (fun x => x.uid = r.uid) = some r →
    let held : Prop := (∃ x ∈ s.inflight, mustPrecede x r = true) ∨ waitsInQueue s r = true ∨ requestStuck s r = true ∨
      r.uid ∈ s.dropped
    let amount (x : Req) : Nat := match x.kind with | .atom _ _ _ u => u.toNat | _ => 0
    (held → exec (.sliceRequest r.uid) s = .next s) ∧
    (¬ held → requestReaches s r = false →
      exec (.sliceRequest r.uid) s = .next { s with inflight := s.inflight.filter (fun x => x.uid ≠ r.uid) }) ∧
    (¬ held → requestReaches s r = true → ∃ s', exec (.sliceRequest r.uid) s = .next s' ∧ s'.threads = s.threads ∧
      s'.inflight = s.inflight.filter (fun x => x.uid ≠ r.uid ∧ ¬ x ∈ combined s r) ∧
      (∀ pa l, r.kind = .store pa l ∨ r.kind = .writeBack pa l →
        (∀ a, readByte s'.mem a = if pa ≤ a ∧ a < pa + l.length then l.getD (a - pa) 0 else readByte s.mem a) ∧
        ∀ g, g ∈ s'.poison ↔ g ∈ s.poison ∧ ¬ (pa ≤ 32 * g ∧ 32 * g + 32 ≤ pa + l.length)) ∧
      (∀ pa pos p v, r.kind = .planes pa pos p v → pos < 256 → p ≤ 8 →
        (∀ a, (∀ j, j < p → a ≠ pa + 32 * j + pos / 8) → readByte s'.mem a = readByte s.mem a) ∧
        ∀ j k, j < p → k < 8 → (readByte s'.mem (pa + 32 * j + pos / 8)).getLsbD k =
          if k = pos % 8 then v.getLsbD (p - 1 - j) else (readByte s.mem (pa + 32 * j + pos / 8)).getLsbD k) ∧
      (∀ pa op w64 v, r.kind = .atom pa op w64 v →
        let n := if w64 then 8 else 4
        let w := 8 * n
        let old := natOfBytes (readBytes s.mem pa n)
        let now := natOfBytes (readBytes s'.mem pa n)
        (∀ a, a < pa ∨ pa + n ≤ a → readByte s'.mem a = readByte s.mem a) ∧
        (poisoned s pa n = true → s'.mem = s.mem) ∧
        (poisoned s pa n = false →
          ((∀ x ∈ r :: combined s r, ∃ u, x.kind = .atom pa .add w64 u) →
            now = (old + ((r :: combined s r).map amount).sum) % 2 ^ w) ∧
          (combined s r = [] → v.toNat < 2 ^ w →
            (op = .swap → now = v.toNat) ∧ (op = .and → now = old &&& v.toNat) ∧ (op = .or → now = old ||| v.toNat) ∧
            (op = .xor → now = old ^^^ v.toNat) ∧
            (op = .min → now = if signedOf w old ≤ signedOf w v.toNat then old else v.toNat) ∧
            (op = .max → now = if signedOf w old ≤ signedOf w v.toNat then v.toNat else old) ∧
            (op = .fadd → w64 = false →
              now = roundTo .f32 .rne (fadd .rne (fvalOf .f32 old) (fvalOf .f32 v.toNat)) % 2 ^ 32)))) ∧
      (∀ pa ty copies, r.kind = .merge pa ty copies →
        let n := ty.bits / 8
        let old := natOfBytes (readBytes s.mem pa n)
        let now := natOfBytes (readBytes s'.mem pa n)
        (∀ a, a < pa ∨ pa + n ≤ a → readByte s'.mem a = readByte s.mem a) ∧
        (poisoned s pa n = true → s'.mem = s.mem) ∧
        (poisoned s pa n = false →
          (ty ≠ .f32 → now = (old + (copies.map (fun c => c.toNat)).sum) % 2 ^ ty.bits) ∧
          (ty = .f32 → now = copies.foldl (fun m c =>
            roundTo .f32 .rne (fadd .rne (fvalOf .f32 m) (fvalOf .f32 c.toNat))) old % 2 ^ 32))))

/-! ## Traps -/

/-- R125, R126, R288: the scalar traps of SYS, of a word that is no instruction, of a failed fetch, and of sys.tret
outside a handler: which value each saves in tcause, tval and tepc; the thread goes on at thand, its queue and registers
untouched. -/
def Obligations.ScalarTrapEntersHandler : Prop :=
  ∀ (s : State) (t : Thread) (code : BitVec 6) (w : IWord) (va : Word), threadAt s s.cur = some t → handlerFree t →
    Traps .sysCall s t 0x07 0 (t.pc + 4) ∧
    Traps (.sysTrap code) s t 0x08 (code.zeroExtend 64) (t.pc + 4) ∧
    Traps .sysBrk s t 0x09 t.pc t.pc ∧
    Traps .sysTret s t 0x0A 0 t.pc ∧
    Traps (.illegalWord w) s t 0x01 (w.zeroExtend 64) t.pc ∧
    Traps (.instructionPageFault va) s t 0x03 va va

/-- R126, R43, R270, R289: a trap without a handler, or a second trap inside a handler, ends the launch on the device:
nothing of it is left, whatever raised the trap, and its outcome is TRAPPED unless a later launch of the queue has taken the
place in the queue's outcome table (R266). R43 names stores alone as having no further effect: that releases, publications, waiters
and every other request of the launch go with it is the model's reading (log 50, DEDUCED). -/
def Obligations.UnhandledTrapEndsLaunch : Prop :=
  ∀ (s : State) (t : Thread) (l : Launch) (i : Instr), threadAt s s.cur = some t → launchOf s t.launch = some l →
    (inh t = true ∨ t.csr.thand = 0) →
    (i = .sysCall ∨ (∃ code, i = .sysTrap code) ∨ i = .sysBrk ∨ (∃ w, i = .illegalWord w) ∨
      (∃ va, i = .instructionPageFault va)) →
    ∃ s', exec i s = .next s' ∧ LaunchGone s s' t.launch ∧
      ((tabGet (0, LOut.completed) (queueAt s (t.launch % 64)).outcomes (t.launch / 64 % 1024)).1 ≤ t.launch / 64 →
        tabFind (queueAt s' (t.launch % 64)).outcomes (t.launch / 64 % 1024) = some (t.launch / 64, .trapped))

/-- R126, R30, R290: sys.tret inside a handler that left no held entries goes on at tepc with INH and HELD 0. With held entries it
waits until the queue is empty and every scalar store of the thread has performed; it then pushes the held entries again in
their order, as their records in the save area now stand, those with DROP left out, each with the HND it was first pushed with (R289,
R290), and goes on at tepc. That VEC is cleared too is the model's choice (log 11), and so are the new number each entry takes, its HND
and the mark that it was pushed again (log 20). -/
def Obligations.TrapReturnResumesThread : Prop :=
  (∀ (s : State) (t : Thread), threadAt s s.cur = some t → inh t = true →
      (t.csr.tstat.getLsbD 1 = false → t.deferred = none → exec .sysTret s = .next (setThread s s.cur
        { t with held := [], pc := t.csr.tepc, csr := { t.csr with tstat := 0 } })) ∧
      (t.csr.tstat.getLsbD 1 = true → t.vq ≠ [] ∨ (∃ r ∈ s.inflight, r.owner = t.uid ∧ ∃ q l, r.kind = .store q l) →
        exec .sysTret s = .next s)) ∧
  (∀ (s : State) (t : Thread), threadAt s s.cur = some t → inh t = true → t.csr.tstat.getLsbD 1 = true → t.vq = [] →
      (∀ r ∈ s.inflight, r.owner = t.uid → ∀ q l, r.kind ≠ .store q l) →
      (∀ h ∈ t.h, h.2.failed = []) → t.held.length ≤ 64 → (∀ k, k < 5 → classCount s t k + 64 < 65535) →
      (∀ e ∈ t.held, isMarker e.instr true = false ∧ hresReg e.instr = none ∧ ∀ x y, e.instr ≠ .kcntLink x y) →
      let again := heldNow s t
      exec .sysTret s = .next (setThread { s with uid := s.uid + again.length } s.cur { t with
        held := [], pc := t.csr.tepc, csr := { t.csr with tstat := 0 },
        vq := again.zipIdx.map (fun (x : Entry × Nat) => { x.1 with
          boxes := [], changed := false, uid := s.uid + x.2, again := true }) }))

/-! ## The end of a thread, snapshots -/

/-- R46, R127, R272: sys.tend with an empty queue and no release, latch, tile-queue entry or dirty element left gives up the
slot: the thread is gone, its requests and link commands stand under one new entry of its cluster's retirement tracker. With an
entry still in the queue, or a release on its way, it waits, and before VREL for its tile queue (R278), after it for room in the
tracker; with a latch held it raises the latch-held trap (0x0C). Other threads lose at most keys of the reuse table (R299). -/
def Obligations.ThreadEndRetires : Prop :=
  ∀ (s : State) (t : Thread), threadAt s s.cur = some t →
    let free : Prop := t.vq = [] ∧ (∀ r ∈ s.releases, r.owner ≠ t.uid) ∧ t.latches = []
    let tracked := (clusterOf s (s.cur / 4)).tracker
    (free → t.tq = [] → (∀ h ∈ t.h, h.2.dirty = []) → tracked.length < 8 →
      ∃ s' r, exec .sysTend s = .next s' ∧ OnlyThreadRs s s' s.cur ∧ threadAt s' s.cur = none ∧
        (clusterOf s' (s.cur / 4)).tracker = tracked ++ [r] ∧ s'.inflight = s.inflight ∧
        r.uid = t.uid ∧ r.launch = t.launch ∧ r.ctx = t.ctx ∧ r.lq = t.lq ∧ r.remote = t.remote) ∧
    (t.vq ≠ [] ∨ (∃ r ∈ s.releases, r.owner = t.uid) → exec .sysTend s = .next s) ∧
    (free → t.vreleased = false → t.tq ≠ [] → exec .sysTend s = .next s) ∧
    (free → t.vreleased = true → 8 ≤ tracked.length →
      exec .sysTend s = .next (setThread s s.cur { t with held := [] })) ∧
    (t.vq = [] → (∀ r ∈ s.releases, r.owner ≠ t.uid) → t.latches ≠ [] → handlerFree t → Traps .sysTend s t 0x0C 0 t.pc)

/-- R128, R310, R322, R325, R326: sys.snap and a host write of SNAPTRIG post a trigger; the sequencer on the host-port tile
collects triggers, and at the end of a round with at least one the sequence number grows by one and a snapshot takes its place on
the side network of each die, for its 40 stations to apply. A thread's sys.snap changes nothing of the thread but the pc. A
station that applies the next broadcast of its die, a snapshot, copies every event counter of the blocks it serves, with the local
cycle count and the sequence number, and changes no live counter; a station out of service copies nothing. A write of SNAPTRIG
acts at once when no earlier host write waits (R239). Snapshots as broadcasts with their stations are the model's form (log 75,
DEDUCED). -/
def Obligations.SnapshotTriggersReachStations : Prop :=
  ∀ (s : State) (t : Thread) (station die : Nat) (seq : IWord) (todo : List Nat),
    let seqTile := tileOfPort 0
    let sent := (List.range 4).map (fun d => Bcast.snapshot d (s.snapSeq + 1) ((List.range 40).map (fun k => 40 * d + k)))
    (threadAt s s.cur = some t → exec .sysSnap s =
      .next (setThread { s with trigPosted := s.trigPosted + 1 } s.cur { t with pc := t.pc + 4 })) ∧
    (hostQuiet s → exec .snaptrigWrite s = .next { hostFlits s 1 with trigPosted := s.trigPosted + 1 }) ∧
    (s.trigPosted ≠ 0 → hostReach s = true → exec .snapshotTriggerArrive s =
      .next { s with trigPosted := s.trigPosted - 1, trigRound := s.trigRound + 1 }) ∧
    (s.trigRound ≠ 0 → hostReach s = true → ¬ seqTile ∈ s.bypassed → exec .snapshotRoundEnd s = .next { s with
      trigRound := 0, snapSeq := s.snapSeq + 1,
      bcasts := s.bcasts ++ sent }) ∧
    (nextBcast s (dieOfTile station) = some (.snapshot die seq todo) →
      let left := todo.filter (fun x => x ≠ station)
      let kept := if left = [] then s.bcasts.erase (.snapshot die seq todo)
        else s.bcasts.map (fun x => if x = .snapshot die seq todo then .snapshot die seq left else x)
      let s1 : State := { s with bcasts := kept }
      (¬ station ∈ todo → exec (.snapshotApply station) s = .next s) ∧
      (station ∈ todo → inService s station = false ∨ (die = 0 ∧ fenceOf s seqTile = 1) →
        exec (.snapshotApply station) s = .next s1) ∧
      (station ∈ todo → inService s station = true → die ≠ 0 ∨ fenceOf s seqTile ≠ 1 →
        ∃ s', exec (.snapshotApply station) s = .next s' ∧ s' = { s1 with snaps := s'.snaps } ∧
        ∀ page, page < 669 → if tileOfPage page = station then
          (∀ k, k < 254 → tabGet 0 s'.snaps (256 * page + k) = tabGet 0 s.counters (256 * page + k)) ∧
          tabGet 0 s'.snaps (256 * page + 254) = BitVec.ofNat 64 (tabGet 0 s.cycles (dieOfTile station)) ∧
          tabGet 0 s'.snaps (256 * page + 255) = seq.zeroExtend 64
        else ∀ k, k < 256 → tabGet 0 s'.snaps (256 * page + k) = tabGet 0 s.snaps (256 * page + k)))

/-! ## Pushes -/

/-- R22, R23, R25, R137: a push of any vector-side instruction but VREL, VSET, QORD, KCNT and the HRES forms with push
copies: the entry joins the thread's queue as the last one with everything R23 has captured, vesr becomes 0 after the
capture, and the thread goes on at the next instruction without waiting. With all 64 entries occupied the thread stalls at
the push and executes nothing; PUSH_STALL_RESUME has it try again. R177: a push that would start a third recomputation of a register
stalls likewise, until the older of the two has left delivery, whatever becomes of the younger. -/
def Obligations.PlainPushJoinsQueue : Prop :=
  (∀ (s : State) (t : Thread) (i : Instr), threadAt s s.cur = some t → plainPush i = true → PushOk s t i →
      Pushes i s t ∧
      let e := entryFor s t i
      e.instr = i ∧ e.cap.pc = t.pc ∧ e.cap.vfmt = t.csr.vfmt ∧ e.cap.vrows = t.csr.vrows ∧ e.cap.vcols = t.csr.vcols ∧
      e.cap.vmode = t.csr.vmode ∧ e.cap.vesr = t.csr.vesr ∧ e.cap.srseed = t.csr.srseed ∧ e.cap.srbase = t.csr.srbase ∧
      e.cap.stctl = t.csr.stctl ∧ e.cap.stloss = t.csr.stloss ∧ e.cap.rsctl = t.csr.rsctl ∧
      (∀ r, (xFields i).1 = some r → e.cap.xd = rx t r) ∧ (∀ r, (xFields i).2.1 = some r → e.cap.xa = rx t r) ∧
      (∀ r, (xFields i).2.2 = some r → e.cap.xb = rx t r)) ∧
  (∀ (s : State) (t : Thread) (i : Instr) (tid : Nat),
      (threadAt s s.cur = some t → plainPush i = true → pushLegal s t i = true → t.vrelPushed = false → 64 ≤ t.vq.length →
        exec i s = .next (setThread s s.cur { t with hold := .push, stallOn := [] }) ∧
        canRun { t with hold := .push } = false) ∧
      (threadAt s tid = some t → t.hold = .push → t.stopReq = false →
        let held : Prop := ∃ x ∈ t.stallOn, ∃ r ∈ t.recomps, r.h = x.1 ∧ r.marker = x.2 ∧ r.counts = true
        (held → exec (.pushStallResume tid) s = .next s) ∧
        (¬ held → exec (.pushStallResume tid) s = .next (setThread s tid { t with hold := .run, stallOn := [] })))) ∧
  (∀ (s : State) (t : Thread) (d a : Reg) (n : BitVec 2) (older younger : Recomp), threadAt s s.cur = some t →
      pushLegal s t (.hresAnch d a n) = true → t.vrelPushed = false → (tabFind t.h d.toNat).isSome = true →
      t.recomps.filter (fun r => r.h = d.toNat ∧ r.counts) = [older, younger] →
      ∃ l, exec (.hresAnch d a n) s = .next (setThread s s.cur { t with hold := .push, stallOn := l }) ∧
        ∀ x, x ∈ l ↔ x = (d.toNat, older.marker))

/-- R142: both forms of VSET act at push: vfmt takes the type and multiplier of lenf, vcols is the request limited to
VLMAX = 16,384 × gm ÷ w, vrows the request limited to VLMAX div vcols, 0 when vcols is 0; the entry then joins the queue. -/
def Obligations.VsetActsAtPush : Prop :=
  ∀ (s : State) (t : Thread) (a b : Reg) (g : GMul) (ty : ElemTy), threadAt s s.cur = some t →
    let after (i : Instr) (f : Word) (gm w : Nat) : Prop :=
      let cols := min (rx t a).toNat (16384 * gm / w)
      let rows := if cols = 0 then 0 else min (rx t b).toNat (16384 * gm / w / cols)
      exec i s = .next (setThread { s with uid := s.uid + 1 } s.cur { t with
        csr := { t.csr with vesr := 0, vfmt := f, vcols := BitVec.ofNat 64 cols, vrows := BitVec.ofNat 64 rows },
        pc := t.pc + 4, hold := .run, vq := t.vq ++ [entryFor s t i] })
    let gmOf : Nat := match g with | .m1 => 1 | .m2 => 2 | .m4 => 4 | .m8 => 8
    (PushOk s t (.vsetLen a b) → after (.vsetLen a b) t.csr.vfmt (2 ^ (t.csr.vfmt.extractLsb' 4 2).toNat) (vfmtTy t.csr.vfmt).bits) ∧
    (PushOk s t (.vsetLenf a b g ty) →
      ∃ f : Word, after (.vsetLenf a b g ty) f gmOf ty.bits ∧ vfmtTy f = ty ∧ 2 ^ (f.extractLsb' 4 2).toNat = gmOf ∧
        f.extractLsb' 6 58 = 0)

/-- R26, R40, R45, R57, R58, R68, R242, R278: a push of VREL joins the queue like any other, and from then on the thread's
queue is closed: a later vector-side instruction raises the vector-released trap (0x0B, tval 0). A word that is illegal under
the captured vfmt or the launch's levels raises the illegal-instruction trap at push with the word in tval, before every
other trap. The queue, and vesr (R137), are then as they were. What the push check asks of a word: for a form with three
groups and a type, for a conversion (whose wider field names a larger group), for a permute, and for a barrier, whose level
must exist in the launch with the scope the word names. -/
def Obligations.PushTrapsAndRelease : Prop :=
  (∀ (s : State) (t : Thread), threadAt s s.cur = some t → PushOk s t .vrel →
      exec .vrel s = .next (setThread { s with uid := s.uid + 1 } s.cur { t with
        csr := { t.csr with vesr := 0 }, pc := t.pc + 4, hold := .run, vrelPushed := true,
        vq := t.vq ++ [entryFor s t .vrel] })) ∧
  (∀ (s : State) (t : Thread) (i : Instr), threadAt s s.cur = some t → handlerFree t →
      (plainPush i = true ∨ i = .vrel ∨ (∃ a b, i = .vsetLen a b) ∨ (∃ a b g ty, i = .vsetLenf a b g ty)) →
      (pushLegal s t i = false → Traps i s t 0x01 (((encode i).getD 0).zeroExtend 64) t.pc) ∧
      (pushLegal s t i = true → t.vrelPushed = true → Traps i s t 0x0B 0 t.pc)) ∧
  (∀ (s : State) (t : Thread) (l : Launch) (d a b : Reg) (p : PReg) (sOp : Bool) (ty tt ft : ElemTy) (w : PWidth)
      (sc : Scope) (lvl : BitVec 4),
      let gm := 2 ^ (t.csr.vfmt.extractLsb' 4 2).toNat
      let width := (vfmtTy t.csr.vfmt).bits
      (pushLegal s t (.valuAdd d a b p sOp ty) = true ↔
        ty.bits = width ∧ d.toNat % gm = 0 ∧ a.toNat % gm = 0 ∧ (sOp = true ∨ b.toNat % gm = 0)) ∧
      (pushLegal s t (.vcvt d a p tt ft) = true ↔ ft.bits = width ∧
        let gd := if ft.bits < tt.bits then gm * (tt.bits / ft.bits) else gm
        let ga := if tt.bits < ft.bits then gm * (ft.bits / tt.bits) else gm
        gd ≤ 8 ∧ ga ≤ 8 ∧ d.toNat % gd = 0 ∧ a.toNat % ga = 0) ∧
      (pushLegal s t (.vprmTran d a p w) = true ↔
        (match w with | .w8 => 8 | .w16 => 16 | .w32 => 32 | .w64 => 64) = width ∧ d.toNat % gm = 0 ∧ a.toNat % gm = 0) ∧
      (launchOf s t.launch = some l → (pushLegal s t (.syncBarr sc lvl) = true ↔
        lvl.toNat < recLevels l.raw ∧ lvlScope (recLevel l.raw lvl.toNat) = sc.code.toNat)))

/-- R172, R174, R186, R187: what each KCNT instruction does to the push copy of its counter when it is pushed; the committed
copy waits for vcp, every other counter keeps its value, and an advance that reaches the extent carries once into the linked
counter. What hres.anch, lim, bind and wmk do to the push copy of a configured register: an anchor is signed, a limit
unsigned, a latch address of 0 is none, a watermark of 256 or more is none; anch and lim recompute the box from the push
copies of anchors and counters. Nothing of the x registers or of memory changes. -/
def Obligations.PushActsOnPushCopies : Prop :=
  (∀ (s : State) (t : Thread) (d a b : Reg), threadAt s s.cur = some t → (∀ n, inDelivery t n < 2) →
      let old := kreg t.kpush d.toNat
      let x := (rx t a).toNat
      let does (i : Instr) (ks : Nat → KReg) : Prop := PushOk s t i → ∃ s' u, exec i s = .next s' ∧
        OnlyThread s s' s.cur ∧ threadAt s' s.cur = some u ∧ (∀ j, kreg u.kpush j = ks j) ∧ u.kcomm = t.kcomm ∧ u.x = t.x ∧
        u.pc = t.pc + 4 ∧ u.csr = { t.csr with vesr := 0 } ∧ u.hold = .run ∧
        ∃ e, u.vq = t.vq ++ [e] ∧ e.instr = i ∧ e.cap = captureOf t i ∧ e.uid = s.uid
      let only (r : KReg) (j : Nat) : KReg := if j = d.toNat then r else kreg t.kpush j
      does (.kcntExt d a) (only { old with
        extent := min (max x 1) (2 ^ 32), value := if min (max x 1) (2 ^ 32) ≤ old.value then 0 else old.value }) ∧
      does (.kcntLink d b) (only { old with link := if b = 31 then none else some b.toNat }) ∧
      does (.kcntSet d a) (only { old with value := x % old.extent }) ∧
      does (.kcntRst d) (only { old with value := 0 }) ∧
      (old.value + 1 < old.extent → does (.kcntAdv d) (only { old with value := old.value + 1 })) ∧
      (old.extent ≤ old.value + 1 → old.link = none → does (.kcntAdv d) (only { old with value := 0 })) ∧
      (∀ m, old.extent ≤ old.value + 1 → old.link = some m → m ≠ d.toNat →
        (kreg t.kpush m).value + 1 < (kreg t.kpush m).extent →
        does (.kcntAdv d) (fun j => if j = m then { kreg t.kpush m with value := (kreg t.kpush m).value + 1 }
          else only { old with value := 0 } j))) ∧
  (∀ (s : State) (t : Thread) (d a : Reg) (n : BitVec 2) (h : HReg), threadAt s s.cur = some t →
      (∀ n, inDelivery t n < 2) → tabFind t.h d.toNat = some h →
      let x := rx t a
      let does (i : Instr) (c : HCopy) : Prop := PushOk s t i → ∃ s' u, exec i s = .next s' ∧
        OnlyThread s s' s.cur ∧ threadAt s' s.cur = some u ∧ tabFind u.h d.toNat = some { h with push := c } ∧
        (∀ j, j ≠ d.toNat → tabFind u.h j = tabFind t.h j) ∧ u.kpush = t.kpush ∧ u.x = t.x ∧ u.pc = t.pc + 4 ∧
        ∃ e, u.vq = t.vq ++ [e] ∧ e.instr = i ∧ e.cap = captureOf t i ∧ e.uid = s.uid
      does (.hresAnch d a n) { h.push with anchor := h.push.anchor.set n.toNat x.toInt,
                                           lo := boxLo h.blk (h.push.anchor.set n.toNat x.toInt) t.kpush } ∧
      does (.hresLim d a n) { h.push with limit := h.push.limit.set n.toNat x.toNat,
                                          lo := boxLo h.blk h.push.anchor t.kpush } ∧
      does (.hresBind d a) { h.push with latch := if x = 0 then none else some x } ∧
      does (.hresWmk d a) { h.push with wmk := if x.toNat < 256 then some x.toNat else none })

/-- R277, R318: qord.wait and qord.join hold their thread at push until their condition holds, and then take one queue
entry: at once when it holds, otherwise at QORD_RELEASE. wait asks that every class with a threshold below 15 counts at
most that many; join asks that every class selected by 1 is empty and that no entry still in the queue belongs to it or causes
operations of it. After VREL both raise the vector-released trap. -/
def Obligations.QordHoldsUntilConditionHolds : Prop :=
  ∀ (s : State) (t : Thread) (i : Instr) (tid : Nat) (l0 l1 l2 l3 l4 : BitVec 4),
    i = .qordWait l0 l1 l2 l3 l4 ∨ i = .qordJoin l0 l1 l2 l3 l4 →
    (threadAt s s.cur = some t → PushOk s t i → qordHolds s t i = true → Pushes i s t) ∧
    (threadAt s s.cur = some t → t.vrelPushed = false → qordHolds s t i = false →
      exec i s = .next (setThread s s.cur { t with hold := .qord i })) ∧
    (threadAt s s.cur = some t → t.vrelPushed = true → handlerFree t → Traps i s t 0x0B 0 t.pc) ∧
    (threadAt s tid = some t → t.hold = .qord i → t.stopReq = false → PushOk s t i → qordHolds s t i = true →
      exec (.qordRelease tid) s = .next (setThread { s with uid := s.uid + 1 } tid { t with
        csr := { t.csr with vesr := 0 }, pc := t.pc + 4, hold := .run, vq := t.vq ++ [entryFor s t i] })) ∧
    (threadAt s tid = some t → t.hold = .qord i → qordHolds s t i = false → exec (.qordRelease tid) s = .next s) ∧
    (qordHolds s t (.qordWait l0 l1 l2 l3 l4) = true ↔
      ∀ n : Fin 5, ([l0, l1, l2, l3, l4].get n).toNat < 15 → classCount s t n ≤ ([l0, l1, l2, l3, l4].get n).toNat) ∧
    (qordHolds s t (.qordJoin l0 l1 l2 l3 l4) = true ↔
      ∀ n : Fin 5, [l0, l1, l2, l3, l4].get n = 1 → classCount s t n = 0 ∧ ∀ e ∈ t.vq, causes e n = false)

/-! ## Lanes -/

/-- R27, R132 to R135, R138, R139, R273, R298: an entry that needs lanes and has elements to do begins when it reaches vcp: it
stays at vcp with its e operand read, nothing else of the thread changes and no element is written before a grant. A
further turn at vcp changes nothing. A grant takes one element group of the entry: elements from where the entry stands up to
the end of the group, or to n, are written, and the entry leaves the queue after its last group. Writing an element group
changes its active, governed elements and nothing else of the thread; registers modulo 32. A mask destination loses the bits
from n on when the entry completes, and keeps those below its start. That one grant completes an entry that commits whole is log 9
(DEDUCED). -/
def Obligations.LanesCommitByElementGroups : Prop :=
  (∀ (s : State) (tid : Nat) (t : Thread) (e : Entry) (rest : List Entry), AtVcp s tid t e rest →
      needsLanes e.instr = true →
      (e.begun = true → exec (.entryAtVcp tid) s = .next s) ∧
      (e.begun = false → (clusterOf s (tid / 4)).rs.table = [] → e.k < nElems e.cap →
        ∃ s' u e', exec (.entryAtVcp tid) s = .next s' ∧ OnlyThreadRs s s' tid ∧ threadAt s' tid = some u ∧
          unkeyed u = unkeyed { t with vq := e' :: rest } ∧ e'.begun = true ∧ e'.instr = e.instr ∧ e'.cap = e.cap ∧
          e'.k = e.k ∧ e'.uid = e.uid ∧
          ∀ r, (shapeOf e.instr).be = some r → e.eb = none →
            e'.eb = some (((rv t r.toNat).extractLsb' 0 (vfmtTy e.cap.vfmt).bits).zeroExtend 64))) ∧
  (∀ (s : State) (cl k g : Nat) (t : Thread) (e : Entry) (rest : List Entry) (d p w : Nat), SoleHolder s cl k g t e rest →
      accessOf t e = none →
      let n := nElems e.cap
      let hi := min n ((e.k / (512 / w) + 1) * (512 / w))
      (∀ f, laneWork t e = some (.groups d p w f) → ∃ s', exec (.issueGrant cl) s = .next s' ∧
        OnlyThread s s' (4 * cl + k) ∧ threadAt s' (4 * cl + k) = some { writeGroup t p d w e.k hi f with
          vq := if n ≤ hi then rest else { e with k := hi } :: rest }) ∧
      (∀ f, laneWork t e = some (.bits d p w f) → 1 ≤ d → n ≤ 16384 → ∃ s' u, exec (.issueGrant cl) s = .next s' ∧
        OnlyThread s s' (4 * cl + k) ∧ threadAt s' (4 * cl + k) = some u ∧
        unkeyed u = unkeyed { t with p := u.p, vq := if n ≤ hi then rest else { e with k := hi } :: rest } ∧
        (∀ i, i < 16384 → maskBit u d i = if e.k ≤ i ∧ i < hi then maskBit t p i && f i
          else if n ≤ hi ∧ n ≤ i ∧ e.k ≤ i then false else maskBit t d i) ∧
        ∀ r, r ≠ d → rp u r = rp t r) ∧
      (∀ f, laneWork t e = some (.whole f) → ∃ s' u, exec (.issueGrant cl) s = .next s' ∧ OnlyThread s s' (4 * cl + k) ∧
        threadAt s' (4 * cl + k) = some u ∧ unkeyed u = unkeyed { f with vq := f.vq.drop 1 })) ∧
  (∀ (t : Thread) (p d w lo hi : Nat) (f : Nat → Nat), w = 8 ∨ w = 16 ∨ w = 32 ∨ w = 64 → hi * w ≤ 131072 →
    let u := writeGroup t p d w lo hi f
    (∀ i, i * w < 131072 →
      elem u d w i = if lo ≤ i ∧ i < hi ∧ maskBit t p i = true then f i % 2 ^ w else elem t d w i) ∧
    (∀ r, (∀ j, j * 16384 < hi * w → r % 32 ≠ (d + j) % 32) → rv u r = rv t r) ∧
    u = { t with v := u.v, vext := u.vext })

/-- R143, R144, R145, R161, R162, R91: the value of every VALU and VALUI instruction of an integer type, of VFMA for s32 and
z32, and of the VBPL operations, for element `n`: the exact result's low bits, or with saturation the nearest value of
the type. imm is sign-extended to the element width and read in the element type; a shift reads it unsigned; a VBPL shift by
the width or more leaves 0, or copies of the top bit. For pext, pins and pmac, c is the number of planes, 0 to 8, that eB gives. -/
def Obligations.IntegerLanesGiveTableResult : Prop :=
  ∀ (t : Thread) (e : Entry) (d a b : Reg) (p : PReg) (sOp : Bool) (ty : ElemTy) (imm : BitVec 5) (n : Nat),
    (ty.isInt = true →
      let w := ty.bits
      let xb := elem t a.toNat w n
      let x := intOf ty xb
      let y := intOf ty (if sOp then (e.eb.getD 0).toNat % 2 ^ w else elem t b.toNat w n)
      let z := intOf ty (elem t d.toNat w n)
      let jb := patternOf w imm.toInt
      let j := intOf ty jb
      let lo := if ty.isSigned then -2 ^ (w - 1) else (0 : Int)
      let hi := if ty.isSigned then 2 ^ (w - 1) - 1 else (2 ^ w - 1 : Int)
      let gives (i : Instr) (v : Int) : Prop :=
        ∃ f, laneWork t { e with instr := i } = some (.groups d.toNat p.toNat w f) ∧ f n = patternOf w v
      gives (.valuAdd d a b p sOp ty) (x + y) ∧ gives (.valuSub d a b p sOp ty) (x - y) ∧
      gives (.valuMul d a b p sOp ty) (x * y) ∧ gives (.valuMin d a b p sOp ty) (min x y) ∧
      gives (.valuMax d a b p sOp ty) (max x y) ∧ gives (.valuSadd d a b p sOp ty) (max lo (min hi (x + y))) ∧
      gives (.valuSsub d a b p sOp ty) (max lo (min hi (x - y))) ∧
      gives (.valuAbsd d a b p sOp ty) ((x - y).natAbs : Int) ∧
      gives (.valuiAdd d a imm p ty) (x + j) ∧ gives (.valuiRsub d a imm p ty) (j - x) ∧
      gives (.valuiMin d a imm p ty) (min x j) ∧ gives (.valuiMax d a imm p ty) (max x j) ∧
      gives (.valuiSadd d a imm p ty) (max lo (min hi (x + j))) ∧
      gives (.valuiSll d a imm p ty) (x * 2 ^ imm.toNat) ∧ gives (.valuiSrl d a imm p ty) (xb / 2 ^ imm.toNat : Nat) ∧
      gives (.valuiSra d a imm p ty) (signedOf w xb / 2 ^ imm.toNat) ∧ gives (.valuiAnd d a imm p ty) (xb &&& jb : Nat) ∧
      gives (.valuiOr d a imm p ty) (xb ||| jb : Nat) ∧ gives (.valuiXor d a imm p ty) (xb ^^^ jb : Nat) ∧
      gives (.valuiMov d imm p ty) j ∧
      (ty = .s32 ∨ ty = .z32 → gives (.vfmaFma d a b p sOp ty) (x * y + z) ∧ gives (.vfmaFms d a b p sOp ty) (x * y - z)) ∧
      (let bb := elem t b.toNat w n
       gives (.vbplAnd d a b p ty) (xb &&& bb : Nat) ∧ gives (.vbplOr d a b p ty) (xb ||| bb : Nat) ∧
       gives (.vbplXor d a b p ty) (xb ^^^ bb : Nat) ∧ gives (.vbplAndn d a b p ty) (xb &&& (2 ^ w - 1 - bb) : Nat) ∧
       gives (.vbplNot d a p ty) (2 ^ w - 1 - xb : Nat) ∧ gives (.vbplSll d a b p ty) (if w ≤ bb then 0 else x * 2 ^ bb) ∧
       gives (.vbplSrl d a b p ty) (if w ≤ bb then 0 else (xb / 2 ^ bb : Nat)) ∧
       gives (.vbplSra d a b p ty) (if w ≤ bb then (if signedOf w xb < 0 then -1 else 0) else signedOf w xb / 2 ^ bb) ∧
       gives (.vbplPopc d a p ty) (((List.range w).countP (fun i => xb.testBit i) : Nat) : Int))) ∧
    (let xb := elem t a.toNat 8 n
     let zb := elem t d.toNat 8 n
     let c := (min (max (signedOf 8 (e.eb.getD 0).toNat) 0) 8).toNat
     let gives (i : Instr) (v : Int) : Prop :=
       ∃ f, laneWork t { e with instr := i } = some (.groups d.toNat p.toNat 8 f) ∧ f n = patternOf 8 v
     gives (.vbplPext d a b p) (signedOf 8 xb / 2 ^ (8 - c)) ∧
     gives (.vbplPins d a b p) ((xb % 2 ^ c * 2 ^ (8 - c) + zb % 2 ^ (8 - c) : Nat) : Int) ∧
     gives (.vbplPmac d a b p) (max (-128) (min 127 (signedOf 8 xb * 2 ^ (8 - c) + signedOf 8 zb))))

/-- R92, R93, R97 to R99, R101, R143, R145 to R147, R160, R163: the value of VALU, VFMA and VCMP of a floating type, of VCVT and of VSCA, for
element `n`: the exact result of exact operands rounded once by the captured mode; min and max take one operand; a comparison with a
NaN holds for un and ne alone. dot2 adds the pair's inner product, rounded to f32, to the first element of the pair and leaves
the second. A conversion to an integer clamps, and gives 0 for a NaN; VSCA scales by the own element of B, by that of the row
or of the column, and with macc adds vD. -/
def Obligations.FloatLanesRoundOnce : Prop :=
  ∀ (t : Thread) (e : Entry) (d a b : Reg) (p : PReg) (sOp : Bool) (ty : ElemTy) (n : Nat),
    let rm := modeOf e.cap n
    let cols := ncols e.cap
    let pick (w i : Nat) : Nat := if sOp then (e.eb.getD 0).toNat % 2 ^ w else elem t b.toNat w i
    (ty = .f32 ∨ ty = .bf16 ∨ ty = .f16 →
      let w := ty.bits
      let x (i : Nat) := fvalOf ty (elem t a.toNat w i)
      let y (i : Nat) := fvalOf ty (pick w i)
      let z := fvalOf ty (elem t d.toNat w n)
      let gives (i : Instr) (v : Nat) : Prop :=
        ∃ f, laneWork t { e with instr := i } = some (.groups d.toNat p.toNat w f) ∧ f n = v
      let tests (cc : VCond) (v : Prop) : Prop :=
        ∃ f, laneWork t { e with instr := .vcmp d a b p sOp cc ty } = some (.bits d.toNat p.toNat w f) ∧ (f n = true ↔ v)
      gives (.valuAdd d a b p sOp ty) (roundTo ty rm (fadd rm (x n) (y n))) ∧
      gives (.valuSub d a b p sOp ty) (roundTo ty rm (fadd rm (x n) (fneg (y n)))) ∧
      gives (.valuMul d a b p sOp ty) (roundTo ty rm (fmul (x n) (y n))) ∧
      gives (.valuMin d a b p sOp ty) (roundTo ty .rne (fmin (x n) (y n))) ∧
      gives (.valuMax d a b p sOp ty) (roundTo ty .rne (fmax (x n) (y n))) ∧
      gives (.valuAbsd d a b p sOp ty) (roundTo ty rm (fabs (fadd rm (x n) (fneg (y n))))) ∧
      gives (.vfmaFma d a b p sOp ty) (roundTo ty rm (fadd rm (fmul (x n) (y n)) z)) ∧
      gives (.vfmaFms d a b p sOp ty) (roundTo ty rm (fadd rm (fmul (x n) (y n)) (fneg z))) ∧
      gives (.vfmaFnma d a b p sOp ty) (roundTo ty rm (fadd rm (fneg (fmul (x n) (y n))) (fneg z))) ∧
      gives (.vfmaFnms d a b p sOp ty) (roundTo ty rm (fadd rm (fneg (fmul (x n) (y n))) z)) ∧
      gives (.vfmaDot2 d a b p sOp ty) (
        if n % cols % 2 = 0 then
          let pair := if n % cols + 1 < cols then fadd .rne (fmul (x n) (y n)) (fmul (x (n + 1)) (y (n + 1)))
            else fmul (x n) (y n)
          roundTo ty rm (fadd rm z (fvalOf .f32 (roundTo .f32 .rne pair)))
        else elem t d.toNat w n) ∧
      (let o := fcmp (x n) (y n)
       tests .eq (o = some .eq) ∧ tests .ne (o ≠ some .eq) ∧ tests .lt (o = some .lt) ∧
       tests .le (o = some .lt ∨ o = some .eq) ∧ tests .gt (o = some .gt) ∧ tests .ge (o = some .gt ∨ o = some .eq) ∧
       tests .un (o = none))) ∧
    (∀ tt : ElemTy,
      let v := elem t a.toNat ty.bits n
      let lo := if tt.isSigned then -2 ^ (tt.bits - 1) else (0 : Int)
      let hi := if tt.isSigned then 2 ^ (tt.bits - 1) - 1 else (2 ^ tt.bits - 1 : Int)
      let r : Nat :=
        if ty.isInt then (if tt.isInt then patternOf tt.bits (max lo (min hi (intOf ty v)))
          else roundTo tt rm (.fin (decide (intOf ty v < 0)) (intOf ty v).natAbs 0))
        else if tt.isInt then patternOf tt.bits (match fvalOf ty v with
          | .nan => 0
          | .inf neg => if neg then lo else hi
          | .fin neg m ex => max lo (min hi (if neg then -(roundUnits rm neg m ex 0 : Int) else (roundUnits rm neg m ex 0 : Int))))
        else roundTo tt rm (fvalOf ty v)
      (tt.bits = ty.bits → ∃ f, laneWork t { e with instr := .vcvt d a p tt ty } = some (.groups d.toNat p.toNat tt.bits f) ∧
        f n = r) ∧
      (tt.bits ≠ ty.bits → nElems e.cap * tt.bits ≤ 131072 → n * tt.bits < 131072 →
        ∃ u, laneWork t { e with instr := .vcvt d a p tt ty } = some (.whole u) ∧ u = { t with v := u.v, vext := u.vext } ∧
          elem u d.toNat tt.bits n = if e.k ≤ n ∧ n < nElems e.cap ∧ maskBit t p.toNat n = true then r % 2 ^ tt.bits
            else elem t d.toNat tt.bits n)) ∧
    (ty = .f32 ∨ ty = .s32 →
      let z := fvalOf .f32 (elem t d.toNat 32 n)
      let prod (i : Nat) : FVal := if ty = .f32 then fmul (fvalOf .f32 (elem t a.toNat 32 n)) (fvalOf .f32 (pick 32 i))
        else
          let v := intOf .s32 (elem t a.toNat 32 n) * intOf .s32 (pick 32 i)
          .fin (decide (v < 0)) v.natAbs 0
      let own (i : Instr) (v : FVal) : Prop :=
        ∃ f, laneWork t { e with instr := i } = some (.groups d.toNat p.toNat 32 f) ∧ f n = roundTo .f32 rm v
      let line (i : Instr) (v : FVal) : Prop := nElems e.cap * 32 ≤ 131072 → n * 32 < 131072 →
        ∃ u, laneWork t { e with instr := i } = some (.whole u) ∧ u = { t with v := u.v, vext := u.vext } ∧
          elem u d.toNat 32 n = if e.k ≤ n ∧ n < nElems e.cap ∧ maskBit t p.toNat n = true then roundTo .f32 rm v % 2 ^ 32
            else elem t d.toNat 32 n
      own (.vscaMul d a b p sOp ty) (prod n) ∧ own (.vscaMacc d a b p sOp ty) (fadd rm (prod n) z) ∧
      line (.vscaRmul d a b p sOp ty) (prod (n / cols)) ∧ line (.vscaCmul d a b p sOp ty) (prod (n % cols)) ∧
      line (.vscaRmac d a b p sOp ty) (fadd rm (prod (n / cols)) z) ∧
      line (.vscaCmac d a b p sOp ty) (fadd rm (prod (n % cols)) z))

/-- R147, R148, R138: VCMP compares each pair of integer elements signed or unsigned as the type says, and VMSK gives each
bit below n its logical function where P governs it and 0 elsewhere, in one step, from bit 0 on whatever vesr says; frst gives
the first index that both masks hold, all ones for none, and popc their number. R154 to R156: the forms of VPRM give each
active, governed element the source element of its line they name, or 0, or leave it; cmpr packs the selected elements of a
line to its first active positions, expd spreads them. R103, R104, R157, R158: vred writes the first position of each line; integer sums
wrap, max, min and amax are those of the carry-in and the governed inputs, and floating sums add in the order of R103, or of R104.
R164, R165: on strictly ascending lists vsx gives the set operations and the merge, followed by top, and icnt the
intersection's size. -/
def Obligations.WholeStepInstructionsGiveResult : Prop :=
  ∀ (t : Thread) (e : Entry) (d a b : Reg) (p : PReg) (sOp : Bool) (ty : ElemTy) (n : Nat) (dim : Dim) (pw : PWidth),
    let m := nElems e.cap
    let cols := ncols e.cap
    (ty.isInt = true →
      let x := intOf ty (elem t a.toNat ty.bits n)
      let y := intOf ty (if sOp then (e.eb.getD 0).toNat % 2 ^ ty.bits else elem t b.toNat ty.bits n)
      let tests (cc : VCond) (v : Prop) : Prop :=
        ∃ f, laneWork t { e with instr := .vcmp d a b p sOp cc ty } = some (.bits d.toNat p.toNat ty.bits f) ∧
          (f n = true ↔ v)
      tests .eq (x = y) ∧ tests .ne (x ≠ y) ∧ tests .lt (x < y) ∧ tests .le (x ≤ y) ∧ tests .gt (y < x) ∧
      tests .ge (y ≤ x)) ∧
    (1 ≤ d.toNat → d.toNat < 8 → n < 16384 →
      let x := maskBit t a.toNat n
      let y := maskBit t b.toNat n
      let gives (i : Instr) (v : Bool) : Prop :=
        ∃ u, laneWork t { e with instr := i } = some (.whole u) ∧ u = { t with p := u.p } ∧
          maskBit u d.toNat n = (decide (n < m) && maskBit t p.toNat n && v) ∧
          ∀ r, r ≠ d.toNat → rp u r = rp t r
      gives (.vmskAnd d a b p) (x && y) ∧ gives (.vmskOr d a b p) (x || y) ∧ gives (.vmskXor d a b p) (x != y) ∧
      gives (.vmskAndn d a b p) (x && !y) ∧ gives (.vmskOrn d a b p) (x || !y) ∧ gives (.vmskNot d a p) (!x) ∧
      gives (.vmskMov d a p) x) ∧
    (let w := (vfmtTy e.cap.vfmt).bits
     let both (i : Nat) : Bool := maskBit t a.toNat i && maskBit t p.toNat i
     let gives (i : Instr) (v : Nat) : Prop := ∃ u, laneWork t { e with instr := i } = some (.whole u) ∧
       elem u d.toNat w 0 = (if m = 0 then elem t d.toNat w 0 else v % 2 ^ w) ∧
       (∀ j, 0 < j → j * w < 131072 → elem u d.toNat w j = elem t d.toNat w j) ∧ u = { t with v := u.v, vext := u.vext }
     (n < m → both n = true → (∀ j, j < n → both j = false) → gives (.vmskFrst d a p) n) ∧
     ((∀ j, j < m → both j = false) → gives (.vmskFrst d a p) (2 ^ 64 - 1)) ∧
     gives (.vmskPopc d a p) ((List.range m).countP both)) ∧
    (let w := (vfmtTy e.cap.vfmt).bits
     let src (i : Nat) : Nat := elem t a.toNat w i
     let amt := (e.eb.getD 0).toNat % 2 ^ w
     let base (i : Nat) : Nat := match dim with | .lin => 0 | .row => i / cols * cols | .col => i % cols
     let stride : Nat := match dim with | .lin | .row => 1 | .col => cols
     let len : Nat := match dim with | .lin => m | .row => cols | .col => nrows e.cap
     let pos (i : Nat) : Nat := match dim with | .lin => i | .row => i % cols | .col => i / cols
     let line (i : Nat) : List Nat := (List.range len).map (fun q => base i + stride * q)
     let act (i : Nat) : List Nat := (line i).filter (fun q => decide (e.k ≤ q))
     let sel (i : Nat) : List Nat := (act i).filter (fun q => maskBit t p.toNat q)
     m * w ≤ 131072 →
      let writes (i : Instr) (f : Nat → Option Nat) : Prop := ∃ u, laneWork t { e with instr := i } = some (.whole u) ∧
        u = { t with v := u.v, vext := u.vext } ∧
        ∀ j, j * w < 131072 → elem u d.toNat w j = if j < m then (f j).getD (elem t d.toNat w j) else elem t d.toNat w j
      let moves (i : Instr) (f : Nat → Option Nat) : Prop :=
        writes i (fun j => if e.k ≤ j ∧ maskBit t p.toNat j = true then f j else none)
      moves (.vprmMov d a p dim pw) (fun j => some (src j)) ∧
      moves (.vprmBcst d a b p dim pw) (fun j => some (src (match dim with | .lin => 0 | .row => pos j | .col => pos j * cols))) ∧
      moves (.vprmGath d a b p dim pw) (fun j =>
        some (if elem t b.toNat w j < len then src (base j + stride * elem t b.toNat w j) else 0)) ∧
      moves (.vprmSldn d a b p dim pw) (fun j => some (if pos j + amt < len then src (base j + stride * (pos j + amt)) else 0)) ∧
      moves (.vprmSlup d a b p dim pw) (fun j => if amt ≤ pos j then some (src (base j + stride * (pos j - amt))) else none) ∧
      moves (.vprmTran d a p pw) (fun j => some (src (j % nrows e.cap * cols + j / nrows e.cap))) ∧
      writes (.vprmCmpr d a p dim pw) (fun j =>
        if e.k ≤ j then ((sel j)[(act j).idxOf j]?).map src else none) ∧
      writes (.vprmExpd d a p dim pw) (fun j =>
        if e.k ≤ j ∧ maskBit t p.toNat j = true then ((act j)[(sel j).idxOf j]?).map src else none) ∧
      (ty.bits = w →
        let ins (j : Nat) : List Nat := (sel j).map src
        let old (j : Nat) : Nat := elem t d.toNat w j
        let reduces (i : Instr) (f : Nat → Nat) : Prop := writes i (fun j => if pos j = 0 then some (f j % 2 ^ w) else none)
        (ty.isInt = true →
          reduces (.vredSum d a p dim ty) (fun j => old j + (ins j).sum) ∧
          reduces (.vredMax d a p dim ty) (fun j =>
            patternOf w (((ins j).map (intOf ty)).foldl (fun x y => max x y) (intOf ty (old j)))) ∧
          reduces (.vredMin d a p dim ty) (fun j =>
            patternOf w (((ins j).map (intOf ty)).foldl (fun x y => min x y) (intOf ty (old j)))) ∧
          reduces (.vredAmax d a p dim ty) (fun j => patternOf w (((old j :: ins j).map (fun x =>
            min ((intOf ty x).natAbs : Int) (2 ^ (w - 1) - 1))).foldl (fun x y => max x y) 0))) ∧
        (ty = .f32 ∨ ty = .bf16 ∨ ty = .f16 →
          let wide (x : Nat) : Nat := roundTo .f32 .rne (fvalOf ty x)
          let at' (j q : Nat) : Option Nat := if q < len ∧ base j + stride * q ∈ sel j then some (wide (src (base j + stride * q))) else none
          let blocks (j : Nat) : Nat := (List.range ((len + 31) / 32)).foldl (fun s k =>
            match treeOf (at' j) 5 (32 * k) with | some v => f32Add s v | none => s) (wide (old j))
          reduces (.vredSum d a p dim ty) (fun j => roundTo ty (modeOf e.cap j) (fvalOf .f32 (
            if e.cap.vmode.getLsbD 3 then blocks j
            else match treeOf (at' j) 22 0 with | some v => f32Add v (wide (old j)) | none => wide (old j)))) ∧
          reduces (.vredMax d a p dim ty) (fun j =>
            roundTo ty .rne ((ins j).foldl (fun x y => fmax x (fvalOf ty y)) (fvalOf ty (old j)))) ∧
          reduces (.vredMin d a p dim ty) (fun j =>
            roundTo ty .rne ((ins j).foldl (fun x y => fmin x (fvalOf ty y)) (fvalOf ty (old j)))) ∧
          reduces (.vredAmax d a p dim ty) (fun j =>
            roundTo ty .rne ((ins j).foldl (fun x y => fmax x (fabs (fvalOf ty y))) (fabs (fvalOf ty (old j)))))) ∧
        (ty.isInt = true →
          let la := streamOf t e a p ty
          let lb := streamOf t e b p ty
          let common := la.filter (fun x => x ∈ lb)
          let lt (x y : Nat) : Prop := intOf ty x < intOf ty y
          let lists (i : Instr) (l : List Nat) : Prop := ∃ u, laneWork t { e with instr := i } = some (.whole u) ∧
            u = { t with v := u.v, vext := u.vext } ∧
            ∀ j, j * w < 131072 → elem u d.toNat w j =
              if e.k ≤ j ∧ j < m then l.getD (j - e.k) (topOf ty) else elem t d.toNat w j
          la.Pairwise lt → lb.Pairwise lt →
            lists (.vsxIsec d a b p ty) common ∧ lists (.vsxDiff d a b p ty) (la.filter (fun x => ¬ x ∈ lb)) ∧
            (∃ l, lists (.vsxUnio d a b p ty) l ∧ l.Pairwise lt ∧ ∀ x, x ∈ l ↔ x ∈ la ∨ x ∈ lb) ∧
            (∃ l, lists (.vsxMrge d a b p ty) l ∧ l.Pairwise (fun x y => intOf ty x ≤ intOf ty y) ∧ l.Perm (la ++ lb)) ∧
            (0 < m → ∃ u, laneWork t { e with instr := .vsxIcnt d a b p ty } = some (.whole u) ∧
              elem u d.toNat w 0 = common.length % 2 ^ w ∧
              ∀ j, 0 < j → j * w < 131072 → elem u d.toNat w j = elem t d.toNat w j))))

/-- R188, R189, R190, R194, R301: a grant of vwld or vidx.ld whose lines are full, with every governed element of the
group inside the box: an element reads 0 when clipped, else the scratchpad bytes of its slot; an ungoverned element becomes 0, or
with KEEP stays; the governing mask loses the bits of clipped elements. Memory and the scratchpad do not change. vwld places
elements by the two-dimensional view, vidx.ld by its index register. -/
def Obligations.WindowLoadReadsScratchpad : Prop :=
  ∀ (s : State) (cl k g : Nat) (t : Thread) (e : Entry) (rest : List Entry) (h : HReg) (d a b : Reg) (p : PReg)
    (rd cd str : BitVec 2) (iw : IdxW) (keep : Bool), SoleHolder s cl k g t e rest →
    e.instr = .vwld d a b p rd cd str keep ∨ e.instr = .vidxLd d a b p iw keep →
    tabFind t.h a.toNat = some h → blkMode h.blk = 0 ∨ blkMode h.blk = 1 → h.failed = [] → t.recomps = [] →
    (vfmtTy e.cap.vfmt).bits = 8 * tySize (tdType h.td) →
    let n := nElems e.cap
    let w := (vfmtTy e.cap.vfmt).bits
    let hi := min n ((e.k / (512 / w) + 1) * (512 / w))
    let place (i : Nat) := if e.instr = .vwld d a b p rd cd str keep then offsetCoord h (tileOffsets e.cap rd cd str i)
      else indexCoord h (elem t b.toNat (match iw with | .z16 => 16 | .z32 => 32 | .z64 => 64) i)
    (∀ i, e.k ≤ i → i < hi → maskBit t p.toNat i = true → (place i).isSome = true) →
    ∃ s' u, exec (.issueGrant cl) s = .next s' ∧ OnlyThread s s' (4 * cl + k) ∧ threadAt s' (4 * cl + k) = some u ∧
      (clusterOf s' cl).scratch = (clusterOf s cl).scratch ∧
      u.vq.length = (if n ≤ hi then rest.length else rest.length + 1) ∧
      u = { t with v := u.v, vext := u.vext, p := u.p, vq := u.vq } ∧
      (∀ i, i * w < 131072 → elem u d.toNat w i =
        if ¬ (e.k ≤ i ∧ i < hi) then elem t d.toNat w i
        else if maskBit t p.toNat i = false then (if keep then elem t d.toNat w i else 0)
        else match place i with
          | some c => if isClipped h.td h.comm.limit c then 0
              else spRead (clusterOf s cl).scratch (slotByte h (slotOf (boxW h.blk) c)) (w / 8)
          | none => 0) ∧
      (∀ i, 1 ≤ p.toNat → i < 16384 → maskBit u p.toNat i = (maskBit t p.toNat i && (!decide (e.k ≤ i ∧ i < hi) ||
        (match place i with | some c => !isClipped h.td h.comm.limit c | none => true))))

/-- R188, R189, R193: a grant of vwst or vidx.st to a register in mode rw or wo, with every governed element of the group inside
the box: each element that is governed and not clipped stands in its slot, the last of several for one slot, and its slot is
dirty; every other byte of the scratchpad, memory, and the rest of the thread are as they were. The slot of a bpi window holds the
whole stored byte, where R169 has it hold the value truncated to PLANES bits: the model's choice (log 84, DESIGN CHOICE). -/
def Obligations.WindowStoreWritesScratchpad : Prop :=
  ∀ (s : State) (cl k g : Nat) (t : Thread) (e : Entry) (rest : List Entry) (h : HReg) (d a b : Reg) (p : PReg)
    (rd cd str : BitVec 2) (iw : IdxW), SoleHolder s cl k g t e rest →
    e.instr = .vwst d a b p rd cd str ∨ e.instr = .vidxSt d a b p iw →
    tabFind t.h a.toNat = some h → blkMode h.blk = 1 ∨ blkMode h.blk = 2 → h.failed = [] → t.recomps = [] →
    (vfmtTy e.cap.vfmt).bits = 8 * tySize (tdType h.td) →
    let n := nElems e.cap
    let w := (vfmtTy e.cap.vfmt).bits
    let hi := min n ((e.k / (512 / w) + 1) * (512 / w))
    let place (i : Nat) := if e.instr = .vwst d a b p rd cd str then offsetCoord h (tileOffsets e.cap rd cd str i)
      else indexCoord h (elem t b.toNat (match iw with | .z16 => 16 | .z32 => 32 | .z64 => 64) i)
    let stores (i slot : Nat) : Prop := e.k ≤ i ∧ i < hi ∧ maskBit t p.toNat i = true ∧
      ∃ c, place i = some c ∧ isClipped h.td h.comm.limit c = false ∧ slotOf (boxW h.blk) c = slot
    (∀ i, e.k ≤ i → i < hi → maskBit t p.toNat i = true → (place i).isSome = true) →
    ∃ s' u x, exec (.issueGrant cl) s = .next s' ∧ OnlyThread s s' (4 * cl + k) ∧ threadAt s' (4 * cl + k) = some u ∧
      u = { t with h := u.h, vq := if n ≤ hi then rest else { e with k := hi } :: rest } ∧
      (∀ i slot, stores i slot → (∀ j, i < j → ¬ stores j slot) →
        spRead (clusterOf s' cl).scratch (slotByte h slot) (w / 8) = elem t d.toNat w i) ∧
      (∀ y, (∀ i slot, stores i slot → y < slotByte h slot ∨ slotByte h slot + w / 8 ≤ y) →
        tabGet 0 (clusterOf s' cl).scratch y = tabGet 0 (clusterOf s cl).scratch y) ∧
      tabFind u.h a.toNat = some { h with dirty := x } ∧ (∀ slot, slot ∈ x ↔ slot ∈ h.dirty ∨ ∃ i, stores i slot) ∧
      ∀ j, j ≠ a.toNat → tabFind u.h j = tabFind t.h j

/-! ## Entries at vcp: counters, residency registers, traps -/

/-- R174, R175, R180, R182, R186, R187: KCNT and HRES commit at vcp. A counter's committed copy changes as its push copy did, and an
overflowing kcnt.adv carries into the counter it links to; a watermark or latch enters the committed copy. A marker, of HRES or of
KCNT, that moves the box of a register and meets no other writable register: the dirty elements that leave the box are issued to
their homes in the order in which they became dirty, an element of an accumulation window as one strong merge of its 64 copies, and are
clean; the committed box becomes the one the push computed; what enters is no longer failed, and reads zero in the modes wo and
acc, as do the copies written back; the deliveries of the marker may land from then on. -/
def Obligations.CountersAndAnchorsCommitAtVcp : Prop :=
  ∀ (s : State) (tid : Nat) (t : Thread) (e : Entry) (rest : List Entry) (d a b : Reg) (n : BitVec 2) (h : HReg)
    (lo : List Int) (m : Nat) (c : Reg) (pa : Nat → Nat), AtVcp s tid t e rest → t.lost = none →
    let x := e.cap.xa
    let old := kreg t.kcomm d.toNat
    let next := kreg t.kcomm m
    let commits (ks : Nat → KReg) : Prop := ∃ u, Completes s tid u rest ∧ (∀ j, kreg u.kcomm j = ks j) ∧
      u = { t with kcomm := u.kcomm }
    let only (r : KReg) (j : Nat) : KReg := if j = d.toNat then r else kreg t.kcomm j
    (e.boxes = [] → (∀ r ∈ t.recomps, r.marker ≠ e.uid) →
      (e.instr = .kcntExt d a → commits (only { old with
        extent := min (max x.toNat 1) (2 ^ 32),
        value := if min (max x.toNat 1) (2 ^ 32) ≤ old.value then 0 else old.value })) ∧
      (e.instr = .kcntLink d b → commits (only { old with link := if b = 31 then none else some b.toNat })) ∧
      (e.instr = .kcntSet d a → commits (only { old with value := x.toNat % old.extent })) ∧
      (e.instr = .kcntRst d → commits (only { old with value := 0 })) ∧
      (e.instr = .kcntAdv d → old.value + 1 < old.extent → commits (only { old with value := old.value + 1 })) ∧
      (e.instr = .kcntAdv d → old.extent ≤ old.value + 1 →
        (old.link = none ∨ old.link = some d.toNat → commits (only { old with value := 0 })) ∧
        (old.link = some m → m ≠ d.toNat → next.value + 1 < next.extent → commits (fun j =>
          if j = m then { next with value := next.value + 1 } else only { old with value := 0 } j))) ∧
      (tabFind t.h d.toNat = some h →
        let with' (c : HCopy) : Thread := { t with h := tabPut t.h d.toNat { h with comm := c } }
        (e.instr = .hresBind d a → Completes s tid (with' { h.comm with latch := if x = 0 then none else some x }) rest) ∧
        (e.instr = .hresWmk d a → Completes s tid
          (with' { h.comm with wmk := if x.toNat < 256 then some x.toNat else none }) rest))) ∧
    (tabFind t.h d.toNat = some h → e.boxes = [(d.toNat, lo)] →
      let cl := tid / 4
      let mode := blkMode h.blk
      let size := tySize (tdType h.td)
      let coord (k : Nat) := coordOfSlot h.comm.lo (boxW h.blk) k
      let out := h.dirty.filter (fun k => k ∈ slotsAt h (leaving (boxW h.blk) h.comm.lo lo))
      let enter := slotsAt h (entering (tdRank h.td) (boxW h.blk) (some h.comm.lo) lo)
      let sp := (clusterOf s cl).scratch
      let kind (k : Nat) : ReqKind :=
        if mode = 3 then .merge (pa k) (tdType h.td) ((List.range 64).map (fun l => BitVec.ofNat 64 (spRead sp (copyByte h l k) size)))
        else if tdType h.td = .bpi then
          .planes (pa k) (bpiPos h.td (coord k)) (tdPlanes h.td) (BitVec.ofNat 8 (spRead sp (slotByte h k) 1))
        else .writeBack (pa k) (bytesOfNat size (spRead sp (slotByte h k) size))
      ((∀ r ∈ t.h, r.1 = d.toNat → blkMode r.2.blk = 0) ∨ (mode ≠ 0 ∧ ∀ w ∈ threadsOf s cl, ∀ r ∈ w.2.h,
        ¬ (w.1 = tid ∧ r.1 = d.toNat) → blkMode r.2.blk ≠ 0 →
          sameTensor r.2.td h.td = false ∨ boxesMeet lo (boxW h.blk) r.2.comm.lo (boxW r.2.blk) = false)) →
      (∀ k ∈ out, isClipped h.td h.comm.limit (coord k) = false ∧ 0 ≤ elemVa h.td (coord k) ∧ elemVa h.td (coord k) < 2 ^ 52 ∧
        Reaches s cl t (BitVec.ofInt 64 (elemVa h.td (coord k))) size needW (pa k)) →
      classCount s t 1 + out.length ≤ 65535 →
      let moves (copy : HCopy) (ks : Nat → KReg) : Prop := ∃ s' u, CompletesTo s s' tid u rest ∧
        s'.inflight = s.inflight ++ (out.zipIdx).map (fun (x : Nat × Nat) => {
          uid := s.uid + x.2, seq := e.uid, owner := t.uid, launch := t.launch, cluster := cl, strong := decide (mode = 3), kind := kind x.1 }) ∧
        u = { t with kcomm := u.kcomm, h := u.h,
                     recomps := t.recomps.map (fun (r : Recomp) => if r.marker = e.uid then { r with landing := true } else r) } ∧
        (∀ j, kreg u.kcomm j = ks j) ∧ (∀ j, j ≠ d.toNat → tabFind u.h j = tabFind t.h j) ∧
        tabFind u.h d.toNat = some { h with comm := copy, dirty := h.dirty.filter (fun k => k ∉ out),
                                            failed := h.failed.filter (fun f => f.slot ∉ enter) } ∧
        (mode = 0 ∨ mode = 1 → (clusterOf s' cl).scratch = sp) ∧
        (mode = 2 → ∀ k ∈ enter, spRead (clusterOf s' cl).scratch (slotByte h k) size = 0) ∧
        (mode = 3 → ∀ k, k ∈ enter ∨ k ∈ out → ∀ l, l < 64 → spRead (clusterOf s' cl).scratch (copyByte h l k) size = 0)
      let counts (v : Nat) (j : Nat) : KReg := if j = c.toNat then { kreg t.kcomm c.toNat with value := v } else kreg t.kcomm j
      (e.instr = .hresAnch d a n →
        moves { h.comm with anchor := h.comm.anchor.set n.toNat x.toInt, lo := lo } (kreg t.kcomm)) ∧
      (e.instr = .hresLim d a n →
        moves { h.comm with limit := h.comm.limit.set n.toNat x.toNat, lo := lo } (kreg t.kcomm)) ∧
      (e.instr = .kcntSet c a → moves { h.comm with lo := lo } (counts (x.toNat % (kreg t.kcomm c.toNat).extent))) ∧
      (e.instr = .kcntRst c → moves { h.comm with lo := lo } (counts 0)) ∧
      (e.instr = .kcntAdv c → (kreg t.kcomm c.toNat).value + 1 < (kreg t.kcomm c.toNat).extent →
        moves { h.comm with lo := lo } (counts ((kreg t.kcomm c.toNat).value + 1))))

/-- R171, R172, R173, R175, R182, R186: hres.set reads its block and descriptor and, when no check of R171 fails, it meets no
other writable register (R180) and the register it replaces is clean, leaves the register configured with the items of the block
and the box that the formula and the counters give: in modes rd and rw it fetches every element of the box that is not clipped,
in wo and acc it leaves the slots or copies of the box zero. The cluster's translations of what it reads stand first (R279; log 8):
`s1` and `s2` are the states with them. hres.clr leaves the register unconfigured and discards its deliveries, of which a read that
other registers share goes on for them (R179); its one dirty element is written back first. -/
def Obligations.ResidencySetAndClear : Prop :=
  ∀ (s s1 s2 : State) (tid : Nat) (t : Thread) (e : Entry) (rest : List Entry) (d a : Reg) (h : HReg) (blk td : List Byte)
    (slot pa : Nat), AtVcp s tid t e rest → t.lost = none →
    let kept := (keepRecomps t (t.recomps.filter (fun r => r.h ≠ d.toNat))).recomps
    let lo := [0, 1, 2, 3].map (fun n => blkC blk n +
      ((List.range 8).map (fun j => blkA blk n j * ((kreg t.kcomm j).value : Int))).sum)
    let inside (c : List Int) : Prop := c.length = 4 ∧ ∀ n, n < 4 → lo.getD n 0 ≤ c.getD n 0 ∧
      c.getD n 0 < lo.getD n 0 + (blkW blk n : Int)
    let clipped (c : List Int) : Prop := ∃ n, n < 4 ∧ (c.getD n 0 < 0 ∨ (tdExt td n : Int) ≤ c.getD n 0)
    (e.instr = .hresSet d a → (∀ r, tabFind t.h d.toNat = some r → r.dirty = []) →
      touchRanges s (tid / 4) t.uid e.uid [⟨t.ctx, e.cap.xa.toNat, 160, needR⟩] = (true, s1) →
      readVirt s1 t.uid t.ctx e.cap.xa.toNat 160 = .bytes blk →
      touchRanges s1 (tid / 4) t.uid e.uid [⟨t.ctx, fieldAt blk 0 8, 64, needR⟩] = (true, s2) →
      readVirt s2 t.uid t.ctx (fieldAt blk 0 8) 64 = .bytes td →
      configCheck s tid d.toNat blk td = none → (∀ r ∈ t.recomps, r.marker ≠ e.uid) →
      (blkMode blk = 0 ∨ ∀ c ∈ threadsOf s (tid / 4), ∀ r ∈ c.2.h, ¬ (c.1 = tid ∧ r.1 = d.toNat) → blkMode r.2.blk ≠ 0 →
        sameTensor r.2.td td = false ∨ boxesMeet lo (boxW blk) r.2.comm.lo (boxW r.2.blk) = false) →
      ∃ s' u g new, CompletesTo s s' tid u rest ∧ u = { t with h := u.h, recomps := u.recomps } ∧
        tabFind u.h d.toNat = some g ∧ (∀ j, j ≠ d.toNat → tabFind u.h j = tabFind t.h j) ∧
        g = { blk := blk, td := td, push := g.comm, comm := g.comm } ∧
        g.comm = { wmk := if fieldAt blk 14 2 < 256 then some (fieldAt blk 14 2) else none,
                   latch := if fieldAt blk 144 8 = 0 then none else some (BitVec.ofNat 64 (fieldAt blk 144 8)),
                   anchor := [0, 0, 0, 0], limit := [2 ^ 64 - 1, 2 ^ 64 - 1, 2 ^ 64 - 1, 2 ^ 64 - 1], lo := lo } ∧
        u.recomps = (if (tabFind t.h d.toNat).isSome then kept else t.recomps) ++ new ∧
        (∀ r ∈ new, r.h = d.toNat ∧ r.marker = e.uid ∧ r.landing = true ∧ r.counts = true ∧
          ∀ f ∈ r.fetches, inside f.coord ∧ ¬ clipped f.coord) ∧
        (blkMode blk = 0 ∨ blkMode blk = 1 → ∀ c, inside c → ¬ clipped c → ∃ r ∈ new, ∃ f ∈ r.fetches, f.coord = c ∧
          f.slot = slotOf (boxW blk) c ∧ f.va = elemVa td c ∧ f.wmk = g.comm.wmk ∧ f.share = none) ∧
        (2 ≤ blkMode blk → new = []) ∧
        (blkMode blk = 2 → ∀ c, inside c →
          spRead (clusterOf s' (tid / 4)).scratch (slotByte g (slotOf (boxW blk) c)) (tySize (tdType td)) = 0) ∧
        (blkMode blk = 3 → ∀ c l, inside c → l < 64 →
          spRead (clusterOf s' (tid / 4)).scratch (copyByte g l (slotOf (boxW blk) c)) (tySize (tdType td)) = 0)) ∧
    (e.instr = .hresClr d → tabFind t.h d.toNat = some h →
      let gone := { t with h := tabErase t.h d.toNat, recomps := kept }
      (h.dirty = [] → Completes s tid gone rest) ∧
      (h.dirty = [slot] → blkMode h.blk = 1 ∨ blkMode h.blk = 2 → tdType h.td ≠ .bpi →
        let c := coordOfSlot h.comm.lo (boxW h.blk) slot
        let size := tySize (tdType h.td)
        isClipped h.td h.comm.limit c = false → 0 ≤ elemVa h.td c → elemVa h.td c < 2 ^ 52 →
        Reaches s (tid / 4) t (BitVec.ofInt 64 (elemVa h.td c)) size needW pa → classCount s t 1 < 65535 →
        ∃ s', CompletesTo s s' tid gone rest ∧ s'.inflight = s.inflight ++ [{
          uid := s.uid, seq := e.uid, owner := t.uid, launch := t.launch, cluster := tid / 4,
          kind := .writeBack pa (bytesOfNat size (spRead (clusterOf s (tid / 4)).scratch (slotByte h slot) size)) }]))

/-- R29, R180, R191, R200, R202, R245, R251, R288 to R290: an entry at vcp that fails its checks traps at its element: the queue
from it on is held and recorded in the save area, and the thread enters its handler. tmov.rtov and ctov first wait for the
entries of the tile queue that name their tile. The reason 0 of sync.ubnd is log 43. -/
def Obligations.VectorTrapHoldsTheQueue : Prop :=
  ∀ (s : State) (tid : Nat) (t : Thread) (e : Entry) (rest : List Entry) (d a b : Reg) (p : PReg) (n : BitVec 2)
    (ty : ElemTy) (sc : Scope), AtVcp s tid t e rest → handlerFree t → t.hold = .run → t.tq.length < 16 →
    let traps (cause : BitVec 8) (tval : Word) : Prop := VecTraps s tid t e rest cause tval e.k
    let out : Prop := e.instr = .tmovRtov d a b p ∨ e.instr = .tmovCtov d a b p
    let named : Prop := ∃ q ∈ t.tq, tileName q.instr = some d.toNat
    (tabFind t.h d.toNat = none → e.instr = .hresClr d ∨ e.instr = .hresAnch d a n ∨ e.instr = .hresLim d a n ∨
      e.instr = .hresBind d a ∨ e.instr = .hresWmk d a → traps 0x12 (BitVec.ofNat 64 (d.toNat + 16))) ∧
    (tabFind t.t d.toNat = none → e.instr = .tileZero d p ∨ e.instr = .tileOff d ∨ e.instr = .tileScal d a p ∨
      e.instr = .tileMma d a b p ty ∨ e.instr = .tmovVtor d a b p ∨ e.instr = .tmovVtoc d a b p →
      traps 0x18 (BitVec.ofNat 64 d.toNat)) ∧
    (out → named → VcpWaits s tid) ∧
    (out → ¬ named → tabFind t.t d.toNat = none → traps 0x18 (BitVec.ofNat 64 d.toNat)) ∧
    (tabFind t.q a.toNat = none → e.instr = .cdyMeta d a ∨ e.instr = .cdyRel a b →
      traps 0x19 (BitVec.ofNat 64 (16 + 128 * a.toNat))) ∧
    (e.instr = .syncUbnd d a sc →
      let aligned : Prop := e.cap.xd.toNat % 8 = 0 ∧ e.cap.xa.toNat % 256 = 0
      (¬ aligned → traps 0x24 0) ∧ (aligned → (∀ x ∈ s.bindings, x.latch ≠ e.cap.xd) → traps 0x24 3)) ∧
    (vfmtTy e.cap.vfmt = .s8 → e.instr = .vamoAdd d a b p false false false true → traps 0x26 8)

/-! ## Tiles and Caddy slots -/

/-- R201, R207, R211, R200: tile.on and cdy.claim wait in the order they reached vcp. TILE_POOL_GRANT gives the oldest
waiter the lowest free tile, every element +0; CADDY_SLOT_GRANT gives it the lowest free slots for its names, in order,
when enough are free, else nothing to anyone. tile.on of a bound name completes at once and leaves it; tile.off and cdy.rel
unbind their names when they are handed to the tile queue. -/
def Obligations.TilesAndSlotsAreClaimedInOrder : Prop :=
  ∀ (s : State) (tid : Nat) (t : Thread) (e : Entry) (rest : List Entry) (d a b : Reg) (l : List Nat) (tile : Nat),
    AtVcp s tid t e rest →
    let cl := tid / 4
    let c := clusterOf s cl
    let names := (List.range (b.toNat + 1)).map (fun i => a.toNat + i)
    let free := (List.range 64).filter (fun k => ¬ k ∈ c.slotBusy)
    let got := free.take (b.toNat + 1)
    (e.instr = .tileOn d → (tabFind t.t d.toNat).isSome = true → Completes s tid t rest) ∧
    (e.instr = .tileOn d → tabFind t.t d.toNat = none → ¬ tid % 4 ∈ c.tileWait →
      exec (.entryAtVcp tid) s = .next (setCluster s cl { c with tileWait := c.tileWait ++ [tid % 4] })) ∧
    (e.instr = .tileOn d → c.tileWait = tid % 4 :: l → tile < 16 → ¬ tile ∈ c.tileBusy →
      (∀ k, k < tile → k ∈ c.tileBusy) → ∃ s', exec (.tilePoolGrant cl) s = .next s' ∧ OnlyThread s s' tid ∧
        threadAt s' tid = some { t with t := tabPut t.t d.toNat tile, vq := rest } ∧ (clusterOf s' cl).tileWait = l ∧
        (∀ k, k ∈ (clusterOf s' cl).tileBusy ↔ k = tile ∨ k ∈ c.tileBusy) ∧
        ∀ i j, i < 64 → j < 64 → tileElem (clusterOf s' cl) tile i j = 0) ∧
    (e.instr = .cdyClaim a b → (∀ q ∈ names, tabFind t.q q = none) → ¬ tid % 4 ∈ c.slotWait →
      exec (.entryAtVcp tid) s = .next (setCluster s cl { c with slotWait := c.slotWait ++ [tid % 4] })) ∧
    (e.instr = .cdyClaim a b → c.slotWait = tid % 4 :: l →
      (free.length ≤ b.toNat → exec (.caddySlotGrant cl) s = .next s) ∧
      (b.toNat < free.length → ∃ s' u, exec (.caddySlotGrant cl) s = .next s' ∧ OnlyThread s s' tid ∧
        threadAt s' tid = some { t with q := u, vq := rest } ∧
        (∀ i, i ≤ b.toNat → tabFind u (a.toNat + i) = free[i]?) ∧ (∀ q, ¬ q ∈ names → tabFind u q = tabFind t.q q) ∧
        (clusterOf s' cl).slotWait = l ∧ (∀ k, k ∈ (clusterOf s' cl).slotBusy ↔ k ∈ c.slotBusy ∨ k ∈ got) ∧
        ∀ k ∈ got, miLoaded (slotAt (clusterOf s' cl) k).info = false)) ∧
    (e.instr = .tileOff d → t.tq.length < 16 → tabFind t.t d.toNat = some tile →
      ∃ q, Completes s tid { t with t := tabErase t.t d.toNat, tq := t.tq ++ [q] } rest ∧ q.tile = tile ∧ q.instr = e.instr) ∧
    (e.instr = .cdyRel a b → t.tq.length < 16 → (∀ q ∈ names, (tabFind t.q q).isSome = true) →
      ∃ u q, Completes s tid { t with q := u, tq := t.tq ++ [q] } rest ∧ q.slots = names.filterMap (tabFind t.q) ∧
        q.instr = e.instr ∧ ∀ n, tabFind u n = if n ∈ names then none else tabFind t.q n)

/-- R200, R202, R205, R208, R217: what a TILE or TMOV entry with bound operands takes along to the tile queue: the pool
tile, the Caddy slots, predicate bits 0 to 127 of P, the scale factor, the row or column of vA, its captured values; with 16
entries in the tile queue it waits at vcp. -/
def Obligations.TileEntriesAreHandedOff : Prop :=
  ∀ (s : State) (tid : Nat) (t : Thread) (e : Entry) (rest : List Entry) (d a b : Reg) (p : PReg) (ty : ElemTy)
    (tile qa qb : Nat), AtVcp s tid t e rest → tabFind t.t d.toNat = some tile →
    let pred : BitVec 128 := (rp t p.toNat).extractLsb' 0 128
    let queues (q : TEntry) : Prop := Completes s tid { t with tq := t.tq ++ [q] } rest
    let made : TEntry := { uid := e.uid, instr := e.instr, cap := e.cap, tile := tile, pred := pred, k := e.k, hnd := e.hnd }
    (t.tq.length < 16 →
      (e.instr = .tileZero d p → queues made) ∧
      (e.instr = .tileScal d a p → queues { made with data := ((rv t a.toNat).extractLsb' 0 32).zeroExtend 2048 }) ∧
      (e.cap.xb.toNat < 64 → e.instr = .tmovVtor d a b p ∨ e.instr = .tmovVtoc d a b p →
        queues { made with data := (rv t a.toNat).extractLsb' 0 2048 }) ∧
      (e.instr = .tileMma d a b p ty → tabFind t.q a.toNat = some qa → tabFind t.q b.toNat = some qb →
        let ma := (slotAt (clusterOf s (tid / 4)) qa).info
        let mb := (slotAt (clusterOf s (tid / 4)) qb).info
        miLoaded ma = true → miLoaded mb = true → miType ma = ty → miType mb = (if ty = .bpi then .s8 else ty) →
        miRows ma ≤ 64 → miCols mb ≤ 64 → miCols ma = miRows mb → queues { made with slots := [qa, qb] })) ∧
    (16 ≤ t.tq.length → e.instr = .tileZero d p ∨ e.instr = .tileScal d a p ∨ e.instr = .tileOff d ∨
      e.instr = .tmovVtor d a b p ∨ e.instr = .tmovVtoc d a b p ∨ e.instr = .tileMma d a b p ty ∨ e.instr = .cdyRel a b →
      VcpWaits s tid)

/-- R106, R107, R203, R205, R207 to R209, R217: one step of the head of a tile queue in a cluster whose sequencer is free, this
thread being the only one: tile.zero writes +0, tile.scal the product rounded once, where both predicates hold; tmov.vtor a row,
tmov.vtoc a column; tile.off frees the tile and cdy.rel its slots. A step of a dense tile.mma adds in f32 the products of its next
k, in ascending order: one k for bf16 and f16, two for e4m3 and e5m2, 16 ÷ p for bpi of p planes, whose products with 8-bit signed
elements are exact integers; a strained product adds, for each column of B, the k of its terms in order and then of the residual
that was not dropped; one that SKIP lets add nothing leaves every element. Every other element of every tile keeps its value,
and TSTEPS counts the step; an entry without steps leaves the queue without one. That a strained product makes all its additions at
its last step is log 38 (DEDUCED), that a skipped product takes the steps of its dense or strained form log 108 (DESIGN CHOICE). -/
def Obligations.TileEngineStepsTheHead : Prop :=
  ∀ (s : State) (cl k : Nat) (t : Thread) (q : TEntry) (rest : List TEntry), threadAt s (4 * cl + k) = some t → k < 4 →
    cl < 320 → (∀ j, j < 4 → j ≠ k → threadAt s (4 * cl + j) = none) → t.tq = q :: rest → t.stopReq = false →
    (q.tile < 16 ∨ ∃ a b, q.instr = .cdyRel a b) →
    stepRefused s cl = false → (clusterOf s cl).seqRun = none →
    let c := clusterOf s cl
    let old (i j : Nat) : Nat := tileElem c q.tile i j
    let x := q.cap.xb.toNat
    let data (n : Nat) : Nat := (q.data.extractLsb' (32 * n) 32).toNat
    let steps (left : List TEntry) (el : Nat → Nat → Nat) : Prop := ∃ s', exec (.tileEngineStep cl) s = .next s' ∧
      OnlyThread s s' (4 * cl + k) ∧ threadAt s' (4 * cl + k) = some { t with tq := left } ∧
      (inService s (tileOfCluster cl) = true → tabGet 0 s'.counters (256 * cl + 2) = tabGet 0 s.counters (256 * cl + 2) + 1) ∧
      (∀ i j, i < 64 → j < 64 → tileElem (clusterOf s' cl) q.tile i j = el i j) ∧
      ∀ u i j, u ≠ q.tile → i < 64 → j < 64 → tileElem (clusterOf s' cl) u i j = tileElem c u i j
    (∀ d p, q.instr = .tileZero d p → steps rest (fun i j => if q.pred.getLsbD i && q.pred.getLsbD (64 + j) then 0 else old i j)) ∧
    (∀ d a p, q.instr = .tileScal d a p → steps rest (fun i j => if q.pred.getLsbD i && q.pred.getLsbD (64 + j) then
      roundTo .f32 .rne (fmul (fvalOf .f32 (old i j)) (fvalOf .f32 (data 0))) else old i j)) ∧
    (∀ d a b p, q.instr = .tmovVtor d a b p → x < 64 →
      steps rest (fun i j => if i = x && q.pred.getLsbD j then data j else old i j)) ∧
    (∀ d a b p, q.instr = .tmovVtoc d a b p → x < 64 →
      steps rest (fun i j => if j = x && q.pred.getLsbD i then data i else old i j)) ∧
    (∀ d, q.instr = .tileOff d → ∃ s', exec (.tileEngineStep cl) s = .next s' ∧
      threadAt s' (4 * cl + k) = some { t with tq := rest } ∧ ¬ q.tile ∈ (clusterOf s' cl).tileBusy ∧
      ∀ u, u ≠ q.tile → (u ∈ (clusterOf s' cl).tileBusy ↔ u ∈ c.tileBusy)) ∧
    (∀ a b, q.instr = .cdyRel a b → ∃ s', exec (.tileEngineStep cl) s = .next s' ∧
      threadAt s' (4 * cl + k) = some { t with tq := rest } ∧
      ∀ u, u ∈ (clusterOf s' cl).slotBusy ↔ u ∈ c.slotBusy ∧ ¬ u ∈ q.slots) ∧
    (∀ d a b p ty, q.instr = .tileMma d a b p ty →
      let sa := slotAt c (q.slots.getD 0 0)
      let sb := slotAt c (q.slots.getD 1 0)
      let ty := miType sa.info
      let wide := miCols sa.info
      let kps := if ty = .e4m3 ∨ ty = .e5m2 then 2 else if ty = .bpi then 16 / miPlanes sa.info else 1
      let dense := (wide + kps - 1) / kps
      let strained : Prop := miStr sb.info = true ∧ miFallback sb.info = 0
      let skipped : Prop := (miSkip sa.info = true ∧ miSpec sb.info = false) ∨ (miSkip sb.info = true ∧ miSpec sa.info = false)
      let upd (i j : Nat) : Prop := i < miRows sa.info ∧ j < miCols sb.info ∧ q.pred.getLsbD i = true ∧ q.pred.getLsbD (64 + j) = true
      let product (i j k : Nat) : FVal := if ty = .bpi then fvalOfInt (engineInt sa i k * engineInt sb k j)
        else fmul (engineVal sa i k) (engineVal sb k j)
      let add (i j : Nat) (ks : List Nat) : Nat :=
        ks.foldl (fun acc k => roundTo .f32 .rne (fadd .rne (fvalOf .f32 acc) (product i j k))) (old i j)
      let half : Prop := fieldOf sb.stctl 0 2 ≠ 3 ∧ fieldOf sb.stctl 2 2 = 0
      let total := sb.terms.length * (if half then (dense + 1) / 2 else dense) +
        (if miDropped sb.info then 0 else (sb.residual.length + 3) / 4)
      let order (j : Nat) : List Nat := sb.terms.flatMap (fun u => u.getD j []) ++
        (if miDropped sb.info then [] else (sb.residual.filter (fun x => x.1 = j)).map (fun x => x.2))
      let left (n : Nat) : List TEntry := if n ≤ q.step + 1 then rest else { q with step := q.step + 1 } :: rest
      (¬ strained → 0 < dense → steps (left dense) (fun i j =>
        if ¬ skipped ∧ upd i j then add i j (span (q.step * kps) (min ((q.step + 1) * kps) wide)) else old i j)) ∧
      (strained → 0 < total → steps (left total) (fun i j =>
        if ¬ skipped ∧ q.step + 1 = total ∧ upd i j then add i j (order j) else old i j)) ∧
      (strained → total = 0 → ∃ s', exec (.tileEngineStep cl) s = .next s' ∧ OnlyThread s s' (4 * cl + k) ∧
        threadAt s' (4 * cl + k) = some { t with tq := rest } ∧ s'.counters = s.counters ∧
        ∀ u i j, tileElem (clusterOf s' cl) u i j = tileElem c u i j))

/-- R196 to R200, R210, R212 to R214, R216, R217: cdy.load and cdy.lstr of a window whose lines are full, with every element
inside the box: element i of the slot is 0 when clipped and else what the scratchpad holds, and the slot is loaded; a queued
tile.mma that reads the slot is waited for. cdy.lstr also strains the slot: unless it falls back, every nonzero element is kept
once, in a term or in the residual, a term keeps at most Ne elements of a group of Me and at most Nb blocks of Mb, the first one
the largest, a residual is left only after TERMS terms, and LOSSQ and DROPPED are those of R214. cdy.meta gives the slot's
metadata, 0 for one not loaded, whatever n and the captured start are (log 23, DESIGN CHOICE); tmov.rtov and ctov give a row or column of the tile where P governs it. -/
def Obligations.SlotsLoadAndTilesMoveOut : Prop :=
  ∀ (s : State) (tid : Nat) (t : Thread) (e : Entry) (rest : List Entry) (d a b : Reg) (p : PReg) (h : HReg)
    (slot tile : Nat), AtVcp s tid t e rest →
    let c := clusterOf s (tid / 4)
    let rows := nrows e.cap
    let cols := ncols e.cap
    let place (i : Nat) := offsetCoord h (tileOffsets e.cap 1 0 0 i)
    let reading : Prop := ∃ q ∈ t.tq, slot ∈ q.slots ∧ ∃ d a b p ty, q.instr = .tileMma d a b p ty
    let lstr : Prop := e.instr = .cdyLstr d a b
    (e.instr = .cdyLoad d a b ∨ lstr → tabFind t.q a.toNat = some slot → reading → VcpWaits s tid) ∧
    (e.instr = .cdyLoad d a b ∨ lstr → tabFind t.q a.toNat = some slot → ¬ reading → tabFind t.h d.toNat = some h →
      blkMode h.blk = 0 ∨ blkMode h.blk = 1 → h.failed = [] → t.recomps = [] → slotTy (tdType h.td) = true →
      (vfmtTy e.cap.vfmt).bits = 8 * tySize (tdType h.td) →
      (if tdType h.td = .bpi then 1 ≤ tdPlanes h.td ∧ tdPlanes h.td ≤ 8 else tdPlanes h.td = 0) →
      1 ≤ rows → rows ≤ 1024 → 1 ≤ cols → cols ≤ 1024 →
      let ty := tdType h.td
      let w := slotWidth ty (tdPlanes h.td)
      rows * cols * w ≤ 65536 → e.k = 0 → (∀ i, i < rows * cols → (place i).isSome = true) →
      ∃ s', exec (.entryAtVcp tid) s = .next s' ∧ OnlyThread s s' tid ∧ threadAt s' tid = some { t with vq := rest } ∧
        let sl := slotAt (clusterOf s' (tid / 4)) slot
        let m := sl.info
        let mag (k j : Nat) : Nat := strainMag ty (slotElem sl.bytes w (k * cols + j))
        let mass (k j : Nat) : Nat := massOf ty (slotElem sl.bytes w (k * cols + j))
        let full := (List.range rows).flatMap (fun k => (List.range cols).map (fun j => (j, k)))
        let pats := (fieldOf e.cap.stctl 0 2, fieldOf e.cap.stctl 2 2)
        let nb := match pats.1 with | 0 => 1 | 1 => 2 | 2 => 1 | _ => 4
        let mb := match pats.1 with | 0 => 2 | _ => 4
        let ne := match pats.2 with | 0 => 2 | _ => 4
        let me := match pats.2 with | 1 => 8 | _ => 4
        let total := (full.map (fun x => mass x.2 x.1)).sum
        let left := (sl.residual.map (fun x => mass x.2 x.1)).sum
        let col (u : List (List Nat)) (j : Nat) : List Nat := u.getD j []
        miLoaded m = true ∧ miRows m = rows ∧ miCols m = cols ∧ miType m = ty ∧ miPlanes m = tdPlanes h.td ∧
        (∀ i, i < rows * cols → ∃ x, place i = some x ∧ slotElem sl.bytes w i =
          if isClipped h.td h.comm.limit x then 0
          else spRead c.scratch (slotByte h (slotOf (boxW h.blk) x)) (tySize ty) % 2 ^ w) ∧
        (miSkip m = true ↔ ∀ x ∈ full, if ty = .bpi then slotElem sl.bytes w (x.2 * cols + x.1) = 0 else mag x.2 x.1 = 0) ∧
        (¬ lstr → miStr m = false ∧ sl.terms = [] ∧ sl.residual = []) ∧
        (lstr → miStr m = true ∧ (miFallback m ≠ 0 → sl.terms = [] ∧ sl.residual = []) ∧
          (64 < cols ∨ ty = .bpi → miFallback m = 3) ∧ (cols ≤ 64 → ty ≠ .bpi → 512 < rows → miFallback m = 2) ∧
          (cols ≤ 64 → ty ≠ .bpi → rows ≤ 512 → miFallback m = 0 ∨ miFallback m = 1) ∧
          (cols ≤ 64 → ty ≠ .bpi → rows ≤ 512 → (full.filter (fun x => mag x.2 x.1 ≠ 0)).length ≤ 64 → miFallback m = 0) ∧
          (miFallback m = 0 → sl.residual.length ≤ 64 ∧ sl.terms.length ≤ fieldOf e.cap.stctl 4 3 ∧
            (sl.residual ≠ [] → sl.terms.length = fieldOf e.cap.stctl 4 3) ∧
            (∀ k j, k < rows → j < cols → (sl.terms.filter (fun u => k ∈ col u j)).length +
              (sl.residual.filter (fun x => x = (j, k))).length = if mag k j = 0 then 0 else 1) ∧
            (∀ u ∈ sl.terms, ∀ j, (col u j).Pairwise (· < ·) ∧
              (∀ g, ((col u j).filter (fun k => k / me = g)).length ≤ ne) ∧
              ∀ g, (((col u j).map (fun k => k / 8)).dedup.filter (fun x => x / mb = g)).length ≤ nb) ∧
            (∀ u, sl.terms.head? = some u → ∀ j k k', j < cols → k ∈ col u j → k' / me = k / me → k' < rows →
              ¬ k' ∈ col u j → mag k' j ≤ mag k j) ∧
            fieldOf m 48 16 = (if sl.residual = [] then 0 else if miSpec m then 0xFFFF
              else min ((left * 65536 + total - 1) / total) 0xFFFF) ∧
            (miDropped m = true ↔ sl.residual ≠ [] ∧ e.cap.stctl.getLsbD 7 = true ∧ miSpec m = false ∧
              left * 65536 ≤ fieldOf e.cap.stloss 0 16 * total)))) ∧
    (e.instr = .cdyMeta d a → tabFind t.q a.toNat = some slot → ∃ u, CompletesRs s tid u rest ∧
      (let m := (slotAt c slot).info
       let w := (vfmtTy e.cap.vfmt).bits
       elem u d.toNat w 0 = (if miLoaded m then m.toNat else 0) % 2 ^ w ∧
       ∀ j, 0 < j → j * w < 131072 → elem u d.toNat w j = elem t d.toNat w j) ∧
      (∀ r, r % 32 ≠ d.toNat → rv u r = rv t r) ∧ u = { t with v := u.v, vext := u.vext }) ∧
    (tabFind t.t d.toNat = some tile → (∀ q ∈ t.tq, tileName q.instr ≠ some d.toNat) → e.cap.xb.toNat < 64 →
      e.instr = .tmovRtov d a b p ∨ e.instr = .tmovCtov d a b p → ∃ u, CompletesRs s tid u rest ∧
      (∀ k, k < 512 → elem u a.toNat 32 k =
        if k < 64 ∧ maskBit t p.toNat k = true then (if e.instr = .tmovCtov d a b p then tileElem c tile k e.cap.xb.toNat
          else tileElem c tile e.cap.xb.toNat k) else elem t a.toNat 32 k) ∧
      (∀ r, r % 32 ≠ a.toNat → rv u r = rv t r) ∧ u = { t with v := u.v, vext := u.vext })

/-! ## Latches, bindings, barriers -/

/-- R182, R184, R235, R241, R243, R244, R312, R313: the latch protocol. sync.acq waits for the strong accesses of its thread before it
(log 21, DEDUCED), then joins the waiters of its latch, or waits while the slice's queue is full, and may try again at any time
(log 72, DESIGN CHOICE); its misuse traps. LATCH_GRANT gives a latch whose HELD is 0 to the oldest waiter, whose tag and scope the
word then shows, and completes the entry; the clean elements of a window bound to the latch are fetched again; a broken latch traps
after completion; a held latch is left alone. sync.rel of a latch the thread holds puts the release on its way, and before it the
write-backs of a window bound to the latch. Once every write of the thread before it has performed, those write-backs included, the
word shows HELD 0 and the latch leaves the thread's list; a release that finds no way to its home is lost with the same end for the
list; one at a stopped router (log 67, DEDUCED), or whose packet was dropped (log 98), does not perform. -/
def Obligations.LatchesAreGrantedAndReleased : Prop :=
  ∀ (s : State) (tid : Nat) (t : Thread) (e : Entry) (rest : List Entry) (r : Reg) (sc : Scope) (pa : Nat) (w : Waiter)
    (p : PendRel) (n : Nat) (h : HReg) (back : Nat → Nat), AtVcp s tid t e rest →
    let a := e.cap.xa
    let tag := BitVec.ofNat 56 (t.launch % 2 ^ 32 * 2 ^ 24 + t.flat % 2 ^ 24)
    let mine : Waiter := { pa := pa, uid := e.uid, tag := tag, sc := sc, thread := some tid, ctx := t.ctx }
    let begins (i : Instr) (ws : List Waiter) : Prop := ∃ s', exec i s = .next s' ∧ OnlyThread s s' tid ∧
      threadAt s' tid = some { t with vq := { e with begun := true } :: rest } ∧ s'.waiters = ws
    let room : Prop := waitersAt s (homeOf pa) < Config.waiterCap
    let old := readWord s pa
    let coord (k : Nat) := coordOfSlot h.comm.lo (boxW h.blk) k
    let size := tySize (tdType h.td)
    let released : PendRel := { uid := e.uid, owner := t.uid, thread := tid, addr := a, pa := pa, sc := sc, tag := tag, ctx := t.ctx }
    (e.instr = .syncAcq r sc → e.begun = false → strongBefore s t e.uid = true → VcpWaits s tid) ∧
    (e.instr = .syncAcq r sc → e.begun = false → strongBefore s t e.uid = false →
      (handlerFree t → t.hold = .run →
        (a.toNat % 8 ≠ 0 → VecTraps s tid t e rest 0x04 a e.k) ∧
        (a.toNat % 8 = 0 → a ∈ t.latches → VecTraps s tid t e rest 0x20 a e.k) ∧
        (a.toNat % 8 = 0 → ¬ a ∈ t.latches → 8 ≤ t.latches.length → VecTraps s tid t e rest 0x21 a e.k)) ∧
      (a.toNat % 8 = 0 → ¬ a ∈ t.latches → t.latches.length < 8 → Reaches s (tid / 4) t a 8 needRW pa →
        (room → begins (.entryAtVcp tid) (s.waiters ++ [mine])) ∧ (¬ room → begins (.entryAtVcp tid) s.waiters))) ∧
    (e.instr = .syncAcq r sc → e.begun = true → strongBefore s t e.uid = false → a.toNat % 8 = 0 → ¬ a ∈ t.latches →
      t.latches.length < 8 → Reaches s (tid / 4) t a 8 needRW pa → room → (∀ x ∈ s.waiters, x.uid ≠ e.uid) →
      begins (.latchAcquireRetry tid) (s.waiters ++ [mine])) ∧
    (s.waiters.find? (fun x => x.pa = pa) = some w → w.thread = some tid → homeUp s pa = true → poisoned s pa 8 = false →
      (latchHeld old = true → exec (.latchGrant pa) s = .next s) ∧
      (latchHeld old = false → (∀ x ∈ t.h, x.2.comm.latch ≠ some a) →
        ∃ s' u, exec (.latchGrant pa) s = .next s' ∧ threadAt s' tid = some u ∧ s'.waiters = s.waiters.erase w ∧
          (∀ j, j ≠ tid → threadAt s' j = threadAt s j) ∧ (latchBroken old = false →
            u = { t with latches := t.latches ++ [a], vq := rest } ∧
            readWord s' pa = BitVec.ofNat 64 (w.tag.toNat * 256 + 4 * w.sc.code.toNat + 1) ∧
            ∀ x, x < pa ∨ pa + 8 ≤ x → readByte s'.mem x = readByte s.mem x) ∧
          (latchBroken old = true → handlerFree t → t.hold = .run → u.latches = t.latches ++ [a] ∧ u.vq = [] ∧
            u.held = rest ∧ u.pc = t.csr.thand ∧ u.csr.tcause = 0x23 ∧ u.csr.tval = a ∧ u.csr.tepc = t.pc &&& ~~~3#64)) ∧
      (latchHeld old = false → latchBroken old = false → boundRegs t a = [n] → tabFind t.h n = some h →
        blkMode h.blk = 0 ∨ blkMode h.blk = 1 → ∃ s' new, exec (.latchGrant pa) s = .next s' ∧
          threadAt s' tid = some { t with latches := t.latches ++ [a], vq := rest, recomps := t.recomps ++ new } ∧
          (∀ x ∈ new, x.h = n ∧ x.landing = true ∧ x.counts = false) ∧
          ∀ k, k < boxV h.blk → ¬ k ∈ h.dirty → isClipped h.td h.comm.limit (coord k) = false →
            ∃ x ∈ new, ∃ f ∈ x.fetches, f.coord = coord k ∧ f.slot = slotOf (boxW h.blk) (coord k) ∧ f.va = elemVa h.td (coord k))) ∧
    (e.instr = .syncRel r sc → (∀ x ∈ s.releases, ¬ (x.owner = t.uid ∧ x.addr = a)) → a.toNat % 8 = 0 →
      Reaches s (tid / 4) t a 8 needRW pa → a ∈ t.latches → latchHeld old = true → latchTag old = tag → t.lost = none →
      ((∀ x ∈ t.h, x.2.comm.latch ≠ some a) →
        ∃ s', CompletesTo s s' tid t rest ∧ s'.releases = s.releases ++ [released]) ∧
      (boundRegs t a = [n] → tabFind t.h n = some h → blkMode h.blk = 1 ∨ blkMode h.blk = 2 → tdType h.td ≠ .bpi →
        (∀ k ∈ h.dirty, isClipped h.td h.comm.limit (coord k) = false ∧ 0 ≤ elemVa h.td (coord k) ∧ elemVa h.td (coord k) < 2 ^ 52 ∧
          Reaches s (tid / 4) t (BitVec.ofInt 64 (elemVa h.td (coord k))) size needW (back k)) →
        classCount s t 1 + h.dirty.length ≤ 65535 →
        ∃ s', CompletesTo s s' tid { t with h := tabPut t.h n { h with dirty := [] } } rest ∧ s'.releases = s.releases ++ [released] ∧
          s'.inflight = s.inflight ++ (h.dirty.zipIdx).map (fun (x : Nat × Nat) => {
            uid := s.uid + x.2, seq := e.uid, owner := t.uid, launch := t.launch, cluster := tid / 4, kind := .writeBack (back x.1)
              (bytesOfNat size (spRead (clusterOf s (tid / 4)).scratch (slotByte h x.1) size)) }))) ∧
    (s.releases.find? (fun x => x.uid = p.uid) = some p →
      let home := p.thread / 4
      let after (u : Thread) : Thread := if u.uid = p.owner then { u with latches := u.latches.erase p.addr } else u
      let held : Prop := releaseReady s p.owner p.uid = false ∨ cutOff s home p.pa = true ∨ p.uid ∈ s.dropped
      (held → exec (.latchReleasePerform p.uid) s = .next s) ∧
      (¬ held → ∃ s', exec (.latchReleasePerform p.uid) s = .next s' ∧
        s'.releases = s.releases.filter (fun x => x.uid ≠ p.uid) ∧ threadAt s' tid = some (after t) ∧
        (reaches s home p.pa = true → readWord s' p.pa = BitVec.ofNat 64 (4 * p.sc.code.toNat) ∧
          ∀ x, x < p.pa ∨ p.pa + 8 ≤ x → readByte s'.mem x = readByte s.mem x) ∧
        (reaches s home p.pa = false → s'.mem = s.mem)))

/-- R242, R247 to R249: barriers of a gang level. An arrival counts in the current phase once the thread's writes have
performed, and makes the phase due in its cycle when ARRIVED reaches EXPECT; sync.barr then waits until PHASE exceeds the phase of
its arrival, sync.arrv completes at once; sync.expt waits in `late` for the end of its cycle. BARRIER_PHASE_COMPLETE lets the
cycles before the present one take effect: a phase that was due completes, at the latest when the clock of its home has passed its
cycle (log 66, DESIGN CHOICE), its surplus arrivals carry over and an expectation of its completing cycle goes to NEXT; one of any
other cycle joins EXPECT. A level that is no gang traps. The model's choices where an operation does not get to the barrier: it waits
while a router on its way has stopped (log 67, DEDUCED), it waits also once its arrival has been made, and else takes the
memory-unavailable trap with a free value for tval (log 111, DESIGN CHOICE). That `d` says that PHASE, of 32 bits, has gone beyond a
phase, and that ARRIVED and the waiting expectation stay at 2^32 - 1, is log 63 (DESIGN CHOICE); that the phase recorded is the one in which
the arrival was applied, log 104 (DESIGN CHOICE); that no thread counts as arrived in a phase that has just begun, log 121 (DESIGN CHOICE). -/
def Obligations.BarriersCountPhases : Prop :=
  ∀ (s : State) (tid : Nat) (t : Thread) (e : Entry) (rest : List Entry) (l : Launch) (b : Barrier) (r : Reg) (sc : Scope)
    (n : BitVec 4), AtVcp s tid t e rest → launchOf s t.launch = some l →
    let lvl := n.toNat
    let g := t.flat / groupThreads l.raw lvl
    let up := barrierUp s t.launch lvl g
    let reached := barrierReached s (tileOfOwner s t.uid) t.launch lvl g
    let at' (s : State) : Option Barrier := barrierOf s t.launch lvl g
    let now := barrierNow s b
    let top := 2 ^ 32 - 1
    let arrived := min (b.arrived + 1) top
    let due := if b.dueAt.isSome then b.dueAt else if b.expect ≤ arrived then some now else none
    let came : Barrier := { b with arrived := arrived, came := setAdd b.came t.uid, dueAt := due }
    let x := e.cap.xa.toNat % 2 ^ 32
    let any : Prop := e.instr = .syncBarr sc n ∨ e.instr = .syncArrv sc n ∨ e.instr = .syncExpt r sc n
    let passes (b' : Barrier) : Prop := ∃ s', exec (.barrierPhaseComplete t.launch lvl g) s = .next s' ∧
      s' = { s with barriers := s'.barriers } ∧ at' s' = some b'
    (lvlGang (recLevel l.raw lvl) = false → handlerFree t → t.hold = .run → any →
      VecTraps s tid t e rest 0x25 (n.zeroExtend 64) e.k) ∧
    (lvlGang (recLevel l.raw lvl) = true → reached = false → any →
      let stuck := stuckTo s (tileOfOwner s t.uid) (barrierTile t.launch lvl g)
      (stuck = true ∨ e.phase ≠ none → VcpWaits s tid) ∧
      (stuck = false → e.phase = none → handlerFree t → t.hold = .run →
        VecTraps s tid t e rest 0x0D (Config.noAddress s.tick) e.k)) ∧
    (lvlGang (recLevel l.raw lvl) = true → reached = true → at' s = some b → settled s b = b →
      (e.instr = .syncBarr sc n → e.phase = none → releaseReady s t.uid e.uid = true →
        ∃ s', exec (.entryAtVcp tid) s = .next s' ∧ OnlyThread s s' tid ∧ at' s' = some came ∧
          threadAt s' tid = some { t with barrWait := some (lvl, b.phase), vq := { e with phase := some b.phase } :: rest }) ∧
      (e.instr = .syncBarr sc n → ∀ p, e.phase = some p →
        let d := (b.phase + 2 ^ 32 - p) % 2 ^ 32
        (0 < d ∧ d < 2 ^ 31 → Completes s tid { t with barrWait := none } rest) ∧ (¬ (0 < d ∧ d < 2 ^ 31) → VcpWaits s tid)) ∧
      (e.instr = .syncArrv sc n → releaseReady s t.uid e.uid = true →
        ∃ s', CompletesTo s s' tid t rest ∧ at' s' = some came) ∧
      (e.instr = .syncArrv sc n ∨ (e.instr = .syncBarr sc n ∧ e.phase = none) → releaseReady s t.uid e.uid = false →
        VcpWaits s tid) ∧
      (e.instr = .syncExpt r sc n → ∃ s', CompletesTo s s' tid t rest ∧
        at' s' = some { b with late := min (b.late + x) top, lateAt := now })) ∧
    (up = true → at' s = some b →
      (∀ c, b.dueAt = some c → c < now → b.arrived - b.expect < min (b.live + b.next) top →
        passes { b with phase := (b.phase + 1) % 2 ^ 32, arrived := b.arrived - b.expect,
                        expect := min (b.live + b.next) top, next := b.late, late := 0, came := [], dueAt := none }) ∧
      (b.dueAt = none → b.lateAt < now → passes { b with expect := min (b.expect + b.late) top, late := 0 }) ∧
      ((∀ c, b.dueAt = some c → now ≤ c) → (b.dueAt = none → now ≤ b.lateAt) → passes b)) ∧
    (up = false → exec (.barrierPhaseComplete t.launch lvl g) s = .next s)

/-- R87, R90, R245, R246: sync.bind makes a binding of the thread's launch and unit of the scope, unless its operands
are malformed (reason 0), another latch binds part of the region for the thread at the same or a wider scope (reason 1), or the
table of 4,096 is full (reason 2); sync.ubnd takes the youngest binding it names, reason 3 when there is none. A static
binding is made under the same checks, belongs to no launch and concerns every thread of the device, whatever its context (R90). That a
binding made by sync.bind concerns the threads of its maker's context alone is log 85 (DESIGN CHOICE), that a static binding of
length 0 stands for the end of the youngest of its name log 86. sync.fenc completes only when nothing of the thread is
outstanding. -/
def Obligations.BindingsAndFences : Prop :=
  ∀ (s : State) (tid : Nat) (t : Thread) (e : Entry) (rest : List Entry) (d a b : Reg) (sc : Scope) (o n : List Binding)
    (x : Binding) (ctx : Nat) (latch base len : Word), AtVcp s tid t e rest →
    let l := e.cap.xd
    let va := e.cap.xa
    let size := e.cap.xb
    let good (l va size : Word) : Prop := l.toNat % 8 = 0 ∧ va.toNat % 256 = 0 ∧ size.toNat % 256 = 0 ∧ size ≠ 0 ∧
      va.toNat + size.toNat ≤ 2 ^ 52
    let clash (l va size : Word) (y : Binding) : Prop := y.latch ≠ l ∧ sc.code.toNat ≤ y.sc.code.toNat ∧
      max va.toNat y.base.toNat < min (va.toNat + size.toNat) (y.base.toNat + y.length.toNat)
    let unit (sc : Scope) := match sc with
      | .thd => t.uid | .clu => tid / 4 | .til => tid / 16 | .die => tid / 320 | .dev | .pgr | .sys => 0
    let mine (y : Binding) : Prop := y.launch = none ∨ (y.ctx = t.ctx ∧ y.unit = unit y.sc)
    let named (y : Binding) : Prop := y.latch = l ∧ y.base = va ∧ y.sc = sc ∧ mine y
    let taken : Prop := ∃ y ∈ s.bindings, mine y ∧ clash l va size y
    let traps (r : Word) : Prop := VecTraps s tid t e rest 0x24 r e.k
    (e.instr = .syncBind d a b sc →
      (handlerFree t → t.hold = .run → (¬ good l va size → traps 0) ∧ (good l va size → taken → traps 1) ∧
        (good l va size → ¬ taken → 4096 ≤ s.bindings.length → traps 2)) ∧
      (good l va size → ¬ taken → s.bindings.length < 4096 → ∃ s', CompletesTo s s' tid t rest ∧ s'.bindings = s.bindings ++
        [{ ctx := t.ctx, latch := l, base := va, length := size, sc := sc, unit := unit sc, launch := some t.launch }])) ∧
    (e.instr = .syncUbnd d a sc → l.toNat % 8 = 0 → va.toNat % 256 = 0 →
      (s.bindings = o ++ x :: n → named x → (∀ y ∈ n, ¬ named y) → ∃ s', CompletesTo s s' tid t rest ∧ s'.bindings = o ++ n) ∧
      ((∀ y ∈ s.bindings, ¬ named y) → handlerFree t → t.hold = .run → traps 3)) ∧
    (len ≠ 0 →
      let fits : Prop := good latch base len ∧ (∀ y ∈ s.bindings, ¬ clash latch base len y) ∧ s.bindings.length < 4096
      (fits → exec (.staticBinding ctx latch base len sc) s = .next { s with bindings := s.bindings ++
        [{ ctx := ctx, latch := latch, base := base, length := len, sc := sc, unit := 0, launch := none }] }) ∧
      (¬ fits → exec (.staticBinding ctx latch base len sc) s = .next s)) ∧
    (let fixed (y : Binding) : Prop := y.launch = none ∧ y.ctx = ctx ∧ y.latch = latch ∧ y.base = base ∧ y.sc = sc
     s.bindings = o ++ x :: n → fixed x → (∀ y ∈ n, ¬ fixed y) →
      exec (.staticBinding ctx latch base 0 sc) s = .next { s with bindings := o ++ n }) ∧
    (e.instr = .syncFenc sc →
      let busy : Prop := (∃ r ∈ s.inflight, r.owner = t.uid) ∨ (∃ r ∈ s.releases, r.owner = t.uid) ∨
        (∃ r ∈ s.pubs, r.owner = t.uid) ∨ t.recomps ≠ [] ∨ t.tq ≠ [] ∨ t.lq ≠ []
      (busy → VcpWaits s tid) ∧ (¬ busy → Completes s tid t rest))

/-- R230, R235, R236, R252, R253, R255, R256: atomics and conditional waits. A returning VAMO performs its next governed element
at its home as one action, once its thread's earlier operations on those bytes and its earlier strong accesses have (log 21,
DEDUCED): the element of D receives the old value and memory the operation's result; a VAMO that returns nothing issues every
governed element in ascending order as a strong access, all in one turn (log 64, DEDUCED), and goes on; with no element left it completes, with AQ only when all have
performed; RL first waits for what comes before it; a misaligned element traps at its number. VWTC compares the value in memory of
each governed element that is not yet satisfied with the comparand, signed or unsigned as CC says, after its thread's earlier strong
accesses (log 21); one turn reads every one of them and remembers each that is satisfied (log 44, DEDUCED); it completes when every one
is satisfied, at once when none is governed, else it keeps watching the others from the lowest on, and VWTC_REREAD looks again. -/
def Obligations.AtomicsAndWaitsActElementwise : Prop :=
  ∀ (s : State) (tid : Nat) (t : Thread) (e : Entry) (rest : List Entry), AtVcp s tid t e rest →
  (∀ (m : Amo) (i pa : Nat), amoOf e.instr = some m → (vfmtTy e.cap.vfmt).bits = (if m.w64 then 64 else 32) →
    let bytes := if m.w64 then 8 else 4
    let w := 8 * bytes
    let n := nElems e.cap
    let addr (j : Nat) : Word := e.cap.xa + BitVec.ofNat 64 (elem t m.b.toNat w j * bytes)
    let operand (j : Nat) : Nat := elem t (m.b.toNat + 2 ^ (e.cap.vfmt.extractLsb' 4 2).toNat) w j
    let ea := addr i
    let old := natOfBytes (readBytes s.mem pa bytes)
    let v := operand i
    let cmp := elem t m.d.toNat w i
    let active (j : Nat) : Prop := e.k ≤ j ∧ j < n ∧ maskBit t m.p.toNat j = true
    let out (r : Req) : Prop := r.owner = t.uid ∧ ∃ q o x y, r.kind = .atom q o x y
    (e.begun = false → m.rl = true → releaseReady s t.uid e.uid = false → VcpWaits s tid) ∧
    (e.begun = true → active i → (∀ j, active j → i ≤ j) →
      (ea.toNat % bytes ≠ 0 → m.ret = true → handlerFree t → t.hold = .run → VecTraps s tid t e rest 0x04 ea i) ∧
      (ea.toNat % bytes = 0 → Reaches s (tid / 4) t ea bytes needRW pa →
        (m.ret = true → atomWaits s t e pa bytes = true → ∃ s', exec (.entryAtVcp tid) s = .next s' ∧ OnlyThread s s' tid ∧
          threadAt s' tid = some t) ∧
        (m.ret = true → atomWaits s t e pa bytes = false → ∃ s' u, exec (.entryAtVcp tid) s = .next s' ∧
          threadAt s' tid = some u ∧ (∀ j, j ≠ tid → threadAt s' j = threadAt s j) ∧
          u = { t with v := u.v, vext := u.vext, vq := { e with k := i + 1 } :: rest } ∧ elem u m.d.toNat w i = old ∧
          Holds s s' pa bytes (match m.op with
            | .add => (old + v) % 2 ^ w
            | .min => if signedOf w old ≤ signedOf w v then old else v
            | .max => if signedOf w old ≤ signedOf w v then v else old
            | .and => old &&& v | .or => old ||| v | .xor => old ^^^ v | .swap => v
            | .cas => if old = cmp then v else old
            | .fadd => roundTo .f32 .rne (fadd .rne (fvalOf .f32 old) (fvalOf .f32 v)) % 2 ^ w)))) ∧
    (m.ret = false → e.begun = true ∨ m.rl = false ∨ releaseReady s t.uid e.uid = true → active i → (∀ j, active j → i ≤ j) →
      ∀ at' : Nat → Nat, (∀ j, active j → (addr j).toNat % bytes = 0 ∧ Reaches s (tid / 4) t (addr j) bytes needRW (at' j)) →
      ∃ s', exec (.entryAtVcp tid) s = .next s' ∧ OnlyThread s s' tid ∧
        threadAt s' tid = some { t with vq := { e with begun := true, k := n } :: rest } ∧
        s'.inflight = s.inflight ++ (((span i n).filter (fun j => maskBit t m.p.toNat j)).zipIdx).map (fun (x : Nat × Nat) => {
          uid := s.uid + x.2, seq := e.uid, part := true, owner := t.uid, launch := t.launch, cluster := tid / 4, strong := true,
          kind := .atom (at' x.1) m.op m.w64 (BitVec.ofNat 64 (operand x.1)) })) ∧
    (e.begun = true → (∀ j, ¬ active j) →
      (m.aq = false ∨ (∀ r ∈ s.inflight, ¬ out r) → Completes s tid t rest) ∧
      (m.aq = true → (∃ r ∈ s.inflight, out r) → VcpWaits s tid))) ∧
  (∀ (d a b : Reg) (p : PReg) (cc : WCond) (w64 : Bool) (at' : Nat → Nat), e.instr = .vwtc d a b p cc w64 →
    (vfmtTy e.cap.vfmt).bits = (if w64 then 64 else 32) →
    let bytes := if w64 then 8 else 4
    let w := 8 * bytes
    let addr (i : Nat) : Word := e.cap.xa + BitVec.ofNat 64 (elem t b.toNat w i * bytes)
    let compared := e.eb.getD (BitVec.ofNat 64 (elem t d.toNat w 0))
    let c := compared.toNat % 2 ^ w
    let watched (i : Nat) : Prop := e.k ≤ i ∧ i < nElems e.cap ∧ maskBit t p.toNat i = true ∧ ¬ i ∈ e.sat
    let holds (i : Nat) : Prop :=
      let m := natOfBytes (readBytes s.mem (at' i) bytes)
      match cc with
      | .eq => m = c | .ne => m ≠ c | .ltu => m < c | .geu => c ≤ m
      | .lt => signedOf w m < signedOf w c | .ge => signedOf w c ≤ signedOf w m
    let ends (i : Instr) : Prop := ∃ s', exec i s = .next s' ∧ OnlyThread s s' tid ∧ threadAt s' tid = some { t with vq := rest }
    let watches (i : Instr) : Prop := ∃ (s' : State) (x : Entry), exec i s = .next s' ∧ OnlyThread s s' tid ∧
      threadAt s' tid = some { t with vq := { e with begun := true, eb := some compared, sat := x.sat, k := x.k } :: rest } ∧
      (∀ j, j ∈ x.sat ↔ j ∈ e.sat ∨ (watched j ∧ holds j)) ∧
      watched x.k ∧ ¬ holds x.k ∧ ∀ j, watched j → ¬ holds j → x.k ≤ j
    (e.begun = true → VcpWaits s tid) ∧
    ((∀ i, ¬ watched i) → (e.begun = false → ends (.entryAtVcp tid)) ∧ (e.begun = true → ends (.vwtcReread tid))) ∧
    (e.begun = false → (∃ i, watched i) → strongBefore s t e.uid = true → VcpWaits s tid) ∧
    (strongBefore s t e.uid = false →
      (∀ i, watched i → (addr i).toNat % bytes = 0 ∧ Reaches s (tid / 4) t (addr i) bytes needR (at' i)) →
      ((∀ i, watched i → holds i) → (e.begun = false → ends (.entryAtVcp tid)) ∧ (e.begun = true → ends (.vwtcReread tid))) ∧
      ((∃ i, watched i ∧ ¬ holds i) →
        (e.begun = false → watches (.entryAtVcp tid)) ∧ (e.begun = true → watches (.vwtcReread tid)))))

/-! ## Accumulation windows -/

/-- R182, R236, R257 to R260: accumulation windows. A grant of accw.upd adds each governed element i of its element group, inside the
box and not clipped, to copy i mod 64 of its slot and marks the slot dirty; every other byte of the scratchpad is as it was.
accw.clr leaves every copy zero and nothing dirty, and writes nothing; accw.mrge of a clean window only completes, of one with
dirty elements it issues, for each, the merge of its 64 copies, a strong access, and leaves them zero and clean. -/
def Obligations.AccumulationWindowsUpdateAndClear : Prop :=
  ∀ (s : State) (tid : Nat) (t : Thread) (e : Entry) (rest : List Entry) (d a b : Reg) (p : PReg) (h : HReg) (ty : ElemTy)
    (cl k g : Nat) (pa : Nat → Nat), AtVcp s tid t e rest → tabFind t.h d.toNat = some h → blkMode h.blk = 3 →
    tdType h.td = ty → ty = .s32 ∨ ty = .s64 ∨ ty = .f32 →
    let sp := (clusterOf s (tid / 4)).scratch
    let w := ty.bits
    let size := w / 8
    let clean : Thread := { t with h := tabPut t.h d.toNat { h with dirty := [] } }
    (e.instr = .accwClr d ty → ∃ s', CompletesTo s s' tid clean rest ∧
      s'.inflight = s.inflight ∧ ∀ l q, l < 64 → q < boxV h.blk →
        spRead (clusterOf s' (tid / 4)).scratch (copyByte h l q) size = 0) ∧
    (e.instr = .accwMrge d ty → h.dirty = [] → t.lost = none → Completes s tid t rest) ∧
    (e.instr = .accwMrge d ty → h.dirty ≠ [] → t.lost = none →
      let coord (x : Nat) := coordOfSlot h.comm.lo (boxW h.blk) x
      (∀ x ∈ h.dirty, isClipped h.td h.comm.limit (coord x) = false ∧ 0 ≤ elemVa h.td (coord x) ∧ elemVa h.td (coord x) < 2 ^ 52 ∧
        Reaches s (tid / 4) t (BitVec.ofInt 64 (elemVa h.td (coord x))) size needW (pa x)) →
      ∃ s', CompletesTo s s' tid clean rest ∧
        (∀ x ∈ h.dirty, ∀ l, l < 64 → spRead (clusterOf s' (tid / 4)).scratch (copyByte h l x) size = 0) ∧
        s'.inflight = s.inflight ++ (h.dirty.zipIdx).map (fun (x : Nat × Nat) => {
          uid := s.uid + x.2, seq := e.uid, part := true, owner := t.uid, launch := t.launch, cluster := tid / 4, strong := true,
          kind := .merge (pa x.1) ty ((List.range 64).map (fun l => BitVec.ofNat 64 (spRead sp (copyByte h l x.1) size))) })) ∧
    (SoleHolder s cl k g t e rest → tid = 4 * cl + k → e.instr = .accwUpd d a b p ty →
      let n := nElems e.cap
      let hi := min n ((e.k / (512 / w) + 1) * (512 / w))
      let act (i : Nat) : Prop := e.k ≤ i ∧ i < hi ∧ maskBit t p.toNat i = true
      let place (i : Nat) := indexCoord h (elem t a.toNat w i)
      let adds (i x : Nat) : Prop := act i ∧ ∃ c, place i = some c ∧ isClipped h.td h.comm.limit c = false ∧ slotOf (boxW h.blk) c = x
      let sum (old new : Nat) : Nat := if ty = .f32 then roundTo .f32 .rne (fadd .rne (fvalOf .f32 old) (fvalOf .f32 new))
        else (old + new) % 2 ^ w
      (∀ i, act i → (place i).isSome = true) →
      ∃ s' u l, exec (.issueGrant cl) s = .next s' ∧ OnlyThread s s' tid ∧ threadAt s' tid = some u ∧
        u = { t with h := u.h, vq := if n ≤ hi then rest else { e with k := hi } :: rest } ∧
        tabFind u.h d.toNat = some { h with dirty := l } ∧ (∀ x, x ∈ l ↔ x ∈ h.dirty ∨ ∃ i, adds i x) ∧
        (∀ j, j ≠ d.toNat → tabFind u.h j = tabFind t.h j) ∧
        (∀ i x, adds i x → spRead (clusterOf s' cl).scratch (copyByte h (i % 64) x) size =
          sum (spRead sp (copyByte h (i % 64) x) size) (elem t b.toNat w i)) ∧
        ∀ y, (∀ i x, adds i x → y < copyByte h (i % 64) x ∨ copyByte h (i % 64) x + size ≤ y) →
          tabGet 0 (clusterOf s' cl).scratch y = tabGet 0 sp y)

/-! ## Deliveries -/

/-- R169, R178, R181, R185, R285, R309: the residency engine. PAGE_WALK_COMPLETE ends a walk that has a walker and that nothing holds, a stopped router on its way among what does (log 67, DEDUCED),
caches the leaf where the access that started the walk may use it, gives a fetch that waits for the page its physical address, or
none, and every other access of the thread that has missed on the page what the walk found, with which it goes on (R285; log 8); FETCH_RETURN brings the element of a fetch that no watermark holds back, or a failure, to the delivery buffer, unless a
router has dropped it; DELIVERY_LANDING puts it into its slot once its marker has completed, and marks the slot of an element that
failed while it is in the box. That data lands, and a failure is dropped, where the element has left the box is log 27 (DEDUCED). -/
def Obligations.FetchesReturnAndLand : Prop :=
  ∀ (s : State) (tid n : Nat) (t : Thread) (h : HReg) (rc : Recomp) (f : Fetch), threadAt s tid = some t →
    tabFind t.h n = some h → t.recomps = [rc] → rc.h = n → rc.fetches = [f] →
    let cl := tid / 4
    let left : Thread := { t with recomps := [] }
    let size := tySize (tdType h.td)
    let span := if tdType h.td = .bpi then 32 * tdPlanes h.td else size
    let bits (pa : Nat) := if tdType h.td = .bpi then planesRead s.mem pa (bpiPos h.td f.coord) (tdPlanes h.td)
      else natOfBytes (readBytes s.mem pa size)
    let others := h.failed.filter (fun x => x.slot ≠ f.slot)
    let after (l : List FailedSlot) : Thread := { left with h := tabPut t.h n { h with failed := l } }
    let now (x : FetchState) : Thread := { t with recomps := [{ rc with fetches := [{ f with state := x }] }] }
    let lands (u : Thread) (s' : State) : Prop := exec (.deliveryLanding tid n f.id) s = .next s' ∧ OnlyThread s s' tid ∧
      threadAt s' tid = some u
    (∀ pa, f.state = .sent pa → f.share = none →
      (gated s h f = true ∨ f.id ∈ s.dropped → exec (.fetchReturn tid n f.id) s = .next s) ∧
      (gated s h f = false → bufferRoom s cl f size = true → cutOff s cl pa = false → ¬ f.id ∈ s.dropped →
        ∃ s', exec (.fetchReturn tid n f.id) s = .next s' ∧ OnlyThread s s' tid ∧ threadAt s' tid = some (now (
          if reaches s cl pa && !poisoned s pa span then .data (BitVec.ofNat 64 (bits pa)) else .bad)))) ∧
    (∀ x, f.state = .data x → rc.landing = true → x.toNat < 2 ^ (8 * size) → ∃ s', lands (after others) s' ∧
        spRead (clusterOf s' cl).scratch (slotByte h f.slot) size = x.toNat ∧
        (∀ y, y < slotByte h f.slot ∨ slotByte h f.slot + size ≤ y →
          tabGet 0 (clusterOf s' cl).scratch y = tabGet 0 (clusterOf s cl).scratch y)) ∧
    (rc.landing = false → exec (.deliveryLanding tid n f.id) s = .next s) ∧
    (f.state = .noPage ∨ f.state = .bad → rc.landing = true →
      (inBox h.comm.lo (boxW h.blk) f.coord = true → ∃ s', lands (after (others ++
        [{ slot := f.slot, va := BitVec.ofInt 64 f.va, poisoned := decide (f.state = .bad) }])) s') ∧
      (inBox h.comm.lo (boxW h.blk) f.coord = false → ∃ s', lands left s')) ∧
    (∀ (va : Word) (w : Walk), s.walks = [w] → w.cl = cl → w.ctx = t.ctx → w.page = va.toNat / 65536 →
      (walkHeld s w = true → exec (.pageWalkComplete cl t.ctx va) s = .next s) ∧
      (walkHeld s w = false → f.state = .walk → f.va.toNat / 65536 = w.page →
        (∀ j, j < 4 → 4 * cl + j ≠ tid → threadAt s (4 * cl + j) = none) →
        let found := walkLeaf s (some (tileOfCluster cl)) t.uid t.ctx (65536 * w.page)
        ∃ s', exec (.pageWalkComplete cl t.ctx va) s = .next s' ∧ OnlyThread s s' tid ∧ s'.walks = [] ∧
          threadAt s' tid = some (now (match found with
            | some (leaf, big) => if leafAllows leaf needR then .sent (forwardedPa s (leafPa 0 leaf big f.va.toNat)) else .noPage
            | none => .noPage)) ∧
          (∀ m ∈ (clusterOf s cl).missed, m.owner = t.uid → m.page = w.page → m.leaf = none →
            { m with leaf := some found } ∈ (clusterOf s' cl).missed) ∧
          ∀ leaf big, found = some (leaf, big) → leafAllows leaf w.need = true →
            tlbFind (clusterOf s cl).tlb t.ctx (65536 * w.page) = none →
            tlbFind (clusterOf s' cl).tlb t.ctx (65536 * w.page) = some (leaf, big)))

/-! ## Launching, the scheduler, pre-emption -/

/-- R239, R261 to R266, R270, R276, R288: launch queues. Enabling clears HEAD and TAIL and takes the ring; disabling fails every
record not yet taken; a bad TAIL is a queue error and changes nothing; a TAIL one beyond commits the next record of the
ring, which joins the queue with the next identifier when it passes its checks and fails with its outcome recorded when a
reserved field is not zero or it cannot be read. A record whose home does not answer or whose bytes are poisoned fails too (log 106,
DESIGN CHOICE); what counts as a reserved field is log 45 (DEDUCED), and that HEAD follows TAIL at the commit log 58 (DEDUCED). lnch commits a record from memory in the same way, once its page is translated through the cluster's
cache, `s1` being the state then (log 8); its bad operands trap. -/
def Obligations.LaunchQueuesCommitRecords : Prop :=
  let good (s : State) (ctx : Nat) (raw : List Byte) : Prop := recReserved raw = false ∧ (ctxRoot s ctx).isSome = true ∧
    recAddresses s ctx raw = true ∧ fieldAt raw 27 1 = 0
  (∀ (s : State) (q : BitVec 6) (ring value : Word) (raw : List Byte) (old : QRec), queueReach s q.toNat = true →
    hostQuiet s → s.fw.running ≠ some .ckpt → s.migration = none →
    let l := queueAt s q.toNat
    let ctx := ctxOfQueue s q.toNat
    let id := l.seq * 64 + q.toNat
    let stale (n : Nat) : Prop := (tabGet (0, LOut.completed) l.outcomes (n % 1024)).1 ≤ n
    let record := readVirt s 0 ctx (l.ring.toNat + 160 * (l.tail % 256)) 160
    let one : Prop := l.en = true ∧ value.toNat = l.tail + 1 ∧ value.toNat ≤ l.head + 256
    (∃ s', exec (.queueEnable q ring) s = .next s' ∧ s'.threads = s.threads ∧ s'.mem = s.mem ∧
      queueAt s' q.toNat = { l with en := true, head := 0, tail := 0, ring := ring } ∧
      ∀ j, j ≠ q.toNat → queueAt s' j = queueAt s j) ∧
    (∃ s', exec (.queueDisable q) s = .next s' ∧ s'.threads = s.threads ∧ (queueAt s' q.toNat).en = false ∧
      (queueAt s' q.toNat).recs = [] ∧ (l.recs = [old] → old.id % 64 = q.toNat → stale (old.id / 64) →
        tabFind (queueAt s' q.toNat).outcomes (old.id / 64 % 1024) = some (old.id / 64, .failed))) ∧
    (l.en = false ∨ value.toNat < l.tail ∨ l.head + 256 < value.toNat → exec (.hostTailWrite q value) s =
      .next (postEvent (countHere (hostFlits s 1) (controlBlock q.toNat)) 1 (queueDie q.toNat) (BitVec.ofNat 64 q.toNat)
        (BitVec.ofNat 64 0))) ∧
    (one → record = .bytes raw → good s ctx raw → ∃ s', exec (.hostTailWrite q value) s = .next s' ∧ s'.threads = s.threads ∧
      queueAt s' q.toNat = { l with
        seq := (l.seq + 1) % 2 ^ 58, head := l.tail + 1, tail := l.tail + 1,
        recs := l.recs ++ [{ id := id, ctx := ctx, device := false, raw := raw }] }) ∧
    (one → (record = .bytes raw ∧ recReserved raw = true) ∨ (∀ l', record ≠ .bytes l') → stale l.seq →
      ∃ s', exec (.hostTailWrite q value) s = .next s' ∧
        (queueAt s' q.toNat).recs = l.recs ∧ (queueAt s' q.toNat).tail = l.tail + 1 ∧
        tabFind (queueAt s' q.toNat).outcomes (l.seq % 1024) = some (l.seq, .failed))) ∧
  (∀ (s s1 : State) (q : BitVec 6) (raw : List Byte) (tid : Nat) (t : Thread) (e : Entry) (rest : List Entry) (a b : Reg),
    AtVcp s tid t e rest → e.instr = .lnch a b →
    let l := queueAt s q.toNat
    let ctx := ctxOfQueue s q.toNat
    let va := e.cap.xa.toNat
    (handlerFree t → t.hold = .run →
      (63 < e.cap.xb.toNat → VecTraps s tid t e rest 0x28 0 e.k) ∧
      (e.cap.xb.toNat ≤ 63 → va % 32 ≠ 0 → VecTraps s tid t e rest 0x28 1 e.k) ∧
      (e.cap.xb.toNat = q.toNat → va % 32 = 0 → l.en = false → VecTraps s tid t e rest 0x28 2 e.k)) ∧
    (e.cap.xb.toNat = q.toNat → va % 32 = 0 → l.en = true →
      (releaseReady s t.uid e.uid = false → VcpWaits s tid) ∧
      (releaseReady s t.uid e.uid = true → s.migration = none →
        touchRanges s (tid / 4) t.uid e.uid [⟨t.ctx, va, 160, needR⟩] = (true, s1) → readVirt s1 t.uid t.ctx va 160 = .bytes raw →
        (l.recs.filter (fun r => r.device)).length < 64 → readableVirt s1 0 ctx va 160 = true → good s1 ctx raw →
        ∃ s', exec (.entryAtVcp tid) s = .next s' ∧ threadAt s' tid = some { t with vq := rest } ∧
          (∀ j, j ≠ tid → threadAt s' j = threadAt s j) ∧ queueAt s' q.toNat = { l with
            seq := (l.seq + 1) % 2 ^ 58,
            recs := l.recs ++ [{ id := l.seq * 64 + q.toNat, ctx := ctx, device := true, raw := raw }] })))

/-- R35, R37, R44, R46, R47, R265, R266, R268, R270, R355, R356: the scheduler. A head that fails its checks ends, whatever waits for
room. Else it places the next gang group of a placed launch, or the candidate's first: each of its threads starts in its slot with its
save area, pc CODE, x1 ARG, x2 the flat index, x3 the launch identifier, every other register zero and an empty queue. A launch
with a gang group or a pinned level, one of whose groups could not stand on the empty device, fails before any thread is placed; a
candidate without room holds the scan. During a checkpoint nothing is placed. An entry of the retirement tracker stays until its
thread's operations have performed, and for a launch that RESTORE wrote back until its queue is enabled (log 57); the last one
of a launch completes it: the launch and its bindings and barriers are gone and its outcome is recorded. -/
def Obligations.LaunchesStartAndComplete : Prop :=
  let stale (s : State) (id : Nat) : Prop :=
    (tabGet (0, LOut.completed) (queueAt s (id % 64)).outcomes (id / 64 % 1024)).1 ≤ id / 64
  let outcome (s : State) (id : Nat) := tabFind (queueAt s (id % 64)).outcomes (id / 64 % 1024)
  (∀ (s : State) (q : Nat) (r : QRec) (rs : List QRec) (acc : PlaceAcc) (l : Launch) (code : Nat),
      let ls := levelsOf r.raw
      let checked : Prop := gangHeight ls ≠ 0 ∨ ∃ w ∈ ls, lvlPlace w = 2 ∧ offDevice w = false
      let fits : Prop := ∀ m ∈ atomStarts ls, fitsEmpty s ls m = true
      let starts (l : Launch) (what : State → Prop) : Prop := ∃ s', exec .schedulerPlace s = .next s' ∧ what s' ∧
        (∀ j, j ∉ acc.taken.map (fun (x : Nat × Nat × Option Nat) => x.1) → (threadAt s' j).map unkeyed = (threadAt s j).map unkeyed) ∧
        ∀ (i : Nat) (x : Nat × Nat × Option Nat) (area : Nat), acc.taken[i]? = some x → (freeAreas s l.ctx acc.taken.length)[i]? = some area →
          ∃ u, threadAt s' x.1 = some u ∧ u.launch = l.id ∧ u.ctx = l.ctx ∧ u.lgrp = x.2.2 ∧ u.area = area ∧
            u.flat = flatOf (levelsOf l.raw) (indexOf l.raw x.2.1) ∧
            u.pc = BitVec.ofNat 64 (fieldAt l.raw 0 8) ∧ rx u 1 = BitVec.ofNat 64 (fieldAt l.raw 8 8) ∧
            rx u 2 = BitVec.ofNat 64 u.flat ∧ rx u 3 = BitVec.ofNat 64 l.id ∧ (∀ i : Reg, 4 ≤ i.toNat → rx u i = 0) ∧
            (∀ n, rv u n = 0) ∧ (∀ n, n ≠ 0 → rp u n = 0) ∧ u.csr = {} ∧ u.vq = [] ∧ u.tq = [] ∧ u.hold = .run
      let fails : Prop := ∃ s', exec .schedulerPlace s = .next s' ∧ s'.threads = s.threads ∧ (queueAt s' q).recs = rs ∧
        outcome s' r.id = some (r.id / 64, .failed)
      (s.fw.running = some .ckpt → exec .schedulerPlace s = .next s) ∧
      (s.fw.running ≠ some .ckpt → failingHead s = some (q, code) → (queueAt s q).recs = r :: rs → r.id % 64 = q → stale s r.id →
        fails) ∧
      (s.fw.running ≠ some .ckpt → failingHead s = none → (acc.taken.map (fun x => x.1)).Nodup →
        (unfinished s = some l → roomFor s [] l = none → exec .schedulerPlace s = .next s) ∧
        (unfinished s = some l → roomFor s [] l = some acc → starts l (fun _ => True)) ∧
        (unfinished s = none → candidateOf s = some q → (queueAt s q).recs = r :: rs → s.migration = none →
          (checked → ¬ fits → r.id % 64 = q → stale s r.id → fails) ∧
          ((checked → fits) → roomFor s [] (launchOfRec s q r) = none → recPre r.raw = false →
            exec .schedulerPlace s = .next { s with candidate := some q }) ∧
          ((checked → fits) → roomFor s [] (launchOfRec s q r) = some acc →
            starts (launchOfRec s q r) (fun s' => (queueAt s' q).recs = rs))))) ∧
  (∀ (s : State) (cl : Nat) (c : Cluster) (r : Retired) (l : Launch), s.clusters = [(cl, c)] → c.tracker = [r] →
      r.remote = [] → s.migration = none →
      let quiet : Prop := (∀ x ∈ s.inflight, x.owner ≠ r.uid) ∧ (∀ p ∈ s.pubs, p.owner ≠ r.uid) ∧ r.lq = []
      (¬ quiet ∨ isParked s r.launch = true → exec (.retirementEntryFree cl 0) s = .next s) ∧
      (quiet → launchOf s r.launch = some l → l.parked = false → l.saved = [] → threadsHere (levelsOf l.raw) ≤ l.placed →
        (∀ x ∈ s.threads, x.2.launch ≠ r.launch) → stale s r.launch → ∃ s', exec (.retirementEntryFree cl 0) s = .next s' ∧
          (clusterOf s' cl).tracker = [] ∧ launchOf s' r.launch = none ∧ (∀ b ∈ s'.bindings, b.launch ≠ some r.launch) ∧
          (∀ b ∈ s'.barriers, b.launch ≠ r.launch) ∧ s'.threads = s.threads ∧
          outcome s' r.launch = some (r.launch / 64, .completed)))

/-- R269, R290 to R293: pre-emption. A thread that is to stop stops at an interrupt point with its registers kept and its
push copies the committed ones; one whose last push is a VAMO with AQ that has performed no element stops before it, unless a return
from a trap or a restore pushed it (log 22). Once its operations have performed it is saved: it leaves its cluster, and where the homes
of its save area answer its cluster's tile (R7, R10, R223, R312; log 37) its pc, x registers and CSRs, the records of its vector queue,
its residency registers, p registers and the changed element groups of its v registers stand at their offsets there; restoring it in a
slot reads them back and pushes its queue again, each entry under a new number (log 20). The model's choices: the records of the queue
stand after those of the held entries (log 96, DEDUCED), of which it keeps what the area has no place for beside the launch (`held`,
log 36, DESIGN CHOICE); releases that only saved link commands hold back are kept over the save (log 128, DESIGN CHOICE); a thread one
of whose packets a router has dropped neither stops nor is saved (log 98, DESIGN CHOICE); the engine waits where a router on its way
has stopped (log 67, DEDUCED). -/
def Obligations.PreemptionSavesAndRestores : Prop :=
  (∀ (s : State) (tid : Nat) (t : Thread), threadAt s tid = some t →
      let lost : Prop := t.hold = .lost ∨ ∃ e rest, t.vq = e :: rest ∧ e.uid ∈ s.dropped
      (t.stopReq = false ∨ t.stopped = true ∨ lost → exec (.threadStop tid) s = .next s) ∧
      (t.stopReq = true → t.stopped = false → ¬ lost → (clusterOf s (tid / 4)).seqRun ≠ some (tid % 4) →
        let fresh (e : Entry) : Prop := vamoAq e.instr = true ∧ e.again = false ∧
          ∀ m, amoOf e.instr = some m → ∀ j, e.cap.vesr.toNat ≤ j → j < e.k → maskBit t m.p.toNat j = false
        let stops (pc vesr : Word) (vq : List Entry) : Prop :=
          ∃ s' u, exec (.threadStop tid) s = .next s' ∧ OnlyThread s s' tid ∧ threadAt s' tid = some u ∧ u.stopped = true ∧
            canRun u = false ∧ u.pc = pc ∧ u.x = t.x ∧ u.csr = { t.csr with vesr := vesr } ∧ u.v = t.v ∧ u.p = t.p ∧
            u.kcomm = t.kcomm ∧ u.kpush = t.kcomm ∧ u.tq = t.tq ∧ u.latches = t.latches ∧
            u.vq = (vq ++ toPush t).map (fun e => { e with begun := false, sat := [] })
        (t.vq = [] → stops t.pc t.csr.vesr []) ∧
        (∀ e vq, t.vq = vq ++ [e] → ¬ fresh e → stops t.pc t.csr.vesr t.vq) ∧
        (∀ e vq, t.vq = vq ++ [e] → fresh e → stops e.cap.pc e.cap.vesr vq))) ∧
  (∀ (s : State) (tid : Nat) (t : Thread) (l : Launch), threadAt s tid = some t →
      let c := clusterOf s (tid / 4)
      let tile := tileOfCluster (tid / 4)
      let stuck : Prop := ∃ p ∈ areaParts c t, areaStuck s tile (t.area + p.1) p.2.length = true
      (t.stopped = false ∨ drained s t = false ∨ t.uid ∈ s.dropped ∨ stuck → exec (.contextSave tid) s = .next s) ∧
      (t.stopped = true → drained s t = true → ¬ t.uid ∈ s.dropped → ¬ stuck → launchOf s t.launch = some l →
        ∃ s' l' v', exec (.contextSave tid) s = .next s' ∧ threadAt s' tid = none ∧
          (∀ j, j ≠ tid → (threadAt s' j).map unkeyed = (threadAt s j).map unkeyed) ∧
          launchOf s' t.launch = some l' ∧ l'.saved = l.saved ++ [v'] ∧ v'.uid = t.uid ∧ v'.area = t.area ∧ v'.held = t.held ∧
          v'.rels = (s.releases.filter (fun r => r.owner = t.uid)).map (fun r => r.addr) ∧
          ((∀ a, t.area ≤ a → a < t.area + 2 ^ 22 → paExists s a = true ∧ upFrom s (some tile) a = true) →
            let stands (off : Nat) (l : List Byte) : Prop := readBytes s'.mem (t.area + off) l.length = l
            readWord s' (t.area + 0x18) = t.pc ∧
            (∀ i : Reg, readWord s' (t.area + 0x100 + 8 * i.toNat) = rx t i) ∧
            (∀ n, n < 16 → readWord s' (t.area + 0x200 + 8 * n) = (csrWords t.csr).getD n 0) ∧
            (∀ i e, t.held.length + i < 64 → t.vq[i]? = some e → stands (0x1000 + 128 * (t.held.length + i)) (vqRecord e)) ∧
            ((∀ x ∈ t.h, x.2.blk.length = 160 ∧ x.2.td.length = 64) → ∀ n, n < 8 → stands (0x4000 + 512 * n) (regRecord t n)) ∧
            (∀ n, n < 8 → stands (0x6000 + 2048 * n) (bytesOfNat 2048 (rp t n).toNat)) ∧
            ∀ n, n < 32 → tabGet 0 t.vext n ≤ 32 → stands (0x10000 + 2048 * n) (bytesOfNat (64 * tabGet 0 t.vext n) (rv t n).toNat)))) ∧
  (∀ (s : State) (tid : Nat) (l : Launch) (v : Saved) (acc : PlaceAcc) (lane : Option Nat), launchOf s l.id = some l →
      let tile := some (tileOfCluster (tid / 4))
      let word (off : Nat) : Word := readWord s (v.area + off)
      let number (off n : Nat) : Nat := natOfBytes (readBytes s.mem (v.area + off) n)
      (l.parked = true ∨ s.fw.running = some .ckpt → exec (.contextRestore l.id) s = .next s) ∧
      (l.saved = [v] → restorePlan s l v = none → exec (.contextRestore l.id) s = .next s) ∧
      (l.saved = [v] → l.parked = false → s.fw.running ≠ some .ckpt → restorePlan s l v = some acc →
        acc.taken = [(tid, savedNum l v, lane)] → (savedQueue s tile v).length ≤ 64 → v.lq.length ≤ 16 →
        (∀ r ∈ s.inflight, r.owner ≠ v.uid) → (∀ r ∈ s.releases, r.owner ≠ v.uid) →
        (∀ a, v.area ≤ a → a < v.area + 2 ^ 22 → upFrom s tile a = true) → (∀ n, n < 32 → number (0x380 + 4 * n) 4 ≤ 32) →
        (∀ e ∈ savedQueue s tile v, isMarker e.instr true = false ∧ hresReg e.instr = none ∧ ∀ x y, e.instr ≠ .kcntLink x y) →
        ∃ s' u l', exec (.contextRestore l.id) s = .next s' ∧ OnlyThreadRs s s' tid ∧ threadAt s' tid = some u ∧
          launchOf s' l.id = some l' ∧ l'.saved = [] ∧ u.uid = v.uid ∧ u.area = v.area ∧ u.launch = l.id ∧ u.held = v.held ∧
          u.pc = word 0x18 ∧ (∀ i : Reg, i ≠ 0 → rx u i = word (0x100 + 8 * i.toNat)) ∧
          (∀ n, n < 16 → (csrWords u.csr).getD n 0 = word (0x200 + 8 * n)) ∧ u.hold = .run ∧
          (∀ n, n < 32 → rv u n = BitVec.ofNat 16384 (number (0x10000 + 2048 * n) (64 * number (0x380 + 4 * n) 4))) ∧
          (∀ n, 1 ≤ n → n < 8 → rp u n = BitVec.ofNat 16384 (number (0x6000 + 2048 * n) 2048)) ∧
          u.h = savedRegs s tile v ∧
          u.vq.map (fun e => { e with uid := 0 }) =
            (savedQueue s tile v).map (fun e => { e with uid := 0, boxes := [], changed := false, again := true }) ∧
          u.stopReq = false ∧ u.stopped = false))

/-! ## Watermarks, links, collectives -/

/-- R51, R312, R319, R320, R321: publishing raises a watermark to the maximum of its value and the published one and changes no
other; the host publishes by writing it and sets it to 0 by a clear, which is refused with an event while a launch is bound to it; a
publication of a thread performs once its earlier writes have, unless a router on its way has stopped (log 67) or has dropped its
packet (log 98), and where it finds no way to its home the watermark stays. That only registers of threads on the device bind a
launch is log 91. -/
def Obligations.PublicationsRaiseAWatermark : Prop :=
  ∀ (s : State) (n : BitVec 8) (v : Word) (p : Pub),
    let w := n.toNat
    let rises (i : Instr) (v : Word) : Prop := ∃ s', exec i s = .next s' ∧ s'.threads = s.threads ∧ s'.mem = s.mem ∧
      (tabGet 0 s'.wmk w).toNat = max (tabGet 0 s.wmk w).toNat v.toNat ∧ ∀ j, j ≠ w → tabGet 0 s'.wmk j = tabGet 0 s.wmk j
    (hostQuiet s → hostWmk s w = true → rises (.hostWatermarkWrite n v) v ∧
      (wmkBound s w = false → ∃ s', exec (.hostWatermarkClear n) s = .next s' ∧ tabGet 0 s'.wmk w = 0 ∧
        s'.threads = s.threads ∧ s'.mem = s.mem ∧ ∀ j, j ≠ w → tabGet 0 s'.wmk j = tabGet 0 s.wmk j) ∧
      (wmkBound s w = true → exec (.hostWatermarkClear n) s =
        .next (postEvent (countWmk (hostFlits s 1) w) 1 (w % 160 / 40) (BitVec.ofNat 64 w) 3))) ∧
    (s.pubs.find? (fun x => x.uid = p.uid) = some p → p.wmk = w →
      let tile := tileOfOwner s p.owner
      let held : Prop := releaseReady s p.owner p.uid = false ∨ stuckTo s tile (wmkTile w) = true ∨ p.uid ∈ s.dropped
      (held → exec (.watermarkPublish p.uid) s = .next s) ∧
      (¬ held → ∃ s', exec (.watermarkPublish p.uid) s = .next s' ∧ s'.pubs = s.pubs.filter (fun x => x.uid ≠ p.uid) ∧ s'.mem = s.mem ∧
        (wmkFrom s tile w = true →
          (tabGet 0 s'.wmk w).toNat = max (tabGet 0 s.wmk w).toNat p.value.toNat ∧ ∀ j, j ≠ w → tabGet 0 s'.wmk j = tabGet 0 s.wmk j) ∧
        (wmkFrom s tile w = false → s'.wmk = s.wmk)))

/-- R235, R271, R336 to R341, R343, R344, R348: commands. A LINK or COLL entry whose checks pass takes a place in the link queue. A
local transfer of bytes that lie in one page lands them at its target and leaves the queue; link.lacq here joins the waiters of its
latch after the thread's earlier strong accesses, holds the latch when it is granted and then leaves; link.lrel frees the latch;
link.lsig sends a publication or arrives at a barrier. A command to a peer leaves through its port and ends with the answer. A peer's
transfer, publication or arrival performs here and is answered through its port. A collective whose elements are all there lands them
in DST and then writes its status with the bytes that landed; one that is lost ends with its code, a malformed block gives code 8,
and a message of an earlier use of its GID and SEQ is dropped, while one for a launch that this device has lost is refused (log 113,
DESIGN CHOICE); CODEBOOK_LOAD fills a bank for the COLL that waits. `s1` and `s2` are the states once the pages that a step touches stand
in the cluster's translations (R279; log 8, DESIGN CHOICE). The model's choices: link.lacq here waits for the thread's earlier strong
accesses (log 21, DEDUCED); a landing that writes poisoned granules whole succeeds (log 99, DEDUCED); what a packet to the far end of a
link names as its destination is a free value (log 54); a command whose packet a router has dropped takes no further step (log 98,
DESIGN CHOICE). -/
def Obligations.CommandsAndCollectivesPerform : Prop :=
  ∀ (s s1 s2 : State) (tid : Nat) (t : Thread) (e : Entry) (rest : List Entry) (d a b : Reg) (ch last : Bool) (ty : ElemTy)
    (desc group l : List Byte) (c : LCmd) (src dst : Nat) (port : Nat) (w : BitVec 8) (v ra : Word) (bar : Barrier)
    (gid : Word) (seq : IWord) (x : Coll) (blk : CollBlock) (code use : Nat) (reply : LinkReply), AtVcp s tid t e rest →
    let cl := tid / 4
    let here := some (tileOfCluster cl)
    let queued : Prop := ∃ s', exec (.entryAtVcp tid) s = .next s' ∧ OnlyThread s s' tid ∧ threadAt s' tid = some { t with
      vq := rest, lq := t.lq ++ [{ uid := e.uid, instr := e.instr, cap := e.cap, desc := desc, k := e.k, hnd := e.hnd }] }
    let coll : Prop := e.instr = .collAred a ty ∨ e.instr = .collRsct a ty ∨ e.instr = .collAgat a ty
    (t.lq.length < 16 → e.instr = .linkXfer d a b ch last ∨ e.instr = .linkLacq b ∨ e.instr = .linkLrel b ∨
        e.instr = .linkLsig b →
      (e.cap.xb.toNat % 64 ≠ 0 → handlerFree t → t.hold = .run → VecTraps s tid t e rest 0x29 0 e.k) ∧
      (e.cap.xb.toNat % 64 = 0 → touchRanges s cl t.uid e.uid [⟨t.ctx, e.cap.xb.toNat, 64, needR⟩] = (true, s1) →
        readVirt s1 t.uid t.ctx e.cap.xb.toNat 64 = .bytes desc → rdBad e.instr desc = false →
        fieldAt desc 0 2 = 0xFFFF ∨ (∃ p, routeOf s (fieldAt desc 0 2) = some p ∧ portDown s p = false) →
        e.cap.xd.toNat < 2 ^ 32 → fieldAt desc 32 8 = 0 → linkCh e.instr = false → queued)) ∧
    (t.lq.length < 16 → coll → touchColl s cl t e.uid e.cap.xa.toNat = (true, s1) → collCheck s1 t e = .ok desc group →
      ((bankOf s (gtGen group)).isSome = true → queued) ∧
      (bankOf s (gtGen group) = none → s.banks.length < 2 →
        touchRanges (keepGroup s1 t.launch (cdGroup desc) group) cl t.uid e.uid [⟨t.ctx, gtCb group, 512, needR⟩] = (true, s2) →
        readVirt s2 t.uid t.ctx (gtCb group) 512 = .bytes l → (∃ i, i < 256 ∧ sfieldAt l (2 * i) 2 ≠ 0) →
        ∃ s', exec (.codebookLoad tid) s = .next s' ∧ OnlyThread s s' tid ∧ threadAt s' tid = some t ∧
          s'.banks = s.banks ++ [{ gen := gtGen group, levels := (List.range 256).map (fun i => sfieldAt l (2 * i) 2) }])) ∧
    (c.uid ∈ s.dropped → s.threads = [(tid, t)] → t.lq = [c] → c.failed = 0 →
      exec (.linkCommandPerform c.uid reply) s = .next s) ∧
    (s.threads = [(tid, t)] → t.lq = [c] → s.migration = none → s.fw.running ≠ some .ckpt → c.failed = 0 →
      ¬ c.uid ∈ s.dropped → fieldAt c.desc 32 8 = 0 →
      let n := c.cap.xd.toNat
      let sa := c.cap.xa.toNat
      let ctx := fieldAt c.desc 3 1
      let da := fieldAt c.desc 8 8
      let kind := fieldAt c.desc 2 1
      let value := fieldAt c.desc 16 8
      let tag := BitVec.ofNat 56 (t.launch % 2 ^ 32 * 2 ^ 24 + t.flat % 2 ^ 24)
      let latch (p : Option Nat) : RemoteLatch := ⟨p, ctx, BitVec.ofNat 64 da⟩
      let performs (u : Thread) (what : State → Prop) : Prop := ∃ s', exec (.linkCommandPerform c.uid reply) s = .next s' ∧
        threadAt s' tid = some u ∧ what s'
      let near : Prop := fieldAt c.desc 0 2 = 0xFFFF
      let finds : Prop := touchRanges s cl t.uid c.uid [⟨ctx, da, 8, needRW⟩] = (true, s1) ∧
        xlateDirect s1 t.uid ctx da needRW = some dst ∧ upFrom s here dst = true ∧ poisoned s dst 8 = false
      (c.begun = false → c.joined = false → near →
        (c.instr = .linkXfer d a b false false → 0 < n → sa % 65536 + n ≤ 65536 → da % 65536 + n ≤ 65536 →
          touchRanges s cl t.uid c.uid [⟨t.ctx, sa, n, needR⟩, ⟨ctx, da, n, needW⟩] = (true, s1) →
          xlateDirect s1 t.uid t.ctx sa needR = some src → homesFrom s here src n = true → poisoned s src n = false →
          xlateDirect s1 t.uid ctx da needW = some dst → homesFrom s here dst n = true → staysPoisoned s dst n = false →
          performs { t with lq := [] } (fun s' => readBytes s'.mem dst n = readBytes s.mem src n ∧
            ∀ y, y < dst ∨ dst + n ≤ y → readByte s'.mem y = readByte s.mem y)) ∧
        (c.instr = .linkLacq b → (∀ y ∈ s.waiters, y.uid ≠ c.uid) →
          (strongOut s t.uid c.uid = true → performs t (fun s' => s' = s)) ∧
          (strongOut s t.uid c.uid = false → finds → waitersAt s (homeOf dst) < Config.waiterCap → performs t (fun s' =>
            s'.waiters = s.waiters ++ [{ pa := dst, uid := c.uid, tag := tag, sc := .sys, thread := none, ctx := ctx }]))) ∧
        (c.instr = .linkLrel b → releaseReady s t.uid c.uid = true → finds → latchHeld (readWord s dst) = true →
          latchTag (readWord s dst) = tag → performs { t with lq := [], remote := t.remote.erase (latch none) } (fun s' =>
            readWord s' dst = BitVec.ofNat 64 (4 * Scope.sys.code.toNat) ∧
            ∀ y, y < dst ∨ dst + 8 ≤ y → readByte s'.mem y = readByte s.mem y)) ∧
        (c.instr = .linkLsig b → kind = 2 → wmkUp s (fieldAt c.desc 5 1) = true → performs { t with lq := [{ c with begun := true }] }
          (fun s' => s'.pubs = s.pubs ++ [{ uid := c.uid, owner := t.uid, launch := t.launch, wmk := fieldAt c.desc 5 1,
                                            value := BitVec.ofNat 64 value }])) ∧
        (c.instr = .linkLsig b → kind = 3 → releaseReady s t.uid c.uid = true →
          let lvl := fieldAt c.desc 4 1
          barrierReached s here da lvl value = true → barrierOf s da lvl value = some bar →
          performs { t with lq := [] } (fun s' => barrierOf s' da lvl value = some (arriveOne s none bar)))) ∧
      (∀ y : Waiter, s.waiters.find? (fun x => x.pa = dst) = some y → y.uid = c.uid → y.thread = none → y.port = none →
        homeUp s dst = true → poisoned s dst 8 = false → latchHeld (readWord s dst) = false →
        ∃ s', exec (.latchGrant dst) s = .next s' ∧ s'.waiters = s.waiters.erase y ∧
          readWord s' dst = BitVec.ofNat 64 (y.tag.toNat * 256 + 4 * y.sc.code.toNat + 1) ∧
          threadAt s' tid = some { t with remote := t.remote ++ [latch none],
                                          lq := [{ c with joined := true, broken := latchBroken (readWord s dst) }] }) ∧
      (c.joined = true → isColl c.instr = false → performs { t with lq := [] } (fun s' => s'.mem = s.mem)) ∧
      (¬ near → routeOf s (fieldAt c.desc 0 2) = some port → port < 25 → portDown s port = false →
        wayTo s here (tileOfPort port) = true → stuckTo s here (tileOfPort port) = false →
        let leaves (cmd : RemoteCmd) : Prop := performs { t with lq := [{ c with begun := true, via := some port }] } (fun s' =>
          s'.mem = s.mem ∧ s'.portOut = s.portOut ++
            [(port, .flit (fieldAt c.desc 0 2) (tabGet {} s.ports port).rxSeq (.command c.uid cmd))])
        let target := BitVec.ofNat 64 da
        (c.begun = false → c.joined = false →
          (c.instr = .linkXfer d a b false last → touchRanges s cl t.uid c.uid [⟨t.ctx, sa, n, needR⟩] = (true, s1) →
            readVirt s1 t.uid t.ctx sa n = .bytes l → leaves (.xfer ctx target l 0xFFFFFFFF)) ∧
          (c.instr = .linkLacq b → leaves (.lacq ctx target tag)) ∧
          (releaseReady s t.uid c.uid = true →
            (c.instr = .linkLrel b → leaves (.lrel ctx target tag)) ∧
            (c.instr = .linkLsig b → kind = 2 →
              leaves (.publish (BitVec.ofNat 8 (fieldAt c.desc 5 1)) (BitVec.ofNat 64 value))) ∧
            (c.instr = .linkLsig b → kind ≠ 2 → leaves (.arrive target (fieldAt c.desc 4 1) (BitVec.ofNat 64 value))))) ∧
        (c.begun = true → c.joined = false →
          (c.instr = .linkXfer d a b ch last ∨ c.instr = .linkLsig b → performs { t with lq := [] } (fun s' => s'.mem = s.mem)) ∧
          (c.instr = .linkLacq b → reply.code = 1 ∨ reply.code = 6 →
            performs { t with lq := [], remote := t.remote ++ [latch c.via] } (fun s' => s'.mem = s.mem)) ∧
          (c.instr = .linkLrel b → reply.code = 1 →
            performs { t with lq := [], remote := t.remote.erase (latch c.via) } (fun s' => s'.mem = s.mem))))) ∧
    (∀ (p : CollPart) (out : List IWord), s.threads = [(tid, t)] → t.lq = [c] → s.migration = none → isColl c.instr = true →
      c.joined = true → c.failed = 0 → ¬ c.uid ∈ s.dropped → s.colls = [x] → x.parts = [p] → p.cmd = c.uid → advanceColl s x.gid x.seq = s →
      let status := fieldAt c.desc 40 8
      let ends (s0 : State) (code : Byte) (n : Nat) : Prop := ∃ s', exec (.linkCommandPerform c.uid reply) s = .next s' ∧
        threadAt s' tid = some { t with lq := [] } ∧
        s'.mem = (writeVirt s0 t.uid t.ctx status ([code, 0, 0, 0] ++ bytesOfNat 4 0 ++ bytesOfNat 8 n)).1.mem ∧
        ((levelMembers x 0).length = 1 → s'.colls = [])
      status ≠ 0 →
      (x.code ≠ 0 → touchRanges s cl t.uid c.uid [⟨t.ctx, status, 16, needW⟩] = (true, s1) → ends s1 (BitVec.ofNat 8 x.code) 0) ∧
      (x.code = 0 → outcomeOf x p.rank = some out →
        let bytes := out.flatMap (fun v => bytesOfNat (x.ty.bits / 8) v.toNat)
        touchRanges s cl t.uid c.uid [⟨t.ctx, p.dst.toNat, bytes.length, needW⟩, ⟨t.ctx, status, 16, needW⟩] = (true, s1) →
        bytes.length < 2 ^ 64 →
        let landed := writeVirt s1 t.uid t.ctx p.dst.toNat bytes
        ends landed.1 (landCode s1 (localOrigin s1 t.uid) t.ctx p.dst.toNat bytes.length) landed.2)) ∧
    (portDown s port = false →
      let from' := portOrigin port
      let answers (cmd : RemoteCmd) (r : LinkReply) (what : State → Prop) : Prop := arrivalStuck s from' cmd = false → ∃ s1 s',
        exec (.remoteCommandReceive port cmd) s = .next s' ∧ s' = sendPacket s1 port (.reply s.uid r) ∧
        s1.portOut = s.portOut ∧ (port < 25 → s'.portOut = s.portOut ++
          [(port, .flit (Config.farEnd port) (tabGet {} s.ports port).rxSeq (.reply s.uid r))]) ∧
        s'.threads = s.threads ∧ what s'
      let done : LinkReply := { code := 1, run := 0, bytes := 0 }
      (wmkFrom s from'.tile w.toNat = true → answers (.publish w v) done (fun s' =>
        (tabGet 0 s'.wmk w.toNat).toNat = max (tabGet 0 s.wmk w.toNat).toNat v.toNat)) ∧
      (∀ launch group : Word, ∀ lvl, barrierOf s launch.toNat lvl group.toNat = some bar →
        barrierReached s from'.tile launch.toNat lvl group.toNat = true → answers (.arrive launch lvl group) done (fun s' =>
          barrierOf s' launch.toNat lvl group.toNat = some (arriveOne s none bar))) ∧
      (∀ ctx run, (tabGet {} s.ports port).inj = 0 → s.migration = none → l ≠ [] →
        ra.toNat % 65536 + l.length ≤ 65536 → xlateVia s from' ctx ra.toNat needW = some dst →
        homesFrom s from'.tile dst l.length = true → staysPoisoned s dst l.length = false →
        answers (.xfer ctx ra l run) { code := 1, run := crcUpdate run l, bytes := BitVec.ofNat 64 l.length } (fun s' =>
          readBytes s'.mem dst l.length = l ∧
          ∀ y, y < dst ∨ dst + l.length ≤ y → readByte s'.mem y = readByte s.mem y))) ∧
    (collOf s gid seq = some x → x.code = 0 → portDown s port = false → port < 29 →
      let takes (m : CollMsg) (what : State → Prop) : Prop := ∃ s', exec (.collBlockReceive ⟨port, use, m⟩) s = .next s' ∧ what s'
      let ends (m : CollMsg) (n : Nat) : Prop := takes m (fun s' => ∃ y, collOf s' gid seq = some y ∧ y.code = n)
      (∀ g, lostTable s gid = some g → use = useOf s (gid, seq) →
        takes (.lost gid seq code) (fun s' => s'.colls = s.colls ∧ useOf s' (gid, seq) = use + 1)) ∧
      (lostTable s gid = none → useOf s (gid, seq) ≤ use →
        ends (.lost gid seq code) code ∧ (blk.gid = gid → blk.seq = seq → blockOk blk = false → ends (.block blk) 8)) ∧
      (use < useOf s (gid, seq) → takes (.lost gid seq code) (fun s' => s'.colls = s.colls)))

/-- R345 to R347: the arithmetic of collectives. An element enters the sum as rne of x × 2^−E within ±2^50, NaN and
infinities as flags; sums are exact and hold in any order; the result is rne of S × 2^E, or what the flags give. A level is
sent in blocks of 32 with the least SH, bs16 payloads rne(S ÷ 2^SH) and bs8 payloads the code nearest to S, a tie to the
smaller magnitude and then the lower code; blocks decode exactly, and the error fed back is S less what was decoded. -/
def Obligations.CollectiveSumsAreExact : Prop :=
  let nearest (m : Nat) (k : Int) (r : Nat) : Prop := (0 ≤ k ∧ r = m * 2 ^ k.toNat) ∨
    (k < 0 ∧ let d : Nat := 2 ^ (-k).toNat
      let off := ((r * d : Nat) - (m : Int)).natAbs
      2 * off ≤ d ∧ (2 * off = d → r % 2 = 0))
  let signed (neg : Bool) (r : Nat) : Int := if neg then -(r : Int) else r
  (∀ (ty : ElemTy) (ex : Int) (bits : Nat),
    (∀ neg m e, fvalOf ty bits = .fin neg m e → ∃ r, nearest m (e - ex) r ∧
      injectElem ty ex bits = { s := signed neg (min r (2 ^ 50)) }) ∧
    (fvalOf ty bits = .nan → injectElem ty ex bits = { nan := true }) ∧
    (∀ neg, fvalOf ty bits = .inf neg → injectElem ty ex bits = { pinf := !neg, ninf := neg })) ∧
  (∀ a b c : CSum, a.add b = b.add a ∧ (a.add b).add c = a.add (b.add c)) ∧
  (∀ (c : Coll) (l : List CollPart), l.Perm c.parts → levelZero { c with parts := l } = levelZero c) ∧
  (∀ (ty : ElemTy) (ex : Int) (c : CSum), resultOf ty ex c = BitVec.ofNat 32 (
    if c.nan = true ∨ (c.pinf = true ∧ c.ninf = true) then producedNan ty
    else if c.pinf = true then infinityOf ty
    else if c.ninf = true then 2 ^ (ty.bits - 1) + infinityOf ty
    else roundTo ty .rne (.fin (decide (c.s < 0)) c.s.natAbs ex))) ∧
  (∀ (gid : Word) (seq : IWord) (l m kind : Nat) (cb : List Int) (sums : List CSum), kind = 1 ∨ kind = 2 →
    (kind = 2 → cb.length = 256 ∧ ∃ v ∈ cb, v ≠ 0) → (∀ c ∈ sums, c.s.natAbs < 2 ^ 63) →
    let bs := compress gid seq l m kind cb sums
    let top := if kind = 1 then 32767 else (cb.map (fun v => v.natAbs)).foldl max 0
    bs.length = (sums.length + 31) / 32 ∧ ∀ i, i < bs.length → ∃ (b : CollBlock) (sh : Nat), bs[i]? = some b ∧
      let part := (sums.drop (32 * i)).take 32
      let h := b.header.toNat
      b.gid = gid ∧ b.seq = seq ∧ b.level = l ∧ b.member = m ∧ b.first = 32 * i ∧ b.payload.length = part.length ∧
      (∀ c ∈ part, c.s.natAbs ≤ top * 2 ^ sh) ∧ (∀ j, j < sh → ∃ c ∈ part, top * 2 ^ j < c.s.natAbs) ∧
      bitsOf h 0 6 = sh ∧ bitsOf h 6 5 + 1 = part.length ∧ bitsOf h 14 2 = kind ∧
      (bitsOf h 11 1 = 1 ↔ ∃ c ∈ part, c.nan = true) ∧ (bitsOf h 12 1 = 1 ↔ ∃ c ∈ part, c.pinf = true) ∧
      (bitsOf h 13 1 = 1 ↔ ∃ c ∈ part, c.ninf = true) ∧
      ∀ (j : Nat) (c : CSum) (x : BitVec 16), part[j]? = some c → b.payload[j]? = some x →
        (kind = 1 → (∃ r, nearest c.s.natAbs (-(sh : Int)) r ∧ x.toInt = signed (decide (c.s < 0)) r) ∧
          ((decodeBlock cb b)[j]?).map (fun y => y.s) = some (x.toInt * 2 ^ sh)) ∧
        (kind = 2 → x.toNat < 256 ∧ ((decodeBlock cb b)[j]?).map (fun y => y.s) = some (cb.getD x.toNat 0 * 2 ^ sh) ∧
          let far (y : Nat) : Nat := (c.s - cb.getD y 0 * 2 ^ sh).natAbs
          let size (y : Nat) : Nat := (cb.getD y 0).natAbs
          ∀ y, y < 256 → far x.toNat < far y ∨ (far x.toNat = far y ∧
            (size x.toNat < size y ∨ (size x.toNat = size y ∧ x.toNat ≤ y))))) ∧
  (∀ (s : State) (c : Coll) (l dst : Nat) (sums : List CSum) (p : CollPart) (e : List Int),
    levelKind c l = 2 → levelRoot c l = Config.collOrdinal c.gid → levelSum s c (l - 1) = some sums →
    feedback s c = .entries p e → sums.length = c.count → e.length = c.count → p.efb.toNat % 65536 + 8 * c.count ≤ 65536 →
    xlateDirect s p.owner c.ctx p.efb.toNat needW = some dst → homesFrom s (tileOfOwner s p.owner) dst (8 * c.count) = true →
    let fed := (List.range c.count).map (fun i => { sums.getD i {} with s := (sums.getD i {}).s + e.getD i 0 })
    let dec := (compress c.gid c.seq l (Config.collOrdinal c.gid) 2 (collCb s c) fed).flatMap (decodeBlock (collCb s c))
    ∀ i, i < c.count → readWord (contribute s c l) (dst + 8 * i) = BitVec.ofInt 64 ((fed.getD i {}).s - (dec.getD i {}).s))

/-! ## Power, host accesses, command blocks, ports -/

/-- R16, R17, R18, R332, R333, R358: POWER takes modes 0 to 2 and ignores 3; a die takes up the selected mode by itself; a
change posts a power-mode event, with cause 1 when it comes from leaving the coolant limits, which moves the device to Capped;
the thermal halt ends every launch without a status write and sets STATE to 4 (log 56: what it clears and keeps). No mode
change touches a thread or memory. While a checkpoint runs a write of POWER waits for no other write that is held. -/
def Obligations.PowerModesAndThermalHalt : Prop :=
  ∀ (s : State) (value : Word) (die off : Nat),
    let m := (value.extractLsb' 0 2).toNat
    let taken : Prop := hostQuiet s ∨ (hostReach s = true ∧ s.fw.running = some .ckpt ∧ ∀ x ∈ s.posted, writesPower x.op = false)
    (taken → exec (.powerWrite value) s = .next (if m = 3 ∨ m = s.power then hostFlits s 1
      else postEvent { hostFlits s 1 with power := m } 5 0 (BitVec.ofNat 64 m) 0)) ∧
    (taken → m ≠ 3 → ∃ s', exec (.powerWrite value) s = .next s' ∧ s'.power = m ∧ s'.dieMode = s.dieMode ∧
      s'.threads = s.threads ∧ s'.mem = s.mem) ∧
    (die < 4 → ∃ s', exec (.powerModeApply die) s = .next s' ∧ s' = { s with dieMode := s'.dieMode } ∧
      ∀ d, tabGet 0 s'.dieMode d = if d = die then s.power else tabGet 0 s.dieMode d) ∧
    (die < 4 → exec (.coolantLimitExit die) s =
      .next (if s.power = 2 then s else postEvent { s with power := 2 } 5 die 2 1)) ∧
    (∃ s', exec .thermalHalt s = .next s' ∧ s'.threads = [] ∧ s'.launches = [] ∧ s'.inflight = [] ∧ s'.fw.state = 4 ∧
      s'.mem = s.mem ∧ s'.events = s.events ∧ s'.wmk = s.wmk ∧
      drv s' off = if off = 0x4000 ∨ off = 0x5000 then 0 else drv s off)

/-- R13, R239, R321, R330 to R332, R342, R350, R355: what the host reads and writes, for memory ranges inside one 256-byte
granule of slice SRAM that hold no control block. A posted write is received, and performs at its home (log 51), or at the new home of
a page that has moved (R287; log 55), once the writes that it must follow have and no checkpoint runs; it waits while a router on its
way has stopped (log 67, DEDUCED), and what was bound for a tile fenced since is lost (R313). A read waits for earlier writes without
Relaxed Ordering, and answers the bytes there, poisoned or not (log 52, which has BAR2 answer before bring-up too), completer abort
where the home is not reached, or unsupported request at an address that does not exist; a watermark reads as its value. A driver-area
write sets the register as its layout allows; PORTCTL clears a port's fault and nothing more (log 53, DEDUCED); an injector takes a
write while it is not armed. Nothing but the configuration space answers while the host port is fenced; that bar 6 names that space is
log 68. -/
def Obligations.HostAccessesReachMemory : Prop :=
  ∀ (s : State) (bar off len uid : Nat) (l : List Byte) (relaxed : Bool) (reg value : Word) (w port : Nat)
    (before after : List HostReq) (gone : List Nat),
    let at' := forwardedPa s off
    let reads (bar off len : Nat) (r : HostDone) : Prop := ∃ s', exec (.hostNonpostedRead bar off len) s = .next s' ∧
      s'.hostReads = s.hostReads ++ [r] ∧ s'.mem = s.mem ∧ s'.threads = s.threads
    let o := reg.toNat
    let op := HostOp.write 2 off l relaxed
    let plain (n : Nat) : Prop := 0 < n ∧ off % 256 + n ≤ 256 ∧ rangesMeet off n (controlBlock 0) 4096 = false
    (hostReach s = false → (bar ≠ 6 → exec (.hostPostedWrite bar off l relaxed) s = .next s) ∧
      exec (.driverAreaWrite reg value) s = .next s ∧ exec (.injWrite port value) s = .next s ∧
      exec (.portctlEnable port true) s = .next s) ∧
    exec (.hostPostedWrite 6 off l relaxed) s = .next (dvsecWrite s off (natOfBytes l)) ∧
    reads 6 0x10 4 (.data (bytesOfNat 4 (s.fw.state % 16 + 256 * (s.fw.err % 256) + 65536 * (!hostReach s).toNat))) ∧
    (hostReach s = true → off < 2 ^ 34 → exec (.hostPostedWrite 2 off l relaxed) s = .next (receiveHost (hostFlits s 1) op)) ∧
    (s.posted = before ++ ⟨uid, op, gone⟩ :: after → (∀ x ∈ before, x.uid ≠ uid) → (∀ r ∈ s.inflight, r.uid ≠ uid) →
      (s.fw.running = some .ckpt ∨ (∃ x ∈ before, hostPrecedes x.op op = true) → exec (.sliceRequest uid) s = .next s) ∧
      (windowStuck s 2 off l.length = true → exec (.sliceRequest uid) s = .next s) ∧
      (s.fw.running ≠ some .ckpt → (∀ x ∈ before, hostPrecedes x.op op = false) → windowStuck s 2 off l.length = false →
        plain l.length →
        off < Config.sramEnd → hostUp s off = true → ∃ s', exec (.sliceRequest uid) s = .next s' ∧ s'.threads = s.threads ∧
        (∀ x, x ∈ s'.posted ↔ x ∈ s.posted ∧ x.uid ≠ uid) ∧
        (tileOfSlice (homeOf off) ∈ gone → s'.mem = s.mem) ∧
        (¬ tileOfSlice (homeOf off) ∈ gone →
          (∀ a, readByte s'.mem a = if at' ≤ a ∧ a < at' + l.length then l.getD (a - at') 0 else readByte s.mem a) ∧
          ∀ g, g ∈ s'.poison ↔ g ∈ s.poison ∧ ¬ (at' ≤ 32 * g ∧ 32 * g + 32 ≤ at' + l.length)))) ∧
    (hostReach s = true → bar ≠ 6 → (∃ x ∈ s.posted, isHostWrite x.op = true ∧ isRelaxed x.op = false) →
      exec (.hostNonpostedRead bar off len) s = .next (receiveHost (hostFlits s 1) (.read bar off len))) ∧
    (hostQuiet s → plain len →
      (off < Config.sramEnd → hostUp s off = true →
        reads 2 off len (.data ((List.range len).map (fun i => readByte s.mem (forwardedPa s (off + i)))))) ∧
      (off < Config.sramEnd → hostUp s off = false → reads 2 off len .abort) ∧
      (Config.sramEnd ≤ off → off < 2 ^ 34 → reads 2 off len .unsupported)) ∧
    (hostQuiet s → s.fw.up = true → w < 256 → hostWmk s w = true →
      reads 0 (0x20000 + 8 * w) 8 (.data (bytesOfNat 8 (tabGet 0 s.wmk w).toNat))) ∧
    (hostQuiet s → o % 8 = 0 →
      (o = 0x6000 → exec (.driverAreaWrite reg value) s = .next (setDrv (hostFlits s 1) o (value &&& ~~~0xFFFFFFFFF#64))) ∧
      (0x10000 ≤ o ∧ o < 0x10840 ∨ 0x11000 ≤ o ∧ o < 0x13000 →
        exec (.driverAreaWrite reg value) s = .next (setDrv (hostFlits s 1) o value)) ∧
      (0x4008 ≤ o → o < 0x4020 → exec (.driverAreaWrite reg value) s =
        .next (if s.inval.isSome then hostFlits s 1 else setDrv (hostFlits s 1) o value)) ∧
      (0x5008 ≤ o → o < 0x5020 → exec (.driverAreaWrite reg value) s =
        .next (if s.migrate.isSome then hostFlits s 1 else setDrv (hostFlits s 1) o value))) ∧
    (hostQuiet s → 25 ≤ port → port < 29 → ∃ s', exec (.portctlEnable port true) s = .next s' ∧
      drv s' (0x14000 + 1024 * (port - 25)) = 1 ∧
      (∀ j, tabGet {} s'.ports j = if j = port then { tabGet {} s.ports port with fault := false } else tabGet {} s.ports j) ∧
      s' = { hostFlits s 1 with driver := s'.driver, ports := s'.ports }) ∧
    (hostQuiet s → port < 29 →
      ((tabGet {} s.ports port).inj.getLsbD 63 = true → exec (.injWrite port value) s = .next (hostFlits s 1)) ∧
      ((tabGet {} s.ports port).inj.getLsbD 63 = false → ∃ s', exec (.injWrite port value) s = .next s' ∧
        (∀ j, tabGet {} s'.ports j = if j = port then { tabGet {} s.ports port with inj := value &&& 0x800000000007FFFF }
          else tabGet {} s.ports j) ∧ s' = { hostFlits s 1 with ports := s'.ports }))

/-- R286, R287, R334: INVAL and MIGRATE. GO set starts a command unless one runs; after INVAL no cluster holds a translation
of the range, and the command is done once every access that may have used an old one has performed; MIGRATE moves the page's
bytes to the new backing, forwards the accesses on their way to it, and what else reaches the old one, table reads included (log 55),
and stores NEWPTE when none of these is left; with a home down, or one that the data does not get to, it changes nothing, and it waits
where a router on the way has stopped (log 67, DEDUCED); done, GO is cleared with ERR in one word. -/
def Obligations.CommandBlocksMovePages : Prop :=
  ∀ (s : State) (b : BlockRun) (m : Move) (a cl : Nat) (old : Word) (big : Bool),
    let ictx := (drv s 0x4008).toNat
    let from' := (drv s 0x4010).toNat
    (hostQuiet s →
      (s.inval.isSome = true → exec .invalCommand s = .next (hostFlits s 1)) ∧
      (s.inval = none → ∃ s', exec .invalCommand s = .next s' ∧ drv s' 0x4000 = 1 ∧
        s'.inval = some ⟨s.uid + 1, invalErr s⟩ ∧ s'.threads = s.threads ∧ s'.mem = s.mem ∧
        (invalErr s = 0 → (∀ x ∈ (clusterOf s cl).tlb, x.big = true → x.va % 2 ^ 24 = 0) →
          ∀ v, from' ≤ v → v < from' + 65536 * (drv s 0x4018).toNat → tlbFind (clusterOf s' cl).tlb ictx v = none)) ∧
      (s.migrate.isSome = true → exec .migrateCommand s = .next (hostFlits s 1)) ∧
      (s.migrate = none → ∃ s', exec .migrateCommand s = .next s' ∧ drv s' 0x5000 = 1 ∧
        s'.migrate = some ⟨s.uid + 1, migrateErr s⟩ ∧ s'.threads = s.threads ∧ s'.mem = s.mem ∧
        s'.migration = if migrateErr s = 0 then
          some { ctx := (drv s 0x5008).toNat, va := drv s 0x5010, leaf := drv s 0x5018 } else s.migration)) ∧
    (s.inval = some b →
      (b.err = 0 → oldAccesses s ictx b.mark = true → exec (.commandBlockDone false) s = .next s) ∧
      (b.err ≠ 0 ∨ oldAccesses s ictx b.mark = false → ∃ s', exec (.commandBlockDone false) s = .next s' ∧
        s'.inval = none ∧ drv s' 0x4000 = BitVec.ofNat 64 (256 * b.err) ∧
        s' = { s with inval := none, driver := s'.driver })) ∧
    (s.migration = some m → leafPlace s m.ctx m.va.toNat = some (a, old, big) →
      let n := if big then 2 ^ 24 else 65536
      let source := leafPa 0 old big m.va.toNat
      let target := leafPa 0 m.leaf big m.va.toNat
      let up : Prop := homesUp s source n = true ∧ homesUp s target n = true ∧ copyLost s source target n = false
      let moved : Move := { m with moved := true, old := source, new := target, size := n,
                                   forwarded := (accessesTo s source n).map (fun x => x.1) }
      let after : State := { movePage s source target n with migration := some moved }
      let ends (s' : State) (at' : Nat) : Prop := s'.migration = none ∧ readBytes s'.mem at' 8 = bytesOfNat 8 m.leaf.toNat
      (m.moved = false → up → copyStuck s source target n = true → exec .migrationComplete s = .next s) ∧
      (m.moved = false → up → copyStuck s source target n = false →
        (accessesTo s source n = [] → leafPlace after m.ctx m.va.toNat = some (a, old, big)) →
        let at' := forwardedPa after a
        ∃ s', exec .migrationComplete s = .next s' ∧
        (accessesTo s source n ≠ [] → s'.migration = some moved) ∧
        (accessesTo s source n = [] → ends s' at') ∧
        (at' + 8 ≤ target ∨ target + n ≤ at' → readBytes s'.mem target n = readBytes s.mem source n) ∧
        ∀ x, x < target ∨ target + n ≤ x → x < at' ∨ at' + 8 ≤ x → readByte s'.mem x = readByte s.mem x) ∧
      (m.moved = false → ¬ up → exec .migrationComplete s = .next { s with
        migration := none, migrate := s.migrate.map (fun (b : BlockRun) => { b with err := 4 }) }) ∧
      (m.moved = true → (∃ u ∈ m.forwarded, stillOut s u = true) → exec .migrationComplete s = .next s) ∧
      (m.moved = true → (∀ u ∈ m.forwarded, stillOut s u = false) → m.old % 256 = 0 → m.new % 256 = 0 →
        let at' := forwardedPa s a
        ∃ s', exec .migrationComplete s = .next s' ∧ ends s' at' ∧
        ∀ x, x < at' ∨ at' + 8 ≤ x → readByte s'.mem x = readByte s.mem x)) ∧
    (s.migrate = some b →
      (s.migration.isSome = true → exec (.commandBlockDone true) s = .next s) ∧
      (s.migration = none → ∃ s', exec (.commandBlockDone true) s = .next s' ∧ s'.migrate = none ∧
        drv s' 0x5000 = BitVec.ofNat 64 (256 * b.err) ∧ s' = { s with migrate := none, driver := s'.driver }))

/-- R225, R329, R330, R338: ports and memory errors. A good flit is taken, its acknowledgement frees what it covers, and it is the next
that this port acknowledges; what a short-reach port sends names its destination and acknowledges what has arrived; the expected frame is
taken; a bad flit is dropped and asked for again by its number (log 54); at the partner's call a short-reach port sends the packet that carries the
flit of that number, reading a transfer's source again; a frame beyond a gap calls for a resend from the expected number; a call of
the partner has every frame from that number on sent again; an acknowledgement, which this port answers with its own, empties the
replay buffer up to its number, and a frame that waited then leaves if it has room (log 54). TX, RX, RETRY and CRC_ERR of the port
(R323) grow by the flits of each. A time-out or a fault takes the port down, a long-haul port until the host enables it. Poisoned CXL
data and uncorrectable SRAM errors poison their granule or scratchpad line, whose dirty elements are lost (log 61); corrected ones
only count. -/
def Obligations.PortsCarryAndFail : Prop :=
  ∀ (s : State) (port pa cl line tid n : Nat) (seq : IWord) (o r : List (Nat × Nat)) (bad : Bool) (t : Thread) (h : HReg),
    let p := tabGet {} s.ports port
    let counts (i : Instr) (s1 : State) : Prop := ∃ s', exec i s = .next s' ∧ s' = { s1 with uid := s'.uid, counters := s'.counters }
    let grows (s' : State) (tx rx retry failed : Nat) : Prop := ∀ (k n : Nat),
      (k, n) ∈ [(0, tx), (1, rx), (2, retry), (3, failed)] →
      tabGet 0 s'.counters (256 * (640 + port) + k) = tabGet 0 s.counters (256 * (640 + port) + k) + BitVec.ofNat 64 n
    let carried (i : Instr) (s1 : State) (tx rx retry failed : Nat) : Prop := ∃ s', exec i s = .next s' ∧
      s' = { s1 with uid := s'.uid, counters := s'.counters } ∧ grows s' tx rx retry failed
    let rx := Config.linkFlits s.uid
    let acks (q : Port) (out : List Packet) (tx : Nat) : Prop := ∃ s', exec (.cumulativeAcknowledgement port seq) s = .next s' ∧
      s' = { s with ports := s'.ports, portOut := s'.portOut, counters := s'.counters } ∧ grows s' (1 + tx) 1 0 0 ∧
      (∀ j, tabGet {} s'.ports j = if j = port then q else tabGet {} s.ports j) ∧
      s'.portOut = s.portOut ++ (Packet.ack p.rxSeq :: out).map (fun x => (port, x))
    let down (i : Instr) : Prop := ∃ s', exec i s = .next s' ∧ portDown s' port = true ∧
      (tabGet {} s'.ports port).trained = false ∧ (tabGet {} s'.ports port).replay = [] ∧
      (tabGet {} s'.ports port).waiting = [] ∧ (tabGet {} s'.ports port).sent = [] ∧ (25 ≤ port → (tabGet {} s'.ports port).fault = true)
    (portDown s port = false → 17 ≤ port → port < 25 →
      carried (.shortReachFlitReceive port (.good seq))
        { s with ports := tabPut s.ports port { p with sent := p.sent.dropWhile (acknowledged seq.toNat), rxSeq := (p.rxSeq + 1) % 2 ^ 32 } }
        0 1 0 0 ∧
      carried (.shortReachFlitReceive port .bad)
        { s with portOut := s.portOut ++ [(port, .flit (Config.farEnd port) p.rxSeq (.askAgain p.rxSeq))] } 1 1 0 1 ∧
      (p.sent.find? (carries seq.toNat) = none → carried (.shortReachFlitReceive port (.again seq)) s 0 1 0 0) ∧
      (∀ x, p.sent.find? (carries seq.toNat) = some x →
        let sends (y : Packet) : Prop :=
          carried (.shortReachFlitReceive port (.again seq)) { s with portOut := s.portOut ++ [(port, .flit x.dest p.rxSeq y)] } 1 1 1 0
        (x.source = none → sends x.packet) ∧
        (∀ u ctx ra was now run src, x.packet = .command u (.xfer ctx ra was run) → x.source = some src →
          readSource s src.owner src.ctx src.va src.len = .ok now → sends (.command u (.xfer ctx ra now run))))) ∧
    (portDown s port = false → 25 ≤ port → port < 29 →
      carried (.longHaulFrameReceive port seq .bad) s 0 rx 0 1 ∧
      (seq.toNat = p.rxSeq → carried (.longHaulFrameReceive port seq .good)
        { s with ports := tabPut s.ports port { p with rxSeq := (p.rxSeq + 1) % 2 ^ 32 } } 0 rx 0 0) ∧
      (∀ gap, 0 < gap → gap < 2 ^ 31 → p.rxSeq < 2 ^ 32 → seq.toNat = (p.rxSeq + gap) % 2 ^ 32 →
        carried (.longHaulFrameReceive port seq .good) { s with portOut := s.portOut ++ [(port, .nack p.rxSeq)] } 1 rx 0 0) ∧
      (p.replay = o ++ (seq.toNat, n) :: r → (∀ x ∈ o, x.1 ≠ seq.toNat) →
        let again := n + (r.map (fun x => x.2)).sum
        carried (.longHaulFrameReceive port seq .again)
          { s with portOut := s.portOut ++ ((seq.toNat, n) :: r).map (fun x => (port, .resend x.1)) } again 1 again 0 ∧
        (seq.toNat ≠ p.txSeq → p.waiting = [] → acks { p with replay := (seq.toNat, n) :: r } [] 0)) ∧
      (seq.toNat = p.txSeq →
        (p.waiting = [] → acks { p with replay := [] } [] 0) ∧
        (∀ x k, p.waiting = [(x, k)] → 0 < k → k ≤ 32 →
          acks { p with replay := [(p.txSeq, k)], waiting := [], txSeq := (p.txSeq + 1) % 2 ^ 32 } [x] k)) ∧
      (∀ x k, ¬ (∃ y ∈ p.replay, y.1 = seq.toNat) → seq.toNat ≠ p.txSeq → p.waiting = [(x, k)] → 0 < k →
        393216 < (p.replay.map (fun y => y.2)).sum + min 32 k → acks p [] 0) ∧
      (p.replay = [] → exec (.longHaulAckTimeout port) s = .next s) ∧
      (p.replay ≠ [] → down (.longHaulAckTimeout port))) ∧
    (portDown s port = false → port < 29 → down (.portPhyFault port)) ∧
    (port < 29 → inService s (tileOfPort port) = true → exec (.portLinkTrained port) s =
      .next { s with ports := tabPut s.ports port { p with trained := true } }) ∧
    (Config.cxlBase ≤ pa → paExists s pa = true → portDown s (cxlPortOf pa) = false →
      ∃ s', exec (.cxlReadReturn pa bad) s = .next s' ∧ s'.mem = s.mem ∧ s'.threads = s.threads ∧
        ∀ g, g ∈ s'.poison ↔ g ∈ s.poison ∨ bad = true ∧ g = pa / 32) ∧
    (pa < Config.sramEnd → ∀ fixed, ∃ s', exec (.sramEccError (.slice pa) fixed) s = .next s' ∧ s'.mem = s.mem ∧
      s'.threads = s.threads ∧ ∀ g, g ∈ s'.poison ↔ g ∈ s.poison ∨ fixed = false ∧ g = pa / 32) ∧
    (cl < 320 → line < 16384 → counts (.sramEccError (.scratch cl line) true) s ∧
      (s.threads = [(tid, t)] → tid / 4 = cl → t.h = [(n, h)] → blkLine0 h.blk ≤ line →
        line < blkLine0 h.blk + blkLines h.blk → ∃ s' u g, exec (.sramEccError (.scratch cl line) false) s = .next s' ∧
        threadAt s' tid = some u ∧ u.h = [(n, g)] ∧ s'.mem = s.mem ∧
        ∀ k, k ∈ slotsTouching h line → ¬ k ∈ g.dirty ∧ ∃ f ∈ g.failed, f.slot = k ∧ f.poisoned = true))

/-! ## Cupping -/

/-- R307 to R312, R315: heartbeats and accusations. A heartbeat or a flit of a neighbour counts in its observer's record, and
one over the limit is dropped; at a tick that is not skipped the beats on their way arrive, then each router that runs tests
each neighbour that is not fenced, keeps MISS, CLEAN and ACC as the table of R308 says, posts an accusation when a bad window
finds none standing, and its vote for an appealing tile; then every tile in service or appealing sends its beats. An applied
accusation sets its bit, a retraction clears it, and the tile is fenced when its tally reaches T(m), after the drain that is
in progress if one is; a fenced sender is ignored; a bypassed station posts nothing; a silent tile sends nothing. The model's
choices: beats arrive before a tick's tests and HB stops at 3 (log 67), a tick comes at its cycle or later (log 66), which packet a
dropped flit belongs to (log 98), credits kept for the next flits (log 59), and a bypassed station's posts (log 74). -/
def Obligations.HeartbeatsAndAccusations : Prop :=
  ∀ (s : State) (die tile other cause credits : Nat) (malformed : Bool),
    let r := obsOf s tile other
    let more := min (r.flits + 1) 65535
    let obsIs (s' : State) (v : Obs) : Prop :=
      ∀ j, tabGet {} s'.obs j = if j = 160 * tile + other then v else tabGet {} s.obs j
    (other ∈ neighbours tile → tile < 160 → routerRuns s tile = true →
      (∃ s', exec (.heartbeatReceive tile other) s = .next s' ∧
        s' = { s with obs := s'.obs, beats := s'.beats, counters := s'.counters } ∧
        obsIs s' { r with flits := more, hb := if r.credits + 32 < more then r.hb else min (r.hb + 1) 3 } ∧
        s'.beats = (match s.beats.find? (fun b => b.observer = tile ∧ b.sender = other) with
          | some b => s.beats.erase b
          | none => s.beats)) ∧
      (routerRuns s other = true → ∃ s', exec (.routerFlitReceive tile other credits malformed) s = .next s' ∧
        s' = { s with obs := s'.obs, counters := s'.counters, dropped := s'.dropped, walks := s'.walks, posted := s'.posted,
                      threads := s'.threads } ∧
        let none' : Prop := s'.dropped = s.dropped ∧ s'.walks = s.walks ∧ s'.posted = s.posted ∧ s'.threads = s.threads
        (fenceOf s other = 1 → s'.obs = s.obs ∧ none') ∧
        (fenceOf s other ≠ 1 → obsIs s' { r with
            flits := more, credits := r.credits + credits, malformed := r.malformed || malformed } ∧
          (malformed = true ∨ r.credits + credits + 32 < more →
            let lost := (onLink s other tile)[Config.flitOf s.tick]?
            (∀ uid, lost = some (.op uid) → uid ∈ s'.dropped ∧ s'.posted = s.posted.filter (fun x => x.uid ≠ uid)) ∧
            (∀ k, lost = some (.load k) → threadAt s' k = (threadAt s k).map (fun t => { t with hold := .lost }) ∧
              ∀ j, j ≠ k → threadAt s' j = threadAt s j) ∧
            (∀ w, lost = some (.walk w) → s'.walks = s.walks.map (fun x => if x = w then { x with lost := true } else x)) ∧
            (lost = none → none')) ∧
          (malformed = false → more ≤ r.credits + credits + 32 → none')))) ∧
    (die < 4 →
      let k := tabGet 0 s.ticks die + 1
      (tabGet 0 s.cycles die < 4096 * k → exec (.heartbeatTick die) s = .next s) ∧
      (4096 * k ≤ tabGet 0 s.cycles die →
        (k % 16 = 0 → exec (.heartbeatTick die) s = .next { s with ticks := tabSet 0 s.ticks die k }) ∧
        (k % 16 ≠ 0 → ∃ s', exec (.heartbeatTick die) s = .next s' ∧ tabGet 0 s'.ticks die = k ∧ s'.threads = s.threads ∧
          s'.mem = s.mem ∧ s'.fence = s.fence ∧
          (dieOfTile tile = die → other ∈ neighbours tile →
            (sendsBeats s tile = true → ⟨other, tile, ownState s tile, tabGet 0 s.beatSeq tile⟩ ∈ s'.beats) ∧
            (routerRuns s tile = true → fenceOf s other ≠ 1 →
              let r := obsOf ((s.beats.filter (fun b => dieOfTile b.sender = die)).foldl deliverBeat s) tile other
              let miss := if r.hb = 0 then min (r.miss + 1) 3 else 0
              let clean := min (r.clean + 1) 127
              let babble : Prop := r.credits + 32 < r.flits ∨ 2 < r.hb
              let bad : Prop := miss = 3 ∨ r.malformed = true ∨ babble
              let q := obsOf s' tile other
              let posts (b : Bcast) : Prop := ¬ tile ∈ s.bypassed → b ∈ s'.bcasts
              q.miss = miss ∧ q.hb = 0 ∧ q.flits = 0 ∧ q.credits = 0 ∧ q.malformed = false ∧
              (bad → q.clean = 0 ∧ q.acc = true ∧
                (∀ x : Nat, r.acc = false → (if r.malformed then x = 2 else (babble ∧ x = 1 ∨ ¬ babble ∧ x = 0)) →
                  posts (.accuse other tile x)) ∧
                (fenceOf s other = 2 → 64 ≤ r.clean → posts (.vote other tile true))) ∧
              (¬ bad → q.clean = clean ∧ q.acc = (r.acc && decide (clean < 8)) ∧
                (r.acc = true → 8 ≤ clean → posts (.retract other tile)) ∧
                (fenceOf s other = 2 → r.clean = 63 → posts (.vote other tile false)))))))) ∧
    (let d := tabGet {} s.drains (dieOfTile tile)
     let bit := 2 ^ (neighbours tile).idxOf other
     let old := tabGet 0 s.tally tile
     let applies (i : Instr) (b : Bcast) (w cause : Nat) : Prop := nextBcast s (dieOfTile tile) = some b →
       let s0 := { s with bcasts := s.bcasts.erase b }
       let s1 := { s0 with tally := tabSet 0 s.tally tile w }
       (fenceOf s other = 1 → exec i s = .next s0) ∧
       (fenceOf s other ≠ 1 → fenceDue s1 tile = false → exec i s = .next s1) ∧
       (fenceOf s other ≠ 1 → fenceDue s1 tile = true → d.active = true → exec i s = .next { s1 with
         drains := tabSet {} s.drains (dieOfTile tile) { d with
           pending := d.pending ++ [(tile, cause, tabGet 0 s.cycles (dieOfTile tile))] } }) ∧
       (fenceOf s other ≠ 1 → fenceDue s1 tile = true → d.active = false → ∃ s', exec i s = .next s' ∧ fenceOf s' tile = 1)
     let less := if old &&& bit = 0 then old else old - bit
     applies (.accusationApply tile other) (.accuse tile other cause) (old ||| bit) cause ∧
     applies (.retractionApply tile other) (.retract tile other) less (accusedOf { s with tally := tabSet 0 s.tally tile less } tile)) ∧
    (tile < 160 →
      exec (.tokenBypass tile) s = .next { s with bypassed := setAdd s.bypassed tile } ∧
      (routerRuns s tile = true → ∃ s', exec (.tileFallsSilent tile) s = .next s' ∧ s' = { s with silent := s'.silent } ∧
        routerRuns s' tile = false ∧ sendsBeats s' tile = false ∧ ∀ j, j ≠ tile → routerRuns s' j = routerRuns s j))

/-- R307, R312, R314 to R316, R375: drains, appeals and reinstatement. A drain starts at a multiple of 65,536 cycles unless
a fence has it skipped, and fences decided while it ran take effect at its end; the self-test of a fenced tile zeroes its
SRAM, and one that passes makes the tile's own state appealing and posts an appeal, up to four of them; an applied appeal
makes the entry 2 and clears the neighbours' records; T(m) votes of in-service neighbours make it 0, and the tile is empty, with the
control blocks of launch queues that lie in its slices (R262, R331) zero. That a
drain starts at its cycle or later, and that BUSY_LANE_ROTATE moves the clock on, is log 66; a station whose tile passes its
self-test posts again (log 74). -/
def Obligations.TilesReturnToService : Prop :=
  ∀ (s : State) (die tile voter cause cycle : Nat) (away : Bool),
    let d := tabGet {} s.drains die
    let k := tabGet 0 s.cycles die / 65536
    let mine (a : Nat) : Prop := a < Config.sramEnd ∧ tileOfSlice (homeOf a) = tile
    let empty (s' : State) : Prop := ∀ a, (mine a → readByte s'.mem a = 0) ∧ (¬ mine a → readByte s'.mem a = readByte s.mem a)
    (fenceOf s tile = 1 → routerRuns s tile = true → ¬ tile ∈ s.testFailed → ¬ tile ∈ s.appealing →
      (∃ s', exec (.selfTestComplete tile false) s = .next s' ∧ s'.threads = s.threads ∧ s'.fence = s.fence ∧ empty s' ∧
        s'.testFailed = setAdd s.testFailed tile ∧ s'.appealing = s.appealing ∧ s'.bcasts = s.bcasts) ∧
      ∃ s', exec (.selfTestComplete tile true) s = .next s' ∧ s'.threads = s.threads ∧ s'.fence = s.fence ∧ empty s' ∧
        s'.testFailed = s.testFailed ∧ ownState s' tile = 2 ∧ sendsBeats s' tile = true ∧
        s'.bcasts = (if tabGet 0 s.appeals tile < 4 then s.bcasts ++ [.appeal tile] else s.bcasts)) ∧
    (nextBcast s (dieOfTile tile) = some (.appeal tile) → fenceOf s tile = 1 →
      ∃ s', exec (.appealApply tile) s = .next s' ∧
        s' = { s with bcasts := s'.bcasts, fence := s'.fence, obs := s'.obs, appealing := s'.appealing } ∧
        s'.bcasts = s.bcasts.erase (.appeal tile) ∧ fenceOf s' tile = 2 ∧ (∀ j, j ≠ tile → fenceOf s' j = fenceOf s j) ∧
        ∀ o ∈ neighbours tile, obsOf s' o tile = {}) ∧
    (nextBcast s (dieOfTile tile) = some (.vote tile voter away) → fenceOf s voter ≠ 1 → fenceOf s tile = 2 →
      let bit := 2 ^ (neighbours tile).idxOf voter
      let old := tabGet 0 s.votes tile
      let word := if away then (if old &&& bit = 0 then old else old - bit) else old ||| bit
      let live := (neighbours tile).filter (inService s)
      let s1 := { s with bcasts := s.bcasts.erase (.vote tile voter away), votes := tabSet 0 s.votes tile word }
      (∀ j, j ≠ tile → voteDue s1 j = false) →
      (tallyCount s word tile < live.length / 2 + 1 → exec (.reinstatementVoteApply tile voter away) s = .next s1) ∧
      (live.length / 2 + 1 ≤ tallyCount s word tile → ∃ s', exec (.reinstatementVoteApply tile voter away) s = .next s' ∧
        fenceOf s' tile = 0 ∧ (∀ j, j ≠ tile → fenceOf s' j = fenceOf s j ∨ (fenceOf s j = 2 ∧ fenceOf s' j = 0)) ∧
        tabGet 0 s'.tally tile = 0 ∧ tabGet 0 s'.votes tile = 0 ∧ s'.threads = s.threads ∧
        (∀ a, mine a → readByte s'.mem a = 0) ∧
        ∀ q, tileOfSlice (homeOf (controlBlock q)) = tile → controlBytes s' q = List.replicate 64 0)) ∧
    (die < 4 →
      (k ≤ d.round ∨ d.active = true → exec (.periodicDrain die) s = .next s) ∧
      (d.round < k → d.active = false → ∃ s', exec (.periodicDrain die) s = .next s' ∧ s' = { s with drains := s'.drains } ∧
        tabGet {} s'.drains die = { d with active := !d.skip, skip := false, round := k }) ∧
      (d.active = false → exec (.drainEnd die) s = .next s) ∧
      (d.active = true → d.pending = [] → ∃ s', exec (.drainEnd die) s = .next s' ∧
        s' = { s with drains := s'.drains, counters := s'.counters } ∧
        tabGet {} s'.drains die = { d with active := false }) ∧
      (d.active = true → d.pending = [(tile, cause, cycle)] → inService s tile = true →
        ∃ s', exec (.drainEnd die) s = .next s' ∧ fenceOf s' tile = 1) ∧
      ∃ s', exec (.busyLaneRotate die) s = .next s' ∧ s' = { s with cycles := s'.cycles } ∧
        ∀ j, tabGet 0 s'.cycles j = if j = die then 65536 * (k + 1) else tabGet 0 s.cycles j)

/-- R300, R304: the merge of equal registers. Two live registers of one context, or one and the zero register, whose
contents are equal become the older one: every name of the newer moves, and no value changes; keys of queued entries that
name the newer one are forgotten (R299), and a name of the zero register leaves VEXT (R292); contents that differ under equal hashes are only counted, once. Which of two
registers is older is log 81. -/
def Obligations.EqualRegistersMerge : Prop :=
  ∀ (s : State) (cl older newer : Nat) (a b : VReg) (ca cb : Option Nat), cl < 320 → newer ≠ 0 → older ≠ newer →
    physReg s cl older = some (a, ca) → physReg s cl newer = some (b, cb) → (ca = none ∨ ca = cb) →
    let c := clusterOf s cl
    ¬ older ∈ c.rs.noMerge → ¬ newer ∈ c.rs.noMerge → beingWritten s cl older = false → beingWritten s cl newer = false →
    (c.rs.names.map (fun e => e.1)).Nodup → (∀ e ∈ c.rs.names, e.1 < 128) →
    let i := Instr.resteepMerge cl older newer
    let counted := { c with rs := { c.rs with unequal := c.rs.unequal ++ [(older, newer)] } }
    (contentHash a ≠ contentHash b ∨ ageOf c newer < ageOf c older → exec i s = .next s) ∧
    (contentHash a = contentHash b → ageOf c older ≤ ageOf c newer → a ≠ b →
      ((older, newer) ∈ c.rs.unequal → exec i s = .next s) ∧
      (¬ (older, newer) ∈ c.rs.unequal → exec i s = .next (bump (setCluster s cl counted) cl 12 1))) ∧
    (a = b → ageOf c older ≤ ageOf c newer → ∃ s', exec i s = .next s' ∧ s'.mem = s.mem ∧
      (older ≠ 0 → ∀ tid, (threadAt s' tid).map unkeyed = (threadAt s tid).map unkeyed) ∧
      (let rest (t : Thread) : Thread := { unkeyed t with vext := [] }
       ∀ tid, (threadAt s' tid).map rest = (threadAt s tid).map rest) ∧
      ∀ slot v, slot < 4 → v < 32 → rsName (clusterOf s' cl) slot v =
        if rsName c slot v = newer then older else rsName c slot v)

/-! ## Firmware and reset -/

/-- R350 to R356: the bring-up commands. A command starts only in a state that allows it and sets STATE to 1, else ERR is
3 or 4 and nothing else changes; more than one bit of FWCTL gives ERR 3, and no bit or one that is reserved starts nothing; a LOAD
in STATE 2 first performs the reset; CKPT has every thread stop; a command that finishes leaves STATE 2 and ERR 0, or STATE 3 and
its code; a LOAD zeroes SRAM, replay buffers and queue storage with it, fences the tiles that fail and trains the ports; a taken
checkpoint holds memory, its image being marked invalid in one step and taken in the next once the device is quiet (log 57), and a
RESTORE gives back what the image holds, entries of the retirement trackers and releases kept over a save too (logs 57 and 128). That LOAD and ATTEST wait for posted
writes is log 68, and that a LOAD in another state ends what runs is log 35. -/
def Obligations.FirmwareCommandsRun : Prop :=
  ∀ (s : State) (addr : Word) (len : Nat) (l : List Byte) (relaxed : Bool),
    let imaged := { s with fw := { s.fw with addr := addr, len := len % 2 ^ 32 } }
    let reported := { s with fw := { s.fw with rep := addr } }
    let err (s1 : State) (e : Nat) : State := { s1 with fw := { s1.fw with err := e } }
    let ends (state err : Nat) (also : State → Prop) : Prop := ∃ s', exec .fwCommandDone s = .next s' ∧
      s'.fw.running = none ∧ s'.fw.state = state ∧ s'.fw.err = err ∧ also s'
    let any (_ : State) : Prop := True
    let allUp : Prop := ∀ t, inService s t = true
    (s.fw.state = 1 → exec (.fwLoad addr len) s = .next (err imaged 3) ∧ exec (.fwAttest addr) s = .next (err reported 3) ∧
      exec .fwCkpt s = .next (err s 3) ∧ exec .fwRestore s = .next (err s 3)) ∧
    (s.fw.state ≠ 1 → s.fw.state ≠ 2 → exec (.fwAttest addr) s = .next (err reported 4) ∧
      exec .fwCkpt s = .next (err s 4) ∧ exec .fwRestore s = .next (err s 4)) ∧
    (let b := natOfBytes l % 2 ^ 32
     let written (i : Instr) : Prop := exec (.hostPostedWrite 6 0x0C l relaxed) s = exec i s
     (s.fw.state = 1 ∨ b &&& (b - 1) ≠ 0 → exec (.hostPostedWrite 6 0x0C l relaxed) s = .next (err s 3)) ∧
     (s.fw.state ≠ 1 → b = 0 ∨ (16 ≤ b ∧ b &&& (b - 1) = 0) → exec (.hostPostedWrite 6 0x0C l relaxed) s = .next s) ∧
     (b = 1 → s.fw.len < 2 ^ 32 → written (.fwLoad s.fw.addr s.fw.len)) ∧ (b = 2 → written (.fwAttest s.fw.rep)) ∧
     (b = 4 → written .fwCkpt) ∧ (b = 8 → written .fwRestore)) ∧
    (s.fw.state ≠ 1 → (writesOut s = true → exec (.fwLoad addr len) s = .next imaged) ∧
      (writesOut s = false → ∃ s', exec (.fwLoad addr len) s = .next s' ∧ s'.fw.state = 1 ∧
        s'.fw.running = some (.load addr (len % 2 ^ 32)) ∧ s'.fw.addr = addr ∧ s'.fw.len = len % 2 ^ 32 ∧ s'.threads = [] ∧
        s'.launches = [] ∧ s'.mem = s.mem ∧ (s.fw.state = 2 → ∀ k, tabGet 0 s'.counters k = 0))) ∧
    (s.fw.state = 2 →
      (writesOut s = false → ∃ s', exec (.fwAttest addr) s = .next s' ∧ s'.fw.state = 1 ∧
        s'.fw.running = some (.attest addr) ∧ s'.fw.rep = addr ∧ s' = { s with fw := s'.fw }) ∧
      (∃ s', exec .fwCkpt s = .next s' ∧ s'.fw.state = 1 ∧ s'.fw.running = some .ckpt ∧
        (∀ tid u, threadAt s' tid = some u → ∃ t, threadAt s tid = some t ∧ u = { t with stopReq := true }) ∧
        s'.mem = s.mem) ∧
      (s.fw.fresh = false → exec .fwRestore s = .next (err s 4)) ∧
      (s.fw.fresh = true → ∃ s', exec .fwRestore s = .next s' ∧ s'.fw.state = 1 ∧ s'.fw.running = some .restore ∧
        s' = { s with fw := s'.fw })) ∧
    (s.fw.running = none → exec .fwCommandDone s = .next s) ∧
    (s.fw.running = some (.load addr len) →
      if len < 1281 ∨ 2 ^ 26 < len then ends 3 1 any
      else if Config.imageSigned (readBytes s.mem addr.toNat len) = false then ends 3 2 any
      else if failingTiles s = List.range 160 then ends 3 5 (fun s' => ∀ t, t < 160 → fenceOf s' t = 1)
      else ends 2 0 (fun s' => s'.fw.measure = shake256 (readBytes s.mem addr.toNat len) ∧ s'.fw.loads = s.fw.loads + 1 ∧ s'.fw.up = true ∧ s'.wmk = [] ∧ s'.power = 0 ∧
        (∀ q, (queueAt s' q).en = false) ∧ (∀ t, t < 160 → fenceOf s' t = if t ∈ failingTiles s then 1 else 0) ∧
        (∀ p, p < 17 → ¬ tileOfPort p ∈ failingTiles s → (tabGet {} s'.ports p).trained = true) ∧
        (∀ p, (tabGet {} s'.ports p).replay = [] ∧ (tabGet {} s'.ports p).waiting = [] ∧ (tabGet {} s'.ports p).sent = []) ∧
        (s.threads = [] → s.waiters = [] → s.barriers = [] → s.releases = [] →
          (∀ a, a < Config.sramEnd → readByte s'.mem a = 0) ∧ ∀ q, queueAt s' q = { seq := (queueAt s q).seq }))) ∧
    (s.fw.running = some (.attest addr) → ends 2 0 any ∧
      (allUp → addr.toNat % 256 = 0 → addr.toNat + 1536 ≤ Config.sramEnd → ends 2 0 (fun s' => s'.threads = s.threads ∧
        readBytes s'.mem addr.toNat 256 = reportBody s (readBytes s.mem (addr.toNat + 64) 32)))) ∧
    (s.fw.running = some .ckpt →
      (s.fw.fenced = true → ends 3 6 (fun s' => s'.image.valid = false)) ∧
      (s.fw.fenced = false → s.threads ≠ [] ∨ s.inflight ≠ [] → exec .fwCommandDone s = .next s) ∧
      (s.fw.fenced = false → quiet s = true →
        (s.image.valid = true → exec .fwCommandDone s = .next { s with image := { s.image with valid := false } }) ∧
        (s.image.valid = false → ends 2 0 (fun s' => s'.image.valid = true ∧ s'.image.mem = s.mem ∧
          s'.image.wmk = s.wmk ∧ s'.image.launches = s.launches ∧ s'.image.bindings = s.bindings ∧
          s'.image.barriers = s.barriers.map restingBarrier ∧ s'.image.releases = s.releases ∧ s'.mem = s.mem)))) ∧
    (s.fw.running = some .restore →
      (s.image.valid = false → ends 3 7 any) ∧
      (s.image.valid = true → s.image.cxlCap ≠ s.cxlCap → ends 3 8 any) ∧
      (s.image.valid = true → s.image.cxlCap = s.cxlCap → ends 2 0 (fun s' => s'.wmk = s.image.wmk ∧
        s'.bindings = s.image.bindings ∧ s'.barriers = s.image.barriers ∧ s'.releases = s.image.releases ∧ (∀ q, (queueAt s' q).en = false) ∧
        (∀ l ∈ s'.launches, l.parked = true) ∧
        (∀ cl saved, s.image.retired = [(cl, saved)] → inService s (tileOfCluster cl) = true →
          (clusterOf s' cl).tracker = (clusterOf s cl).tracker ++ saved) ∧ (allUp → s'.mem = s.image.mem))))

/-- R352, R324, R112, R306: the state that reset leaves. No thread, launch or request is left, STATE and every event counter
read 0, every tile is in service; memory keeps its contents, and so do poison, the recorded events, the load count and M of R353
and the persistence image (log 60); the host reaches slice SRAM, and BAR0 reads as zero until STATE first reaches 2. -/
def Obligations.ResetEndsEverything : Prop :=
  (∀ (s : State), ∃ s', exec .deviceReset s = .next s' ∧ s'.threads = [] ∧ s'.launches = [] ∧ s'.inflight = [] ∧
    s'.queues = [] ∧ s'.bindings = [] ∧ s'.barriers = [] ∧ s'.waiters = [] ∧ s'.fw.state = 0 ∧ s'.fw.up = false ∧
    (∀ k, tabGet 0 s'.counters k = 0) ∧ (∀ t, fenceOf s' t = 0) ∧ s'.mem = s.mem ∧ s'.poison = s.poison ∧
    s'.image = s.image ∧ s'.fw.loads = s.fw.loads ∧ s'.fw.measure = s.fw.measure ∧ s'.events = s.events ∧
    hostReach s' = true ∧ ∀ off, driverWord s' off = 0) ∧
  State.reset.threads = [] ∧ State.reset.launches = [] ∧ State.reset.fw.state = 0 ∧ State.reset.power = 0 ∧
  (∀ k, tabGet 0 State.reset.counters k = 0) ∧ (∀ t, fenceOf State.reset t = 0) ∧
  Canonical State.reset

/-! ## The machine -/

/-- R54, R67, R68, R121: a thread's turn executes the instruction that the word it fetches decodes to, at the state in which
time has passed and the fetch has been made, with nothing left of what it waited for (`s3`; log 8); that word is the one in memory at its pc or, where it has changed since, the one
that stood there when its launch was placed (log 40); a word that is no instruction raises the illegal-instruction trap and a
failed fetch the instruction page fault; a thread that waits, or whose fetch waits for a walk, does nothing; an event that can
happen happens, and one that cannot lets time pass (log 4). A word whose home is fenced or poisoned is fetched all the same
(log 83). -/
def Obligations.StepRunsDecoded : Prop :=
  ∀ (s s1 s2 : State) (tid pa : Nat) (t : Thread) (w : IWord) (i : Instr), s1 = { passTime s with agenda := s.agenda.drop 1 } →
    (nextTurn s = .run tid → tid < 1280 → threadAt s tid = some t →
      (canRun t = false → step s = .next s1) ∧
      let s3 := endMiss s2 (tid / 4) t.uid 0
      (canRun t = true → xlate s1 (tid / 4) t.uid 0 t.ctx t.area t.pc.toNat needX = (.ok pa, s2) →
        w = fetchWord s2 t pa →
        (w = wordAt s2.mem pa ∨ ∃ l, launchOf s2 t.launch = some l ∧ w = wordAt l.code pa) ∧
        (decode w = .ok i → step s = exec i { s3 with cur := tid }) ∧
        ((∃ e, decode w = .error e) → step s = exec (.illegalWord w) { s3 with cur := tid })) ∧
      (canRun t = true → xlate s1 (tid / 4) t.uid 0 t.ctx t.area t.pc.toNat needX = (.fail, s2) →
        step s = exec (.instructionPageFault t.pc) { s3 with cur := tid }) ∧
      (canRun t = true → xlate s1 (tid / 4) t.uid 0 t.ctx t.area t.pc.toNat needX = (.wait, s2) → step s = .next s2)) ∧
    (nextTurn s = .event i → step s = if eventAllowed s i = true then exec i s1 else .next s1) ∧
    (nextTurn s = .run tid → 1280 ≤ tid → step s = .fault .noSuchThread)

/-- Every step keeps memory, and the memory of the persistence image, in canonical form: addresses strictly rising and no
cell listed that holds what an unlisted address reads as. -/
def Obligations.StepsKeepMemoryCanonical : Prop :=
  ∀ (s s' : State), Canonical s → step s = .next s' → Canonical s'

/-- R59 to R66 and the encoding tables: every well-formed instruction that is no event has a word, and for every well-formed
instruction the decoder reads its word back, with every operand at every value that the encoding admits. -/
def Obligations.DecodeOfEncodeIsInstruction : Prop :=
  ∀ (i : Instr), i.wf = true → (isEvent i = false → (encode i).isSome = true) ∧ ∀ w, encode i = some w → decode w = .ok i

/-- R59 to R66: words written out from the spec's encodings decode to the instructions they stand for. -/
def Obligations.WordsDecodeToInstructions : Prop :=
  decode 0x04A63801 = .ok (.aluSub 5 6 7) ∧ decode 0x2CA00005 = .ok (.ctlRd 5 5) ∧ decode 0x00000085 = .ok (.sysTrap 5) ∧
  decode 0x68084842 = .ok (.vsetLenf 8 9 .m1 .s32) ∧ decode 0x444038B2 = .ok (.valuiMov 2 7 0 .s32) ∧
  decode 0x804A0000 = .ok (.hresSet 2 10) ∧ decode 0x84000200 = .ok (.kcntAdv 0) ∧ decode 0xB8000000 = .ok .vrel ∧
  (∃ e, decode 0xFFFFFFFF = .error e)
end

