-- ==== Sys2Proof/Laws/Tab.lean ====
section
/-! SUPPORT. The laws of tables by number: a read after a write, the keys that a write leaves alone, and the rising order that
every operation keeps. -/

namespace Sys2Proof.Machine

variable {α : Type}

/-- What was put at a number is found there. -/
@[simp] theorem tabFind_tabPut_self (t : Tab α) (k : Nat) (v : α) : tabFind (tabPut t k v) k = some v := by
  induction t with
  | nil => simp [tabPut, tabFind]
  | cons e r ih =>
    obtain ⟨a, w⟩ := e
    simp only [tabPut]
    split
    · simp [tabFind]
    · split
      · simp [tabFind]
      · rename_i h; simp [tabFind, h, ih]

/-- Another number keeps its entry when one is put. -/
theorem tabFind_tabPut_ne (t : Tab α) {k j : Nat} (v : α) (h : j ≠ k) : tabFind (tabPut t k v) j = tabFind t j := by
  induction t with
  | nil => simp [tabPut, tabFind, Ne.symm h]
  | cons e r ih =>
    obtain ⟨a, w⟩ := e
    simp only [tabPut]
    split
    · simp [tabFind, Ne.symm h]
    · split
      · rename_i h'; subst h'; simp [tabFind, Ne.symm h]
      · simp only [tabFind, ih]

/-- Nothing is found at a number after its entry is erased. -/
@[simp] theorem tabFind_tabErase_self (t : Tab α) (k : Nat) : tabFind (tabErase t k) k = none := by
  induction t with
  | nil => rfl
  | cons e r ih =>
    obtain ⟨a, w⟩ := e
    simp only [tabErase, List.filter_cons] at ih ⊢
    split
    · rename_i h; simp only [tabFind, ih]; simp at h; simp [h]
    · exact ih

/-- Another number keeps its entry when one is erased. -/
theorem tabFind_tabErase_ne (t : Tab α) {k j : Nat} (h : j ≠ k) : tabFind (tabErase t k) j = tabFind t j := by
  induction t with
  | nil => rfl
  | cons e r ih =>
    obtain ⟨a, w⟩ := e
    simp only [tabErase, List.filter_cons] at ih ⊢
    split
    · simp only [tabFind, ih]
    · rename_i h'; simp at h'; rw [ih]; simp [tabFind, h', Ne.symm h]

/-- A read after a write gives the value written, the default included. -/
@[simp] theorem tabGet_tabSet_self [DecidableEq α] (d : α) (t : Tab α) (k : Nat) (v : α) :
    tabGet d (tabSet d t k v) k = v := by
  unfold tabGet tabSet
  split <;> simp_all

/-- A write leaves what every other number reads. -/
theorem tabGet_tabSet_ne [DecidableEq α] (d : α) (t : Tab α) {k j : Nat} (v : α) (h : j ≠ k) :
    tabGet d (tabSet d t k v) j = tabGet d t j := by
  unfold tabGet tabSet
  split
  · rw [tabFind_tabErase_ne t h]
  · rw [tabFind_tabPut_ne t v h]

@[simp] theorem tabGet_tabPut_self (d : α) (t : Tab α) (k : Nat) (v : α) : tabGet d (tabPut t k v) k = v := by
  simp [tabGet]

theorem tabGet_tabPut_ne (d : α) (t : Tab α) {k j : Nat} (v : α) (h : j ≠ k) :
    tabGet d (tabPut t k v) j = tabGet d t j := by
  simp [tabGet, tabFind_tabPut_ne t v h]

/-- Numbers in strictly rising order, all at least `lo`. -/
def tabRising : Nat → Tab α → Prop
  | _, [] => True
  | lo, (a, _) :: r => lo ≤ a ∧ tabRising (a + 1) r

theorem tabRising_mono {lo lo' : Nat} {t : Tab α} (h : lo' ≤ lo) (ht : tabRising lo t) : tabRising lo' t := by
  cases t with
  | nil => trivial
  | cons e r => exact ⟨Nat.le_trans h ht.1, ht.2⟩

/-- Putting an entry keeps the rising order. -/
theorem tabRising_tabPut {t : Tab α} {lo k : Nat} (v : α) (ht : tabRising lo t) (hk : lo ≤ k) :
    tabRising lo (tabPut t k v) := by
  induction t generalizing lo with
  | nil => exact ⟨hk, trivial⟩
  | cons e r ih =>
    obtain ⟨a, w⟩ := e
    simp only [tabPut]
    split
    · rename_i h; exact ⟨hk, h, ht.2⟩
    · split
      · rename_i h; subst h; exact ⟨hk, ht.2⟩
      · exact ⟨ht.1, ih ht.2 (by omega)⟩

/-- Erasing an entry keeps the rising order. -/
theorem tabRising_tabErase {t : Tab α} {lo k : Nat} (ht : tabRising lo t) : tabRising lo (tabErase t k) := by
  induction t generalizing lo with
  | nil => trivial
  | cons e r ih =>
    obtain ⟨a, w⟩ := e
    have hr : tabRising (a + 1) (tabErase r k) := ih ht.2
    simp only [tabErase, List.filter_cons] at hr ⊢
    split
    · exact ⟨ht.1, hr⟩
    · exact tabRising_mono (Nat.le_succ_of_le ht.1) hr

end Sys2Proof.Machine
end

