-- ==== Sys2Proof/Laws/Mem.lean ====
section
/-! SUPPORT. The laws of device memory: reads after writes, and that every write keeps the canonical form. -/

namespace Sys2Proof.Machine

/-- A byte read where one was written. -/
@[simp] theorem readByte_writeByte_self (m : Memory) (a : Nat) (b : Byte) : readByte (writeByte m a b) a = b := by
  simp [readByte, writeByte, tabGet, tabSet]
  split <;> simp_all

/-- A byte read elsewhere. -/
theorem readByte_writeByte_ne (m : Memory) {a c : Nat} (b : Byte) (h : c ≠ a) :
    readByte (writeByte m a b) c = readByte m c := by
  unfold readByte writeByte tabGet tabSet
  split
  · rw [tabFind_tabErase_ne m h]
  · rw [tabFind_tabPut_ne m b h]

/-- Bytes outside a written range are unchanged. -/
theorem readByte_writeBytes_outside (l : List Byte) (m : Memory) (a c : Nat) (h : c < a ∨ a + l.length ≤ c) :
    readByte (writeBytes m a l) c = readByte m c := by
  induction l generalizing m a with
  | nil => rfl
  | cons b r ih =>
    simp only [List.length_cons] at h
    rw [writeBytes, ih _ _ (by omega), readByte_writeByte_ne m b (by omega)]

/-- Bytes inside a written range are those written. -/
theorem readByte_writeBytes_inside (l : List Byte) (m : Memory) (a i : Nat) (h : i < l.length) :
    readByte (writeBytes m a l) (a + i) = l[i] := by
  induction l generalizing m a i with
  | nil => exact absurd h (Nat.not_lt_zero i)
  | cons b r ih =>
    rw [writeBytes]
    cases i with
    | zero => rw [readByte_writeBytes_outside r _ _ _ (by omega)]; simp
    | succ i =>
      have := ih (writeByte m a b) (a + 1) i (by simpa using h)
      rw [show a + (i + 1) = a + 1 + i by omega, this]; simp

@[simp] theorem length_readBytes (m : Memory) (a n : Nat) : (readBytes m a n).length = n := by
  induction n generalizing a with
  | zero => rfl
  | succ n ih => simp [readBytes, ih]

theorem getElem_readBytes (m : Memory) (a n i : Nat) (h : i < (readBytes m a n).length) :
    (readBytes m a n)[i] = readByte m (a + i) := by
  induction n generalizing a i with
  | zero => simp [readBytes] at h
  | succ n ih =>
    cases i with
    | zero => simp [readBytes]
    | succ i => simp only [readBytes, List.getElem_cons_succ]; rw [ih]; congr 1; omega

/-- A range read after it was written gives what was written. -/
theorem readBytes_writeBytes (m : Memory) (a : Nat) (l : List Byte) :
    readBytes (writeBytes m a l) a l.length = l := by
  apply List.ext_getElem (by simp)
  intro i h _
  rw [getElem_readBytes, readByte_writeBytes_inside]

@[simp] theorem length_bytesOfNat (n v : Nat) : (bytesOfNat n v).length = n := by
  induction n generalizing v with
  | zero => rfl
  | succ n ih => simp [bytesOfNat, ih]

/-- A number from its own bytes (R5). -/
theorem natOfBytes_bytesOfNat (n v : Nat) : natOfBytes (bytesOfNat n v) = v % 256 ^ n := by
  induction n generalizing v with
  | zero => simp [bytesOfNat, natOfBytes, Nat.mod_one]
  | succ n ih =>
    have h := Nat.mod_mul (a := 256) (b := 256 ^ n) (x := v)
    simp only [bytesOfNat, natOfBytes, ih, BitVec.toNat_ofNat, Nat.pow_succ']
    omega

/-! ## The canonical form -/

theorem memWfFrom_mono {lo lo' : Nat} {m : Memory} (h : lo' ≤ lo) (hm : memWfFrom lo m = true) :
    memWfFrom lo' m = true := by
  cases m with
  | nil => rfl
  | cons e r =>
    obtain ⟨a, b⟩ := e
    simp only [memWfFrom, Bool.and_eq_true, decide_eq_true_eq] at hm ⊢
    exact ⟨⟨Nat.le_trans h hm.1.1, hm.1.2⟩, hm.2⟩

theorem memWfFrom_tabErase {m : Memory} {lo k : Nat} (hm : memWfFrom lo m = true) :
    memWfFrom lo (tabErase m k) = true := by
  induction m generalizing lo with
  | nil => rfl
  | cons e r ih =>
    obtain ⟨a, b⟩ := e
    simp only [memWfFrom, Bool.and_eq_true, decide_eq_true_eq] at hm
    have hr : memWfFrom (a + 1) (tabErase r k) = true := ih hm.2
    simp only [tabErase, List.filter_cons] at hr ⊢
    split
    · simp only [memWfFrom, Bool.and_eq_true, decide_eq_true_eq]; exact ⟨hm.1, hr⟩
    · exact memWfFrom_mono (Nat.le_succ_of_le hm.1.1) hr

theorem memWfFrom_tabPut {m : Memory} {lo k : Nat} {b : Byte} (hm : memWfFrom lo m = true) (hk : lo ≤ k)
    (hb : b ≠ memDefault k) : memWfFrom lo (tabPut m k b) = true := by
  induction m generalizing lo with
  | nil => simp [tabPut, memWfFrom, hk, hb]
  | cons e r ih =>
    obtain ⟨a, c⟩ := e
    simp only [memWfFrom, Bool.and_eq_true, decide_eq_true_eq] at hm
    simp only [tabPut]
    split
    · rename_i h
      simp only [memWfFrom, Bool.and_eq_true, decide_eq_true_eq]
      exact ⟨⟨hk, hb⟩, ⟨h, hm.1.2⟩, hm.2⟩
    · split
      · rename_i h; subst h
        simp only [memWfFrom, Bool.and_eq_true, decide_eq_true_eq]; exact ⟨⟨hk, hb⟩, hm.2⟩
      · simp only [memWfFrom, Bool.and_eq_true, decide_eq_true_eq]
        exact ⟨hm.1, ih hm.2 (by omega)⟩

/-- Writing a byte keeps the canonical form. -/
theorem wf_writeByte {m : Memory} (hm : m.wf = true) (a : Nat) (b : Byte) : Memory.wf (writeByte m a b) = true := by
  unfold Memory.wf writeByte tabSet at *
  split
  · exact memWfFrom_tabErase hm
  · rename_i h; exact memWfFrom_tabPut hm (Nat.zero_le a) h

/-- Writing bytes keeps the canonical form. -/
theorem wf_writeBytes {m : Memory} (hm : m.wf = true) (a : Nat) (l : List Byte) :
    Memory.wf (writeBytes m a l) = true := by
  induction l generalizing m a with
  | nil => exact hm
  | cons b r ih => exact ih (wf_writeByte hm a b) (a + 1)

/-- Reset memory has the canonical form. -/
theorem wf_reset : Memory.wf State.reset.mem = true := rfl

/-- A write at a home: memory is that of the bytes written. -/
@[simp] theorem performWrite_mem (s : State) (a : Nat) (l : List Byte) : (performWrite s a l).mem = writeBytes s.mem a l := rfl

theorem wf_performWrite {s : State} (h : s.mem.wf = true) (a : Nat) (l : List Byte) :
    (performWrite s a l).mem.wf = true := wf_writeBytes h a l

@[simp] theorem bump_mem (s : State) (p i n : Nat) : (bump s p i n).mem = s.mem := by unfold bump; split <;> rfl
@[simp] theorem bump_threads (s : State) (p i n : Nat) : (bump s p i n).threads = s.threads := by unfold bump; split <;> rfl
@[simp] theorem bump_cur (s : State) (p i n : Nat) : (bump s p i n).cur = s.cur := by unfold bump; split <;> rfl
@[simp] theorem countHere_mem (s : State) (a : Nat) : (countHere s a).mem = s.mem := by
  unfold countHere; dsimp only; split <;> simp
@[simp] theorem countHere_threads (s : State) (a : Nat) : (countHere s a).threads = s.threads := by
  unfold countHere; dsimp only; split <;> simp
@[simp] theorem countHere_cur (s : State) (a : Nat) : (countHere s a).cur = s.cur := by
  unfold countHere; dsimp only; split <;> simp
@[simp] theorem countAccess_mem (s : State) (a : Nat) : (countAccess s a).mem = s.mem := by
  unfold countAccess; split <;> simp
@[simp] theorem countAccess_threads (s : State) (a : Nat) : (countAccess s a).threads = s.threads := by
  unfold countAccess; split <;> simp
@[simp] theorem countAccess_cur (s : State) (a : Nat) : (countAccess s a).cur = s.cur := by
  unfold countAccess; split <;> simp
@[simp] theorem countPa_mem (s : State) (a : Nat) : (countPa s a).mem = s.mem := by
  unfold countPa; split <;> simp
@[simp] theorem countPa_threads (s : State) (a : Nat) : (countPa s a).threads = s.threads := by
  unfold countPa; split <;> simp
@[simp] theorem countPa_cur (s : State) (a : Nat) : (countPa s a).cur = s.cur := by
  unfold countPa; split <;> simp

@[simp] theorem countRange_mem (s : State) (a n : Nat) : (countRange s a n).mem = s.mem := by
  unfold countRange
  split
  · rfl
  · generalize List.range _ = l
    induction l generalizing s with
    | nil => rfl
    | cons i r ih => simp only [List.foldl_cons]; rw [ih]; simp

@[simp] theorem recordEvent_mem (s : State) (e : HostEvent) : (recordEvent s e).mem = s.mem := by
  unfold recordEvent setDrv; split <;> simp
@[simp] theorem postRecord_mem (s : State) (e : HostEvent) : (postRecord s e).mem = s.mem := by
  unfold postRecord; split <;> simp
@[simp] theorem postEvent_mem (s : State) (t d : Nat) (a b : Word) : (postEvent s t d a b).mem = s.mem := postRecord_mem _ _

/-- Writing at physical addresses keeps the canonical form. -/
theorem wf_physWrite {s : State} (h : s.mem.wf = true) (tile : Option Nat) (a : Nat) (l : List Byte) :
    (physWrite s tile a l).mem.wf = true := by
  unfold physWrite
  generalize granulesOf a l.length = gs
  induction gs generalizing s with
  | nil => exact h
  | cons g r ih =>
    rw [List.foldl_cons]
    split
    · exact ih (by simp; exact wf_writeBytes h _ _)
    · exact ih h

/-- Writing at virtual addresses keeps the canonical form. -/
theorem wf_writePieces (o : Origin) (c : Nat) (ps : List (Nat × Nat)) (s : State) (l : List Byte) (h : s.mem.wf = true) :
    (writePieces s o c ps l).1.mem.wf = true := by
  induction ps generalizing s l with
  | nil => exact h
  | cons p r ih =>
    obtain ⟨va, m⟩ := p
    simp only [writePieces]
    split
    · split
      · exact ih _ _ (by simp; exact wf_writeBytes h _ _)
      · exact ih _ _ h
    · exact ih _ _ h

theorem wf_writeVia {s : State} (h : s.mem.wf = true) (o : Origin) (c va : Nat) (l : List Byte) :
    (writeVia s o c va l).1.mem.wf = true := wf_writePieces o c _ s l h

theorem wf_writeVirt {s : State} (h : s.mem.wf = true) (o c va : Nat) (l : List Byte) :
    (writeVirt s o c va l).1.mem.wf = true := wf_writeVia h _ c va l

/-- Nothing is forwarded while no page moves (R287). -/
@[simp] theorem forwardedPa_none {s : State} (h : s.migration = none) (pa : Nat) : forwardedPa s pa = pa := by
  simp [forwardedPa, h]

/-- A request to an address as it was given performs there while no page moves, and counts once. -/
theorem countPa_none {s : State} (h : s.migration = none) (a : Nat) : countPa s a = countHere s a := by
  simp [countPa, h]

/-- While no page moves a request counts at its home and nowhere else (R323). -/
theorem countAccess_none {s : State} (h : s.migration = none) (a : Nat) : countAccess s a = countHere s a := by
  simp [countAccess, forwardedFrom, h]

end Sys2Proof.Machine
end

