-- ==== Sys2Proof/Laws/State.lean ====
section
/-! SUPPORT. What each update of the state leaves alone: one lemma per field and update, and what it gives the field it
changes. Later proofs cite these and unfold no record update. -/

namespace Sys2Proof.Machine

variable (s : State)

/-! ## setThread -/

@[simp] theorem setThread_mem (tid : Nat) (t : Thread) : (setThread s tid t).mem = s.mem := rfl
@[simp] theorem setThread_poison (tid : Nat) (t : Thread) : (setThread s tid t).poison = s.poison := rfl
@[simp] theorem setThread_cxlCap (tid : Nat) (t : Thread) : (setThread s tid t).cxlCap = s.cxlCap := rfl
@[simp] theorem setThread_clusters (tid : Nat) (t : Thread) : (setThread s tid t).clusters = s.clusters := rfl
@[simp] theorem setThread_launches (tid : Nat) (t : Thread) : (setThread s tid t).launches = s.launches := rfl
@[simp] theorem setThread_inflight (tid : Nat) (t : Thread) : (setThread s tid t).inflight = s.inflight := rfl
@[simp] theorem setThread_dropped (tid : Nat) (t : Thread) : (setThread s tid t).dropped = s.dropped := rfl
@[simp] theorem setThread_walks (tid : Nat) (t : Thread) : (setThread s tid t).walks = s.walks := rfl
@[simp] theorem setThread_waiters (tid : Nat) (t : Thread) : (setThread s tid t).waiters = s.waiters := rfl
@[simp] theorem setThread_releases (tid : Nat) (t : Thread) : (setThread s tid t).releases = s.releases := rfl
@[simp] theorem setThread_bindings (tid : Nat) (t : Thread) : (setThread s tid t).bindings = s.bindings := rfl
@[simp] theorem setThread_barriers (tid : Nat) (t : Thread) : (setThread s tid t).barriers = s.barriers := rfl
@[simp] theorem setThread_pubs (tid : Nat) (t : Thread) : (setThread s tid t).pubs = s.pubs := rfl
@[simp] theorem setThread_queues (tid : Nat) (t : Thread) : (setThread s tid t).queues = s.queues := rfl
@[simp] theorem setThread_scan (tid : Nat) (t : Thread) : (setThread s tid t).scan = s.scan := rfl
@[simp] theorem setThread_candidate (tid : Nat) (t : Thread) : (setThread s tid t).candidate = s.candidate := rfl
@[simp] theorem setThread_wmk (tid : Nat) (t : Thread) : (setThread s tid t).wmk = s.wmk := rfl
@[simp] theorem setThread_cycles (tid : Nat) (t : Thread) : (setThread s tid t).cycles = s.cycles := rfl
@[simp] theorem setThread_power (tid : Nat) (t : Thread) : (setThread s tid t).power = s.power := rfl
@[simp] theorem setThread_dieMode (tid : Nat) (t : Thread) : (setThread s tid t).dieMode = s.dieMode := rfl
@[simp] theorem setThread_fence (tid : Nat) (t : Thread) : (setThread s tid t).fence = s.fence := rfl
@[simp] theorem setThread_tally (tid : Nat) (t : Thread) : (setThread s tid t).tally = s.tally := rfl
@[simp] theorem setThread_votes (tid : Nat) (t : Thread) : (setThread s tid t).votes = s.votes := rfl
@[simp] theorem setThread_appeals (tid : Nat) (t : Thread) : (setThread s tid t).appeals = s.appeals := rfl
@[simp] theorem setThread_obs (tid : Nat) (t : Thread) : (setThread s tid t).obs = s.obs := rfl
@[simp] theorem setThread_bcasts (tid : Nat) (t : Thread) : (setThread s tid t).bcasts = s.bcasts := rfl
@[simp] theorem setThread_bypassed (tid : Nat) (t : Thread) : (setThread s tid t).bypassed = s.bypassed := rfl
@[simp] theorem setThread_silent (tid : Nat) (t : Thread) : (setThread s tid t).silent = s.silent := rfl
@[simp] theorem setThread_testFailed (tid : Nat) (t : Thread) : (setThread s tid t).testFailed = s.testFailed := rfl
@[simp] theorem setThread_appealing (tid : Nat) (t : Thread) : (setThread s tid t).appealing = s.appealing := rfl
@[simp] theorem setThread_beats (tid : Nat) (t : Thread) : (setThread s tid t).beats = s.beats := rfl
@[simp] theorem setThread_beatSeq (tid : Nat) (t : Thread) : (setThread s tid t).beatSeq = s.beatSeq := rfl
@[simp] theorem setThread_ticks (tid : Nat) (t : Thread) : (setThread s tid t).ticks = s.ticks := rfl
@[simp] theorem setThread_drains (tid : Nat) (t : Thread) : (setThread s tid t).drains = s.drains := rfl
@[simp] theorem setThread_counters (tid : Nat) (t : Thread) : (setThread s tid t).counters = s.counters := rfl
@[simp] theorem setThread_snaps (tid : Nat) (t : Thread) : (setThread s tid t).snaps = s.snaps := rfl
@[simp] theorem setThread_trigPosted (tid : Nat) (t : Thread) : (setThread s tid t).trigPosted = s.trigPosted := rfl
@[simp] theorem setThread_trigRound (tid : Nat) (t : Thread) : (setThread s tid t).trigRound = s.trigRound := rfl
@[simp] theorem setThread_snapSeq (tid : Nat) (t : Thread) : (setThread s tid t).snapSeq = s.snapSeq := rfl
@[simp] theorem setThread_ports (tid : Nat) (t : Thread) : (setThread s tid t).ports = s.ports := rfl
@[simp] theorem setThread_driver (tid : Nat) (t : Thread) : (setThread s tid t).driver = s.driver := rfl
@[simp] theorem setThread_events (tid : Nat) (t : Thread) : (setThread s tid t).events = s.events := rfl
@[simp] theorem setThread_evLost (tid : Nat) (t : Thread) : (setThread s tid t).evLost = s.evLost := rfl
@[simp] theorem setThread_evHeld (tid : Nat) (t : Thread) : (setThread s tid t).evHeld = s.evHeld := rfl
@[simp] theorem setThread_hostReads (tid : Nat) (t : Thread) : (setThread s tid t).hostReads = s.hostReads := rfl
@[simp] theorem setThread_posted (tid : Nat) (t : Thread) : (setThread s tid t).posted = s.posted := rfl
@[simp] theorem setThread_portOut (tid : Nat) (t : Thread) : (setThread s tid t).portOut = s.portOut := rfl
@[simp] theorem setThread_colls (tid : Nat) (t : Thread) : (setThread s tid t).colls = s.colls := rfl
@[simp] theorem setThread_collUses (tid : Nat) (t : Thread) : (setThread s tid t).collUses = s.collUses := rfl
@[simp] theorem setThread_lostTables (tid : Nat) (t : Thread) : (setThread s tid t).lostTables = s.lostTables := rfl
@[simp] theorem setThread_banks (tid : Nat) (t : Thread) : (setThread s tid t).banks = s.banks := rfl
@[simp] theorem setThread_fw (tid : Nat) (t : Thread) : (setThread s tid t).fw = s.fw := rfl
@[simp] theorem setThread_image (tid : Nat) (t : Thread) : (setThread s tid t).image = s.image := rfl
@[simp] theorem setThread_migration (tid : Nat) (t : Thread) : (setThread s tid t).migration = s.migration := rfl
@[simp] theorem setThread_inval (tid : Nat) (t : Thread) : (setThread s tid t).inval = s.inval := rfl
@[simp] theorem setThread_migrate (tid : Nat) (t : Thread) : (setThread s tid t).migrate = s.migrate := rfl
@[simp] theorem setThread_agenda (tid : Nat) (t : Thread) : (setThread s tid t).agenda = s.agenda := rfl
@[simp] theorem setThread_cur (tid : Nat) (t : Thread) : (setThread s tid t).cur = s.cur := rfl
@[simp] theorem setThread_uid (tid : Nat) (t : Thread) : (setThread s tid t).uid = s.uid := rfl
@[simp] theorem setThread_tick (tid : Nat) (t : Thread) : (setThread s tid t).tick = s.tick := rfl

/-! ## dropThread -/

@[simp] theorem dropThread_mem (tid : Nat) : (dropThread s tid).mem = s.mem := rfl
@[simp] theorem dropThread_poison (tid : Nat) : (dropThread s tid).poison = s.poison := rfl
@[simp] theorem dropThread_cxlCap (tid : Nat) : (dropThread s tid).cxlCap = s.cxlCap := rfl
@[simp] theorem dropThread_clusters (tid : Nat) : (dropThread s tid).clusters = s.clusters := rfl
@[simp] theorem dropThread_launches (tid : Nat) : (dropThread s tid).launches = s.launches := rfl
@[simp] theorem dropThread_inflight (tid : Nat) : (dropThread s tid).inflight = s.inflight := rfl
@[simp] theorem dropThread_dropped (tid : Nat) : (dropThread s tid).dropped = s.dropped := rfl
@[simp] theorem dropThread_walks (tid : Nat) : (dropThread s tid).walks = s.walks := rfl
@[simp] theorem dropThread_waiters (tid : Nat) : (dropThread s tid).waiters = s.waiters := rfl
@[simp] theorem dropThread_releases (tid : Nat) : (dropThread s tid).releases = s.releases := rfl
@[simp] theorem dropThread_bindings (tid : Nat) : (dropThread s tid).bindings = s.bindings := rfl
@[simp] theorem dropThread_barriers (tid : Nat) : (dropThread s tid).barriers = s.barriers := rfl
@[simp] theorem dropThread_pubs (tid : Nat) : (dropThread s tid).pubs = s.pubs := rfl
@[simp] theorem dropThread_queues (tid : Nat) : (dropThread s tid).queues = s.queues := rfl
@[simp] theorem dropThread_scan (tid : Nat) : (dropThread s tid).scan = s.scan := rfl
@[simp] theorem dropThread_candidate (tid : Nat) : (dropThread s tid).candidate = s.candidate := rfl
@[simp] theorem dropThread_wmk (tid : Nat) : (dropThread s tid).wmk = s.wmk := rfl
@[simp] theorem dropThread_cycles (tid : Nat) : (dropThread s tid).cycles = s.cycles := rfl
@[simp] theorem dropThread_power (tid : Nat) : (dropThread s tid).power = s.power := rfl
@[simp] theorem dropThread_dieMode (tid : Nat) : (dropThread s tid).dieMode = s.dieMode := rfl
@[simp] theorem dropThread_fence (tid : Nat) : (dropThread s tid).fence = s.fence := rfl
@[simp] theorem dropThread_tally (tid : Nat) : (dropThread s tid).tally = s.tally := rfl
@[simp] theorem dropThread_votes (tid : Nat) : (dropThread s tid).votes = s.votes := rfl
@[simp] theorem dropThread_appeals (tid : Nat) : (dropThread s tid).appeals = s.appeals := rfl
@[simp] theorem dropThread_obs (tid : Nat) : (dropThread s tid).obs = s.obs := rfl
@[simp] theorem dropThread_bcasts (tid : Nat) : (dropThread s tid).bcasts = s.bcasts := rfl
@[simp] theorem dropThread_bypassed (tid : Nat) : (dropThread s tid).bypassed = s.bypassed := rfl
@[simp] theorem dropThread_silent (tid : Nat) : (dropThread s tid).silent = s.silent := rfl
@[simp] theorem dropThread_testFailed (tid : Nat) : (dropThread s tid).testFailed = s.testFailed := rfl
@[simp] theorem dropThread_appealing (tid : Nat) : (dropThread s tid).appealing = s.appealing := rfl
@[simp] theorem dropThread_beats (tid : Nat) : (dropThread s tid).beats = s.beats := rfl
@[simp] theorem dropThread_beatSeq (tid : Nat) : (dropThread s tid).beatSeq = s.beatSeq := rfl
@[simp] theorem dropThread_ticks (tid : Nat) : (dropThread s tid).ticks = s.ticks := rfl
@[simp] theorem dropThread_drains (tid : Nat) : (dropThread s tid).drains = s.drains := rfl
@[simp] theorem dropThread_counters (tid : Nat) : (dropThread s tid).counters = s.counters := rfl
@[simp] theorem dropThread_snaps (tid : Nat) : (dropThread s tid).snaps = s.snaps := rfl
@[simp] theorem dropThread_trigPosted (tid : Nat) : (dropThread s tid).trigPosted = s.trigPosted := rfl
@[simp] theorem dropThread_trigRound (tid : Nat) : (dropThread s tid).trigRound = s.trigRound := rfl
@[simp] theorem dropThread_snapSeq (tid : Nat) : (dropThread s tid).snapSeq = s.snapSeq := rfl
@[simp] theorem dropThread_ports (tid : Nat) : (dropThread s tid).ports = s.ports := rfl
@[simp] theorem dropThread_driver (tid : Nat) : (dropThread s tid).driver = s.driver := rfl
@[simp] theorem dropThread_events (tid : Nat) : (dropThread s tid).events = s.events := rfl
@[simp] theorem dropThread_evLost (tid : Nat) : (dropThread s tid).evLost = s.evLost := rfl
@[simp] theorem dropThread_evHeld (tid : Nat) : (dropThread s tid).evHeld = s.evHeld := rfl
@[simp] theorem dropThread_hostReads (tid : Nat) : (dropThread s tid).hostReads = s.hostReads := rfl
@[simp] theorem dropThread_posted (tid : Nat) : (dropThread s tid).posted = s.posted := rfl
@[simp] theorem dropThread_portOut (tid : Nat) : (dropThread s tid).portOut = s.portOut := rfl
@[simp] theorem dropThread_colls (tid : Nat) : (dropThread s tid).colls = s.colls := rfl
@[simp] theorem dropThread_collUses (tid : Nat) : (dropThread s tid).collUses = s.collUses := rfl
@[simp] theorem dropThread_lostTables (tid : Nat) : (dropThread s tid).lostTables = s.lostTables := rfl
@[simp] theorem dropThread_banks (tid : Nat) : (dropThread s tid).banks = s.banks := rfl
@[simp] theorem dropThread_fw (tid : Nat) : (dropThread s tid).fw = s.fw := rfl
@[simp] theorem dropThread_image (tid : Nat) : (dropThread s tid).image = s.image := rfl
@[simp] theorem dropThread_migration (tid : Nat) : (dropThread s tid).migration = s.migration := rfl
@[simp] theorem dropThread_inval (tid : Nat) : (dropThread s tid).inval = s.inval := rfl
@[simp] theorem dropThread_migrate (tid : Nat) : (dropThread s tid).migrate = s.migrate := rfl
@[simp] theorem dropThread_agenda (tid : Nat) : (dropThread s tid).agenda = s.agenda := rfl
@[simp] theorem dropThread_cur (tid : Nat) : (dropThread s tid).cur = s.cur := rfl
@[simp] theorem dropThread_uid (tid : Nat) : (dropThread s tid).uid = s.uid := rfl
@[simp] theorem dropThread_tick (tid : Nat) : (dropThread s tid).tick = s.tick := rfl

/-! ## setCluster -/

@[simp] theorem setCluster_mem (cl : Nat) (c : Cluster) : (setCluster s cl c).mem = s.mem := rfl
@[simp] theorem setCluster_poison (cl : Nat) (c : Cluster) : (setCluster s cl c).poison = s.poison := rfl
@[simp] theorem setCluster_cxlCap (cl : Nat) (c : Cluster) : (setCluster s cl c).cxlCap = s.cxlCap := rfl
@[simp] theorem setCluster_threads (cl : Nat) (c : Cluster) : (setCluster s cl c).threads = s.threads := rfl
@[simp] theorem setCluster_launches (cl : Nat) (c : Cluster) : (setCluster s cl c).launches = s.launches := rfl
@[simp] theorem setCluster_inflight (cl : Nat) (c : Cluster) : (setCluster s cl c).inflight = s.inflight := rfl
@[simp] theorem setCluster_dropped (cl : Nat) (c : Cluster) : (setCluster s cl c).dropped = s.dropped := rfl
@[simp] theorem setCluster_walks (cl : Nat) (c : Cluster) : (setCluster s cl c).walks = s.walks := rfl
@[simp] theorem setCluster_waiters (cl : Nat) (c : Cluster) : (setCluster s cl c).waiters = s.waiters := rfl
@[simp] theorem setCluster_releases (cl : Nat) (c : Cluster) : (setCluster s cl c).releases = s.releases := rfl
@[simp] theorem setCluster_bindings (cl : Nat) (c : Cluster) : (setCluster s cl c).bindings = s.bindings := rfl
@[simp] theorem setCluster_barriers (cl : Nat) (c : Cluster) : (setCluster s cl c).barriers = s.barriers := rfl
@[simp] theorem setCluster_pubs (cl : Nat) (c : Cluster) : (setCluster s cl c).pubs = s.pubs := rfl
@[simp] theorem setCluster_queues (cl : Nat) (c : Cluster) : (setCluster s cl c).queues = s.queues := rfl
@[simp] theorem setCluster_scan (cl : Nat) (c : Cluster) : (setCluster s cl c).scan = s.scan := rfl
@[simp] theorem setCluster_candidate (cl : Nat) (c : Cluster) : (setCluster s cl c).candidate = s.candidate := rfl
@[simp] theorem setCluster_wmk (cl : Nat) (c : Cluster) : (setCluster s cl c).wmk = s.wmk := rfl
@[simp] theorem setCluster_cycles (cl : Nat) (c : Cluster) : (setCluster s cl c).cycles = s.cycles := rfl
@[simp] theorem setCluster_power (cl : Nat) (c : Cluster) : (setCluster s cl c).power = s.power := rfl
@[simp] theorem setCluster_dieMode (cl : Nat) (c : Cluster) : (setCluster s cl c).dieMode = s.dieMode := rfl
@[simp] theorem setCluster_fence (cl : Nat) (c : Cluster) : (setCluster s cl c).fence = s.fence := rfl
@[simp] theorem setCluster_tally (cl : Nat) (c : Cluster) : (setCluster s cl c).tally = s.tally := rfl
@[simp] theorem setCluster_votes (cl : Nat) (c : Cluster) : (setCluster s cl c).votes = s.votes := rfl
@[simp] theorem setCluster_appeals (cl : Nat) (c : Cluster) : (setCluster s cl c).appeals = s.appeals := rfl
@[simp] theorem setCluster_obs (cl : Nat) (c : Cluster) : (setCluster s cl c).obs = s.obs := rfl
@[simp] theorem setCluster_bcasts (cl : Nat) (c : Cluster) : (setCluster s cl c).bcasts = s.bcasts := rfl
@[simp] theorem setCluster_bypassed (cl : Nat) (c : Cluster) : (setCluster s cl c).bypassed = s.bypassed := rfl
@[simp] theorem setCluster_silent (cl : Nat) (c : Cluster) : (setCluster s cl c).silent = s.silent := rfl
@[simp] theorem setCluster_testFailed (cl : Nat) (c : Cluster) : (setCluster s cl c).testFailed = s.testFailed := rfl
@[simp] theorem setCluster_appealing (cl : Nat) (c : Cluster) : (setCluster s cl c).appealing = s.appealing := rfl
@[simp] theorem setCluster_beats (cl : Nat) (c : Cluster) : (setCluster s cl c).beats = s.beats := rfl
@[simp] theorem setCluster_beatSeq (cl : Nat) (c : Cluster) : (setCluster s cl c).beatSeq = s.beatSeq := rfl
@[simp] theorem setCluster_ticks (cl : Nat) (c : Cluster) : (setCluster s cl c).ticks = s.ticks := rfl
@[simp] theorem setCluster_drains (cl : Nat) (c : Cluster) : (setCluster s cl c).drains = s.drains := rfl
@[simp] theorem setCluster_counters (cl : Nat) (c : Cluster) : (setCluster s cl c).counters = s.counters := rfl
@[simp] theorem setCluster_snaps (cl : Nat) (c : Cluster) : (setCluster s cl c).snaps = s.snaps := rfl
@[simp] theorem setCluster_trigPosted (cl : Nat) (c : Cluster) : (setCluster s cl c).trigPosted = s.trigPosted := rfl
@[simp] theorem setCluster_trigRound (cl : Nat) (c : Cluster) : (setCluster s cl c).trigRound = s.trigRound := rfl
@[simp] theorem setCluster_snapSeq (cl : Nat) (c : Cluster) : (setCluster s cl c).snapSeq = s.snapSeq := rfl
@[simp] theorem setCluster_ports (cl : Nat) (c : Cluster) : (setCluster s cl c).ports = s.ports := rfl
@[simp] theorem setCluster_driver (cl : Nat) (c : Cluster) : (setCluster s cl c).driver = s.driver := rfl
@[simp] theorem setCluster_events (cl : Nat) (c : Cluster) : (setCluster s cl c).events = s.events := rfl
@[simp] theorem setCluster_evLost (cl : Nat) (c : Cluster) : (setCluster s cl c).evLost = s.evLost := rfl
@[simp] theorem setCluster_evHeld (cl : Nat) (c : Cluster) : (setCluster s cl c).evHeld = s.evHeld := rfl
@[simp] theorem setCluster_hostReads (cl : Nat) (c : Cluster) : (setCluster s cl c).hostReads = s.hostReads := rfl
@[simp] theorem setCluster_posted (cl : Nat) (c : Cluster) : (setCluster s cl c).posted = s.posted := rfl
@[simp] theorem setCluster_portOut (cl : Nat) (c : Cluster) : (setCluster s cl c).portOut = s.portOut := rfl
@[simp] theorem setCluster_colls (cl : Nat) (c : Cluster) : (setCluster s cl c).colls = s.colls := rfl
@[simp] theorem setCluster_collUses (cl : Nat) (c : Cluster) : (setCluster s cl c).collUses = s.collUses := rfl
@[simp] theorem setCluster_lostTables (cl : Nat) (c : Cluster) : (setCluster s cl c).lostTables = s.lostTables := rfl
@[simp] theorem setCluster_banks (cl : Nat) (c : Cluster) : (setCluster s cl c).banks = s.banks := rfl
@[simp] theorem setCluster_fw (cl : Nat) (c : Cluster) : (setCluster s cl c).fw = s.fw := rfl
@[simp] theorem setCluster_image (cl : Nat) (c : Cluster) : (setCluster s cl c).image = s.image := rfl
@[simp] theorem setCluster_migration (cl : Nat) (c : Cluster) : (setCluster s cl c).migration = s.migration := rfl
@[simp] theorem setCluster_inval (cl : Nat) (c : Cluster) : (setCluster s cl c).inval = s.inval := rfl
@[simp] theorem setCluster_migrate (cl : Nat) (c : Cluster) : (setCluster s cl c).migrate = s.migrate := rfl
@[simp] theorem setCluster_agenda (cl : Nat) (c : Cluster) : (setCluster s cl c).agenda = s.agenda := rfl
@[simp] theorem setCluster_cur (cl : Nat) (c : Cluster) : (setCluster s cl c).cur = s.cur := rfl
@[simp] theorem setCluster_uid (cl : Nat) (c : Cluster) : (setCluster s cl c).uid = s.uid := rfl
@[simp] theorem setCluster_tick (cl : Nat) (c : Cluster) : (setCluster s cl c).tick = s.tick := rfl

/-! ## setQueue -/

@[simp] theorem setQueue_mem (q : Nat) (l : LQueue) : (setQueue s q l).mem = s.mem := rfl
@[simp] theorem setQueue_poison (q : Nat) (l : LQueue) : (setQueue s q l).poison = s.poison := rfl
@[simp] theorem setQueue_cxlCap (q : Nat) (l : LQueue) : (setQueue s q l).cxlCap = s.cxlCap := rfl
@[simp] theorem setQueue_threads (q : Nat) (l : LQueue) : (setQueue s q l).threads = s.threads := rfl
@[simp] theorem setQueue_clusters (q : Nat) (l : LQueue) : (setQueue s q l).clusters = s.clusters := rfl
@[simp] theorem setQueue_launches (q : Nat) (l : LQueue) : (setQueue s q l).launches = s.launches := rfl
@[simp] theorem setQueue_inflight (q : Nat) (l : LQueue) : (setQueue s q l).inflight = s.inflight := rfl
@[simp] theorem setQueue_dropped (q : Nat) (l : LQueue) : (setQueue s q l).dropped = s.dropped := rfl
@[simp] theorem setQueue_walks (q : Nat) (l : LQueue) : (setQueue s q l).walks = s.walks := rfl
@[simp] theorem setQueue_waiters (q : Nat) (l : LQueue) : (setQueue s q l).waiters = s.waiters := rfl
@[simp] theorem setQueue_releases (q : Nat) (l : LQueue) : (setQueue s q l).releases = s.releases := rfl
@[simp] theorem setQueue_bindings (q : Nat) (l : LQueue) : (setQueue s q l).bindings = s.bindings := rfl
@[simp] theorem setQueue_barriers (q : Nat) (l : LQueue) : (setQueue s q l).barriers = s.barriers := rfl
@[simp] theorem setQueue_pubs (q : Nat) (l : LQueue) : (setQueue s q l).pubs = s.pubs := rfl
@[simp] theorem setQueue_scan (q : Nat) (l : LQueue) : (setQueue s q l).scan = s.scan := rfl
@[simp] theorem setQueue_candidate (q : Nat) (l : LQueue) : (setQueue s q l).candidate = s.candidate := rfl
@[simp] theorem setQueue_wmk (q : Nat) (l : LQueue) : (setQueue s q l).wmk = s.wmk := rfl
@[simp] theorem setQueue_cycles (q : Nat) (l : LQueue) : (setQueue s q l).cycles = s.cycles := rfl
@[simp] theorem setQueue_power (q : Nat) (l : LQueue) : (setQueue s q l).power = s.power := rfl
@[simp] theorem setQueue_dieMode (q : Nat) (l : LQueue) : (setQueue s q l).dieMode = s.dieMode := rfl
@[simp] theorem setQueue_fence (q : Nat) (l : LQueue) : (setQueue s q l).fence = s.fence := rfl
@[simp] theorem setQueue_tally (q : Nat) (l : LQueue) : (setQueue s q l).tally = s.tally := rfl
@[simp] theorem setQueue_votes (q : Nat) (l : LQueue) : (setQueue s q l).votes = s.votes := rfl
@[simp] theorem setQueue_appeals (q : Nat) (l : LQueue) : (setQueue s q l).appeals = s.appeals := rfl
@[simp] theorem setQueue_obs (q : Nat) (l : LQueue) : (setQueue s q l).obs = s.obs := rfl
@[simp] theorem setQueue_bcasts (q : Nat) (l : LQueue) : (setQueue s q l).bcasts = s.bcasts := rfl
@[simp] theorem setQueue_bypassed (q : Nat) (l : LQueue) : (setQueue s q l).bypassed = s.bypassed := rfl
@[simp] theorem setQueue_silent (q : Nat) (l : LQueue) : (setQueue s q l).silent = s.silent := rfl
@[simp] theorem setQueue_testFailed (q : Nat) (l : LQueue) : (setQueue s q l).testFailed = s.testFailed := rfl
@[simp] theorem setQueue_appealing (q : Nat) (l : LQueue) : (setQueue s q l).appealing = s.appealing := rfl
@[simp] theorem setQueue_beats (q : Nat) (l : LQueue) : (setQueue s q l).beats = s.beats := rfl
@[simp] theorem setQueue_beatSeq (q : Nat) (l : LQueue) : (setQueue s q l).beatSeq = s.beatSeq := rfl
@[simp] theorem setQueue_ticks (q : Nat) (l : LQueue) : (setQueue s q l).ticks = s.ticks := rfl
@[simp] theorem setQueue_drains (q : Nat) (l : LQueue) : (setQueue s q l).drains = s.drains := rfl
@[simp] theorem setQueue_counters (q : Nat) (l : LQueue) : (setQueue s q l).counters = s.counters := rfl
@[simp] theorem setQueue_snaps (q : Nat) (l : LQueue) : (setQueue s q l).snaps = s.snaps := rfl
@[simp] theorem setQueue_trigPosted (q : Nat) (l : LQueue) : (setQueue s q l).trigPosted = s.trigPosted := rfl
@[simp] theorem setQueue_trigRound (q : Nat) (l : LQueue) : (setQueue s q l).trigRound = s.trigRound := rfl
@[simp] theorem setQueue_snapSeq (q : Nat) (l : LQueue) : (setQueue s q l).snapSeq = s.snapSeq := rfl
@[simp] theorem setQueue_ports (q : Nat) (l : LQueue) : (setQueue s q l).ports = s.ports := rfl
@[simp] theorem setQueue_driver (q : Nat) (l : LQueue) : (setQueue s q l).driver = s.driver := rfl
@[simp] theorem setQueue_events (q : Nat) (l : LQueue) : (setQueue s q l).events = s.events := rfl
@[simp] theorem setQueue_evLost (q : Nat) (l : LQueue) : (setQueue s q l).evLost = s.evLost := rfl
@[simp] theorem setQueue_evHeld (q : Nat) (l : LQueue) : (setQueue s q l).evHeld = s.evHeld := rfl
@[simp] theorem setQueue_hostReads (q : Nat) (l : LQueue) : (setQueue s q l).hostReads = s.hostReads := rfl
@[simp] theorem setQueue_posted (q : Nat) (l : LQueue) : (setQueue s q l).posted = s.posted := rfl
@[simp] theorem setQueue_portOut (q : Nat) (l : LQueue) : (setQueue s q l).portOut = s.portOut := rfl
@[simp] theorem setQueue_colls (q : Nat) (l : LQueue) : (setQueue s q l).colls = s.colls := rfl
@[simp] theorem setQueue_collUses (q : Nat) (l : LQueue) : (setQueue s q l).collUses = s.collUses := rfl
@[simp] theorem setQueue_lostTables (q : Nat) (l : LQueue) : (setQueue s q l).lostTables = s.lostTables := rfl
@[simp] theorem setQueue_banks (q : Nat) (l : LQueue) : (setQueue s q l).banks = s.banks := rfl
@[simp] theorem setQueue_fw (q : Nat) (l : LQueue) : (setQueue s q l).fw = s.fw := rfl
@[simp] theorem setQueue_image (q : Nat) (l : LQueue) : (setQueue s q l).image = s.image := rfl
@[simp] theorem setQueue_migration (q : Nat) (l : LQueue) : (setQueue s q l).migration = s.migration := rfl
@[simp] theorem setQueue_inval (q : Nat) (l : LQueue) : (setQueue s q l).inval = s.inval := rfl
@[simp] theorem setQueue_migrate (q : Nat) (l : LQueue) : (setQueue s q l).migrate = s.migrate := rfl
@[simp] theorem setQueue_agenda (q : Nat) (l : LQueue) : (setQueue s q l).agenda = s.agenda := rfl
@[simp] theorem setQueue_cur (q : Nat) (l : LQueue) : (setQueue s q l).cur = s.cur := rfl
@[simp] theorem setQueue_uid (q : Nat) (l : LQueue) : (setQueue s q l).uid = s.uid := rfl
@[simp] theorem setQueue_tick (q : Nat) (l : LQueue) : (setQueue s q l).tick = s.tick := rfl

/-! ## setDrv -/

@[simp] theorem setDrv_mem (off : Nat) (v : Word) : (setDrv s off v).mem = s.mem := rfl
@[simp] theorem setDrv_poison (off : Nat) (v : Word) : (setDrv s off v).poison = s.poison := rfl
@[simp] theorem setDrv_cxlCap (off : Nat) (v : Word) : (setDrv s off v).cxlCap = s.cxlCap := rfl
@[simp] theorem setDrv_threads (off : Nat) (v : Word) : (setDrv s off v).threads = s.threads := rfl
@[simp] theorem setDrv_clusters (off : Nat) (v : Word) : (setDrv s off v).clusters = s.clusters := rfl
@[simp] theorem setDrv_launches (off : Nat) (v : Word) : (setDrv s off v).launches = s.launches := rfl
@[simp] theorem setDrv_inflight (off : Nat) (v : Word) : (setDrv s off v).inflight = s.inflight := rfl
@[simp] theorem setDrv_dropped (off : Nat) (v : Word) : (setDrv s off v).dropped = s.dropped := rfl
@[simp] theorem setDrv_walks (off : Nat) (v : Word) : (setDrv s off v).walks = s.walks := rfl
@[simp] theorem setDrv_waiters (off : Nat) (v : Word) : (setDrv s off v).waiters = s.waiters := rfl
@[simp] theorem setDrv_releases (off : Nat) (v : Word) : (setDrv s off v).releases = s.releases := rfl
@[simp] theorem setDrv_bindings (off : Nat) (v : Word) : (setDrv s off v).bindings = s.bindings := rfl
@[simp] theorem setDrv_barriers (off : Nat) (v : Word) : (setDrv s off v).barriers = s.barriers := rfl
@[simp] theorem setDrv_pubs (off : Nat) (v : Word) : (setDrv s off v).pubs = s.pubs := rfl
@[simp] theorem setDrv_queues (off : Nat) (v : Word) : (setDrv s off v).queues = s.queues := rfl
@[simp] theorem setDrv_scan (off : Nat) (v : Word) : (setDrv s off v).scan = s.scan := rfl
@[simp] theorem setDrv_candidate (off : Nat) (v : Word) : (setDrv s off v).candidate = s.candidate := rfl
@[simp] theorem setDrv_wmk (off : Nat) (v : Word) : (setDrv s off v).wmk = s.wmk := rfl
@[simp] theorem setDrv_cycles (off : Nat) (v : Word) : (setDrv s off v).cycles = s.cycles := rfl
@[simp] theorem setDrv_power (off : Nat) (v : Word) : (setDrv s off v).power = s.power := rfl
@[simp] theorem setDrv_dieMode (off : Nat) (v : Word) : (setDrv s off v).dieMode = s.dieMode := rfl
@[simp] theorem setDrv_fence (off : Nat) (v : Word) : (setDrv s off v).fence = s.fence := rfl
@[simp] theorem setDrv_tally (off : Nat) (v : Word) : (setDrv s off v).tally = s.tally := rfl
@[simp] theorem setDrv_votes (off : Nat) (v : Word) : (setDrv s off v).votes = s.votes := rfl
@[simp] theorem setDrv_appeals (off : Nat) (v : Word) : (setDrv s off v).appeals = s.appeals := rfl
@[simp] theorem setDrv_obs (off : Nat) (v : Word) : (setDrv s off v).obs = s.obs := rfl
@[simp] theorem setDrv_bcasts (off : Nat) (v : Word) : (setDrv s off v).bcasts = s.bcasts := rfl
@[simp] theorem setDrv_bypassed (off : Nat) (v : Word) : (setDrv s off v).bypassed = s.bypassed := rfl
@[simp] theorem setDrv_silent (off : Nat) (v : Word) : (setDrv s off v).silent = s.silent := rfl
@[simp] theorem setDrv_testFailed (off : Nat) (v : Word) : (setDrv s off v).testFailed = s.testFailed := rfl
@[simp] theorem setDrv_appealing (off : Nat) (v : Word) : (setDrv s off v).appealing = s.appealing := rfl
@[simp] theorem setDrv_beats (off : Nat) (v : Word) : (setDrv s off v).beats = s.beats := rfl
@[simp] theorem setDrv_beatSeq (off : Nat) (v : Word) : (setDrv s off v).beatSeq = s.beatSeq := rfl
@[simp] theorem setDrv_ticks (off : Nat) (v : Word) : (setDrv s off v).ticks = s.ticks := rfl
@[simp] theorem setDrv_drains (off : Nat) (v : Word) : (setDrv s off v).drains = s.drains := rfl
@[simp] theorem setDrv_counters (off : Nat) (v : Word) : (setDrv s off v).counters = s.counters := rfl
@[simp] theorem setDrv_snaps (off : Nat) (v : Word) : (setDrv s off v).snaps = s.snaps := rfl
@[simp] theorem setDrv_trigPosted (off : Nat) (v : Word) : (setDrv s off v).trigPosted = s.trigPosted := rfl
@[simp] theorem setDrv_trigRound (off : Nat) (v : Word) : (setDrv s off v).trigRound = s.trigRound := rfl
@[simp] theorem setDrv_snapSeq (off : Nat) (v : Word) : (setDrv s off v).snapSeq = s.snapSeq := rfl
@[simp] theorem setDrv_ports (off : Nat) (v : Word) : (setDrv s off v).ports = s.ports := rfl
@[simp] theorem setDrv_events (off : Nat) (v : Word) : (setDrv s off v).events = s.events := rfl
@[simp] theorem setDrv_evLost (off : Nat) (v : Word) : (setDrv s off v).evLost = s.evLost := rfl
@[simp] theorem setDrv_evHeld (off : Nat) (v : Word) : (setDrv s off v).evHeld = s.evHeld := rfl
@[simp] theorem setDrv_hostReads (off : Nat) (v : Word) : (setDrv s off v).hostReads = s.hostReads := rfl
@[simp] theorem setDrv_posted (off : Nat) (v : Word) : (setDrv s off v).posted = s.posted := rfl
@[simp] theorem setDrv_portOut (off : Nat) (v : Word) : (setDrv s off v).portOut = s.portOut := rfl
@[simp] theorem setDrv_colls (off : Nat) (v : Word) : (setDrv s off v).colls = s.colls := rfl
@[simp] theorem setDrv_collUses (off : Nat) (v : Word) : (setDrv s off v).collUses = s.collUses := rfl
@[simp] theorem setDrv_lostTables (off : Nat) (v : Word) : (setDrv s off v).lostTables = s.lostTables := rfl
@[simp] theorem setDrv_banks (off : Nat) (v : Word) : (setDrv s off v).banks = s.banks := rfl
@[simp] theorem setDrv_fw (off : Nat) (v : Word) : (setDrv s off v).fw = s.fw := rfl
@[simp] theorem setDrv_image (off : Nat) (v : Word) : (setDrv s off v).image = s.image := rfl
@[simp] theorem setDrv_migration (off : Nat) (v : Word) : (setDrv s off v).migration = s.migration := rfl
@[simp] theorem setDrv_inval (off : Nat) (v : Word) : (setDrv s off v).inval = s.inval := rfl
@[simp] theorem setDrv_migrate (off : Nat) (v : Word) : (setDrv s off v).migrate = s.migrate := rfl
@[simp] theorem setDrv_agenda (off : Nat) (v : Word) : (setDrv s off v).agenda = s.agenda := rfl
@[simp] theorem setDrv_cur (off : Nat) (v : Word) : (setDrv s off v).cur = s.cur := rfl
@[simp] theorem setDrv_uid (off : Nat) (v : Word) : (setDrv s off v).uid = s.uid := rfl
@[simp] theorem setDrv_tick (off : Nat) (v : Word) : (setDrv s off v).tick = s.tick := rfl

/-! ## performWrite -/

@[simp] theorem performWrite_cxlCap (a : Nat) (l : List Byte) : (performWrite s a l).cxlCap = s.cxlCap := rfl
@[simp] theorem performWrite_threads (a : Nat) (l : List Byte) : (performWrite s a l).threads = s.threads := rfl
@[simp] theorem performWrite_clusters (a : Nat) (l : List Byte) : (performWrite s a l).clusters = s.clusters := rfl
@[simp] theorem performWrite_launches (a : Nat) (l : List Byte) : (performWrite s a l).launches = s.launches := rfl
@[simp] theorem performWrite_inflight (a : Nat) (l : List Byte) : (performWrite s a l).inflight = s.inflight := rfl
@[simp] theorem performWrite_dropped (a : Nat) (l : List Byte) : (performWrite s a l).dropped = s.dropped := rfl
@[simp] theorem performWrite_walks (a : Nat) (l : List Byte) : (performWrite s a l).walks = s.walks := rfl
@[simp] theorem performWrite_waiters (a : Nat) (l : List Byte) : (performWrite s a l).waiters = s.waiters := rfl
@[simp] theorem performWrite_releases (a : Nat) (l : List Byte) : (performWrite s a l).releases = s.releases := rfl
@[simp] theorem performWrite_bindings (a : Nat) (l : List Byte) : (performWrite s a l).bindings = s.bindings := rfl
@[simp] theorem performWrite_barriers (a : Nat) (l : List Byte) : (performWrite s a l).barriers = s.barriers := rfl
@[simp] theorem performWrite_pubs (a : Nat) (l : List Byte) : (performWrite s a l).pubs = s.pubs := rfl
@[simp] theorem performWrite_queues (a : Nat) (l : List Byte) : (performWrite s a l).queues = s.queues := rfl
@[simp] theorem performWrite_scan (a : Nat) (l : List Byte) : (performWrite s a l).scan = s.scan := rfl
@[simp] theorem performWrite_candidate (a : Nat) (l : List Byte) : (performWrite s a l).candidate = s.candidate := rfl
@[simp] theorem performWrite_wmk (a : Nat) (l : List Byte) : (performWrite s a l).wmk = s.wmk := rfl
@[simp] theorem performWrite_cycles (a : Nat) (l : List Byte) : (performWrite s a l).cycles = s.cycles := rfl
@[simp] theorem performWrite_power (a : Nat) (l : List Byte) : (performWrite s a l).power = s.power := rfl
@[simp] theorem performWrite_dieMode (a : Nat) (l : List Byte) : (performWrite s a l).dieMode = s.dieMode := rfl
@[simp] theorem performWrite_fence (a : Nat) (l : List Byte) : (performWrite s a l).fence = s.fence := rfl
@[simp] theorem performWrite_tally (a : Nat) (l : List Byte) : (performWrite s a l).tally = s.tally := rfl
@[simp] theorem performWrite_votes (a : Nat) (l : List Byte) : (performWrite s a l).votes = s.votes := rfl
@[simp] theorem performWrite_appeals (a : Nat) (l : List Byte) : (performWrite s a l).appeals = s.appeals := rfl
@[simp] theorem performWrite_obs (a : Nat) (l : List Byte) : (performWrite s a l).obs = s.obs := rfl
@[simp] theorem performWrite_bcasts (a : Nat) (l : List Byte) : (performWrite s a l).bcasts = s.bcasts := rfl
@[simp] theorem performWrite_bypassed (a : Nat) (l : List Byte) : (performWrite s a l).bypassed = s.bypassed := rfl
@[simp] theorem performWrite_silent (a : Nat) (l : List Byte) : (performWrite s a l).silent = s.silent := rfl
@[simp] theorem performWrite_testFailed (a : Nat) (l : List Byte) : (performWrite s a l).testFailed = s.testFailed := rfl
@[simp] theorem performWrite_appealing (a : Nat) (l : List Byte) : (performWrite s a l).appealing = s.appealing := rfl
@[simp] theorem performWrite_beats (a : Nat) (l : List Byte) : (performWrite s a l).beats = s.beats := rfl
@[simp] theorem performWrite_beatSeq (a : Nat) (l : List Byte) : (performWrite s a l).beatSeq = s.beatSeq := rfl
@[simp] theorem performWrite_ticks (a : Nat) (l : List Byte) : (performWrite s a l).ticks = s.ticks := rfl
@[simp] theorem performWrite_drains (a : Nat) (l : List Byte) : (performWrite s a l).drains = s.drains := rfl
@[simp] theorem performWrite_counters (a : Nat) (l : List Byte) : (performWrite s a l).counters = s.counters := rfl
@[simp] theorem performWrite_snaps (a : Nat) (l : List Byte) : (performWrite s a l).snaps = s.snaps := rfl
@[simp] theorem performWrite_trigPosted (a : Nat) (l : List Byte) : (performWrite s a l).trigPosted = s.trigPosted := rfl
@[simp] theorem performWrite_trigRound (a : Nat) (l : List Byte) : (performWrite s a l).trigRound = s.trigRound := rfl
@[simp] theorem performWrite_snapSeq (a : Nat) (l : List Byte) : (performWrite s a l).snapSeq = s.snapSeq := rfl
@[simp] theorem performWrite_ports (a : Nat) (l : List Byte) : (performWrite s a l).ports = s.ports := rfl
@[simp] theorem performWrite_driver (a : Nat) (l : List Byte) : (performWrite s a l).driver = s.driver := rfl
@[simp] theorem performWrite_events (a : Nat) (l : List Byte) : (performWrite s a l).events = s.events := rfl
@[simp] theorem performWrite_evLost (a : Nat) (l : List Byte) : (performWrite s a l).evLost = s.evLost := rfl
@[simp] theorem performWrite_evHeld (a : Nat) (l : List Byte) : (performWrite s a l).evHeld = s.evHeld := rfl
@[simp] theorem performWrite_hostReads (a : Nat) (l : List Byte) : (performWrite s a l).hostReads = s.hostReads := rfl
@[simp] theorem performWrite_posted (a : Nat) (l : List Byte) : (performWrite s a l).posted = s.posted := rfl
@[simp] theorem performWrite_portOut (a : Nat) (l : List Byte) : (performWrite s a l).portOut = s.portOut := rfl
@[simp] theorem performWrite_colls (a : Nat) (l : List Byte) : (performWrite s a l).colls = s.colls := rfl
@[simp] theorem performWrite_collUses (a : Nat) (l : List Byte) : (performWrite s a l).collUses = s.collUses := rfl
@[simp] theorem performWrite_lostTables (a : Nat) (l : List Byte) : (performWrite s a l).lostTables = s.lostTables := rfl
@[simp] theorem performWrite_banks (a : Nat) (l : List Byte) : (performWrite s a l).banks = s.banks := rfl
@[simp] theorem performWrite_fw (a : Nat) (l : List Byte) : (performWrite s a l).fw = s.fw := rfl
@[simp] theorem performWrite_image (a : Nat) (l : List Byte) : (performWrite s a l).image = s.image := rfl
@[simp] theorem performWrite_migration (a : Nat) (l : List Byte) : (performWrite s a l).migration = s.migration := rfl
@[simp] theorem performWrite_inval (a : Nat) (l : List Byte) : (performWrite s a l).inval = s.inval := rfl
@[simp] theorem performWrite_migrate (a : Nat) (l : List Byte) : (performWrite s a l).migrate = s.migrate := rfl
@[simp] theorem performWrite_agenda (a : Nat) (l : List Byte) : (performWrite s a l).agenda = s.agenda := rfl
@[simp] theorem performWrite_cur (a : Nat) (l : List Byte) : (performWrite s a l).cur = s.cur := rfl
@[simp] theorem performWrite_uid (a : Nat) (l : List Byte) : (performWrite s a l).uid = s.uid := rfl
@[simp] theorem performWrite_tick (a : Nat) (l : List Byte) : (performWrite s a l).tick = s.tick := rfl

/-! ## modLaunch -/

@[simp] theorem modLaunch_mem (id : Nat) (f : Launch → Launch) : (modLaunch s id f).mem = s.mem := rfl
@[simp] theorem modLaunch_poison (id : Nat) (f : Launch → Launch) : (modLaunch s id f).poison = s.poison := rfl
@[simp] theorem modLaunch_cxlCap (id : Nat) (f : Launch → Launch) : (modLaunch s id f).cxlCap = s.cxlCap := rfl
@[simp] theorem modLaunch_threads (id : Nat) (f : Launch → Launch) : (modLaunch s id f).threads = s.threads := rfl
@[simp] theorem modLaunch_clusters (id : Nat) (f : Launch → Launch) : (modLaunch s id f).clusters = s.clusters := rfl
@[simp] theorem modLaunch_inflight (id : Nat) (f : Launch → Launch) : (modLaunch s id f).inflight = s.inflight := rfl
@[simp] theorem modLaunch_dropped (id : Nat) (f : Launch → Launch) : (modLaunch s id f).dropped = s.dropped := rfl
@[simp] theorem modLaunch_walks (id : Nat) (f : Launch → Launch) : (modLaunch s id f).walks = s.walks := rfl
@[simp] theorem modLaunch_waiters (id : Nat) (f : Launch → Launch) : (modLaunch s id f).waiters = s.waiters := rfl
@[simp] theorem modLaunch_releases (id : Nat) (f : Launch → Launch) : (modLaunch s id f).releases = s.releases := rfl
@[simp] theorem modLaunch_bindings (id : Nat) (f : Launch → Launch) : (modLaunch s id f).bindings = s.bindings := rfl
@[simp] theorem modLaunch_barriers (id : Nat) (f : Launch → Launch) : (modLaunch s id f).barriers = s.barriers := rfl
@[simp] theorem modLaunch_pubs (id : Nat) (f : Launch → Launch) : (modLaunch s id f).pubs = s.pubs := rfl
@[simp] theorem modLaunch_queues (id : Nat) (f : Launch → Launch) : (modLaunch s id f).queues = s.queues := rfl
@[simp] theorem modLaunch_scan (id : Nat) (f : Launch → Launch) : (modLaunch s id f).scan = s.scan := rfl
@[simp] theorem modLaunch_candidate (id : Nat) (f : Launch → Launch) : (modLaunch s id f).candidate = s.candidate := rfl
@[simp] theorem modLaunch_wmk (id : Nat) (f : Launch → Launch) : (modLaunch s id f).wmk = s.wmk := rfl
@[simp] theorem modLaunch_cycles (id : Nat) (f : Launch → Launch) : (modLaunch s id f).cycles = s.cycles := rfl
@[simp] theorem modLaunch_power (id : Nat) (f : Launch → Launch) : (modLaunch s id f).power = s.power := rfl
@[simp] theorem modLaunch_dieMode (id : Nat) (f : Launch → Launch) : (modLaunch s id f).dieMode = s.dieMode := rfl
@[simp] theorem modLaunch_fence (id : Nat) (f : Launch → Launch) : (modLaunch s id f).fence = s.fence := rfl
@[simp] theorem modLaunch_tally (id : Nat) (f : Launch → Launch) : (modLaunch s id f).tally = s.tally := rfl
@[simp] theorem modLaunch_votes (id : Nat) (f : Launch → Launch) : (modLaunch s id f).votes = s.votes := rfl
@[simp] theorem modLaunch_appeals (id : Nat) (f : Launch → Launch) : (modLaunch s id f).appeals = s.appeals := rfl
@[simp] theorem modLaunch_obs (id : Nat) (f : Launch → Launch) : (modLaunch s id f).obs = s.obs := rfl
@[simp] theorem modLaunch_bcasts (id : Nat) (f : Launch → Launch) : (modLaunch s id f).bcasts = s.bcasts := rfl
@[simp] theorem modLaunch_bypassed (id : Nat) (f : Launch → Launch) : (modLaunch s id f).bypassed = s.bypassed := rfl
@[simp] theorem modLaunch_silent (id : Nat) (f : Launch → Launch) : (modLaunch s id f).silent = s.silent := rfl
@[simp] theorem modLaunch_testFailed (id : Nat) (f : Launch → Launch) : (modLaunch s id f).testFailed = s.testFailed := rfl
@[simp] theorem modLaunch_appealing (id : Nat) (f : Launch → Launch) : (modLaunch s id f).appealing = s.appealing := rfl
@[simp] theorem modLaunch_beats (id : Nat) (f : Launch → Launch) : (modLaunch s id f).beats = s.beats := rfl
@[simp] theorem modLaunch_beatSeq (id : Nat) (f : Launch → Launch) : (modLaunch s id f).beatSeq = s.beatSeq := rfl
@[simp] theorem modLaunch_ticks (id : Nat) (f : Launch → Launch) : (modLaunch s id f).ticks = s.ticks := rfl
@[simp] theorem modLaunch_drains (id : Nat) (f : Launch → Launch) : (modLaunch s id f).drains = s.drains := rfl
@[simp] theorem modLaunch_counters (id : Nat) (f : Launch → Launch) : (modLaunch s id f).counters = s.counters := rfl
@[simp] theorem modLaunch_snaps (id : Nat) (f : Launch → Launch) : (modLaunch s id f).snaps = s.snaps := rfl
@[simp] theorem modLaunch_trigPosted (id : Nat) (f : Launch → Launch) : (modLaunch s id f).trigPosted = s.trigPosted := rfl
@[simp] theorem modLaunch_trigRound (id : Nat) (f : Launch → Launch) : (modLaunch s id f).trigRound = s.trigRound := rfl
@[simp] theorem modLaunch_snapSeq (id : Nat) (f : Launch → Launch) : (modLaunch s id f).snapSeq = s.snapSeq := rfl
@[simp] theorem modLaunch_ports (id : Nat) (f : Launch → Launch) : (modLaunch s id f).ports = s.ports := rfl
@[simp] theorem modLaunch_driver (id : Nat) (f : Launch → Launch) : (modLaunch s id f).driver = s.driver := rfl
@[simp] theorem modLaunch_events (id : Nat) (f : Launch → Launch) : (modLaunch s id f).events = s.events := rfl
@[simp] theorem modLaunch_evLost (id : Nat) (f : Launch → Launch) : (modLaunch s id f).evLost = s.evLost := rfl
@[simp] theorem modLaunch_evHeld (id : Nat) (f : Launch → Launch) : (modLaunch s id f).evHeld = s.evHeld := rfl
@[simp] theorem modLaunch_hostReads (id : Nat) (f : Launch → Launch) : (modLaunch s id f).hostReads = s.hostReads := rfl
@[simp] theorem modLaunch_posted (id : Nat) (f : Launch → Launch) : (modLaunch s id f).posted = s.posted := rfl
@[simp] theorem modLaunch_portOut (id : Nat) (f : Launch → Launch) : (modLaunch s id f).portOut = s.portOut := rfl
@[simp] theorem modLaunch_colls (id : Nat) (f : Launch → Launch) : (modLaunch s id f).colls = s.colls := rfl
@[simp] theorem modLaunch_collUses (id : Nat) (f : Launch → Launch) : (modLaunch s id f).collUses = s.collUses := rfl
@[simp] theorem modLaunch_lostTables (id : Nat) (f : Launch → Launch) : (modLaunch s id f).lostTables = s.lostTables := rfl
@[simp] theorem modLaunch_banks (id : Nat) (f : Launch → Launch) : (modLaunch s id f).banks = s.banks := rfl
@[simp] theorem modLaunch_fw (id : Nat) (f : Launch → Launch) : (modLaunch s id f).fw = s.fw := rfl
@[simp] theorem modLaunch_image (id : Nat) (f : Launch → Launch) : (modLaunch s id f).image = s.image := rfl
@[simp] theorem modLaunch_migration (id : Nat) (f : Launch → Launch) : (modLaunch s id f).migration = s.migration := rfl
@[simp] theorem modLaunch_inval (id : Nat) (f : Launch → Launch) : (modLaunch s id f).inval = s.inval := rfl
@[simp] theorem modLaunch_migrate (id : Nat) (f : Launch → Launch) : (modLaunch s id f).migrate = s.migrate := rfl
@[simp] theorem modLaunch_agenda (id : Nat) (f : Launch → Launch) : (modLaunch s id f).agenda = s.agenda := rfl
@[simp] theorem modLaunch_cur (id : Nat) (f : Launch → Launch) : (modLaunch s id f).cur = s.cur := rfl
@[simp] theorem modLaunch_uid (id : Nat) (f : Launch → Launch) : (modLaunch s id f).uid = s.uid := rfl
@[simp] theorem modLaunch_tick (id : Nat) (f : Launch → Launch) : (modLaunch s id f).tick = s.tick := rfl

/-! ## issue -/

@[simp] theorem issue_mem (r : Req) : (issue s r).mem = s.mem := rfl
@[simp] theorem issue_poison (r : Req) : (issue s r).poison = s.poison := rfl
@[simp] theorem issue_cxlCap (r : Req) : (issue s r).cxlCap = s.cxlCap := rfl
@[simp] theorem issue_threads (r : Req) : (issue s r).threads = s.threads := rfl
@[simp] theorem issue_clusters (r : Req) : (issue s r).clusters = s.clusters := rfl
@[simp] theorem issue_launches (r : Req) : (issue s r).launches = s.launches := rfl
@[simp] theorem issue_dropped (r : Req) : (issue s r).dropped = s.dropped := rfl
@[simp] theorem issue_walks (r : Req) : (issue s r).walks = s.walks := rfl
@[simp] theorem issue_waiters (r : Req) : (issue s r).waiters = s.waiters := rfl
@[simp] theorem issue_releases (r : Req) : (issue s r).releases = s.releases := rfl
@[simp] theorem issue_bindings (r : Req) : (issue s r).bindings = s.bindings := rfl
@[simp] theorem issue_barriers (r : Req) : (issue s r).barriers = s.barriers := rfl
@[simp] theorem issue_pubs (r : Req) : (issue s r).pubs = s.pubs := rfl
@[simp] theorem issue_queues (r : Req) : (issue s r).queues = s.queues := rfl
@[simp] theorem issue_scan (r : Req) : (issue s r).scan = s.scan := rfl
@[simp] theorem issue_candidate (r : Req) : (issue s r).candidate = s.candidate := rfl
@[simp] theorem issue_wmk (r : Req) : (issue s r).wmk = s.wmk := rfl
@[simp] theorem issue_cycles (r : Req) : (issue s r).cycles = s.cycles := rfl
@[simp] theorem issue_power (r : Req) : (issue s r).power = s.power := rfl
@[simp] theorem issue_dieMode (r : Req) : (issue s r).dieMode = s.dieMode := rfl
@[simp] theorem issue_fence (r : Req) : (issue s r).fence = s.fence := rfl
@[simp] theorem issue_tally (r : Req) : (issue s r).tally = s.tally := rfl
@[simp] theorem issue_votes (r : Req) : (issue s r).votes = s.votes := rfl
@[simp] theorem issue_appeals (r : Req) : (issue s r).appeals = s.appeals := rfl
@[simp] theorem issue_obs (r : Req) : (issue s r).obs = s.obs := rfl
@[simp] theorem issue_bcasts (r : Req) : (issue s r).bcasts = s.bcasts := rfl
@[simp] theorem issue_bypassed (r : Req) : (issue s r).bypassed = s.bypassed := rfl
@[simp] theorem issue_silent (r : Req) : (issue s r).silent = s.silent := rfl
@[simp] theorem issue_testFailed (r : Req) : (issue s r).testFailed = s.testFailed := rfl
@[simp] theorem issue_appealing (r : Req) : (issue s r).appealing = s.appealing := rfl
@[simp] theorem issue_beats (r : Req) : (issue s r).beats = s.beats := rfl
@[simp] theorem issue_beatSeq (r : Req) : (issue s r).beatSeq = s.beatSeq := rfl
@[simp] theorem issue_ticks (r : Req) : (issue s r).ticks = s.ticks := rfl
@[simp] theorem issue_drains (r : Req) : (issue s r).drains = s.drains := rfl
@[simp] theorem issue_counters (r : Req) : (issue s r).counters = s.counters := rfl
@[simp] theorem issue_snaps (r : Req) : (issue s r).snaps = s.snaps := rfl
@[simp] theorem issue_trigPosted (r : Req) : (issue s r).trigPosted = s.trigPosted := rfl
@[simp] theorem issue_trigRound (r : Req) : (issue s r).trigRound = s.trigRound := rfl
@[simp] theorem issue_snapSeq (r : Req) : (issue s r).snapSeq = s.snapSeq := rfl
@[simp] theorem issue_ports (r : Req) : (issue s r).ports = s.ports := rfl
@[simp] theorem issue_driver (r : Req) : (issue s r).driver = s.driver := rfl
@[simp] theorem issue_events (r : Req) : (issue s r).events = s.events := rfl
@[simp] theorem issue_evLost (r : Req) : (issue s r).evLost = s.evLost := rfl
@[simp] theorem issue_evHeld (r : Req) : (issue s r).evHeld = s.evHeld := rfl
@[simp] theorem issue_hostReads (r : Req) : (issue s r).hostReads = s.hostReads := rfl
@[simp] theorem issue_posted (r : Req) : (issue s r).posted = s.posted := rfl
@[simp] theorem issue_portOut (r : Req) : (issue s r).portOut = s.portOut := rfl
@[simp] theorem issue_colls (r : Req) : (issue s r).colls = s.colls := rfl
@[simp] theorem issue_collUses (r : Req) : (issue s r).collUses = s.collUses := rfl
@[simp] theorem issue_lostTables (r : Req) : (issue s r).lostTables = s.lostTables := rfl
@[simp] theorem issue_banks (r : Req) : (issue s r).banks = s.banks := rfl
@[simp] theorem issue_fw (r : Req) : (issue s r).fw = s.fw := rfl
@[simp] theorem issue_image (r : Req) : (issue s r).image = s.image := rfl
@[simp] theorem issue_migration (r : Req) : (issue s r).migration = s.migration := rfl
@[simp] theorem issue_inval (r : Req) : (issue s r).inval = s.inval := rfl
@[simp] theorem issue_migrate (r : Req) : (issue s r).migrate = s.migrate := rfl
@[simp] theorem issue_agenda (r : Req) : (issue s r).agenda = s.agenda := rfl
@[simp] theorem issue_cur (r : Req) : (issue s r).cur = s.cur := rfl
@[simp] theorem issue_tick (r : Req) : (issue s r).tick = s.tick := rfl

/-! ## The fields they change -/

@[simp] theorem setThread_threads (tid : Nat) (t : Thread) : (setThread s tid t).threads = tabPut s.threads tid t := rfl
@[simp] theorem dropThread_threads (tid : Nat) : (dropThread s tid).threads = tabErase s.threads tid := rfl
@[simp] theorem setCluster_clusters (cl : Nat) (c : Cluster) :
    (setCluster s cl c).clusters = tabSet {} s.clusters cl c := rfl
@[simp] theorem setQueue_queues (q : Nat) (l : LQueue) : (setQueue s q l).queues = tabSet {} s.queues q l := rfl
@[simp] theorem setDrv_driver (off : Nat) (v : Word) : (setDrv s off v).driver = tabSet 0 s.driver off v := rfl

/-- The thread just set is the one found. -/
@[simp] theorem threadAt_setThread_self (tid : Nat) (t : Thread) : threadAt (setThread s tid t) tid = some t :=
  tabFind_tabPut_self _ _ _
/-- Setting one thread leaves every other. -/
theorem threadAt_setThread_ne {tid j : Nat} (t : Thread) (h : j ≠ tid) :
    threadAt (setThread s tid t) j = threadAt s j := tabFind_tabPut_ne _ _ h
@[simp] theorem threadAt_dropThread_self (tid : Nat) : threadAt (dropThread s tid) tid = none :=
  tabFind_tabErase_self _ _
theorem threadAt_dropThread_ne {tid j : Nat} (h : j ≠ tid) : threadAt (dropThread s tid) j = threadAt s j :=
  tabFind_tabErase_ne _ h
@[simp] theorem clusterOf_setCluster_self (cl : Nat) (c : Cluster) : clusterOf (setCluster s cl c) cl = c :=
  tabGet_tabSet_self _ _ _ _
theorem clusterOf_setCluster_ne {cl j : Nat} (c : Cluster) (h : j ≠ cl) :
    clusterOf (setCluster s cl c) j = clusterOf s j := tabGet_tabSet_ne _ _ _ h
@[simp] theorem queueAt_setQueue_self (q : Nat) (l : LQueue) : queueAt (setQueue s q l) q = l := tabGet_tabSet_self _ _ _ _
theorem queueAt_setQueue_ne {q j : Nat} (l : LQueue) (h : j ≠ q) : queueAt (setQueue s q l) j = queueAt s j :=
  tabGet_tabSet_ne _ _ _ h
@[simp] theorem drv_setDrv_self (off : Nat) (v : Word) : drv (setDrv s off v) off = v := tabGet_tabSet_self _ _ _ _
theorem drv_setDrv_ne {off j : Nat} (v : Word) (h : j ≠ off) : drv (setDrv s off v) j = drv s j := tabGet_tabSet_ne _ _ _ h

/-! ## bump -/

@[simp] theorem bump_poison (p i n : Nat) : (bump s p i n).poison = s.poison := by unfold bump; split <;> rfl
@[simp] theorem bump_cxlCap (p i n : Nat) : (bump s p i n).cxlCap = s.cxlCap := by unfold bump; split <;> rfl
@[simp] theorem bump_clusters (p i n : Nat) : (bump s p i n).clusters = s.clusters := by unfold bump; split <;> rfl
@[simp] theorem bump_launches (p i n : Nat) : (bump s p i n).launches = s.launches := by unfold bump; split <;> rfl
@[simp] theorem bump_inflight (p i n : Nat) : (bump s p i n).inflight = s.inflight := by unfold bump; split <;> rfl
@[simp] theorem bump_dropped (p i n : Nat) : (bump s p i n).dropped = s.dropped := by unfold bump; split <;> rfl
@[simp] theorem bump_walks (p i n : Nat) : (bump s p i n).walks = s.walks := by unfold bump; split <;> rfl
@[simp] theorem bump_waiters (p i n : Nat) : (bump s p i n).waiters = s.waiters := by unfold bump; split <;> rfl
@[simp] theorem bump_releases (p i n : Nat) : (bump s p i n).releases = s.releases := by unfold bump; split <;> rfl
@[simp] theorem bump_bindings (p i n : Nat) : (bump s p i n).bindings = s.bindings := by unfold bump; split <;> rfl
@[simp] theorem bump_barriers (p i n : Nat) : (bump s p i n).barriers = s.barriers := by unfold bump; split <;> rfl
@[simp] theorem bump_pubs (p i n : Nat) : (bump s p i n).pubs = s.pubs := by unfold bump; split <;> rfl
@[simp] theorem bump_queues (p i n : Nat) : (bump s p i n).queues = s.queues := by unfold bump; split <;> rfl
@[simp] theorem bump_scan (p i n : Nat) : (bump s p i n).scan = s.scan := by unfold bump; split <;> rfl
@[simp] theorem bump_candidate (p i n : Nat) : (bump s p i n).candidate = s.candidate := by unfold bump; split <;> rfl
@[simp] theorem bump_wmk (p i n : Nat) : (bump s p i n).wmk = s.wmk := by unfold bump; split <;> rfl
@[simp] theorem bump_cycles (p i n : Nat) : (bump s p i n).cycles = s.cycles := by unfold bump; split <;> rfl
@[simp] theorem bump_power (p i n : Nat) : (bump s p i n).power = s.power := by unfold bump; split <;> rfl
@[simp] theorem bump_dieMode (p i n : Nat) : (bump s p i n).dieMode = s.dieMode := by unfold bump; split <;> rfl
@[simp] theorem bump_fence (p i n : Nat) : (bump s p i n).fence = s.fence := by unfold bump; split <;> rfl
@[simp] theorem bump_tally (p i n : Nat) : (bump s p i n).tally = s.tally := by unfold bump; split <;> rfl
@[simp] theorem bump_votes (p i n : Nat) : (bump s p i n).votes = s.votes := by unfold bump; split <;> rfl
@[simp] theorem bump_appeals (p i n : Nat) : (bump s p i n).appeals = s.appeals := by unfold bump; split <;> rfl
@[simp] theorem bump_obs (p i n : Nat) : (bump s p i n).obs = s.obs := by unfold bump; split <;> rfl
@[simp] theorem bump_bcasts (p i n : Nat) : (bump s p i n).bcasts = s.bcasts := by unfold bump; split <;> rfl
@[simp] theorem bump_bypassed (p i n : Nat) : (bump s p i n).bypassed = s.bypassed := by unfold bump; split <;> rfl
@[simp] theorem bump_silent (p i n : Nat) : (bump s p i n).silent = s.silent := by unfold bump; split <;> rfl
@[simp] theorem bump_testFailed (p i n : Nat) : (bump s p i n).testFailed = s.testFailed := by unfold bump; split <;> rfl
@[simp] theorem bump_appealing (p i n : Nat) : (bump s p i n).appealing = s.appealing := by unfold bump; split <;> rfl
@[simp] theorem bump_beats (p i n : Nat) : (bump s p i n).beats = s.beats := by unfold bump; split <;> rfl
@[simp] theorem bump_beatSeq (p i n : Nat) : (bump s p i n).beatSeq = s.beatSeq := by unfold bump; split <;> rfl
@[simp] theorem bump_ticks (p i n : Nat) : (bump s p i n).ticks = s.ticks := by unfold bump; split <;> rfl
@[simp] theorem bump_drains (p i n : Nat) : (bump s p i n).drains = s.drains := by unfold bump; split <;> rfl
@[simp] theorem bump_snaps (p i n : Nat) : (bump s p i n).snaps = s.snaps := by unfold bump; split <;> rfl
@[simp] theorem bump_trigPosted (p i n : Nat) : (bump s p i n).trigPosted = s.trigPosted := by unfold bump; split <;> rfl
@[simp] theorem bump_trigRound (p i n : Nat) : (bump s p i n).trigRound = s.trigRound := by unfold bump; split <;> rfl
@[simp] theorem bump_snapSeq (p i n : Nat) : (bump s p i n).snapSeq = s.snapSeq := by unfold bump; split <;> rfl
@[simp] theorem bump_ports (p i n : Nat) : (bump s p i n).ports = s.ports := by unfold bump; split <;> rfl
@[simp] theorem bump_driver (p i n : Nat) : (bump s p i n).driver = s.driver := by unfold bump; split <;> rfl
@[simp] theorem bump_events (p i n : Nat) : (bump s p i n).events = s.events := by unfold bump; split <;> rfl
@[simp] theorem bump_evLost (p i n : Nat) : (bump s p i n).evLost = s.evLost := by unfold bump; split <;> rfl
@[simp] theorem bump_evHeld (p i n : Nat) : (bump s p i n).evHeld = s.evHeld := by unfold bump; split <;> rfl
@[simp] theorem bump_hostReads (p i n : Nat) : (bump s p i n).hostReads = s.hostReads := by unfold bump; split <;> rfl
@[simp] theorem bump_posted (p i n : Nat) : (bump s p i n).posted = s.posted := by unfold bump; split <;> rfl
@[simp] theorem bump_portOut (p i n : Nat) : (bump s p i n).portOut = s.portOut := by unfold bump; split <;> rfl
@[simp] theorem bump_colls (p i n : Nat) : (bump s p i n).colls = s.colls := by unfold bump; split <;> rfl
@[simp] theorem bump_collUses (p i n : Nat) : (bump s p i n).collUses = s.collUses := by unfold bump; split <;> rfl
@[simp] theorem bump_lostTables (p i n : Nat) : (bump s p i n).lostTables = s.lostTables := by unfold bump; split <;> rfl
@[simp] theorem bump_banks (p i n : Nat) : (bump s p i n).banks = s.banks := by unfold bump; split <;> rfl
@[simp] theorem bump_fw (p i n : Nat) : (bump s p i n).fw = s.fw := by unfold bump; split <;> rfl
@[simp] theorem bump_image (p i n : Nat) : (bump s p i n).image = s.image := by unfold bump; split <;> rfl
@[simp] theorem bump_migration (p i n : Nat) : (bump s p i n).migration = s.migration := by unfold bump; split <;> rfl
@[simp] theorem bump_inval (p i n : Nat) : (bump s p i n).inval = s.inval := by unfold bump; split <;> rfl
@[simp] theorem bump_migrate (p i n : Nat) : (bump s p i n).migrate = s.migrate := by unfold bump; split <;> rfl
@[simp] theorem bump_agenda (p i n : Nat) : (bump s p i n).agenda = s.agenda := by unfold bump; split <;> rfl
@[simp] theorem bump_uid (p i n : Nat) : (bump s p i n).uid = s.uid := by unfold bump; split <;> rfl
@[simp] theorem bump_tick (p i n : Nat) : (bump s p i n).tick = s.tick := by unfold bump; split <;> rfl

/-! ## endMiss: the accesses that wait for a translation change nothing but their cluster -/

/-- The misses of a cluster changed: nothing but the clusters does. -/
theorem modMisses_frame (cl : Nat) (f : List Miss → List Miss) :
    modMisses s cl f = { s with clusters := (modMisses s cl f).clusters } := by unfold modMisses; split <;> rfl

@[simp] theorem endMiss_mem (cl o i : Nat) : (endMiss s cl o i).mem = s.mem := by rw [endMiss, modMisses_frame]
@[simp] theorem endMiss_poison (cl o i : Nat) : (endMiss s cl o i).poison = s.poison := by rw [endMiss, modMisses_frame]
@[simp] theorem endMiss_cxlCap (cl o i : Nat) : (endMiss s cl o i).cxlCap = s.cxlCap := by rw [endMiss, modMisses_frame]
@[simp] theorem endMiss_threads (cl o i : Nat) : (endMiss s cl o i).threads = s.threads := by rw [endMiss, modMisses_frame]
@[simp] theorem endMiss_launches (cl o i : Nat) : (endMiss s cl o i).launches = s.launches := by rw [endMiss, modMisses_frame]
@[simp] theorem endMiss_inflight (cl o i : Nat) : (endMiss s cl o i).inflight = s.inflight := by rw [endMiss, modMisses_frame]
@[simp] theorem endMiss_dropped (cl o i : Nat) : (endMiss s cl o i).dropped = s.dropped := by rw [endMiss, modMisses_frame]
@[simp] theorem endMiss_walks (cl o i : Nat) : (endMiss s cl o i).walks = s.walks := by rw [endMiss, modMisses_frame]
@[simp] theorem endMiss_waiters (cl o i : Nat) : (endMiss s cl o i).waiters = s.waiters := by rw [endMiss, modMisses_frame]
@[simp] theorem endMiss_releases (cl o i : Nat) : (endMiss s cl o i).releases = s.releases := by rw [endMiss, modMisses_frame]
@[simp] theorem endMiss_bindings (cl o i : Nat) : (endMiss s cl o i).bindings = s.bindings := by rw [endMiss, modMisses_frame]
@[simp] theorem endMiss_barriers (cl o i : Nat) : (endMiss s cl o i).barriers = s.barriers := by rw [endMiss, modMisses_frame]
@[simp] theorem endMiss_pubs (cl o i : Nat) : (endMiss s cl o i).pubs = s.pubs := by rw [endMiss, modMisses_frame]
@[simp] theorem endMiss_queues (cl o i : Nat) : (endMiss s cl o i).queues = s.queues := by rw [endMiss, modMisses_frame]
@[simp] theorem endMiss_scan (cl o i : Nat) : (endMiss s cl o i).scan = s.scan := by rw [endMiss, modMisses_frame]
@[simp] theorem endMiss_candidate (cl o i : Nat) : (endMiss s cl o i).candidate = s.candidate := by rw [endMiss, modMisses_frame]
@[simp] theorem endMiss_wmk (cl o i : Nat) : (endMiss s cl o i).wmk = s.wmk := by rw [endMiss, modMisses_frame]
@[simp] theorem endMiss_cycles (cl o i : Nat) : (endMiss s cl o i).cycles = s.cycles := by rw [endMiss, modMisses_frame]
@[simp] theorem endMiss_power (cl o i : Nat) : (endMiss s cl o i).power = s.power := by rw [endMiss, modMisses_frame]
@[simp] theorem endMiss_dieMode (cl o i : Nat) : (endMiss s cl o i).dieMode = s.dieMode := by rw [endMiss, modMisses_frame]
@[simp] theorem endMiss_fence (cl o i : Nat) : (endMiss s cl o i).fence = s.fence := by rw [endMiss, modMisses_frame]
@[simp] theorem endMiss_tally (cl o i : Nat) : (endMiss s cl o i).tally = s.tally := by rw [endMiss, modMisses_frame]
@[simp] theorem endMiss_votes (cl o i : Nat) : (endMiss s cl o i).votes = s.votes := by rw [endMiss, modMisses_frame]
@[simp] theorem endMiss_appeals (cl o i : Nat) : (endMiss s cl o i).appeals = s.appeals := by rw [endMiss, modMisses_frame]
@[simp] theorem endMiss_obs (cl o i : Nat) : (endMiss s cl o i).obs = s.obs := by rw [endMiss, modMisses_frame]
@[simp] theorem endMiss_bcasts (cl o i : Nat) : (endMiss s cl o i).bcasts = s.bcasts := by rw [endMiss, modMisses_frame]
@[simp] theorem endMiss_bypassed (cl o i : Nat) : (endMiss s cl o i).bypassed = s.bypassed := by rw [endMiss, modMisses_frame]
@[simp] theorem endMiss_silent (cl o i : Nat) : (endMiss s cl o i).silent = s.silent := by rw [endMiss, modMisses_frame]
@[simp] theorem endMiss_testFailed (cl o i : Nat) : (endMiss s cl o i).testFailed = s.testFailed := by rw [endMiss, modMisses_frame]
@[simp] theorem endMiss_appealing (cl o i : Nat) : (endMiss s cl o i).appealing = s.appealing := by rw [endMiss, modMisses_frame]
@[simp] theorem endMiss_beats (cl o i : Nat) : (endMiss s cl o i).beats = s.beats := by rw [endMiss, modMisses_frame]
@[simp] theorem endMiss_beatSeq (cl o i : Nat) : (endMiss s cl o i).beatSeq = s.beatSeq := by rw [endMiss, modMisses_frame]
@[simp] theorem endMiss_ticks (cl o i : Nat) : (endMiss s cl o i).ticks = s.ticks := by rw [endMiss, modMisses_frame]
@[simp] theorem endMiss_drains (cl o i : Nat) : (endMiss s cl o i).drains = s.drains := by rw [endMiss, modMisses_frame]
@[simp] theorem endMiss_counters (cl o i : Nat) : (endMiss s cl o i).counters = s.counters := by rw [endMiss, modMisses_frame]
@[simp] theorem endMiss_snaps (cl o i : Nat) : (endMiss s cl o i).snaps = s.snaps := by rw [endMiss, modMisses_frame]
@[simp] theorem endMiss_trigPosted (cl o i : Nat) : (endMiss s cl o i).trigPosted = s.trigPosted := by rw [endMiss, modMisses_frame]
@[simp] theorem endMiss_trigRound (cl o i : Nat) : (endMiss s cl o i).trigRound = s.trigRound := by rw [endMiss, modMisses_frame]
@[simp] theorem endMiss_snapSeq (cl o i : Nat) : (endMiss s cl o i).snapSeq = s.snapSeq := by rw [endMiss, modMisses_frame]
@[simp] theorem endMiss_ports (cl o i : Nat) : (endMiss s cl o i).ports = s.ports := by rw [endMiss, modMisses_frame]
@[simp] theorem endMiss_driver (cl o i : Nat) : (endMiss s cl o i).driver = s.driver := by rw [endMiss, modMisses_frame]
@[simp] theorem endMiss_events (cl o i : Nat) : (endMiss s cl o i).events = s.events := by rw [endMiss, modMisses_frame]
@[simp] theorem endMiss_evLost (cl o i : Nat) : (endMiss s cl o i).evLost = s.evLost := by rw [endMiss, modMisses_frame]
@[simp] theorem endMiss_evHeld (cl o i : Nat) : (endMiss s cl o i).evHeld = s.evHeld := by rw [endMiss, modMisses_frame]
@[simp] theorem endMiss_hostReads (cl o i : Nat) : (endMiss s cl o i).hostReads = s.hostReads := by rw [endMiss, modMisses_frame]
@[simp] theorem endMiss_posted (cl o i : Nat) : (endMiss s cl o i).posted = s.posted := by rw [endMiss, modMisses_frame]
@[simp] theorem endMiss_portOut (cl o i : Nat) : (endMiss s cl o i).portOut = s.portOut := by rw [endMiss, modMisses_frame]
@[simp] theorem endMiss_colls (cl o i : Nat) : (endMiss s cl o i).colls = s.colls := by rw [endMiss, modMisses_frame]
@[simp] theorem endMiss_collUses (cl o i : Nat) : (endMiss s cl o i).collUses = s.collUses := by rw [endMiss, modMisses_frame]
@[simp] theorem endMiss_lostTables (cl o i : Nat) : (endMiss s cl o i).lostTables = s.lostTables := by rw [endMiss, modMisses_frame]
@[simp] theorem endMiss_banks (cl o i : Nat) : (endMiss s cl o i).banks = s.banks := by rw [endMiss, modMisses_frame]
@[simp] theorem endMiss_fw (cl o i : Nat) : (endMiss s cl o i).fw = s.fw := by rw [endMiss, modMisses_frame]
@[simp] theorem endMiss_image (cl o i : Nat) : (endMiss s cl o i).image = s.image := by rw [endMiss, modMisses_frame]
@[simp] theorem endMiss_migration (cl o i : Nat) : (endMiss s cl o i).migration = s.migration := by rw [endMiss, modMisses_frame]
@[simp] theorem endMiss_inval (cl o i : Nat) : (endMiss s cl o i).inval = s.inval := by rw [endMiss, modMisses_frame]
@[simp] theorem endMiss_migrate (cl o i : Nat) : (endMiss s cl o i).migrate = s.migrate := by rw [endMiss, modMisses_frame]
@[simp] theorem endMiss_agenda (cl o i : Nat) : (endMiss s cl o i).agenda = s.agenda := by rw [endMiss, modMisses_frame]
@[simp] theorem endMiss_cur (cl o i : Nat) : (endMiss s cl o i).cur = s.cur := by rw [endMiss, modMisses_frame]
@[simp] theorem endMiss_uid (cl o i : Nat) : (endMiss s cl o i).uid = s.uid := by rw [endMiss, modMisses_frame]
@[simp] theorem endMiss_tick (cl o i : Nat) : (endMiss s cl o i).tick = s.tick := by rw [endMiss, modMisses_frame]

/-! ## Registers -/

/-- A write of x0 changes nothing (R56). -/
@[simp] theorem wx_zero (t : Thread) (v : Word) : wx t 0 v = t := rfl
/-- x0 reads zero (R56). -/
@[simp] theorem rx_zero (t : Thread) : rx t 0 = 0 := rfl
/-- A register read after its write. -/
theorem rx_wx_self (t : Thread) {r : Reg} (v : Word) (h : r ≠ 0) : rx (wx t r v) r = v := by
  unfold rx wx
  rw [if_neg h, if_neg h]
  exact tabGet_tabSet_self _ _ _ _
/-- Another register read after a write. -/
theorem rx_wx_ne (t : Thread) {r q : Reg} (v : Word) (h : q ≠ r) : rx (wx t r v) q = rx t q := by
  unfold rx wx
  split
  · rfl
  · split
    · rfl
    · exact tabGet_tabSet_ne _ _ _ (fun e => h (BitVec.eq_of_toNat_eq e))
/-- A register write changes the x registers alone. -/
theorem wx_frame (t : Thread) (r : Reg) (v : Word) : wx t r v = { t with x := (wx t r v).x } := by
  unfold wx; split <;> rfl
@[simp] theorem wx_pc (t : Thread) (r : Reg) (v : Word) : (wx t r v).pc = t.pc := by unfold wx; split <;> rfl
@[simp] theorem wx_csr (t : Thread) (r : Reg) (v : Word) : (wx t r v).csr = t.csr := by unfold wx; split <;> rfl

end Sys2Proof.Machine
end

