-- ==== Sys2Proof/Laws/Ops.lean ====
section
/-! SUPPORT. What each shared operation can do, said once: later proofs cite these and unfold no operation. -/

namespace Sys2Proof.Machine

variable {s : State} {t : Thread}

/-! ## Scalar instructions -/

/-- An instruction of the current thread is what its effect gives for that thread. -/
theorem onCur_eq (h : threadAt s s.cur = some t) (f : Thread → State) : onCur s f = .next (f t) := by simp [onCur, h]

/-- A write of x[d] with the pc's advance is all that WritesX says. -/
theorem writesX_wx (t : Thread) (d : Reg) (v : Word) : WritesX t { wx t d v with pc := t.pc + 4 } d v := by
  refine ⟨?_, fun r hr => rx_wx_ne t v hr, by rw [wx_frame t d v]⟩
  show rx (wx t d v) d = _
  by_cases h : d = 0
  · subst h; rfl
  · rw [rx_wx_self t v h, if_neg h]

/-- An instruction that ends in `writeX` gives its value. -/
theorem givesX_of {i : Instr} {d : Reg} {v : Word} (h : exec i s = .next (writeX s t d v)) : GivesX i s t d v :=
  ⟨_, h, writesX_wx t d v⟩

/-- The shape of an ALU instruction. -/
theorem alu_eq (h : threadAt s s.cur = some t) (d a b : Reg) (f : Word → Word → Word) :
    alu d a b f s = .next (writeX s t d (f (rx t a) (rx t b))) := onCur_eq h _

/-- The shape of a BIT instruction. -/
theorem bitOp_eq (h : threadAt s s.cur = some t) (d a : Reg) (f : Word → Word) :
    bitOp d a f s = .next (writeX s t d (f (rx t a))) := onCur_eq h _

/-- leadingZeros counts the zero bits before the first one bit, from bit n − 1 down. -/
theorem leadingZeros_spec (x : Word) (n : Nat) : leadingZeros x n ≤ n ∧
    (∀ k, k < leadingZeros x n → x.getLsbD (n - 1 - k) = false) ∧
    (leadingZeros x n < n → x.getLsbD (n - 1 - leadingZeros x n) = true) := by
  induction n with
  | zero => simp [leadingZeros]
  | succ n ih =>
    obtain ⟨h1, h2, h3⟩ := ih
    unfold leadingZeros
    by_cases hb : x.getLsbD n = true
    · simp [hb]
    · simp only [hb, if_false, Bool.false_eq_true]
      refine ⟨by omega, fun k hk => ?_, fun hlt => ?_⟩
      · cases k with
        | zero => simpa using hb
        | succ k => rw [show n + 1 - 1 - (k + 1) = n - 1 - k by omega]; exact h2 k (by omega)
      · rw [show n + 1 - 1 - (1 + leadingZeros x n) = n - 1 - leadingZeros x n by omega]; exact h3 (by omega)

/-- trailingZeros counts the zero bits before the first one bit, from bit 64 − n up. -/
theorem trailingZeros_spec (x : Word) (n : Nat) (hn : n ≤ 64) : trailingZeros x n ≤ n ∧
    (∀ k, k < trailingZeros x n → x.getLsbD (64 - n + k) = false) ∧
    (trailingZeros x n < n → x.getLsbD (64 - n + trailingZeros x n) = true) := by
  induction n with
  | zero => simp [trailingZeros]
  | succ n ih =>
    obtain ⟨h1, h2, h3⟩ := ih (by omega)
    unfold trailingZeros
    by_cases hb : x.getLsbD (63 - n) = true
    · simp [hb]
    · simp only [hb, if_false, Bool.false_eq_true]
      refine ⟨by omega, fun k hk => ?_, fun hlt => ?_⟩
      · cases k with
        | zero => rw [show 64 - (n + 1) + 0 = 63 - n by omega]; simpa using hb
        | succ k => rw [show 64 - (n + 1) + (k + 1) = 64 - n + k by omega]; exact h2 k (by omega)
      · rw [show 64 - (n + 1) + (1 + trailingZeros x n) = 64 - n + trailingZeros x n by omega]; exact h3 (by omega)

/-- onesBelow counts the one bits of the low n bits. -/
theorem onesBelow_eq (x : Word) (n : Nat) : onesBelow x n = (List.range n).countP (fun i => x.getLsbD i) := by
  induction n with
  | zero => rfl
  | succ n ih => rw [List.range_succ, List.countP_append, onesBelow, ih]; cases h : x.getLsbD n <;> simp [h]; omega

/-- The lesser of two signed words. -/
theorem word_smin (x y : Word) : (if x.slt y then x else y) = BitVec.ofInt 64 (min x.toInt y.toInt) := by
  rw [BitVec.slt_eq_decide]
  by_cases h : x.toInt < y.toInt
  · simp [h, min_eq_left (le_of_lt h)]
  · simp [h, min_eq_right (not_lt.mp h)]

/-- The greater of two signed words. -/
theorem word_smax (x y : Word) : (if x.slt y then y else x) = BitVec.ofInt 64 (max x.toInt y.toInt) := by
  rw [BitVec.slt_eq_decide]
  by_cases h : x.toInt < y.toInt
  · simp [h, max_eq_right (le_of_lt h)]
  · simp [h, max_eq_left (not_lt.mp h)]

/-! ## Traps -/

/-- tstat of a scalar trap: INH, and HELD when entries are held. -/
theorem tstatOf_scalar (l : List Entry) : tstatOf true (l ≠ []) false = if l = [] then 1 else 3 := by
  cases l <;> simp [tstatOf]

/-- A scalar trap of a thread that can enter its handler (R125, R126). -/
theorem scalarTrap_eq {tid : Nat} (h : threadAt s tid = some t) (hf : handlerFree t) (cause : BitVec 8) (tval tepc : Word) :
    scalarTrap s tid cause tval tepc = setThread s tid { t with
      csr := { t.csr with tcause := cause.zeroExtend 64, tval := tval, tepc := tepc &&& ~~~3#64,
                          tstat := if t.held = [] then 1 else 3 },
      pc := t.csr.thand, hold := .run } := by
  obtain ⟨h1, h2⟩ := hf
  simp only [scalarTrap, takeTrap, h, h1, h2, Option.isSome_none, Bool.false_eq_true, if_false, ← tstatOf_scalar]

/-- An instruction that ends in a scalar trap of the current thread traps. -/
theorem traps_of {i : Instr} {cause : BitVec 8} {tval tepc : Word} (h : threadAt s s.cur = some t) (hf : handlerFree t)
    (he : exec i s = .next (scalarTrap s s.cur cause tval tepc)) : Traps i s t cause tval tepc := by
  unfold Traps TrapsFrom
  rw [he, scalarTrap_eq h hf]

/-- A trap without a handler, or inside one, ends the launch (R126). -/
theorem scalarTrap_ends {tid : Nat} (h : threadAt s tid = some t) (hn : inh t = true ∨ t.csr.thand = 0)
    (cause : BitVec 8) (tval tepc : Word) :
    ∃ c e, scalarTrap s tid cause tval tepc = endLaunch s t.launch 5 0 t.flat c tval e := by
  by_cases hi : inh t = true
  · exact ⟨_, _, by simp [scalarTrap, takeTrap, h, hi]; rfl⟩
  · obtain hh | hh := hn
    · exact absurd hh hi
    · exact ⟨_, _, by simp [scalarTrap, takeTrap, h, hi, hh]; rfl⟩

/-! ## Pushes and completion -/

/-- The thread that a legal push leaves, before its entry enters the queue (R142). -/
def pushedBy (t : Thread) (i : Instr) : Thread :=
  vsetEffect { t with csr := { t.csr with vesr := 0 }, pc := t.pc + 4, vrelPushed := decide (i = .vrel), hold := .run } i

/-- A legal push is what `enqueue` gives, or the thread stalls (R177). -/
theorem push_legal {tid : Nat} {i : Instr} (h : threadAt s tid = some t) (hl : pushLegal s t i = true)
    (hr : t.vrelPushed = false) :
    push s tid i = (enqueue { s with uid := s.uid + 1 } tid (pushedBy t i) (entryFor s t i)).getD
      (setThread s tid { t with hold := .push, stallOn := olderOf (pushedBy t i) (entryFor s t i) }) := by
  have hg (o : Option State) (d : State) : (match o with | some x => x | none => d) = o.getD d := by cases o <;> rfl
  rw [← hg]
  unfold push
  rw [h]
  dsimp only
  rw [if_neg (by simp [hl]), if_neg (by simp [hr])]
  rfl

/-- A legal push that finds room enters the queue with what `enqueue` gives. -/
theorem push_eq {tid : Nat} {i : Instr} {s' : State} (h : threadAt s tid = some t) (hl : pushLegal s t i = true)
    (hr : t.vrelPushed = false)
    (he : enqueue { s with uid := s.uid + 1 } tid (vsetEffect { t with
        csr := { t.csr with vesr := 0 }, pc := t.pc + 4, vrelPushed := decide (i = .vrel), hold := .run } i)
      (entryFor s t i) = some s') : push s tid i = s' := by
  rw [push_legal h hl hr, pushedBy, he, Option.getD_some]

/-- An illegal push raises the illegal-instruction trap (R26). -/
theorem push_illegal {tid : Nat} {i : Instr} (h : threadAt s tid = some t) (hl : pushLegal s t i = false) :
    push s tid i = scalarTrap s tid causeIllegal (wordVal i) t.pc := by simp [push, h, hl]

/-- A legal push after VREL raises the vector-released trap (R45). -/
theorem push_released {tid : Nat} {i : Instr} (h : threadAt s tid = some t) (hl : pushLegal s t i = true)
    (hr : t.vrelPushed = true) : push s tid i = scalarTrap s tid causeVreleased 0 t.pc := by simp [push, h, hl, hr]

/-- What the accesses of a completed entry waited for ends: nothing but its cluster changes. -/
theorem endEntry_frame (tid : Nat) (t : Thread) :
    endEntry s tid t = { s with clusters := (endEntry s tid t).clusters } := by
  unfold endEntry; split
  · rfl
  · rw [endMiss, modMisses_frame]
@[simp] theorem endEntry_mem (tid : Nat) (t : Thread) : (endEntry s tid t).mem = s.mem := by rw [endEntry_frame]
@[simp] theorem endEntry_threads (tid : Nat) (t : Thread) : (endEntry s tid t).threads = s.threads := by rw [endEntry_frame]
@[simp] theorem endEntry_cur (tid : Nat) (t : Thread) : (endEntry s tid t).cur = s.cur := by rw [endEntry_frame]

/-- The thread after its entry at vcp has completed (R27). -/
theorem threadAt_completeHead {tid : Nat} (h : threadAt s tid = some t) :
    threadAt (completeHead s tid) tid = some { t with vq := t.vq.drop 1 } := by
  rw [completeHead, h]; simp only [threadAt, bump_threads]; exact threadAt_setThread_self _ tid _

/-- Completion leaves every other thread. -/
theorem threadAt_completeHead_ne {tid j : Nat} (hj : j ≠ tid) : threadAt (completeHead s tid) j = threadAt s j := by
  unfold completeHead
  split
  · rfl
  · rw [threadAt, bump_threads]
    exact (threadAt_setThread_ne (endEntry s tid _) _ hj).trans (by simp [threadAt])

/-- Completion leaves memory. -/
@[simp] theorem completeHead_mem (tid : Nat) : (completeHead s tid).mem = s.mem := by unfold completeHead; split <;> simp

/-- A thread's state changed. -/
theorem modThread_eq {tid : Nat} (h : threadAt s tid = some t) (f : Thread → Thread) :
    modThread s tid f = setThread s tid (f t) := by simp [modThread, h]
@[simp] theorem modThread_mem (tid : Nat) (f : Thread → Thread) : (modThread s tid f).mem = s.mem := by
  unfold modThread; split <;> rfl
@[simp] theorem modHead_mem (tid : Nat) (f : Entry → Entry) : (modHead s tid f).mem = s.mem := by
  unfold modHead; split <;> rfl

/-! ## The canonical form of memory -/

/-- A fold of operations that keep the canonical form keeps it. -/
theorem wf_foldl {α : Type} (f : State → α → State) (hf : ∀ s a, s.mem.wf = true → (f s a).mem.wf = true) (l : List α)
    (s : State) (h : s.mem.wf = true) : (l.foldl f s).mem.wf = true := by
  induction l generalizing s with
  | nil => exact h
  | cons a r ih => exact ih _ (hf s a h)

@[simp] theorem countWalk_mem (tile : Option Nat) (owner c va : Nat) : (countWalk s tile owner c va).mem = s.mem := by
  unfold countWalk
  generalize (walkReads s tile owner c va).filter _ = l
  have hf (l : List (Option Nat × Nat)) (s : State) : (l.foldl (fun s x => countPa s x.2) s).mem = s.mem := by
    induction l generalizing s with
    | nil => rfl
    | cons x r ih => rw [List.foldl_cons, ih]; simp
  dsimp only; rw [hf]; split <;> simp
@[simp] theorem countOwnWalk_mem (o : Origin) (c va : Nat) : (countOwnWalk s o c va).mem = s.mem := by
  unfold countOwnWalk; split <;> simp
@[simp] theorem countOwnWalks_mem (o : Origin) (c va n : Nat) : (countOwnWalks s o c va n).mem = s.mem := by
  unfold countOwnWalks
  generalize pagesOf va n = l
  induction l generalizing s with
  | nil => rfl
  | cons x r ih => rw [List.foldl_cons, ih]; simp

theorem wf_breakLatchAt (pa : Nat) (h : s.mem.wf = true) : (breakLatchAt s pa).mem.wf = true := by
  unfold breakLatchAt writeWord; split
  · rw [countAccess_mem]; exact wf_performWrite h _ _
  · exact h

theorem wf_breakLatch (ctx : Nat) (tag : BitVec 56) (a : Word) (h : s.mem.wf = true) :
    (breakLatch s ctx tag a).mem.wf = true := by
  have hw : (countOwnWalk s (localOrigin s 0) ctx a.toNat).mem.wf = true := by simpa using h
  unfold breakLatch; dsimp only; split
  · split
    · exact wf_breakLatchAt _ hw
    · exact hw
  · exact hw

@[simp] theorem pumpPort_mem (p : Nat) (l : List (Packet × Nat)) : (pumpPort s p l).mem = s.mem := by simp [pumpPort]
@[simp] theorem sendFrom_mem (p d : Nat) (x : Packet) (src : Option Source) : (sendFrom s p d x src).mem = s.mem := by
  unfold sendFrom; split
  · rfl
  · dsimp only; split <;> simp
@[simp] theorem sendPacket_mem (p : Nat) (x : Packet) : (sendPacket s p x).mem = s.mem := sendFrom_mem _ _ _ _

theorem wf_breakRemotes (tag : BitVec 56) (l : List RemoteLatch) (h : s.mem.wf = true) :
    (breakRemotes s tag l).mem.wf = true := by
  refine wf_foldl _ (fun s r h => ?_) l s h
  split
  · exact wf_breakLatch _ _ _ h
  · simpa using h

theorem wf_writeStatus (ctx : Nat) (raw : List Byte) (st err tile flat id : Nat) (c v e : Word) (h : s.mem.wf = true) :
    (writeStatus s ctx raw st err tile flat id c v e).mem.wf = true := wf_writeVirt (by simpa using h) _ _ _ _

/-- Writing the records of held entries keeps the canonical form (R290). -/
theorem wf_saveHeld (tile area : Nat) (l : List Entry) (h : s.mem.wf = true) : (saveHeld s tile area l).mem.wf = true := by
  unfold saveHeld
  exact wf_foldl _ (fun s e h => wf_physWrite h _ _ _) _ _ (wf_physWrite (wf_physWrite h _ _ _) _ _ _)

end Sys2Proof.Machine
end

