-- ==== Sys2Proof/Tests/Slice0.lean ====
section
/-! SUPPORT. Tests: ill-formed terms, words of the spec, a witness for the hypotheses of each statement, and single
steps with results the spec gives. -/

namespace Sys2Proof.Tests
open Sys2Proof Sys2Proof.Machine

-- One theorem after the other: each waiting proof would hold a thread stack of its own.
set_option Elab.async false

/-! ## Ill-formed terms, one for each check, refused -/

theorem test_wf_csr_unlisted : (Instr.ctlRd 5 0x007).wf = false := by decide
theorem test_wf_csr_read_only : (Instr.ctlWr 5 0x005).wf = false ∧ (Instr.ctlBset 5 0x800).wf = false := by decide
theorem test_wf_adv_csr : (Instr.ctlAdv 5 6 0x003).wf = false ∧ (Instr.ctlAdv 5 6 0x045).wf = true := by decide
theorem test_wf_valu_type : (Instr.valuAdd 1 2 3 0 false .e4m3).wf = false := by decide
theorem test_wf_valu_saturating_type : (Instr.valuSadd 1 2 3 0 false .f32).wf = false := by decide
theorem test_wf_valui_type : (Instr.valuiAdd 1 2 3 0 .f32).wf = false := by decide
theorem test_wf_valui_shift : (Instr.valuiSll 1 2 8 0 .s8).wf = false ∧ (Instr.valuiSll 1 2 7 0 .s8).wf = true := by decide
theorem test_wf_fma_type : (Instr.vfmaFma 1 2 3 0 false .s64).wf = false := by decide
theorem test_wf_fnma_type : (Instr.vfmaFnma 1 2 3 0 false .s32).wf = false := by decide
theorem test_wf_mask_dest : (Instr.vcmp 0 2 3 0 false .eq .s32).wf = false ∧
    (Instr.vcmp 8 2 3 0 false .eq .s32).wf = false := by decide
theorem test_wf_unordered_type : (Instr.vcmp 1 2 3 0 false .un .s32).wf = false := by decide
theorem test_wf_mask_source : (Instr.vmskAnd 1 8 3 0).wf = false ∧ (Instr.vmskNot 0 1 0).wf = false ∧
    (Instr.vmskFrst 1 8 0).wf = false := by decide
theorem test_wf_vred_type : (Instr.vredSum 1 2 0 .row .e5m2).wf = false := by decide
theorem test_wf_amax_type : (Instr.vredAmax 1 2 0 .row .z8).wf = false := by decide
theorem test_wf_vcvt_types : (Instr.vcvt 1 2 0 .s32 .s32).wf = false ∧ (Instr.vcvt 1 2 0 .bpi .s32).wf = false := by decide
theorem test_wf_vbpl_type : (Instr.vbplAnd 1 2 3 0 .f32).wf = false := by decide
theorem test_wf_vsca_type : (Instr.vscaMul 1 2 3 0 false .s16).wf = false := by decide
theorem test_wf_residency_number : (Instr.vwld 1 8 0 0 0 0 0 false).wf = false ∧ (Instr.hresSet 8 1).wf = false ∧
    (Instr.cdyLoad 8 1 2).wf = false := by decide
theorem test_wf_vsx_type : (Instr.vsxIsec 1 2 3 0 .s8).wf = false := by decide
theorem test_wf_counter_number : (Instr.kcntExt 8 1).wf = false := by decide
theorem test_wf_link_target : (Instr.kcntLink 1 8).wf = false ∧ (Instr.kcntLink 1 31).wf = true := by decide
theorem test_wf_join_selector : (Instr.qordJoin 0 0 0 0 0).wf = false ∧ (Instr.qordJoin 2 0 0 0 0).wf = false := by decide
theorem test_wf_tile_number : (Instr.tileZero 8 0).wf = false ∧ (Instr.tmovRtov 8 1 2 0).wf = false := by decide
theorem test_wf_mma_type : (Instr.tileMma 1 2 3 0 .f32).wf = false := by decide
theorem test_wf_slot_range : (Instr.cdyClaim 30 2).wf = false ∧ (Instr.cdyRel 30 1).wf = true := by decide
theorem test_wf_level : (Instr.syncBarr .til 8).wf = false := by decide
theorem test_wf_vamo_dest : (Instr.vamoAdd 8 4 2 0 false false false false).wf = false := by decide
theorem test_wf_accw_type : (Instr.accwUpd 1 2 3 0 .s8).wf = false := by decide
theorem test_wf_coll_type : (Instr.collAred 9 .s32).wf = false := by decide
theorem test_wf_lnch_record : (Instr.lnch 0 1).wf = false := by decide

/-! ## Words written out from the encodings of R61 to R66 -/

theorem test_words_sys :
    decode 0x00000040 = .ok .sysCall ∧
    decode 0x000000C0 = .ok .sysTret ∧
    decode 0x00000100 = .ok .sysTend ∧
    decode 0x00000140 = .ok .sysSnap ∧
    decode 0x00000180 = .ok .sysBrk ∧
    decode 0x00000085 = .ok (.sysTrap 5) := by decide
theorem test_words_alu :
    decode 0x04A63801 = .ok (.aluSub 5 6 7) := by decide
theorem test_words_br :
    decode 0x20A6FFF2 = .ok (.brLt 5 6 (-4)) ∧
    decode 0x20A0FFF9 = .ok (.brNe 5 0 (-2)) := by decide
theorem test_words_ld_st :
    decode 0x18A10300 = .ok (.ld 5 1 0 .i64 none 0) ∧
    decode 0x1CE60300 = .ok (.st 7 6 0 .i64 none 0) := by decide
theorem test_words_ctl :
    decode 0x2CA00005 = .ok (.ctlRd 5 0x005) ∧
    decode 0x2C061003 = .ok (.ctlWr 6 0x003) ∧
    decode 0x2CE00803 = .ok (.ctlRd 7 0x803) ∧
    decode 0x2C093011 = .ok (.ctlBset 9 0x011) ∧
    decode 0x2C885011 = .ok (.ctlAdv 4 8 0x011) := by decide
theorem test_words_valu :
    decode 0x40611108 = .ok (.valuAdd 3 1 2 1 false .f32) ∧
    decode 0x41082AD1 = .ok (.valuSadd 8 8 5 2 true .s16) ∧
    decode 0x40043074 = .ok (.valuAbsd 0 4 6 0 false .z8) := by decide
theorem test_words_valui :
    decode 0x4442F812 = .ok (.valuiRsub 2 2 (-1) 0 .s32) ∧
    decode 0x44841852 = .ok (.valuiSll 4 4 3 0 .s32) ∧
    decode 0x444038B2 = .ok (.valuiMov 2 7 0 .s32) := by decide
theorem test_words_vprm :
    decode 0x54844816 = .ok (.vprmSldn 4 4 9 0 .row .w32) ∧
    decode 0x54C20332 = .ok (.vprmCmpr 6 2 3 .lin .w32) := by decide
theorem test_words_vred_vcvt :
    decode 0x58C20148 = .ok (.vredSum 6 2 1 .row .f32) ∧
    decode 0x5C880098 = .ok (.vcvt 4 8 0 .bf16 .f32) := by decide
theorem test_words_vbpl_vsca :
    decode 0x6041189D = .ok (.vbplPext 2 1 3 0) ∧
    decode 0x65021842 = .ok (.vscaRmac 8 2 3 0 false .s32) := by decide
theorem test_words_vset_vsx :
    decode 0x68084842 = .ok (.vsetLenf 8 9 .m1 .s32) ∧
    decode 0x78811016 = .ok (.vsxIcnt 4 1 2 0 .z32) := by decide
theorem test_words_kcnt :
    decode 0x84080000 = .ok (.kcntExt 0 8) ∧
    decode 0x84000900 = .ok (.kcntLink 0 1) ∧
    decode 0x8420F900 = .ok (.kcntLink 1 31) ∧
    decode 0x84000200 = .ok (.kcntAdv 0) ∧
    decode 0x84430300 = .ok (.kcntSet 2 3) ∧
    decode 0x84200400 = .ok (.kcntRst 1) := by decide
theorem test_words_hres :
    decode 0x804A0000 = .ok (.hresSet 2 10) ∧
    decode 0x800700A0 = .ok (.hresAnch 0 7 1) ∧
    decode 0x80290100 = .ok (.hresLim 1 9 0) ∧
    decode 0x80040180 = .ok (.hresBind 0 4) ∧
    decode 0x80050200 = .ok (.hresWmk 0 5) ∧
    decode 0x80600280 = .ok (.hresClr 3) := by decide
theorem test_words_qord :
    decode 0x883FFFC0 = .ok (.qordWait 0 15 15 15 15) ∧
    decode 0x88044010 = .ok (.qordJoin 0 1 1 0 0) := by decide
theorem test_words_window :
    decode 0x6C402940 = .ok (.vwld 2 0 5 1 1 0 0 false) ∧
    decode 0x6C813006 = .ok (.vwld 4 1 6 0 0 0 1 true) ∧
    decode 0x70613240 = .ok (.vwst 3 1 6 2 1 0 0) ∧
    decode 0x74811311 = .ok (.vidxLd 4 1 2 3 .z32 true) ∧
    decode 0x74C24040 = .ok (.vidxSt 6 2 8 0 .z16) := by decide
theorem test_words_tile :
    decode 0x90400809 = .ok (.tileMma 2 0 1 0 .bf16) ∧
    decode 0x90642A0D = .ok (.tileMma 3 4 5 2 .bpi) ∧
    decode 0x90000110 = .ok (.tileZero 0 1) ∧
    decode 0x90240020 = .ok (.tileScal 1 4 0) ∧
    decode 0x90400030 = .ok (.tileOn 2) ∧
    decode 0x90400040 = .ok (.tileOff 2) := by decide
theorem test_words_cdy :
    decode 0x94001800 = .ok (.cdyClaim 0 3) ∧
    decode 0x94222820 = .ok (.cdyLoad 1 2 5) ∧
    decode 0x94222840 = .ok (.cdyLstr 1 2 5) ∧
    decode 0x94001860 = .ok (.cdyRel 0 3) ∧
    decode 0x94E20080 = .ok (.cdyMeta 7 2) := by decide
theorem test_words_tmov :
    decode 0x98244800 = .ok (.tmovRtov 1 4 9 0) ∧
    decode 0x98244840 = .ok (.tmovCtov 1 4 9 0) ∧
    decode 0x98061A80 = .ok (.tmovVtor 0 6 3 2) ∧
    decode 0x98061AC0 = .ok (.tmovVtoc 0 6 3 2) := by decide
theorem test_words_sync :
    decode 0xA0040040 = .ok (.syncAcq 4 .dev) ∧
    decode 0xA00400C0 = .ok (.syncRel 4 .dev) ∧
    decode 0xA0853140 = .ok (.syncBind 4 5 6 .dev) ∧
    decode 0xA08501C0 = .ok (.syncUbnd 4 5 .dev) ∧
    decode 0xA0000240 = .ok (.syncFenc .dev) ∧
    decode 0xA00002A1 = .ok (.syncBarr .til 1) ∧
    decode 0xA0000321 = .ok (.syncArrv .til 1) ∧
    decode 0xA00703C2 = .ok (.syncExpt 7 .dev 2) := by decide
theorem test_words_vamo :
    decode 0xA504130C = .ok (.vamoAdd 8 4 2 3 true true false false) ∧
    decode 0xA4041080 = .ok (.vamoFadd 0 4 2 0 false false false) ∧
    decode 0xA4C51079 = .ok (.vamoCas 6 5 2 0 false false true) ∧
    decode 0xA4041002 = .ok (.vamoAdd 0 4 2 0 false false true false) := by decide
theorem test_words_accw :
    decode 0xAC222108 = .ok (.accwUpd 1 2 4 1 .f32) ∧
    decode 0xAC200048 = .ok (.accwMrge 1 .f32) ∧
    decode 0xAC200088 = .ok (.accwClr 1 .f32) := by decide
theorem test_words_link :
    decode 0xB0A63800 = .ok (.linkXfer 5 6 7 false false) ∧
    decode 0xB0A63840 = .ok (.linkXfer 5 6 7 true false) ∧
    decode 0xB0A63860 = .ok (.linkXfer 5 6 7 true true) ∧
    decode 0xB0A63820 = .ok (.linkXfer 5 6 7 false true) ∧
    decode 0xB0003880 = .ok (.linkLacq 7) ∧
    decode 0xB0003900 = .ok (.linkLrel 7) ∧
    decode 0xB0003980 = .ok (.linkLsig 7) := by decide
theorem test_words_coll :
    decode 0xB4090080 = .ok (.collAred 9 .f32) ∧
    decode 0xB4090190 = .ok (.collRsct 9 .bf16) ∧
    decode 0xB4090280 = .ok (.collAgat 9 .f32) ∧
    decode 0xB8000000 = .ok .vrel := by decide

/-! ## The states of the witnesses and step tests -/

/-- A thread with x5 = 7, x6 = 9 and a handler. -/
def t0 : Thread :=
  { uid := 1, launch := 64, ctx := 0, flat := 0, idx := [0], weight := 1, area := 0x400000, pc := 0x10000,
    x := [(5, 7), (6, 9)], csr := { thand := 0x10080 } }
/-- The cached translations of thread 0's cluster: 0x20000 and the last page of the address space, both readable and
writable. -/
def pages : List Tlb := [⟨0, 0x20000, false, 0x300017⟩, ⟨0, 0xFFFFFFFFF0000, false, 0x310017⟩]
/-- Thread 0 of cluster 0 is `t`, alone on the device. -/
def w0 (t : Thread) : State := setThread (setCluster (placeThread State.reset) 0 { tlb := pages }) 0 t
/-- t0 with other x registers. -/
def tx (x : Tab Word) : Thread := { t0 with x := x }
/-- An entry at vcp of eight 32-bit signed elements. -/
def ent (i : Instr) : Entry := { uid := 50, instr := i, cap := { vfmt := 2, vrows := 1, vcols := 8 }, k := 0 }
/-- t0 with an entry at vcp. -/
def tv (e : Entry) : Thread := { t0 with vq := [e] }

theorem vcp_tv (e : Entry) : AtVcp (w0 (tv e)) 0 (tv e) e [] := ⟨rfl, rfl, rfl, List.not_mem_nil⟩

/-! ## Witnesses: the hypotheses of each statement are met, clause by clause -/

theorem hyp_thread : threadAt (w0 t0) (w0 t0).cur = some t0 ∧ (w0 t0).cur < 1280 ∧ t0.pc.toNat % 4 = 0 := ⟨rfl, by decide, rfl⟩
theorem hyp_handler : handlerFree t0 := ⟨rfl, by decide⟩
/-- jlr to 7 + 0 is misaligned, to 7 + 1 aligned. -/
theorem hyp_jlr : (rx t0 5 + (0 : BitVec 16).signExtend 64).extractLsb' 0 2 ≠ 0 ∧
    (rx t0 5 + (1 : BitVec 16).signExtend 64).extractLsb' 0 2 = 0 := by decide
theorem hyp_vcp_queue : (tv (ent .vrel)).vq = ent .vrel :: [] ∧ t0.vq = [] := ⟨rfl, rfl⟩
theorem hyp_csr_write : csrWritable 0x045 = true ∧ csrAdv 0x045 = true ∧ csrWritable 0x000 = true := by decide
theorem hyp_eread_writer : ∃ e ∈ (tv (ent (.valuAdd 3 1 2 0 false .s32))).vq,
    (3 : Reg).toNat ∈ destRegs e.cap.vfmt e.instr := by decide
theorem hyp_eread_free : ¬ ∃ e ∈ (tv (ent (.valuAdd 3 1 2 0 false .s32))).vq,
    (4 : Reg).toNat ∈ destRegs e.cap.vfmt e.instr := by decide
theorem hyp_eread_held : threadAt (w0 { t0 with hold := .eRead 5 3 }) 0 = some { t0 with hold := .eRead 5 (3 : Reg).toNat } ∧
    t0.stopReq = false ∧ t0.vrelPushed = false ∧ { t0 with vrelPushed := true }.vrelPushed = true := ⟨rfl, rfl, rfl, rfl⟩

/-- The last aligned double word of the address space. -/
def topEa : Word := 0xFFFFFFFFFFFF8
def tTop : Thread := tx [(5, topEa), (6, 0)]
/-- The effective address of the tests' loads and stores of 8 bytes, offset 0. -/
def ea (t : Thread) : Word := rx t 5 + rx t 0 + (0 : BitVec 4).signExtend 64 * BitVec.ofNat 64 (ldBytes .i64)

theorem hyp_load_ok : threadAt (w0 tTop) 0 = some tTop ∧ (ea tTop).toNat < 2 ^ 52 ∧ (ea tTop).toNat % ldBytes .i64 = 0 ∧
    xlate (w0 tTop) 0 tTop.uid tTop.uid tTop.ctx tTop.area (ea tTop).toNat needLd = (.ok 0x31FFF8, w0 tTop) ∧
    reaches (w0 tTop) 0 0x31FFF8 = true ∧ poisoned (w0 tTop) 0x31FFF8 8 = false ∧
    loadWaits (w0 tTop) tTop 0x31FFF8 8 = false ∧ strongBusy (w0 tTop) tTop = false :=
  ⟨rfl, by decide, by decide, rfl, rfl, rfl, rfl, rfl⟩
/-- The thread's own store to the last byte of the loaded ones is on its way, and it is strong. -/
def rOwn : Req :=
  { uid := 70, seq := 70, owner := 1, launch := 64, cluster := 0, strong := true, kind := .store 0x31FFFF [1] }
def sOwn (t : Thread) : State := { w0 t with uid := 80, inflight := [rOwn] }
theorem hyp_load_waits : strongBusy (sOwn tTop) tTop = true ∧ loadWaits (sOwn tTop) tTop 0x31FFF8 8 = true ∧
    loadWaits (sOwn tTop) tTop 0x31FFF0 8 = false ∧ reaches (sOwn tTop) 0 0x31FFF8 = true ∧
    xlate (sOwn tTop) 0 tTop.uid tTop.uid tTop.ctx tTop.area (ea tTop).toNat needLd = (.ok 0x31FFF8, sOwn tTop) := by
  decide +kernel
theorem hyp_load_no_merge : ∀ e ∈ tTop.vq, ∀ h ty, e.instr ≠ .accwMrge h ty := fun _ h => by cases h
/-- The first address that is too high, and one byte beyond an aligned one. -/
theorem hyp_load_high : 2 ^ 52 ≤ (ea (tx [(5, 0x10000000000000)])).toNat := by decide
theorem hyp_load_misaligned : (ea (tx [(5, 0xFFFFFFFFFFFF9)])).toNat < 2 ^ 52 ∧
    (ea (tx [(5, 0xFFFFFFFFFFFF9)])).toNat % ldBytes .i64 ≠ 0 := by decide
/-- A page that neither read nor write may use. -/
def sNoPage (t : Thread) : State := setCluster (w0 t) 0 { tlb := [⟨0, 0xFFFFFFFFF0000, false, 0x310019⟩] }
theorem hyp_load_no_page : xlate (sNoPage tTop) 0 tTop.uid tTop.uid tTop.ctx tTop.area (ea tTop).toNat needLd = (.fail, sNoPage tTop) ∧
    xlate (sNoPage tTop) 0 tTop.uid tTop.uid tTop.ctx tTop.area (ea tTop).toNat needSt = (.fail, sNoPage tTop) := ⟨rfl, rfl⟩
/-- The home's tile is fenced; a granule is poisoned. -/
def sDown (t : Thread) : State := { w0 t with fence := [(tileOfSlice (homeOf 0x31FFF8), 1)] }
def sPois (t : Thread) : State := { w0 t with poison := [0x31FFF8 / 32] }
theorem hyp_load_down : xlate (sDown tTop) 0 tTop.uid tTop.uid tTop.ctx tTop.area (ea tTop).toNat needLd = (.ok 0x31FFF8, sDown tTop) ∧
    reaches (sDown tTop) 0 0x31FFF8 = false := ⟨rfl, rfl⟩
theorem hyp_load_poison : xlate (sPois tTop) 0 tTop.uid tTop.uid tTop.ctx tTop.area (ea tTop).toNat needLd = (.ok 0x31FFF8, sPois tTop) ∧
    reaches (sPois tTop) 0 0x31FFF8 = true ∧ loadWaits (sPois tTop) tTop 0x31FFF8 8 = false ∧
    poisoned (sPois tTop) 0x31FFF8 8 = true := ⟨rfl, rfl, rfl, rfl⟩
theorem hyp_store_ok : xlate (w0 tTop) 0 tTop.uid tTop.uid tTop.ctx tTop.area (ea tTop).toNat needSt = (.ok 0x31FFF8, w0 tTop) ∧
    classCount (w0 tTop) tTop 1 < 65535 ∧ reaches (w0 tTop) 0 0x31FFF8 = true := ⟨rfl, by decide, rfl⟩
/-- n stores of the thread are on their way. -/
theorem stores_count (n : Nat) : classCount { w0 t0 with inflight := List.replicate n rOwn } t0 1 = n := by
  have h : (w0 t0).releases = [] := rfl
  simp [classCount, storesCount, h, rOwn, show t0.uid = 1 from rfl, show t0.vq = [] from rfl]
theorem hyp_store_full : 65535 ≤ classCount { w0 t0 with inflight := List.replicate 65535 rOwn } t0 1 :=
  (stores_count 65535).symm.le
theorem hyp_store_down : xlate (sDown tTop) 0 tTop.uid tTop.uid tTop.ctx tTop.area (ea tTop).toNat needSt = (.ok 0x31FFF8, sDown tTop) ∧
    reaches (sDown tTop) 0 0x31FFF8 = false := ⟨rfl, rfl⟩

/-- A store, a write-back, planes, an atomic and a merge in flight. -/
def rStore : Req := { uid := 70, seq := 70, owner := 1, launch := 64, cluster := 0, kind := .store 0x31FFF8 [1, 2, 3, 4] }
def rBack : Req := { rStore with kind := .writeBack 0x31FFF8 [1, 2, 3, 4] }
def rAtom : Req := { rStore with kind := .atom 0x31FFF8 .max false 0xFFFFFFFF }
def sReq (r : Req) : State := { w0 t0 with inflight := [r] }

def rPlanes : Req := { rStore with kind := .planes 0x31FF00 255 8 0x81 }
def rMerge : Req := { rStore with part := true, kind := .merge 0x31FFF8 .f32 (List.replicate 64 0x3F800000) }

/-- Nothing holds the request back, and it reaches its home. -/
def free (s : State) (r : Req) : Bool := s.inflight.any (fun x => x.uid = r.uid) && s.inflight.all (fun x => !mustPrecede x r) &&
  !waitsInQueue s r && !requestStuck s r && !s.dropped.contains r.uid
theorem hyp_request (r : Req) (h : r = rStore ∨ r = rBack ∨ r = rAtom ∨ r = rPlanes ∨ r = rMerge) :
    (sReq r).inflight.find? (fun x => x.uid = r.uid) = some r ∧ free (sReq r) r = true ∧ requestReaches (sReq r) r = true ∧
    combined (sReq r) r = [] := by
  obtain rfl | rfl | rfl | rfl | rfl := h <;> exact ⟨rfl, by decide, by decide, by simp [combined, sReq]⟩
theorem hyp_request_down : free { sDown t0 with inflight := [rStore] } rStore = true ∧
    requestReaches { sDown t0 with inflight := [rStore] } rStore = false := by decide
theorem hyp_request_held : (∃ x ∈ [{ rStore with uid := 69, seq := 69 }, rStore], mustPrecede x rStore = true) ∧
    waitsInQueue { sReq rStore with releases := [⟨60, 1, 0, 0, 0x31FFF8, .dev, 0, 0⟩] } rStore = true ∧ rStore.uid ∈ { sReq rStore with dropped := [70] }.dropped := by decide
theorem hyp_request_poisoned : free { sPois t0 with inflight := [rAtom] } rAtom = true ∧
    poisoned { sPois t0 with inflight := [rAtom] } 0x31FFF8 4 = true := by decide
/-- Two equal additions, which the home may combine. -/
def rAdd (uid : Nat) : Req :=
  { uid := uid, seq := uid, owner := 1, launch := 64, cluster := 0, kind := .atom 0x31FFF8 .add false 0xFFFFFFFF }
theorem hyp_request_combined : ∀ x ∈ rAdd 70 :: combined { sReq (rAdd 70) with inflight := [rAdd 70, rAdd 71] } (rAdd 70),
    ∃ u, x.kind = .atom 0x31FFF8 .add false u := by
  intro x h
  have hx : x = rAdd 70 ∨ x = rAdd 71 := by
    cases hc : Config.combines 71 <;> (simp_all [combined, rAdd, canCombine]; try grind)
  obtain rfl | rfl := hx <;> exact ⟨_, rfl⟩
theorem hyp_plane_range : 255 < 256 ∧ 8 ≤ 8 := by decide
/-- The largest operand of a 32-bit atomic. -/
theorem hyp_atomic_operand : (0xFFFFFFFF : Word).toNat < 2 ^ (8 * 4) := by decide

theorem hyp_unhandled : (launchOf (w0 t0) t0.launch).isSome = true ∧ ({ t0 with csr := {} } : Thread).csr.thand = 0 ∧
    inh { t0 with csr := { thand := 0x10080, tstat := 1 } } = true := by decide

def tInh (tstat : Word) : Thread := { t0 with csr := { thand := 0x10080, tstat := tstat, tepc := 0x10004 } }
theorem hyp_tret_no_held : inh (tInh 1) = true ∧ (tInh 1).csr.tstat.getLsbD 1 = false ∧ (tInh 1).deferred = none :=
  ⟨rfl, rfl, rfl⟩
theorem hyp_tret_waits : inh (tInh 3) = true ∧ (tInh 3).csr.tstat.getLsbD 1 = true ∧
    { tInh 3 with vq := [ent .vrel] }.vq ≠ [] := by decide
def tHeld : Thread := { tInh 3 with held := List.replicate 64 (ent (.valuAdd 3 1 2 0 false .s32)) }
theorem hyp_tret_held : inh tHeld = true ∧ tHeld.csr.tstat.getLsbD 1 = true ∧ tHeld.vq = [] ∧ tHeld.held.length ≤ 64 ∧
    (∀ h ∈ tHeld.h, h.2.failed = []) ∧ (∀ k, k < 5 → classCount (w0 tHeld) tHeld k + 64 < 65535) ∧
    (∀ e ∈ tHeld.held, isMarker e.instr true = false ∧ hresReg e.instr = none ∧ ∀ x y, e.instr ≠ .kcntLink x y) := by
  refine ⟨rfl, rfl, rfl, by decide, by decide, by decide, fun e he => ?_⟩
  obtain rfl := List.eq_of_mem_replicate he
  exact ⟨rfl, rfl, fun x y h => by cases h⟩

def wRel (t : Thread) : State := { w0 t with releases := [{ uid := 60, owner := 1, thread := 0, addr := 0x20000, pa := 0x300000, sc := .dev, tag := 0, ctx := 0 }] }
theorem hyp_tend : t0.vq = [] ∧ (∀ r ∈ (w0 t0).releases, r.owner ≠ t0.uid) ∧ t0.latches = [] ∧ t0.tq = [] ∧
    (clusterOf (w0 t0) 0).tracker.length < 8 := ⟨rfl, by decide, rfl, rfl, by decide⟩
theorem hyp_tend_waits : (tv (ent .vrel)).vq ≠ [] ∧ ∃ r ∈ (wRel t0).releases, r.owner = t0.uid := by decide
theorem hyp_tend_latch : { t0 with latches := [0x20000] }.latches ≠ [] := by decide

def sSnap (station die : Nat) : State := { w0 t0 with fence := [(159, 1)], bcasts := [.snapshot die 9 [station]] }
theorem hyp_snapshot : hostReach (w0 t0) = true ∧ hostQuiet (w0 t0) ∧ { w0 t0 with trigPosted := 1 }.trigPosted ≠ 0 ∧
    { w0 t0 with trigRound := 1 }.trigRound ≠ 0 ∧ ¬ tileOfPort 0 ∈ (w0 t0).bypassed ∧
    (∀ x ∈ [(0, 0), (158, 3), (159, 3)], nextBcast (sSnap x.1 x.2) (dieOfTile x.1) = some (.snapshot x.2 9 [x.1])) ∧
    inService (sSnap 0 0) 0 = true ∧ inService (sSnap 158 3) 158 = true ∧ inService (sSnap 159 3) 159 = false ∧
    ¬ 157 ∈ [158] ∧ fenceOf (sSnap 0 0) (tileOfPort 0) ≠ 1 :=
  ⟨rfl, ⟨rfl, by decide, fun _ => rfl⟩, by decide, by decide, by decide, by decide, rfl, rfl, rfl, by decide, by decide⟩

/-- A thread whose vfmt is s32. -/
def tp : Thread := { t0 with csr := { thand := 0x10080, vfmt := 2, vrows := 1, vcols := 8 } }
theorem hyp_push_ok (i : Instr) (h : i ∈ [.valuAdd 31 30 29 7 true .s32, .vrel, .vsetLen 5 6, .vsetLenf 5 6 .m8 .bpi,
    .qordWait 0 15 15 15 15, .kcntAdv 7, .kcntExt 0 5, .kcntLink 0 7, .kcntSet 0 5, .kcntRst 0, .hresAnch 0 5 3,
    .hresLim 0 5 3, .hresBind 0 5, .hresWmk 0 5, .hresClr 7]) : PushOk (w0 tp) tp i := by
  have : pushLegal (w0 tp) tp i = true := by revert i; decide
  exact ⟨this, rfl, by decide, by decide⟩
theorem hyp_plain_push : plainPush (.valuAdd 31 30 29 7 true .s32) = true := rfl
theorem hyp_push_stall : 64 ≤ { tp with vq := List.replicate 64 (ent .vrel) }.vq.length ∧
    { tp with hold := .push }.hold = .push := by decide
theorem hyp_push_illegal : pushLegal (w0 tp) tp (.valuAdd 3 1 2 0 false .s8) = false ∧
    pushLegal (w0 tp) tp (.valuAdd 3 1 2 0 false .s32) = true ∧ { tp with vrelPushed := true }.vrelPushed = true := by decide
theorem hyp_push_launch : ∃ l, launchOf (w0 tp) tp.launch = some l := ⟨_, rfl⟩

/-- Counter 0 stands at the last value of its extent and is linked to counter 1, which stands before its last. -/
def tk : Thread := { tp with kpush := [(0, { value := 2, extent := 3, link := some 1 }), (1, { value := 0, extent := 2 }),
  (2, { value := 1, extent := 3 }), (3, { value := 2, extent := 3 })] }
theorem hyp_counters : (∀ n, inDelivery tk n < 2) ∧ (kreg tk.kpush 2).value + 1 < (kreg tk.kpush 2).extent ∧
    (kreg tk.kpush 3).extent ≤ (kreg tk.kpush 3).value + 1 ∧ (kreg tk.kpush 3).link = none ∧
    (kreg tk.kpush 0).extent ≤ (kreg tk.kpush 0).value + 1 ∧ (kreg tk.kpush 0).link = some 1 ∧ 1 ≠ (0 : Reg).toNat ∧
    (kreg tk.kpush 1).value + 1 < (kreg tk.kpush 1).extent :=
  ⟨fun _ => (by decide : 0 < 2), by decide, by decide, by decide, by decide, by decide, by decide, by decide⟩

/-- A tensor descriptor of type code `ty` and rank 2, 16 × 16 elements, at 0x20000. -/
def mkTd (ty : Nat) : List Byte :=
  bytesOfNat 8 0x20000 ++ bytesOfNat 1 ty ++ bytesOfNat 1 2 ++ bytesOfNat 6 0 ++ bytesOfNat 4 16 ++ bytesOfNat 4 16 ++
  bytesOfNat 4 1 ++ bytesOfNat 4 1 ++ bytesOfNat 8 1 ++ bytesOfNat 8 16 ++ bytesOfNat 16 0
/-- A configuration block of a mode: lines 0 to 63, a box of 4 × 4 elements at the origin. -/
def mkBlk (mode : Nat) : List Byte :=
  bytesOfNat 8 0x20400 ++ bytesOfNat 1 mode ++ bytesOfNat 1 0 ++ bytesOfNat 2 0 ++ bytesOfNat 2 64 ++ bytesOfNat 2 0xFFFF ++
  (bytesOfNat 8 0 ++ bytesOfNat 4 4 ++ bytesOfNat 20 0) ++ (bytesOfNat 8 0 ++ bytesOfNat 4 4 ++ bytesOfNat 20 0) ++
  (bytesOfNat 8 0 ++ bytesOfNat 4 1 ++ bytesOfNat 20 0) ++ (bytesOfNat 8 0 ++ bytesOfNat 4 1 ++ bytesOfNat 20 0) ++
  bytesOfNat 16 0
/-- A register configured with them, of 32-bit signed elements. -/
def hr (mode : Nat) : HReg := { blk := mkBlk mode, td := mkTd 2 }
/-- The thread with h0 configured. -/
def th (t : Thread) (mode : Nat) : Thread := { t with h := [(0, hr mode)] }

theorem hyp_hres_push : tabFind (th tp 0).h (0 : Reg).toNat = some (hr 0) ∧ (∀ n, inDelivery (th tp 0) n < 2) ∧
    PushOk (w0 (th tp 0)) (th tp 0) (.hresAnch 0 5 3) :=
  ⟨rfl, fun _ => (by decide : 0 < 2), by decide, rfl, by decide, by decide⟩

/-- Two recomputations of h0 count; the push of a third waits for the older. -/
def tThird (younger : Bool) : Thread :=
  { th tp 0 with recomps := [{ h := 0, marker := 40, fetches := [] }, { h := 0, marker := 41, counts := younger, fetches := [] }] }
theorem hyp_push_third : pushLegal (w0 (tThird true)) (tThird true) (.hresAnch 0 5 3) = true ∧ (tThird true).vrelPushed = false ∧
    (tabFind (tThird true).h (0 : Reg).toNat).isSome = true ∧
    (tThird true).recomps.filter (fun r => r.h = (0 : Reg).toNat ∧ r.counts) = [{ h := 0, marker := 40, fetches := [] }, { h := 0, marker := 41, fetches := [] }] := by
  decide
/-- The younger has left delivery and the older has not, and the other way round. -/
theorem hyp_push_stall_on : (∃ x ∈ [((0 : Nat), (40 : Nat))], ∃ r ∈ (tThird false).recomps, r.h = x.1 ∧ r.marker = x.2 ∧ r.counts = true) ∧
    ¬ (∃ x ∈ [((0 : Nat), (40 : Nat))], ∃ r ∈ [({ h := 0, marker := 41, fetches := [] } : Recomp)], r.h = x.1 ∧ r.marker = x.2 ∧ r.counts = true) := by
  decide
theorem hyp_qord : qordHolds (w0 tp) tp (.qordWait 0 15 15 15 15) = true ∧
    qordHolds (w0 { tp with tq := [{ uid := 5, instr := .tileOff 1, cap := {} }] })
      { tp with tq := [{ uid := 5, instr := .tileOff 1, cap := {} }] } (.qordWait 15 15 15 0 15) = false ∧
    { tp with hold := .qord (.qordWait 0 15 15 15 15) }.hold = .qord (.qordWait 0 15 15 15 15) := by decide

def eAdd : Entry := ent (.valuAdd 3 1 2 0 true .s32)
theorem hyp_lane_begins : AtVcp (w0 (tv eAdd)) 0 (tv eAdd) eAdd [] ∧ needsLanes eAdd.instr = true ∧ eAdd.begun = false ∧
    (clusterOf (w0 (tv eAdd)) 0).rs.table = [] ∧ eAdd.k < nElems eAdd.cap ∧ eAdd.eb = none ∧
    (shapeOf eAdd.instr).be = some 2 := ⟨vcp_tv _, rfl, rfl, rfl, by decide, rfl, rfl⟩
/-- t0 holds lane group 0 for an entry that has begun. -/
def tl (e : Entry) : Thread := { tv { e with begun := true } with lgrp := some 0 }
theorem sole (e : Entry) (h : needsLanes e.instr = true) :
    SoleHolder (w0 (tl e)) 0 0 0 (tl e) { e with begun := true } [] :=
  ⟨⟨rfl, rfl, rfl, List.not_mem_nil⟩, by decide, by intro j h1 h2; match j, h1, h2 with | 1, _, _ => rfl | 2, _, _ => rfl | 3, _, _ => rfl,
    by decide, rfl, rfl, h, rfl⟩
theorem hyp_lane_group : SoleHolder (w0 (tl eAdd)) 0 0 0 (tl eAdd) { eAdd with begun := true } [] ∧
    accessOf (tl eAdd) { eAdd with begun := true } = none ∧
    ∃ f, laneWork (tl eAdd) { eAdd with begun := true } = some (.groups 3 0 32 f) := ⟨sole _ rfl, rfl, _, rfl⟩
def eCmp : Entry := ent (.vcmp 7 1 2 0 false .lt .s32)
theorem hyp_lane_bits : SoleHolder (w0 (tl eCmp)) 0 0 0 (tl eCmp) { eCmp with begun := true } [] ∧
    ∃ f, laneWork (tl eCmp) { eCmp with begun := true } = some (.bits 7 0 32 f) := ⟨sole _ rfl, _, rfl⟩
theorem hyp_group_write : (64 = 8 ∨ 64 = 16 ∨ 64 = 32 ∨ (64 : Nat) = 64) ∧ 2048 * 64 ≤ 131072 ∧ 2047 * 64 < 131072 := by decide
theorem hyp_integer_types : ElemTy.s64.isInt = true ∧ ElemTy.z8.isInt = true ∧ ElemTy.z32.isInt = true := by decide
theorem hyp_mask_numbers : 1 ≤ (7 : Reg).toNat ∧ (7 : Reg).toNat < 8 ∧ 1 ≤ (1 : Reg).toNat ∧ 16383 < 16384 := by decide

/-- v1 holds 2, 5, 9 and v2 holds 1, 5, 9, 12. -/
def tLists (e : Entry) : Thread := { tl e with
  v := [(1, BitVec.ofNat 16384 (2 + 5 * 2 ^ 32 + 9 * 2 ^ 64)), (2, BitVec.ofNat 16384 (1 + 5 * 2 ^ 32 + 9 * 2 ^ 64 + 12 * 2 ^ 96))],
  p := [(1, 7), (2, 15)] }
theorem hyp_whole : ElemTy.z32.isInt = true ∧ ElemTy.z32.bits = (vfmtTy eAdd.cap.vfmt).bits ∧ 0 < nElems eAdd.cap ∧
    nElems eAdd.cap * 32 ≤ 131072 := by decide
theorem hyp_streams : (streamOf (tLists eAdd) eAdd 1 1 .z32).Pairwise (fun x y => intOf .z32 x < intOf .z32 y) ∧
    streamOf (tLists eAdd) eAdd 1 1 .z32 = [2, 5, 9] := by decide +kernel
/-- p1 holds elements 0 to 2: the first of both masks is 0; with no common bit there is none. -/
theorem hyp_first : (maskBit (tLists eAdd) 1 0 && maskBit (tLists eAdd) 2 0) = true ∧ 0 < nElems eAdd.cap ∧
    (∀ j, j < nElems eAdd.cap → (maskBit (tLists eAdd) 1 j && maskBit (tLists eAdd) 3 j) = false) ∧ ElemTy.f32.bits = 32 ∧
    ElemTy.bf16.bits ≠ ElemTy.f32.bits ∧ nElems eAdd.cap * 32 ≤ 131072 := by decide +kernel
/-- A thread that holds lane group 0 is the sole holder in its cluster. -/
theorem sole_of (t : Thread) (e : Entry) (hq : t.vq = e :: []) (hf : headFree t = true) (hl : t.lgrp = some 0)
    (hn : needsLanes e.instr = true) (hb : e.begun = true) : SoleHolder (w0 t) 0 0 0 t e [] :=
  ⟨⟨rfl, hq, hf, List.not_mem_nil⟩, by decide, by intro j h1 h2; match j, h1, h2 with | 1, _, _ => rfl | 2, _, _ => rfl | 3, _, _ => rfl,
    by decide, hl, rfl, hn, hb⟩

/-- An entry of 2 × 4 elements of 32 bits. -/
def e24 (i : Instr) : Entry := { ent i with cap := { vfmt := 2, vrows := 2, vcols := 4 }, begun := true }
def eLd : Entry := e24 (.vwld 8 0 5 1 1 0 0 false)
def tLd : Thread := { th (tl eLd) 1 with p := [(1, 0x7F)] }
theorem hyp_window_load : SoleHolder (w0 tLd) 0 0 0 tLd eLd [] ∧
    tabFind tLd.h (0 : Reg).toNat = some (hr 1) ∧ (blkMode (hr 1).blk = 0 ∨ blkMode (hr 1).blk = 1) ∧
    (hr 1).failed = [] ∧ tLd.recomps = [] ∧ (vfmtTy eLd.cap.vfmt).bits = 8 * tySize (tdType (hr 1).td) ∧
    (∀ i, i < min (nElems eLd.cap) ((eLd.k / (512 / 32) + 1) * (512 / 32)) →
      (offsetCoord (hr 1) (tileOffsets eLd.cap 1 0 0 i)).isSome = true) ∧ 1 ≤ (1 : PReg).toNat :=
  ⟨sole_of _ _ rfl rfl rfl rfl rfl, rfl, by decide, rfl, rfl, by decide, by decide, by decide⟩

/-- The same through an index register of offsets 0, and a store in mode wo. -/
theorem hyp_window_index : (indexCoord (hr 2) (elem tLd 2 16 3)).isSome = true ∧
    (e24 (.vidxLd 8 0 2 1 .z16 true)).instr = .vidxLd 8 0 2 1 .z16 true ∧ (blkMode (hr 0).blk = 0) :=
  ⟨by decide +kernel, rfl, by decide⟩
def eSt : Entry := e24 (.vwst 8 0 5 1 1 0 0)
def tSt (e : Entry) : Thread := { th (tl e) 2 with p := [(1, 0x7F)] }
theorem hyp_window_store : SoleHolder (w0 (tSt eSt)) 0 0 0 (tSt eSt) eSt [] ∧
    tabFind (tSt eSt).h (0 : Reg).toNat = some (hr 2) ∧ (blkMode (hr 2).blk = 1 ∨ blkMode (hr 2).blk = 2) ∧ blkMode (hr 1).blk = 1 ∧
    (hr 2).failed = [] ∧ (tSt eSt).recomps = [] ∧ (vfmtTy eSt.cap.vfmt).bits = 8 * tySize (tdType (hr 2).td) ∧
    (∀ i, i < min (nElems eSt.cap) ((eSt.k / (512 / 32) + 1) * (512 / 32)) →
      (offsetCoord (hr 2) (tileOffsets eSt.cap 1 0 0 i)).isSome = true) :=
  ⟨sole_of _ _ rfl rfl rfl rfl rfl, rfl, by decide, by decide, rfl, rfl, by decide, by decide⟩

/-- Counter 2 of the committed copies stands before the last value of its extent. -/
def tkc : Thread := { t0 with kcomm := [(2, { value := 1, extent := 3 })] }
theorem hyp_counter_commit : AtVcp (w0 { tkc with vq := [ent (.kcntAdv 2)] }) 0 { tkc with vq := [ent (.kcntAdv 2)] } (ent (.kcntAdv 2)) [] ∧
    (ent (.kcntAdv 2)).boxes = [] ∧ (∀ r ∈ tkc.recomps, r.marker ≠ (ent (.kcntAdv 2)).uid) ∧
    (kreg tkc.kcomm (2 : Reg).toNat).value + 1 < (kreg tkc.kcomm (2 : Reg).toNat).extent ∧ tkc.lost = none :=
  ⟨⟨rfl, rfl, rfl, List.not_mem_nil⟩, rfl, by decide, by decide, rfl⟩
/-- Counters at the last value of their extent: without a link, linked to itself, linked to counter 2. -/
theorem hyp_counter_carry : let k : Tab KReg := [(0, { value := 2, extent := 3 }), (1, { value := 0, extent := 1, link := some 1 }),
      (2, { value := 0, extent := 2 }), (3, { value := 2, extent := 3, link := some 2 })]
    (kreg k 0).extent ≤ (kreg k 0).value + 1 ∧ (kreg k 0).link = none ∧ (kreg k 1).extent ≤ (kreg k 1).value + 1 ∧
    (kreg k 1).link = some 1 ∧ (kreg k 3).extent ≤ (kreg k 3).value + 1 ∧ (kreg k 3).link = some 2 ∧ 2 ≠ 3 ∧
    (kreg k 2).value + 1 < (kreg k 2).extent := by decide
def eAnch : Entry := { ent (.hresAnch 0 5 3) with boxes := [(0, [0, 0, 0, 7])] }
theorem hyp_anchor_commit : AtVcp (w0 (th (tv eAnch) 0)) 0 (th (tv eAnch) 0) eAnch [] ∧
    tabFind (th (tv eAnch) 0).h (0 : Reg).toNat = some (hr 0) ∧
    (∀ r ∈ (th (tv eAnch) 0).h, r.1 = (0 : Reg).toNat → blkMode r.2.blk = 0) ∧ (hr 0).dirty = [] ∧ (hr 0).failed = [] ∧
    eAnch.boxes = [((0 : Reg).toNat, [0, 0, 0, 7])] := ⟨⟨rfl, rfl, rfl, List.not_mem_nil⟩, rfl, by decide, rfl, rfl, rfl⟩

/-- Memory behind page 0x20000, mapped readable and writable, holds `l` from 0x20000 on and `m` from 0x20400 on. -/
def wm (t : Thread) (l m : List Byte) : State :=
  { w0 t with mem := writeBytes (writeBytes (writeBytes (w0 t).mem 0x108010 (bytesOfNat 8 0x300017)) 0x300000 l) 0x300400 m }
def eSet : Entry := { ent (.hresSet 0 5) with cap := { xa := 0x20000 } }
/-- A block of an accumulation window whose box has one row of 2. -/
def accBlk : List Byte :=
  bytesOfNat 8 0x20400 ++ bytesOfNat 1 3 ++ bytesOfNat 1 0 ++ bytesOfNat 2 0 ++ bytesOfNat 2 64 ++ bytesOfNat 2 0xFFFF ++
  (bytesOfNat 8 0 ++ bytesOfNat 4 2 ++ bytesOfNat 20 0) ++ (bytesOfNat 8 0 ++ bytesOfNat 4 1 ++ bytesOfNat 20 0) ++
  (bytesOfNat 8 0 ++ bytesOfNat 4 1 ++ bytesOfNat 20 0) ++ (bytesOfNat 8 0 ++ bytesOfNat 4 1 ++ bytesOfNat 20 0) ++
  bytesOfNat 16 0
theorem hyp_hres_set (blk : List Byte) (m : Nat) (h : (blk, m) ∈ [(mkBlk 0, 0), (mkBlk 1, 1), (mkBlk 2, 2), (accBlk, 3)]) :
    readVirt (wm (tv eSet) blk (mkTd 2)) (tv eSet).uid (tv eSet).ctx eSet.cap.xa.toNat 160 = .bytes blk ∧
    readVirt (wm (tv eSet) blk (mkTd 2)) (tv eSet).uid (tv eSet).ctx (fieldAt blk 0 8) 64 = .bytes (mkTd 2) ∧
    configCheck (wm (tv eSet) blk (mkTd 2)) 0 (0 : Reg).toNat blk (mkTd 2) = none ∧ blkMode blk = m ∧
    (∀ c ∈ threadsOf (wm (tv eSet) blk (mkTd 2)) (0 / 4), c.2.h = []) := by
  simp only [List.mem_cons, Prod.mk.injEq, List.not_mem_nil, or_false] at h
  obtain ⟨rfl, rfl⟩ | ⟨rfl, rfl⟩ | ⟨rfl, rfl⟩ | ⟨rfl, rfl⟩ := h <;> decide +kernel
theorem hyp_hres_set_vcp (blk : List Byte) : AtVcp (wm (tv eSet) blk (mkTd 2)) 0 (tv eSet) eSet [] ∧
    (wm (tv eSet) blk (mkTd 2)).migration = none ∧ (∀ r, tabFind (tv eSet).h (0 : Reg).toNat = some r → r.dirty = []) ∧
    (∀ r ∈ (tv eSet).recomps, r.marker ≠ eSet.uid) := ⟨⟨rfl, rfl, rfl, List.not_mem_nil⟩, rfl, fun r h => by (cases h), by decide⟩
theorem hyp_hres_clr : tabFind (th (tv (ent (.hresClr 0))) 0).h (0 : Reg).toNat = some (hr 0) ∧ (hr 0).dirty = [] := ⟨rfl, rfl⟩
/-- The last slot of the box is dirty; its element is at 0x20000 + 4 × (3 × 16 + 3). -/
def hDirty : HReg := { hr 1 with dirty := [15] }
def eClr : Entry := ent (.hresClr 0)
def tDirty : Thread := { tv eClr with h := [(0, hDirty)] }
theorem hyp_hres_dirty : AtVcp (w0 tDirty) 0 tDirty eClr [] ∧ tabFind tDirty.h (0 : Reg).toNat = some hDirty ∧
    (blkMode hDirty.blk = 1 ∨ blkMode hDirty.blk = 2) ∧ tdType hDirty.td ≠ .bpi ∧
    (let c := coordOfSlot hDirty.comm.lo (boxW hDirty.blk) 15
     isClipped hDirty.td hDirty.comm.limit c = false ∧ elemVa hDirty.td c = 0x200CC) ∧ classCount (w0 tDirty) tDirty 1 < 65535 :=
  ⟨⟨rfl, rfl, rfl, List.not_mem_nil⟩, rfl, by decide, by decide, by decide, by decide⟩
theorem hyp_hres_dirty_reaches : Reaches (w0 tDirty) 0 tDirty (BitVec.ofInt 64 0x200CC) 4 needW 0x3000CC :=
  ⟨by decide, ⟨0x300017, false, rfl, by decide, by decide⟩, rfl, rfl, rfl⟩
/-- A marker that moves the box of h0 along dimension 3, while its last slot is dirty. -/
def hMark (mode : Nat) : HReg := { hr mode with dirty := [15] }
def eMark (i : Instr) : Entry := { ent i with boxes := [((0 : Reg).toNat, [0, 0, 0, 7])] }
def tMark (i : Instr) (mode : Nat) : Thread :=
  { tv (eMark i) with h := [(0, hMark mode)], kcomm := [(2, { value := 1, extent := 3 })] }
theorem hyp_marker_vcp (i : Instr) (mode : Nat) : AtVcp (w0 (tMark i mode)) 0 (tMark i mode) (eMark i) [] ∧ (tMark i mode).lost = none ∧
    tabFind (tMark i mode).h (0 : Reg).toNat = some (hMark mode) ∧
    Reaches (w0 (tMark i mode)) 0 (tMark i mode) (BitVec.ofInt 64 0x200CC) 4 needW 0x3000CC :=
  ⟨⟨rfl, rfl, rfl, List.not_mem_nil⟩, rfl, rfl, by decide, ⟨0x300017, false, rfl, by decide, (by decide : leafPa 0x400000 0x300017 false 0x200CC = 0x3000CC)⟩,
    rfl, rfl, rfl⟩
theorem hyp_marker : ∀ mode ∈ [1, 2, 3], ∀ i ∈ [.hresAnch 0 5 3, .hresLim 0 5 3, .kcntSet 2 5, .kcntRst 2, .kcntAdv 2],
    let t := tMark i mode
    let h := hMark mode
    let c := coordOfSlot h.comm.lo (boxW h.blk) 15
    blkMode h.blk = mode ∧ h.dirty.filter (fun k => k ∈ slotsAt h (leaving (boxW h.blk) h.comm.lo [0, 0, 0, 7])) = [15] ∧
    (∀ w ∈ threadsOf (w0 t) 0, ∀ r ∈ w.2.h, ¬ (w.1 = 0 ∧ r.1 = (0 : Reg).toNat) → blkMode r.2.blk = 0) ∧
    isClipped h.td h.comm.limit c = false ∧ elemVa h.td c = 0x200CC ∧ classCount (w0 t) t 1 + 1 ≤ 65535 ∧
    (kreg t.kcomm (2 : Reg).toNat).value + 1 < (kreg t.kcomm (2 : Reg).toNat).extent := by decide +kernel

theorem hyp_vector_trap : handlerFree (tv eSet) ∧ (tv eSet).hold = .run ∧ (tv eSet).tq.length < 16 ∧
    tabFind (tv eSet).h (7 : Reg).toNat = none ∧ tabFind (tv eSet).t (7 : Reg).toNat = none ∧
    tabFind (tv eSet).q (31 : Reg).toNat = none ∧ (∀ x ∈ (w0 (tv eSet)).bindings, x.latch ≠ eSet.cap.xd) ∧
    vfmtTy { eSet with cap := {} }.cap.vfmt = .s8 :=
  ⟨⟨rfl, by decide⟩, rfl, by decide, rfl, rfl, rfl, by decide, rfl⟩
theorem hyp_vector_trap_named : (∃ q ∈ [({ uid := 60, instr := .tileOff 7, cap := {} } : TEntry)],
      tileName q.instr = some (7 : Reg).toNat) ∧ (¬ ∃ q ∈ (tv eSet).tq, tileName q.instr = some (7 : Reg).toNat) ∧
    ¬ ((7 : Word).toNat % 8 = 0 ∧ (256 : Word).toNat % 256 = 0) ∧ ((8 : Word).toNat % 8 = 0 ∧ (256 : Word).toNat % 256 = 0) := by decide

/-! Tiles and slots -/

/-- Cluster 0 is `c`. -/
def wc (t : Thread) (c : Cluster) : State := setCluster (w0 t) 0 { c with tlb := pages }
def eOn : Entry := ent (.tileOn 1)
theorem hyp_tile_on : AtVcp (wc (tv eOn) {}) 0 (tv eOn) eOn [] ∧ tabFind (tv eOn).t (1 : Reg).toNat = none ∧
    ¬ 0 % 4 ∈ (clusterOf (wc (tv eOn) {}) 0).tileWait := ⟨⟨rfl, rfl, rfl, List.not_mem_nil⟩, rfl, by decide⟩
theorem hyp_tile_bound : (tabFind { tv eOn with t := [(1, 0)] }.t (1 : Reg).toNat).isSome = true := rfl
/-- Only tile 15 is free. -/
def cTiles : Cluster := { tileWait := [0], tileBusy := List.range 15 }
theorem hyp_tile_grant : (clusterOf (wc (tv eOn) cTiles) 0).tileWait = 0 % 4 :: [] ∧ 15 < 16 ∧
    ¬ 15 ∈ (clusterOf (wc (tv eOn) cTiles) 0).tileBusy ∧ (∀ k, k < 15 → k ∈ (clusterOf (wc (tv eOn) cTiles) 0).tileBusy) :=
  ⟨rfl, by decide, by decide, by decide⟩
def eClaim : Entry := ent (.cdyClaim 0 31)
theorem hyp_claim : (∀ q ∈ (List.range ((31 : Reg).toNat + 1)).map (fun i => (0 : Reg).toNat + i), tabFind (tv eClaim).q q = none) ∧
    (clusterOf (wc (tv eClaim) { slotWait := [0] }) 0).slotWait = 0 % 4 :: [] ∧
    (31 : Reg).toNat < ((List.range 64).filter (fun k => ¬ k ∈ List.range 32)).length ∧
    ((List.range 64).filter (fun k => ¬ k ∈ List.range 33)).length ≤ (31 : Reg).toNat ∧ ¬ 0 % 4 ∈ (clusterOf (wc (tv eClaim) {}) 0).slotWait :=
  ⟨fun _ _ => rfl, rfl, by decide +kernel, by decide +kernel, by decide⟩
theorem hyp_tile_off : ([] : List TEntry).length < 16 ∧ tabFind { tv (ent (.tileOff 1)) with t := [(1, 9)] }.t (1 : Reg).toNat = some 9 ∧
    (∀ q ∈ (List.range ((0 : Reg).toNat + 1)).map (fun i => (3 : Reg).toNat + i),
      (tabFind { tv (ent (.cdyRel 3 0)) with q := [(3, 12)] }.q q).isSome = true) := ⟨by decide, rfl, by decide⟩

/-- Slots 0 and 1 hold bf16 matrices of 64 × 1 and 1 × 64. -/
def cSlots : Cluster :=
  { slots := [(0, { info := miWord 64 1 9 0 true false false false 0 0 0 false 0 }),
              (1, { info := miWord 1 64 9 0 true false false false 0 0 0 false 0 })] }
def eMma : Entry := ent (.tileMma 2 0 1 0 .bf16)
def tMma : Thread := { tv eMma with t := [(2, 5)], q := [(0, 0), (1, 1)] }
theorem hyp_mma_handoff : AtVcp (wc tMma cSlots) 0 tMma eMma [] ∧ tabFind tMma.t (2 : Reg).toNat = some 5 ∧ tMma.tq.length < 16 ∧
    tabFind tMma.q (0 : Reg).toNat = some 0 ∧ tabFind tMma.q (1 : Reg).toNat = some 1 ∧
    (let ma := (slotAt (clusterOf (wc tMma cSlots) 0) 0).info
     let mb := (slotAt (clusterOf (wc tMma cSlots) 0) 1).info
     miLoaded ma = true ∧ miLoaded mb = true ∧ miType ma = .bf16 ∧ miType mb = .bf16 ∧ miRows ma ≤ 64 ∧ miCols mb ≤ 64 ∧
     miCols ma = miRows mb) := ⟨⟨rfl, rfl, rfl, List.not_mem_nil⟩, rfl, by decide, rfl, rfl, by decide⟩
theorem hyp_handoff_row : ({ xb := 63 } : Cap).xb.toNat < 64 ∧
    16 ≤ { tMma with tq := List.replicate 16 { uid := 5, instr := .tileOff 1, cap := {} } }.tq.length := by decide

def tStep (q : TEntry) : Thread := { t0 with tq := [q] }
def qMma : TEntry := { uid := 60, instr := .tileMma 2 0 1 0 .bf16, cap := { xb := 63 }, tile := 15, slots := [0, 1] }
theorem hyp_tile_step (q : TEntry) (h : q.tile < 16) (hs : q.step = 0) :
    threadAt (wc (tStep q) cSlots) (4 * 0 + 0) = some (tStep q) ∧ (∀ j, j < 4 → j ≠ 0 → threadAt (wc (tStep q) cSlots) (4 * 0 + j) = none) ∧
    (tStep q).tq = q :: [] ∧ (tStep q).stopReq = false ∧ q.tile < 16 ∧ q.step = 0 ∧ stepRefused (wc (tStep q) cSlots) 0 = false ∧
    (clusterOf (wc (tStep q) cSlots) 0).seqRun = none :=
  ⟨rfl, by intro j h1 h2; match j, h1, h2 with | 1, _, _ => rfl | 2, _, _ => rfl | 3, _, _ => rfl, rfl, rfl, h, hs, rfl, rfl⟩
theorem hyp_tile_product : (let sa := slotAt (clusterOf (wc (tStep qMma) cSlots) 0) (qMma.slots.getD 0 0)
    let sb := slotAt (clusterOf (wc (tStep qMma) cSlots) 0) (qMma.slots.getD 1 0)
    miType sa.info = .bf16 ∧ miSkip sa.info = false ∧ miSkip sb.info = false ∧ miStr sb.info = false ∧ 0 < miCols sa.info ∧
    miRows sa.info ≤ 64 ∧ miCols sb.info ≤ 64) ∧ qMma.tile < 16 ∧ qMma.cap.xb.toNat < 64 := by decide
/-- Slots 0 and 1: a row by a column of `n` elements each, of type codes `ta` and `tb`; slot 1 may be strained. -/
def cPair (n ta pa tb : Nat) (skip str : Bool) (b : CSlot) (x y : Tab Byte) : Cluster :=
  { slots := [(0, { bytes := x, info := miWord 1 n ta pa true skip false false 0 0 0 false 0 }),
              (1, { b with bytes := y, info := miWord n 1 tb 0 true false false str 0 b.terms.length b.residual.length false 0 })] }
/-- e4m3, three wide: two k a step, the second step has one; 1 × 1 + 1 × 1, then 1 × 1. -/
def cE4m3 : Cluster := cPair 3 11 0 11 false false {} [(0, 0x38), (1, 0x38), (2, 0x38)] [(0, 0x38), (1, 0x38), (2, 0x38)]
/-- bpi of 8 planes by s8: the least values of both. -/
def cBpi : Cluster := cPair 2 13 8 0 false false {} [(0, 0x80), (1, 0x80)] [(0, 0x80), (1, 0x80)]
/-- bf16, strained: one term with k = 1, a residual with k = 0. -/
def cStrained (l : List Nat) (r : List (Nat × Nat)) : Cluster :=
  cPair 2 9 0 9 false true { terms := if l = [] then [] else [[l]], residual := r } [(1, 0x3F), (0, 0x80), (3, 0x3F), (2, 0x80)] [(1, 0x3F), (0, 0x80), (3, 0x3F), (2, 0x80)]
def cSkip : Cluster := cPair 2 9 0 9 true false {} [] []
def qProd (n : Nat) : TEntry := { qMma with cap := {}, pred := 1 + 2 ^ 64, step := n }
/-- One case of a product for the types, steps and kinds of R203, R208 and R214. -/
theorem hyp_tile_products (q : TEntry) (c : Cluster) (h : q.tile < 16) :
    threadAt (wc (tStep q) c) (4 * 0 + 0) = some (tStep q) ∧ (∀ j, j < 4 → j ≠ 0 → threadAt (wc (tStep q) c) (4 * 0 + j) = none) ∧
    (tStep q).tq = q :: [] ∧ (tStep q).stopReq = false ∧ q.tile < 16 ∧ inService (wc (tStep q) c) (tileOfCluster 0) = true :=
  ⟨rfl, by intro j h1 h2; match j, h1, h2 with | 1, _, _ => rfl | 2, _, _ => rfl | 3, _, _ => rfl, rfl, rfl, h, rfl⟩
theorem hyp_tile_product_kinds : (∀ x ∈ [(cE4m3, 1), (cBpi, 0), (cStrained [1] [(0, 0)], 1), (cStrained [] [], 0), (cSkip, 1)],
      stepRefused (wc (tStep (qProd x.2)) x.1) 0 = false ∧ (clusterOf (wc (tStep (qProd x.2)) x.1) 0).seqRun = none ∧
      (qProd x.2).slots = [0, 1]) ∧
    (miType (slotAt cE4m3 0).info, miCols (slotAt cE4m3 0).info, miStr (slotAt cE4m3 1).info) = (.e4m3, 3, false) ∧
    (miType (slotAt cBpi 0).info, miPlanes (slotAt cBpi 0).info, miType (slotAt cBpi 1).info) = (.bpi, 8, .s8) ∧
    (let b := slotAt (cStrained [1] [(0, 0)]) 1
     miStr b.info = true ∧ miFallback b.info = 0 ∧ b.terms = [[[1]]] ∧ b.residual = [(0, 0)] ∧ miDropped b.info = false) ∧
    (let b := slotAt (cStrained [] []) 1
     miStr b.info = true ∧ miFallback b.info = 0 ∧ b.terms = [] ∧ b.residual = [] ∧ miDropped b.info = false) ∧
    miSkip (slotAt cSkip 0).info = true ∧ miSpec (slotAt cSkip 1).info = false := by decide +kernel

/-- cdy.load of 2 × 4 bf16 elements from h1. -/
def eCdy : Entry := { ent (.cdyLoad 0 2 5) with cap := { vfmt := 9, vrows := 2, vcols := 4 } }
def hBf : HReg := { blk := mkBlk 0, td := mkTd 9 }
def tCdy : Thread := { tv eCdy with q := [(2, 3)], h := [(0, hBf)] }
theorem hyp_cdy_load : AtVcp (w0 tCdy) 0 tCdy eCdy [] ∧ tabFind tCdy.q (2 : Reg).toNat = some 3 ∧
    tabFind tCdy.h (0 : Reg).toNat = some hBf ∧ tCdy.tq = [] ∧ blkMode hBf.blk = 0 ∧ hBf.failed = [] ∧ tCdy.recomps = [] ∧
    slotTy (tdType hBf.td) = true ∧ (vfmtTy eCdy.cap.vfmt).bits = 8 * tySize (tdType hBf.td) ∧
    (if tdType hBf.td = .bpi then 1 ≤ tdPlanes hBf.td ∧ tdPlanes hBf.td ≤ 8 else tdPlanes hBf.td = 0) ∧
    1 ≤ nrows eCdy.cap ∧ nrows eCdy.cap ≤ 1024 ∧ 1 ≤ ncols eCdy.cap ∧ ncols eCdy.cap ≤ 1024 ∧
    nrows eCdy.cap * ncols eCdy.cap * slotWidth (tdType hBf.td) (tdPlanes hBf.td) ≤ 65536 ∧ eCdy.k = 0 ∧
    (∀ i, i < nrows eCdy.cap * ncols eCdy.cap → (offsetCoord hBf (tileOffsets eCdy.cap 1 0 0 i)).isSome = true) :=
  ⟨⟨rfl, rfl, rfl, List.not_mem_nil⟩, rfl, rfl, rfl, by decide, rfl, rfl, by decide, by decide, by decide, by decide, by decide, by decide, by decide,
    by decide, rfl, by decide⟩
theorem hyp_cdy_reading : ∃ q ∈ [qMma], 1 ∈ q.slots ∧ ∃ d a b p ty, q.instr = .tileMma d a b p ty :=
  ⟨qMma, List.mem_singleton_self _, by decide, 2, 0, 1, 0, .bf16, rfl⟩
/-- cdy.lstr of the same window: TERMS 4, patterns 1:2 and 2:4. -/
def eLstr : Entry := { ent (.cdyLstr 0 2 5) with cap := { vfmt := 9, vrows := 2, vcols := 4, stctl := 0x40 } }
def tLstr : Thread := { tv eLstr with q := [(2, 3)], h := [(0, hBf)] }
theorem hyp_cdy_lstr : AtVcp (w0 tLstr) 0 tLstr eLstr [] ∧ eLstr.instr = .cdyLstr 0 2 5 ∧ (¬ ∃ q ∈ tLstr.tq, 3 ∈ q.slots) ∧
    ncols eLstr.cap ≤ 64 ∧ tdType hBf.td ≠ .bpi ∧ nrows eLstr.cap ≤ 512 ∧
    1 * 1024 * slotWidth .bf16 0 ≤ 65536 ∧ 1024 * 65 * slotWidth .s8 0 > 65536 ∧ 512 < 513 ∧ 513 * 1 * slotWidth .bf16 0 ≤ 65536 :=
  ⟨⟨rfl, rfl, rfl, List.not_mem_nil⟩, rfl, by decide, by decide, by decide, by decide, by decide, by decide, by decide, by decide⟩
theorem hyp_tmov : tabFind tMma.t (2 : Reg).toNat = some 5 ∧ tMma.tq = [] ∧ ({ xb := 63 } : Cap).xb.toNat < 64 := ⟨rfl, rfl, by decide⟩

/-! Latches, barriers, bindings -/

def eAcq : Entry := { ent (.syncAcq 4 .dev) with cap := { xa := 0x2FFF8 } }
theorem reaches (t : Thread) (hc : t.ctx = 0) (n : Nat) (need : Need) (h : leafAllows 0x300017 need = true) :
    Reaches (w0 t) 0 t 0x2FFF8 n need 0x30FFF8 := by
  refine ⟨by decide, ⟨0x300017, false, ?_, h, rfl⟩, rfl, rfl, rfl⟩
  rw [hc]; rfl
theorem hyp_acquire : AtVcp (w0 (tv eAcq)) 0 (tv eAcq) eAcq [] ∧ eAcq.begun = false ∧
    strongBefore (w0 (tv eAcq)) (tv eAcq) eAcq.uid = false ∧ eAcq.cap.xa.toNat % 8 = 0 ∧
    ¬ eAcq.cap.xa ∈ (tv eAcq).latches ∧ (tv eAcq).latches.length < 8 ∧ Reaches (w0 (tv eAcq)) 0 (tv eAcq) eAcq.cap.xa 8 needRW 0x30FFF8 ∧
    waitersAt (w0 (tv eAcq)) (homeOf 0x30FFF8) < Config.waiterCap ∧ (∀ x ∈ (w0 (tv eAcq)).waiters, x.uid ≠ eAcq.uid) :=
  ⟨vcp_tv _, rfl, by decide, by decide, by decide, by decide, reaches _ rfl _ _ (by decide), by decide, by decide⟩
theorem hyp_acquire_strong : strongBefore { w0 (tv eAcq) with inflight := [{ rOwn with seq := 49 }] } (tv eAcq) eAcq.uid = true := by
  decide
theorem hyp_acquire_traps : (0x2FFF9 : Word).toNat % 8 ≠ 0 ∧ (0x2FFF8 : Word) ∈ { t0 with latches := [0x2FFF8] }.latches ∧
    8 ≤ { t0 with latches := [8, 16, 24, 32, 40, 48, 56, 64] }.latches.length ∧
    ¬ (0x2FFF8 : Word) ∈ { t0 with latches := [8, 16, 24, 32, 40, 48, 56, 64] }.latches := by decide
def waiter0 : Waiter := { pa := 0x30FFF8, uid := 50, tag := 0, sc := .dev, thread := some 0, ctx := 0 }
theorem hyp_acquire_full : Config.waiterCap ≤
    waitersAt { w0 (tv eAcq) with waiters := List.replicate 1024 waiter0 } (homeOf 0x30FFF8) := by
  have h : List.filter (fun w => decide (homeOf w.pa = homeOf 0x30FFF8)) (List.replicate 1024 waiter0) = List.replicate 1024 waiter0 :=
    List.filter_eq_self.mpr (fun a ha => by rw [List.eq_of_mem_replicate ha]; decide)
  show 1024 ≤ (List.filter _ _).length
  rw [h, List.length_replicate]
def sGrant (m : List Byte) : State := { wm (tv { eAcq with begun := true }) [] [] with
  waiters := [waiter0], mem := writeBytes (w0 t0).mem 0x30FFF8 m }
theorem hyp_grant : (sGrant []).waiters.find? (fun x => x.pa = 0x30FFF8) = some waiter0 ∧ waiter0.thread = some 0 ∧
    homeUp (sGrant []) 0x30FFF8 = true ∧ poisoned (sGrant []) 0x30FFF8 8 = false ∧ latchHeld (readWord (sGrant []) 0x30FFF8) = false ∧
    latchBroken (readWord (sGrant []) 0x30FFF8) = false ∧ latchHeld (readWord (sGrant [1]) 0x30FFF8) = true ∧
    (∀ x ∈ (tv eAcq).h, x.2.comm.latch ≠ some eAcq.cap.xa) := by decide +kernel
/-- Thread 0 of launch 64 holds the latch: the tag is 64 × 2^24. -/
def eRel : Entry := { ent (.syncRel 4 .dev) with cap := { xa := 0x2FFF8 } }
def tRel : Thread := { tv eRel with latches := [0x2FFF8] }
def sRel : State := { w0 tRel with mem := writeBytes (w0 t0).mem 0x30FFF8 (bytesOfNat 8 (256 * (64 * 2 ^ 24) + 1)) }
theorem hyp_release : latchHeld (readWord sRel 0x30FFF8) = true ∧
    latchTag (readWord sRel 0x30FFF8) = BitVec.ofNat 56 (tRel.launch % 2 ^ 32 * 2 ^ 24 + tRel.flat % 2 ^ 24) ∧
    eRel.cap.xa ∈ tRel.latches ∧ tRel.lost = none ∧ (∀ x ∈ sRel.releases, ¬ (x.owner = tRel.uid ∧ x.addr = eRel.cap.xa)) ∧ (∀ x ∈ tRel.h, x.2.comm.latch ≠ some eRel.cap.xa) := by decide +kernel
theorem hyp_release_reaches : AtVcp sRel 0 tRel eRel [] ∧ Reaches sRel 0 tRel eRel.cap.xa 8 needRW 0x30FFF8 :=
  ⟨⟨rfl, rfl, rfl, List.not_mem_nil⟩, ⟨by decide, ⟨0x300017, false, rfl, by decide, by decide⟩, rfl, rfl, rfl⟩⟩
theorem hyp_release_performs : (wRel t0).releases.find? (fun x => x.uid = 60) = (wRel t0).releases.head? ∧
    releaseReady (wRel t0) 1 60 = true ∧ homeUp (wRel t0) 0x300000 = true ∧
    releaseReady { wRel t0 with inflight := [{ rStore with seq := 59 }] } 1 60 = false := ⟨rfl, by decide, by decide, by decide⟩
/-- A window bound to the latch: clean, and with its last slot dirty. -/
def hBound (mode : Nat) (l : List Nat) : HReg := { hr mode with comm := { latch := some 0x2FFF8 }, dirty := l }
def tBound (e : Entry) (mode : Nat) (l : List Nat) : Thread := { tv e with h := [(0, hBound mode l)] }
def sBound (mode : Nat) (l : List Nat) : State :=
  { w0 (tBound { eAcq with begun := true } mode l) with waiters := [waiter0] }
theorem hyp_grant_bound : ∀ m ∈ [0, 1],
    boundRegs (tBound { eAcq with begun := true } m [15]) eAcq.cap.xa = [0] ∧
    tabFind (tBound { eAcq with begun := true } m [15]).h 0 = some (hBound m [15]) ∧ blkMode (hBound m [15]).blk = m ∧
    (sBound m [15]).waiters.find? (fun x => x.pa = 0x30FFF8) = some waiter0 ∧ homeUp (sBound m [15]) 0x30FFF8 = true ∧
    poisoned (sBound m [15]) 0x30FFF8 8 = false ∧ latchHeld (readWord (sBound m [15]) 0x30FFF8) = false ∧
    latchBroken (readWord (sBound m [15]) 0x30FFF8) = false ∧
    isClipped (hBound m [15]).td (hBound m [15]).comm.limit (coordOfSlot (hBound m [15]).comm.lo (boxW (hBound m [15]).blk) 14) = false := by
  decide +kernel
def tRelB (mode : Nat) : Thread := { tBound eRel mode [15] with latches := [0x2FFF8] }
def sRelB (mode : Nat) : State := { w0 (tRelB mode) with mem := sRel.mem }
theorem hyp_release_bound : ∀ m ∈ [1, 2],
    boundRegs (tRelB m) eRel.cap.xa = [0] ∧ tabFind (tRelB m).h 0 = some (hBound m [15]) ∧ blkMode (hBound m [15]).blk = m ∧
    tdType (hBound m [15]).td ≠ .bpi ∧ latchHeld (readWord (sRelB m) 0x30FFF8) = true ∧
    latchTag (readWord (sRelB m) 0x30FFF8) = BitVec.ofNat 56 ((tRelB m).launch % 2 ^ 32 * 2 ^ 24 + (tRelB m).flat % 2 ^ 24) ∧
    eRel.cap.xa ∈ (tRelB m).latches ∧ (tRelB m).lost = none ∧ (sRelB m).releases = [] ∧
    classCount (sRelB m) (tRelB m) 1 + 1 ≤ 65535 ∧
    (let c := coordOfSlot (hBound m [15]).comm.lo (boxW (hBound m [15]).blk) 15
     isClipped (hBound m [15]).td (hBound m [15]).comm.limit c = false ∧ elemVa (hBound m [15]).td c = 0x200CC) := by decide +kernel
theorem hyp_release_bound_vcp (m : Nat) : AtVcp (sRelB m) 0 (tRelB m) eRel [] ∧
    Reaches (sRelB m) 0 (tRelB m) eRel.cap.xa 8 needRW 0x30FFF8 ∧
    Reaches (sRelB m) 0 (tRelB m) (BitVec.ofInt 64 0x200CC) 4 needW 0x3000CC :=
  ⟨⟨rfl, rfl, rfl, List.not_mem_nil⟩, ⟨by decide, ⟨0x300017, false, rfl, by decide, (by decide : leafPa 0x400000 0x300017 false 0x2FFF8 = 0x30FFF8)⟩, rfl, rfl, rfl⟩,
    ⟨by decide, ⟨0x300017, false, rfl, by decide, (by decide : leafPa 0x400000 0x300017 false 0x200CC = 0x3000CC)⟩, rfl, rfl, rfl⟩⟩
/-- A release at a stopped router, one whose packet is lost, and one whose home is fenced. -/
theorem hyp_release_held : cutOff { wRel t0 with silent := [(tileOfCluster 0, 1)] } 0 0x300000 = true ∧
    60 ∈ { wRel t0 with dropped := [60] }.dropped ∧ cutOff (wRel t0) 0 0x300000 = false ∧ ¬ 60 ∈ (wRel t0).dropped ∧
    Machine.reaches (wRel t0) 0 0x300000 = true ∧
    Machine.reaches { wRel t0 with fence := [(tileOfSlice (homeOf 0x300000), 1)] } 0 0x300000 = false ∧
    cutOff { wRel t0 with fence := [(tileOfSlice (homeOf 0x300000), 1)] } 0 0x300000 = false := by decide +kernel

def bar0 : Barrier := { launch := 64, lvl := 0, group := 0, expect := 1, live := 1 }
def eBarr : Entry := ent (.syncBarr .thd 0)
def wb (e : Entry) (b : Barrier) : State := { w0 (tv e) with barriers := [b] }
def launch0 : Launch := { id := 64, queue := 0, ctx := 0, raw := placeRecord, placed := 1, order := 0, code := placeTables [] }
theorem hyp_barrier : AtVcp (wb eBarr bar0) 0 (tv eBarr) eBarr [] ∧ launchOf (wb eBarr bar0) (tv eBarr).launch = some launch0 ∧
    lvlGang (recLevel launch0.raw (0 : BitVec 4).toNat) = true ∧ barrierUp (wb eBarr bar0) (tv eBarr).launch 0 0 = true ∧
    settled (wb eBarr bar0) bar0 = bar0 ∧
    barrierOf (wb eBarr bar0) (tv eBarr).launch 0 ((tv eBarr).flat / groupThreads launch0.raw 0) = some bar0 ∧ eBarr.phase = none ∧
    releaseReady (wb eBarr bar0) (tv eBarr).uid eBarr.uid = true :=
  ⟨⟨rfl, rfl, rfl, List.not_mem_nil⟩, rfl, by decide, rfl, by decide, by decide, rfl, by decide⟩
/-- With no tile fenced every slice can be reached; with every router running nothing is held. -/
theorem routes_all : ∀ a ∈ [tileOfPort 0, tileOfCluster 0, tileOfPort 17], ∀ k, k < 160 → routeUp State.reset a (tileOfSlice k) = true := by
  decide +kernel
theorem from_up (s : State) (h : s.fence = []) (a k : Nat) (ha : a ∈ [tileOfPort 0, tileOfCluster 0, tileOfPort 17]) (hk : k < 160) :
    routeUp s a (tileOfSlice k) = true := by
  have hs : inService s = inService State.reset := by funext n; simp only [inService, h]; rfl
  have : routeUp s = routeUp State.reset := by
    funext x y; simp [routeUp, way, wayFrom, hops, hs]
  rw [this]; exact routes_all a ha k hk
theorem not_stuck (s : State) (h : s.silent = []) (tile : Option Nat) (dest : Nat) : stuckTo s tile dest = false := by
  cases tile <;> simp [stuckTo, wayStopped, stopped, h, tabFind]
theorem barrier_reached (s : State) (h : s.fence = []) (h' : s.silent = []) (a : Nat)
    (ha : a ∈ [tileOfPort 0, tileOfCluster 0, tileOfPort 17]) (l n g : Nat) : barrierReached s (some a) l n g = true := by
  have hk : Config.barrierHome l n g % 160 < 160 := Nat.mod_lt _ (by decide)
  have hi : inService s (barrierTile l n g) = true := by simp [inService, h, tabGet, tabFind]
  have hw : wayTo s (some a) (barrierTile l n g) = true := from_up s h a _ ha hk
  simp only [barrierReached, barrierUp, hi, hw, not_stuck s h']; rfl
theorem hyp_barrier_reached : barrierReached (wb eBarr bar0) (tileOfOwner (wb eBarr bar0) (tv eBarr).uid) (tv eBarr).launch 0 0 = true ∧
    barrierReached { wb eBarr bar0 with silent := [(tileOfCluster 0, 1)] } (tileOfOwner (wb eBarr bar0) (tv eBarr).uid) (tv eBarr).launch 0 0 =
      false := by
  have ho : tileOfOwner (wb eBarr bar0) (tv eBarr).uid = some (tileOfCluster 0) := rfl
  rw [ho]
  refine ⟨barrier_reached _ rfl rfl _ (by decide) _ _ _, ?_⟩
  have h : stopped { wb eBarr bar0 with silent := [(tileOfCluster 0, 1)] } (tileOfCluster 0) = true := by decide
  simp only [barrierReached, stuckTo, wayStopped, Option.any, h, Bool.true_or, Bool.not_true, Bool.and_false]
/-- A barrier whose home is fenced, which the entry reports at once, and one behind a stopped router, where it waits. -/
theorem hyp_barrier_unreached : (barrierReached { wb eBarr bar0 with fence := [(barrierTile 64 0 0, 1)] }
      (tileOfOwner { wb eBarr bar0 with fence := [(barrierTile 64 0 0, 1)] } (tv eBarr).uid) (tv eBarr).launch 0 0 = false ∧
    stuckTo { wb eBarr bar0 with fence := [(barrierTile 64 0 0, 1)] } (some (tileOfCluster 0)) (barrierTile 64 0 0) = false) ∧
    stuckTo { wb eBarr bar0 with silent := [(tileOfCluster 0, 1)] } (some (tileOfCluster 0)) (barrierTile 64 0 0) = true ∧
    eBarr.phase = none ∧ handlerFree (tv eBarr) ∧ (tv eBarr).hold = .run ∧ { eBarr with phase := some 0 }.phase ≠ none := by
  refine ⟨⟨?_, not_stuck _ rfl _ _⟩, ?_, rfl, ⟨rfl, by decide⟩, rfl, by decide⟩
  · have h : inService { wb eBarr bar0 with fence := [(barrierTile 64 0 0, 1)] } (barrierTile 64 0 0) = false := by
      simp [inService, tabGet, tabFind]
    simp only [barrierReached, barrierUp, show (tv eBarr).launch = 64 from rfl, h, Bool.false_and]
  · have h : stopped { wb eBarr bar0 with silent := [(tileOfCluster 0, 1)] } (tileOfCluster 0) = true := by decide
    simp only [stuckTo, wayStopped, Option.any, h, Bool.true_or]
theorem hyp_barrier_phase : { eBarr with phase := some 0 }.phase = some 0 ∧
    (let d := (1 + 2 ^ 32 - 0) % 2 ^ 32; 0 < d ∧ d < 2 ^ 31) ∧ ¬ (let d := (0 + 2 ^ 32 - 0) % 2 ^ 32; 0 < d ∧ d < 2 ^ 31) ∧
    lvlGang (recLevel launch0.raw 1) = false ∧
    releaseReady { wb eBarr bar0 with inflight := [{ rStore with seq := 49 }] } 1 eBarr.uid = false := by decide
/-- Four cycles have passed on every die; the phase was due in cycle 3, with an expectation of that cycle. -/
def bar3 : Barrier := { bar0 with arrived := 1, dueAt := some 3, late := 1, lateAt := 3 }
def wb4 (b : Barrier) : State := { wb eBarr b with cycles := [(0, 4), (1, 4), (2, 4), (3, 4)] }
theorem barrier_now (b : Barrier) : barrierNow (wb4 b) b = 4 := by
  have h : Config.barrierHome b.launch b.lvl b.group % 160 / 40 < 4 := by omega
  generalize hk : Config.barrierHome b.launch b.lvl b.group % 160 / 40 = k at h
  simp only [barrierNow, hk]
  match k, h with | 0, _ => rfl | 1, _ => rfl | 2, _ => rfl | 3, _ => rfl
theorem hyp_barrier_due : bar3.dueAt = some 3 ∧ 3 < barrierNow (wb4 bar3) bar3 ∧
    bar3.arrived - bar3.expect < min (bar3.live + bar3.next) (2 ^ 32 - 1) := ⟨rfl, by rw [barrier_now]; decide, by decide⟩
theorem hyp_barrier_late : bar0.dueAt = none ∧ bar0.lateAt < barrierNow (wb4 bar0) bar0 ∧
    barrierNow (wb4 { bar0 with lateAt := 4 }) { bar0 with lateAt := 4 } ≤ 4 :=
  ⟨rfl, by rw [barrier_now]; decide, (barrier_now _).le⟩
theorem hyp_barrier_down : inService { w0 t0 with fence := [(40, 1)] } 40 = false := rfl
theorem hyp_barrier_home_down : barrierUp { w0 t0 with
    fence := [(tileOfSlice (Config.barrierHome 64 0 0 % 160), 1)] } 64 0 0 = false := by
  simp [barrierUp, barrierTile, inService, tabGet, tabFind]

def eBind (l va n : Word) : Entry := { ent (.syncBind 4 5 6 .sys) with cap := { xd := l, xa := va, xb := n } }
/-- The last 256 bytes of the address space; a range one granule too long; an empty range. -/
theorem hyp_bind_good : ¬ ((8 : Word).toNat % 8 ≠ 0 ∨ (0xFFFFFFFFFFF00 : Word).toNat % 256 ≠ 0 ∨ (256 : Word).toNat % 256 ≠ 0 ∨
    (256 : Word) = 0 ∨ 2 ^ 52 < (0xFFFFFFFFFFF00 : Word).toNat + (256 : Word).toNat) ∧ (w0 (tv (eBind 8 0 256))).bindings.length < 4096 ∧
    2 ^ 52 < (0xFFFFFFFFFFF00 : Word).toNat + (512 : Word).toNat := by decide
def binding0 : Binding := { ctx := 0, latch := 8, base := 0x20000, length := 256, sc := .sys, unit := 0, launch := none }
theorem hyp_bind_full : let s := { w0 (tv (eBind 8 0 256)) with bindings := List.replicate 4096 binding0 }
    4096 ≤ s.bindings.length ∧ ∀ y ∈ s.bindings, y.ctx = 0 → y.latch ≠ 8 → y.base.toNat + y.length.toNat ≤ 0 ∨ 256 ≤ y.base.toNat :=
  ⟨(List.length_replicate (n := 4096) (a := binding0)).ge, fun y hy _ h => absurd (by rw [List.eq_of_mem_replicate hy]; rfl) h⟩
theorem hyp_static_fits : let s := { w0 t0 with bindings := [binding0] }
    ((16 : Word).toNat % 8 = 0 ∧ (0x20100 : Word).toNat % 256 = 0 ∧ (256 : Word).toNat % 256 = 0 ∧ (256 : Word) ≠ 0 ∧
      (0x20100 : Word).toNat + (256 : Word).toNat ≤ 2 ^ 52) ∧
    (∀ y ∈ s.bindings, ¬ (max (0x20100 : Word).toNat y.base.toNat <
      min ((0x20100 : Word).toNat + (256 : Word).toNat) (y.base.toNat + y.length.toNat))) ∧ s.bindings.length < 4096 ∧
    ¬ ((0x20101 : Word).toNat % 256 = 0) := by decide
theorem hyp_unbind : { w0 t0 with bindings := [binding0] }.bindings = [] ++ binding0 :: [] ∧ binding0.ctx = t0.ctx ∧
    binding0.launch = none ∧ (∀ y ∈ ([] : List Binding), y.latch ≠ 8 ∨ y.base ≠ 0) := ⟨rfl, rfl, rfl, by decide⟩
theorem hyp_fence : (∃ r ∈ (sReq rStore).inflight, r.owner = t0.uid) ∧ ¬ (∃ r ∈ (w0 t0).inflight, r.owner = t0.uid) ∧ t0.lq = [] := by
  decide

/-! Atomics, conditional waits, accumulation windows, deliveries -/

/-- Two 32-bit elements; element 1 lies at 0x2FFFC, the last word of the page. -/
def amoCap : Cap := { vfmt := 2, vrows := 1, vcols := 2, xa := 0x2FFF8 }
def eAmo (ret aq : Bool) : Entry := { ent (.vamoAdd 8 4 2 1 ret aq false false) with cap := amoCap, begun := true }
/-- P governs element 1 alone, and vB holds index 0 for it. -/
def tAmo (e : Entry) : Thread := { tv e with p := [(1, 2)] }
theorem hyp_vamo (ret aq : Bool) : AtVcp (w0 (tAmo (eAmo ret aq))) 0 (tAmo (eAmo ret aq)) (eAmo ret aq) [] ∧
    amoOf (eAmo ret aq).instr = some ⟨.add, 8, 2, 1, ret, aq, false, false⟩ ∧ (vfmtTy amoCap.vfmt).bits = 32 ∧
    (eAmo ret aq).begun = true := ⟨⟨rfl, rfl, rfl, List.not_mem_nil⟩, rfl, rfl, rfl⟩
theorem hyp_vamo_element : (eAmo true false).k ≤ 1 ∧ 1 < nElems amoCap ∧ maskBit (tAmo (eAmo true false)) 1 1 = true ∧
    (∀ j, j < 1 → maskBit (tAmo (eAmo true false)) 1 j = false) ∧
    (∀ j, j < nElems amoCap → 1 < j → maskBit (tAmo (eAmo true false)) 1 j = false) ∧
    (amoCap.xa + BitVec.ofNat 64 (elem (tAmo (eAmo true false)) 2 32 1 * 4)).toNat % 4 = 0 ∧
    Reaches (w0 (tAmo (eAmo true false))) 0 (tAmo (eAmo true false)) 0x2FFF8 4 needRW 0x30FFF8 :=
  ⟨by decide, by decide, by decide +kernel, by decide +kernel, by decide +kernel, by decide +kernel,
    ⟨by decide, ⟨0x300017, false, rfl, by decide, rfl⟩, rfl, rfl, rfl⟩⟩
theorem hyp_vamo_done : (∀ j, j < nElems amoCap → maskBit { tAmo (eAmo true true) with p := [] } 1 j = false) ∧
    ∃ r ∈ (sReq rAtom).inflight, r.owner = t0.uid ∧ ∃ q o x y, r.kind = .atom q o x y :=
  ⟨by decide +kernel, rAtom, by decide, rfl, _, _, _, _, rfl⟩

theorem hyp_vamo_waits : atomWaits (sReq { rAtom with seq := 49 }) (tAmo (eAmo true false)) (eAmo true false) 0x30FFF8 4 = false ∧
    atomWaits { sReq rAtom with inflight := [{ rOwn with seq := 49 }] } (tAmo (eAmo true false)) (eAmo true false) 0x30FFF8 4 = true ∧
    atomWaits (w0 (tAmo (eAmo true false))) (tAmo (eAmo true false)) (eAmo true false) 0x30FFF8 4 = false := by decide +kernel
/-- An RL element that has not begun, with a store before it; a misaligned element. -/
theorem hyp_vamo_release : let e : Entry := { ent (.vamoAdd 8 4 2 1 true false true false) with cap := amoCap }
    e.begun = false ∧ (amoOf e.instr).map (fun m => m.rl) = some true ∧
    releaseReady (sReq { rStore with seq := 49 }) 1 e.uid = false ∧
    (amoCap.xa + 1 + BitVec.ofNat 64 (0 * 4)).toNat % 4 ≠ 0 := by decide

/-- One element; memory holds 0, so the condition `eq 0` holds and `ne 0` does not. -/
def eWt (cc : WCond) : Entry := { ent (.vwtc 8 4 2 0 cc false) with cap := { amoCap with vcols := 1 }, eb := some 0 }
theorem hyp_vwtc (cc : WCond) : AtVcp (w0 (tv (eWt cc))) 0 (tv (eWt cc)) (eWt cc) [] ∧ nElems (eWt cc).cap = 1 ∧
    maskBit (tv (eWt cc)) 0 0 = true ∧ (eWt cc).k = 0 ∧ (eWt cc).sat = [] ∧ (vfmtTy (eWt cc).cap.vfmt).bits = 32 ∧
    (eWt cc).begun = false ∧ Reaches (w0 (tv (eWt cc))) 0 (tv (eWt cc)) 0x2FFF8 4 needR 0x30FFF8 :=
  ⟨⟨rfl, rfl, rfl, List.not_mem_nil⟩, (by decide : nElems { amoCap with vcols := 1 } = 1), rfl, rfl, rfl, rfl, rfl, ⟨by decide, ⟨0x300017, false, rfl, by decide, rfl⟩, rfl, rfl, rfl⟩⟩
theorem hyp_vwtc_value : natOfBytes (readBytes (w0 (tv (eWt .eq))).mem 0x30FFF8 4) = 0 ∧
    (((eWt .eq).eb.getD 0).toNat % 2 ^ 32 = 0) ∧
    ((eWt .eq).cap.xa + BitVec.ofNat 64 (elem (tv (eWt .eq)) 2 32 0 * 4)).toNat % 4 = 0 := by decide +kernel

theorem hyp_vwtc_strong : strongBefore (w0 (tv (eWt .eq))) (tv (eWt .eq)) (eWt .eq).uid = false ∧
    strongBefore { w0 (tv (eWt .eq)) with inflight := [{ rOwn with seq := 49 }] } (tv (eWt .eq)) (eWt .eq).uid = true := by decide

def eUpd : Entry := { ent (.accwUpd 0 2 4 0 .s32) with cap := { vfmt := 2, vrows := 1, vcols := 1 }, begun := true }
def tUpd : Thread := th (tl eUpd) 3
theorem hyp_accw : SoleHolder (w0 tUpd) 0 0 0 tUpd eUpd [] ∧ AtVcp (w0 tUpd) 0 tUpd eUpd [] ∧
    tabFind tUpd.h (0 : Reg).toNat = some (hr 3) ∧ blkMode (hr 3).blk = 3 ∧ tdType (hr 3).td = .s32 ∧ nElems eUpd.cap = 1 ∧
    eUpd.k = 0 ∧ maskBit tUpd 0 0 = true ∧ (hr 3).dirty = [] ∧ isClipped (hr 3).td (hr 3).comm.limit [0, 0, 0, 0] = false :=
  ⟨sole_of _ _ rfl rfl rfl rfl rfl, ⟨rfl, rfl, rfl, List.not_mem_nil⟩, rfl, by decide, by decide, by decide, rfl, rfl, rfl, by decide⟩
theorem hyp_accw_place : indexCoord (hr 3) (elem tUpd 2 32 0) = some [0, 0, 0, 0] := by decide +kernel

/-- The last slot of an accumulation window of two elements is dirty; its element is at 0x20004. -/
def hAcc : HReg := { blk := accBlk, td := mkTd 2, dirty := [1] }
def eMrge : Entry := ent (.accwMrge 0 .s32)
def tMrge : Thread := { tv eMrge with h := [(0, hAcc)] }
theorem hyp_accw_merge : AtVcp (w0 tMrge) 0 tMrge eMrge [] ∧ tabFind tMrge.h (0 : Reg).toNat = some hAcc ∧ blkMode hAcc.blk = 3 ∧
    tdType hAcc.td = .s32 ∧ tMrge.lost = none ∧ 1 < boxV hAcc.blk ∧
    (let x := coordOfSlot hAcc.comm.lo (boxW hAcc.blk) 1
     isClipped hAcc.td hAcc.comm.limit x = false ∧ elemVa hAcc.td x = 0x20004) ∧
    Reaches (w0 tMrge) 0 tMrge (BitVec.ofInt 64 0x20004) 4 needW 0x300004 :=
  ⟨⟨rfl, rfl, rfl, List.not_mem_nil⟩, rfl, by decide, by decide, rfl, by decide, by decide,
    ⟨by decide, ⟨0x300017, false, rfl, by decide, by decide⟩, rfl, rfl, rfl⟩⟩

/-- A fetch of slot 15, the last of the box of h0. -/
def fetch0 (x : FetchState) : Fetch := { id := 90, coord := [3, 3, 0, 0], slot := 15, va := 0x200CC, state := x }
def tf (x : FetchState) (landing : Bool) : Thread :=
  { th t0 0 with recomps := [{ h := 0, marker := 40, landing := landing, fetches := [fetch0 x] }] }
theorem hyp_fetch_return : gated (w0 (tf (.sent 0x3000CC) false)) (hr 0) (fetch0 (.sent 0x3000CC)) = false ∧
    bufferRoom (w0 (tf (.sent 0x3000CC) false)) 0 (fetch0 (.sent 0x3000CC)) 4 = true ∧
    cutOff (w0 (tf (.sent 0x3000CC) false)) 0 0x3000CC = false ∧ tdType (hr 0).td ≠ .bpi ∧ (fetch0 (.sent 0x3000CC)).share = none ∧
    tabFind (tf (.sent 0x3000CC) false).h 0 = some (hr 0) ∧
    gated (w0 t0) (hr 0) { fetch0 (.sent 0x3000CC) with wmk := some 7 } = true ∧ (∀ x, (fetch0 x).id = 90) ∧
    90 ∈ { w0 t0 with dropped := [90] }.dropped ∧ ¬ 90 ∈ (w0 t0).dropped :=
  ⟨rfl, by decide, rfl, by decide, rfl, rfl, by decide, fun _ => rfl, by decide, by decide⟩
theorem hyp_landing : (fetch0 (.data 0xFFFFFFFF)).state = .data 0xFFFFFFFF ∧ (∀ y ∈ (hr 0).failed, y.slot ≠ 15) ∧
    (0xFFFFFFFF : Word).toNat < 2 ^ (8 * tySize (tdType (hr 0).td)) ∧
    inBox (hr 0).comm.lo (boxW (hr 0).blk) (fetch0 .bad).coord = true := ⟨rfl, by decide, by decide, by decide⟩
def sWalk : State := { w0 (tf .walk false) with walks := [{ cl := 0, ctx := 0, page := 2 }] }
theorem hyp_walk : threadAt sWalk 0 = some (tf .walk false) ∧ (fetch0 .walk).va.toNat / 65536 = (0x2FFFF : Word).toNat / 65536 ∧
    sWalk.walks = [{ cl := 0, ctx := t0.ctx, page := (0x2FFFF : Word).toNat / 65536 }] ∧ sWalk.migration = none ∧
    (∀ j, j < 4 → 4 * 0 + j ≠ 0 → threadAt sWalk (4 * 0 + j) = none) :=
  ⟨rfl, by decide, rfl, rfl, by intro j h1 h2; match j, h1, h2 with | 1, _, _ => rfl | 2, _, _ => rfl | 3, _, _ => rfl⟩
/-- P governs both elements, which lie at 0x2FFF8 and 0x2FFFC. -/
def tAmo2 (e : Entry) : Thread := { tv e with p := [(1, 3)], v := [(2, BitVec.ofNat 16384 (2 ^ 32))] }
theorem amo2_reaches (e : Entry) (i : Nat) (need : Need) (hi : i = 0 ∨ i = 1) (hn : need = needRW ∨ need = needR) :
    Reaches (w0 (tAmo2 e)) 0 (tAmo2 e) (0x2FFF8 + BitVec.ofNat 64 (4 * i)) 4 need (0x30FFF8 + 4 * i) := by
  obtain rfl | rfl := hi <;> obtain rfl | rfl := hn <;> exact ⟨by decide, ⟨0x300017, false, rfl, by decide, rfl⟩, rfl, rfl, rfl⟩
theorem hyp_vamo_two : let e : Entry := { ent (.vamoAdd 0 4 2 1 false false false false) with cap := amoCap }
    (amoOf e.instr).map (fun m => (m.ret, m.rl)) = some (false, false) ∧
    (∀ j, j < nElems amoCap → 0 ≤ j → maskBit (tAmo2 e) 1 j = true) ∧ nElems amoCap = 2 ∧
    (List.range 2).map (fun j => (amoCap.xa + BitVec.ofNat 64 (elem (tAmo2 e) 2 32 j * 4)).toNat) = [0x2FFF8, 0x2FFFC] := by
  decide +kernel
/-- Element 0 is 0 and element 1 is not: `eq 0` holds for the first alone, `lt 2` for both. -/
def eWt2 (cc : WCond) (c : Word) (begun : Bool) : Entry :=
  { ent (.vwtc 8 4 2 1 cc false) with cap := amoCap, eb := some c, begun := begun }
def sWt2 (e : Entry) : State := { w0 (tAmo2 e) with mem := writeBytes (w0 t0).mem 0x30FFFC [1] }
theorem hyp_vwtc_two : ∀ b ∈ [false, true], let e := eWt2 .eq 0 b
    nElems e.cap = 2 ∧ e.k = 0 ∧ e.sat = [] ∧ maskBit (tAmo2 e) 1 0 = true ∧ maskBit (tAmo2 e) 1 1 = true ∧ e.begun = b ∧
    strongBefore (sWt2 e) (tAmo2 e) e.uid = false ∧
    (List.range 2).map (fun i => natOfBytes (readBytes (sWt2 e).mem (0x30FFF8 + 4 * i) 4)) = [0, 1] ∧
    signedOf 32 1 < signedOf 32 2 ∧ signedOf 32 0 < signedOf 32 2 ∧
    maskBit { tAmo2 e with p := [] } 1 0 = false := by decide +kernel
theorem hyp_vwtc_two_vcp (e : Entry) : AtVcp (sWt2 e) 0 (tAmo2 e) e [] ∧
    Reaches (sWt2 e) 0 (tAmo2 e) 0x2FFFC 4 needR 0x30FFFC :=
  ⟨⟨rfl, rfl, rfl, List.not_mem_nil⟩, by decide, ⟨0x300017, false, rfl, by decide, rfl⟩, rfl, rfl, rfl⟩
/-- Two elements of one group into one slot of the window, and two dirty slots. -/
def eUpd2 : Entry := { ent (.accwUpd 0 2 4 0 .s32) with cap := { vfmt := 2, vrows := 1, vcols := 2 }, begun := true }
def tUpd2 : Thread := { th (tl eUpd2) 3 with v := [(4, BitVec.ofNat 16384 (7 + 9 * 2 ^ 32))] }
theorem hyp_accw_group : SoleHolder (w0 tUpd2) 0 0 0 tUpd2 eUpd2 [] ∧ tabFind tUpd2.h (0 : Reg).toNat = some (hr 3) ∧
    nElems eUpd2.cap = 2 ∧ eUpd2.k = 0 ∧ (∀ i, i < 2 → maskBit tUpd2 0 i = true) ∧
    isClipped (hr 3).td (hr 3).comm.limit [0, 0, 0, 0] = false :=
  ⟨sole_of _ _ rfl rfl rfl rfl rfl, rfl, by decide, rfl, fun _ _ => rfl, by decide⟩
theorem hyp_accw_group_places : (List.range 2).map (fun i => indexCoord (hr 3) (elem tUpd2 2 32 i)) =
    [some [0, 0, 0, 0], some [0, 0, 0, 0]] := by decide +kernel
def hAcc2 : HReg := { blk := accBlk, td := mkTd 2, dirty := [1, 0] }
def tMrge2 : Thread := { tv eMrge with h := [(0, hAcc2)] }
theorem hyp_accw_merge_two : AtVcp (w0 tMrge2) 0 tMrge2 eMrge [] ∧ tabFind tMrge2.h (0 : Reg).toNat = some hAcc2 ∧ hAcc2.dirty ≠ [] ∧
    (∀ x ∈ hAcc2.dirty, let c := coordOfSlot hAcc2.comm.lo (boxW hAcc2.blk) x
      isClipped hAcc2.td hAcc2.comm.limit c = false ∧ elemVa hAcc2.td c = 0x20000 + 4 * x) ∧
    Reaches (w0 tMrge2) 0 tMrge2 (BitVec.ofInt 64 0x20000) 4 needW 0x300000 ∧
    Reaches (w0 tMrge2) 0 tMrge2 (BitVec.ofInt 64 0x20004) 4 needW 0x300004 :=
  ⟨⟨rfl, rfl, rfl, List.not_mem_nil⟩, rfl, by decide, by decide, ⟨by decide, ⟨0x300017, false, rfl, by decide, by decide⟩, rfl, rfl, rfl⟩,
    ⟨by decide, ⟨0x300017, false, rfl, by decide, by decide⟩, rfl, rfl, rfl⟩⟩
/-- A walk with a walker, one whose packet was dropped, one held by a stopped router. -/
theorem hyp_walk_held : (∀ w ∈ sWalk.walks, walkHeld sWalk w = false) ∧
    walkHeld sWalk { cl := 0, ctx := 0, page := 2, lost := true } = true ∧
    (∀ w ∈ sWalk.walks, walkHeld { sWalk with silent := [(tileOfCluster 0, 1)] } w = true) ∧
    (∀ w ∈ sWalk.walks, w.cl = 0 ∧ w.ctx = t0.ctx ∧ w.page = (0x2FFFF : Word).toNat / 65536 ∧ leafAllows 0x300017 w.need = true) ∧
    tlbFind (clusterOf { sWalk with clusters := [] } 0).tlb 0 (65536 * 2) = none := by decide +kernel

/-! Launching -/

/-- A record: CODE 0x10000, ARG 0x1234, STATUS 0x2FFC0, one gang level of one thread in scope cluster. -/
def rec0 : List Byte :=
  bytesOfNat 8 0x10000 ++ bytesOfNat 8 0x1234 ++ bytesOfNat 8 0x2FFC0 ++ bytesOfNat 1 1 ++ bytesOfNat 71 0 ++
  bytesOfNat 8 0x1080000 ++ bytesOfNat 56 0
/-- The same with a reserved byte set. -/
def recBad : List Byte := rec0.set 29 1
def eLnch (b : Word) : Entry := { ent (.lnch 4 5) with cap := { xa := 0x20000, xb := b } }
/-- Queue 63 is enabled, its ring stands at 0x20000; the record is in memory there. -/
def sQ (r : List Byte) : State := { wm (tv (eLnch 63)) r [] with queues := [(63, { en := true, ring := 0x20000 })] }
theorem home_lt (a : Nat) : homeOf a < 160 := by
  unfold homeOf; split
  · omega
  · simp only []; omega
theorem host_up (s : State) (h : s.fence = []) (a : Nat) : routeUp s (tileOfPort 0) (tileOfSlice (homeOf a)) = true :=
  from_up s h _ _ (by decide) (home_lt a)
theorem hyp_queue_up (s : State) (h : s.fence = []) (q : Nat) : queueReach s q = true := by
  simp [queueReach, hostReach, queueUp, inService, h, tabGet, tabFind, host_up s h]
theorem hyp_queue : AtVcp (sQ rec0) 0 (tv (eLnch 63)) (eLnch 63) [] ∧ (queueAt (sQ rec0) 63).en = true ∧
    (queueAt (w0 t0) 63).en = false ∧ hostQuiet (sQ rec0) ∧ (sQ rec0).fw.running ≠ some .ckpt ∧ (sQ rec0).migration = none :=
  ⟨⟨rfl, rfl, rfl, List.not_mem_nil⟩, rfl, rfl, ⟨rfl, by decide, fun _ => rfl⟩, by decide, rfl⟩
theorem hyp_commit : recReserved rec0 = false ∧ (ctxRoot (sQ rec0) 0).isSome = true ∧ recAddresses (sQ rec0) 0 rec0 = true ∧
    fieldAt rec0 27 1 = 0 ∧ ctxOfQueue (sQ rec0) 63 = 0 ∧
    readVirt (sQ rec0) 0 0 ((queueAt (sQ rec0) 63).ring.toNat + 160 * ((queueAt (sQ rec0) 63).tail % 256)) 160 = .bytes rec0 := by
  decide +kernel
theorem hyp_commit_tail : (1 : Word).toNat = (queueAt (sQ rec0) 63).tail + 1 ∧ (1 : Word).toNat ≤ (queueAt (sQ rec0) 63).head + 256 ∧
    (queueAt (sQ rec0) 63).head + 256 < (257 : Word).toNat ∧ recReserved recBad = true := by decide +kernel
theorem hyp_lnch : 63 < (eLnch 64).cap.xb.toNat ∧ (eLnch 63).cap.xb.toNat ≤ 63 ∧ ({ xa := 0x20010 } : Cap).xa.toNat % 32 ≠ 0 ∧
    (eLnch 63).cap.xa.toNat % 32 = 0 ∧ releaseReady (sQ rec0) (tv (eLnch 63)).uid (eLnch 63).uid = true ∧
    releaseReady { sQ rec0 with inflight := [{ rOwn with seq := 49 }] } (tv (eLnch 63)).uid (eLnch 63).uid = false ∧
    readableVirt (sQ rec0) 0 (ctxOfQueue (sQ rec0) 63) (eLnch 63).cap.xa.toNat 160 = true ∧
    readVirt (sQ rec0) (tv (eLnch 63)).uid (tv (eLnch 63)).ctx (eLnch 63).cap.xa.toNat 160 = .bytes rec0 ∧
    ((queueAt (sQ rec0) 63).recs.filter (fun r => r.device)).length < 64 := by decide +kernel
def qrec0 : QRec := { id := 64 + 63, ctx := 0, device := false, raw := rec0 }
theorem hyp_disable : { queueAt (sQ rec0) 63 with recs := [qrec0] }.recs = [qrec0] ∧ qrec0.id % 64 = 63 ∧
    (tabGet (0, LOut.completed) (queueAt (sQ rec0) 63).outcomes (qrec0.id / 64 % 1024)).1 ≤ qrec0.id / 64 ∧
    (tabGet (0, LOut.completed) (queueAt (sQ rec0) 63).outcomes ((queueAt (sQ rec0) 63).seq % 1024)).1 ≤
      (queueAt (sQ rec0) 63).seq ∧
    readVirt { sQ rec0 with queues := [(63, { en := true, ring := 0x90000 })] } 0 0 0x90000 160 = .noPage 0x90000 := by decide +kernel
/-- Every tile but tile 0, with clusters 0 to 3, is fenced. -/
def oneTile : Tab Nat := (List.range 159).map (fun t => (t + 1, 1))
/-- No thread is placed, and queue 63 holds one record. -/
def sPlace : State :=
  { w0 t0 with fence := oneTile, threads := [], launches := [], queues := [(63, { en := true, ring := 0x20000, seq := 2, head := 1, tail := 1, recs := [qrec0] })] }
theorem hyp_place : unfinished sPlace = none ∧ candidateOf sPlace = some 63 ∧ (queueAt sPlace 63).recs = qrec0 :: [] ∧
    (roomFor sPlace [] (launchOfRec sPlace 63 qrec0)).map (fun a => a.taken) = some [(0, 0, some 0)] ∧
    freeAreas sPlace qrec0.ctx 1 = [0x400000] ∧ sPlace.fw.running ≠ some .ckpt ∧
    sPlace.migration = none ∧ (∀ m ∈ atomStarts (levelsOf qrec0.raw), fitsEmpty sPlace (levelsOf qrec0.raw) m = true) ∧
    (tabGet (0, LOut.completed) (queueAt sPlace (qrec0.id % 64)).outcomes (qrec0.id / 64 % 1024)).1 ≤ qrec0.id / 64 := by
  decide +kernel
/-- A level whose one group is pinned to cluster 319, whose tile is fenced. -/
def recPin : List Byte := ((rec0.set 98 0x88).set 100 0x3F).set 101 1
theorem hyp_place_never : ∃ m ∈ atomStarts (levelsOf recPin), fitsEmpty sPlace (levelsOf recPin) m = false := by decide +kernel
theorem hyp_place_heads : ∀ k c, headState sPlace k ≠ .fail c := by
  intro k c
  by_cases h : k = 63
  · subst h
    have : headState sPlace 63 = .ready := by decide +kernel
    rw [this]; intro h; cases h
  · have : queueAt sPlace k = {} := by simp [queueAt, sPlace, tabGet, tabFind, Ne.symm h]
    simp [headState, this]
def ret0 : Retired := { uid := 1, launch := 64, ctx := 0, tag := 0, lq := [], remote := [] }
def sRet : State := { w0 t0 with threads := [], clusters := [(0, { tracker := [ret0] })] }
theorem hyp_retire : sRet.clusters = [(0, { tracker := [ret0] })] ∧ (∀ x ∈ sRet.inflight, x.owner ≠ ret0.uid) ∧
    (∀ p ∈ sRet.pubs, p.owner ≠ ret0.uid) ∧ ret0.lq = [] ∧ launchOf sRet ret0.launch = some launch0 ∧ launch0.saved = [] ∧
    threadsHere (levelsOf launch0.raw) ≤ launch0.placed ∧ (∀ x ∈ sRet.threads, x.2.launch ≠ ret0.launch) ∧
    ret0.remote = [] ∧ sRet.migration = none ∧
    (tabGet (0, LOut.completed) (queueAt sRet (ret0.launch % 64)).outcomes (ret0.launch / 64 % 1024)).1 ≤ ret0.launch / 64 ∧
    ¬ ∀ x ∈ { sRet with inflight := [rStore] }.inflight, x.owner ≠ ret0.uid :=
  ⟨rfl, by decide, by decide, rfl, rfl, rfl, by decide, by decide, rfl, rfl, by decide, by decide⟩

/-- A record of one group of two threads; one of no gang group; one whose level has no members. -/
def rec2 : List Byte := (rec0.set 96 1).set 98 9
def recFree : List Byte := rec0.set 99 0
def recNone : List Byte := rec0.set 98 0
def sRec (r : List Byte) (f : Tab Nat) (l : List Launch) : State :=
  { setDrv sPlace 0x10010 0x100000002 with fence := f, launches := l, queues := [(63, { en := true, ring := 0x20000, seq := 2, head := 1, tail := 1, recs := [{ qrec0 with raw := r }] })] }
def launch2 : Launch := { launch0 with raw := rec2, placed := 0 }
/-- Two threads of one group, of a launch that has been placed and of one that has not; none where every tile is fenced. -/
theorem hyp_place_two : failingHead (sRec rec2 oneTile []) = none ∧ unfinished (sRec rec2 oneTile []) = none ∧
    candidateOf (sRec rec2 oneTile []) = some 63 ∧ levelLost (sRec rec2 oneTile []) (levelsOf rec2) = false ∧
    (roomFor (sRec rec2 oneTile []) [] (launchOfRec (sRec rec2 oneTile []) 63 { qrec0 with raw := rec2 })).map (fun a => a.taken) =
      some [(0, 0, none), (1, 1, none)] ∧
    freeAreas (sRec rec2 oneTile []) 0 2 = [0x400000, 0x800000] ∧ (sRec rec2 oneTile []).migration = none := by decide +kernel
theorem hyp_place_group : failingHead (sRec rec0 oneTile [launch2]) = none ∧ unfinished (sRec rec0 oneTile [launch2]) = some launch2 ∧
    (roomFor (sRec rec0 oneTile [launch2]) [] launch2).map (fun a => a.taken) = some [(0, 0, none), (1, 1, none)] ∧
    freeAreas (sRec rec0 oneTile [launch2]) 0 2 = [0x400000, 0x800000] ∧
    unfinished (sRec rec0 ((0, 1) :: oneTile) [launch2]) = some launch2 ∧ failingHead (sRec rec0 ((0, 1) :: oneTile) [launch2]) = none ∧
    roomFor (sRec rec0 ((0, 1) :: oneTile) [launch2]) [] launch2 = none := by decide +kernel
/-- A candidate without a gang group or a pinned level, which may not pre-empt, finds no tile in service. -/
theorem hyp_place_waits : failingHead (sRec recFree ((0, 1) :: oneTile) []) = none ∧ unfinished (sRec recFree ((0, 1) :: oneTile) []) = none ∧
    candidateOf (sRec recFree ((0, 1) :: oneTile) []) = some 63 ∧ gangHeight (levelsOf recFree) = 0 ∧
    (levelsOf recFree).all (fun w => lvlPlace w ≠ 2) = true ∧ recPre recFree = false ∧
    roomFor (sRec recFree ((0, 1) :: oneTile) []) [] (launchOfRec (sRec recFree ((0, 1) :: oneTile) []) 63 { qrec0 with raw := recFree }) =
      none := by decide +kernel
/-- A head whose level names a scope too narrow fails while a placed launch waits for room. -/
theorem hyp_head_fails : failingHead (sRec recNone ((0, 1) :: oneTile) [launch2]) = some (63, 3) ∧
    (queueAt (sRec recNone ((0, 1) :: oneTile) [launch2]) 63).recs = [{ qrec0 with raw := recNone }] ∧ qrec0.id % 64 = 63 ∧
    (tabGet (0, LOut.completed) (queueAt (sRec recNone oneTile [launch2]) (qrec0.id % 64)).outcomes (qrec0.id / 64 % 1024)).1 ≤ qrec0.id / 64 := by
  decide +kernel
theorem hyp_retire_parked : isParked { sRet with launches := [{ launch0 with parked := true }] } ret0.launch = true ∧
    isParked sRet ret0.launch = false := by decide

/-! Pre-emption -/

theorem hyp_stop : { t0 with stopReq := true }.stopReq = true ∧ t0.stopped = false ∧ (clusterOf (w0 t0) 0).seqRun ≠ some 0 ∧
    drained (w0 t0) { t0 with stopReq := true, stopped := true } = true ∧ launchOf (w0 t0) t0.launch = some launch0 :=
  ⟨rfl, rfl, by decide, rfl, rfl⟩
/-- The last push of the thread is a VAMO with AQ that has not begun. -/
theorem hyp_stop_aq : let e := { eAmo true true with begun := false }
    (tv e).vq = [] ++ [e] ∧ vamoAq e.instr = true ∧ e.begun = false ∧ (∀ x ∈ (tv eAcq).vq, vamoAq x.instr = false) :=
  ⟨rfl, rfl, rfl, by decide⟩
/-- With no tile fenced the whole of the save area answers cluster 0's tile. -/
theorem area_up (s : State) (h : s.fence = []) (a : Nat) (ha : a < 0x400000 + 2 ^ 22) :
    paExists s a = true ∧ upFrom s (some (tileOfCluster 0)) a = true := by
  have h1 : a < Config.sramEnd := lt_trans ha (by decide)
  have h2 : wayTo s (some (tileOfCluster 0)) (tileOfSlice (homeOf a)) = true := from_up s h _ _ (by decide) (home_lt a)
  exact ⟨by simp [paExists, h1], by simp [upFrom, h2, homeUp, h1, inService, h, tabGet, tabFind]⟩
theorem hyp_save_up : ∀ a, t0.area ≤ a → a < t0.area + 2 ^ 22 →
    paExists (w0 t0) a = true ∧ upFrom (w0 t0) (some (tileOfCluster 0)) a = true := fun a _ h => area_up _ rfl a h
def saved0 : Saved :=
  { uid := 1, area := 0x400000, flat := 0, idx := [0], tq := [], lq := [], remote := [], vrelPushed := false, vreleased := false,
    held := [], vq := [], dirty := [], lost := none, rels := [], t := [], q := [], spare := [] }
/-- The tile of cluster 0. -/
def tile0 : Option Nat := some (tileOfCluster 0)
def launchS : Launch := { launch0 with saved := [saved0] }
/-- LANE of the save area is 0xFF: no lane group. -/
def sSaved : State := { w0 t0 with threads := [], launches := [launchS], mem := writeBytes (w0 t0).mem 0x40000A [0xFF] }
theorem hyp_restore : launchOf sSaved launchS.id = some launchS ∧ launchS.saved = [saved0] ∧ launchS.parked = false ∧
    sSaved.fw.running ≠ some .ckpt ∧ saved0.held = [] ∧ saved0.vq = [] :=
  ⟨rfl, rfl, rfl, by decide, rfl, rfl⟩
/-- No tile is in service. -/
theorem hyp_restore_none : restorePlan { sSaved with fence := (0, 1) :: oneTile } launchS saved0 = none := by decide +kernel
theorem hyp_restore_plan : ((restorePlan sSaved launchS saved0).map (fun a => a.taken)).map (fun x => x.map (fun y => (y.1, y.2.1))) =
    some [(0, savedNum launchS saved0)] ∧ savedRegs sSaved tile0 saved0 = [] ∧ areaNat sSaved tile0 saved0 8 1 = 0 := by decide +kernel

/-- A VAMO with AQ whose only element so far was not governed, and the same pushed again by a return from a trap. -/
theorem hyp_stop_fresh : let e (again : Bool) : Entry := { eAmo true true with k := 1, again := again }
    (tAmo (e false)).vq = [] ++ [e false] ∧ vamoAq (e false).instr = true ∧ (e false).again = false ∧
    (amoOf (e false).instr).map (fun m => m.p) = some 1 ∧ (∀ j, j < 1 → maskBit (tAmo (e false)) 1 j = false) ∧
    (e true).again = true ∧ maskBit (tAmo (e false)) 1 1 = true := by decide +kernel
/-- A thread one of whose packets is lost, and one whose head's is. -/
theorem hyp_stop_lost : ({ t0 with hold := .lost } : Thread).hold = .lost ∧
    (∃ e rest, (tv eAdd).vq = e :: rest ∧ e.uid ∈ { w0 (tv eAdd) with dropped := [50] }.dropped) ∧
    ¬ (t0.hold = .lost ∨ ∃ e rest, t0.vq = e :: rest ∧ e.uid ∈ (w0 t0).dropped) ∧ t0.uid ∈ { w0 t0 with dropped := [1] }.dropped ∧
    ¬ t0.uid ∈ (w0 t0).dropped :=
  ⟨rfl, ⟨eAdd, [], rfl, by decide⟩, fun h => (by rcases h with h | ⟨e, r, h, _⟩ <;> cases h), by decide, by decide⟩
/-- The save engine's way to the first part of the area: a stopped router holds it, and with every router running nothing does. -/
theorem hyp_save_stuck : (∃ p ∈ areaParts (clusterOf (w0 t0) 0) t0,
      areaStuck { w0 t0 with silent := [(tileOfCluster 0, 1)] } (tileOfCluster 0) (t0.area + p.1) p.2.length = true) ∧
    ¬ ∃ p ∈ areaParts (clusterOf (w0 t0) 0) t0, areaStuck (w0 t0) (tileOfCluster 0) (t0.area + p.1) p.2.length = true := by
  refine ⟨⟨(0, headerBytes (clusterOf (w0 t0) 0) t0), by simp [areaParts], by decide +kernel⟩, ?_⟩
  rintro ⟨p, _, h⟩
  simp [areaStuck, show (w0 t0).silent = [] from rfl] at h
/-- A thread with something in every part of its save area. -/
def tSave : Thread :=
  { t0 with stopReq := true, stopped := true, vq := [eAdd], v := [(31, 5)], vext := [(31, 1)], p := [(7, 3)], h := [(7, hr 1)] }
theorem hyp_save_full : threadAt (w0 tSave) 0 = some tSave ∧ tSave.stopped = true ∧ drained (w0 tSave) tSave = true ∧
    launchOf (w0 tSave) tSave.launch = some launch0 ∧ tSave.held.length + 0 < 64 ∧ tSave.vq[0]? = some eAdd ∧
    (∀ x ∈ tSave.h, x.2.blk.length = 160 ∧ x.2.td.length = 64) ∧ tabGet 0 tSave.vext 31 ≤ 32 := by
  refine ⟨rfl, rfl, by decide +kernel, rfl, by decide, rfl, by decide +kernel, by decide⟩
/-- The save area of a thread with one entry, h7 configured, p7 and v31. -/
def sSaved2 : State := { sSaved with mem := [(0xA, [0xFF]), (0x8, [1]), (0x1000, vqRecord eAdd), (0x4000 + 512 * 7, regRecord tSave 7),
  (0x6000 + 2048 * 7, [3]), (0x380 + 4 * 31, [1]), (0x10000 + 2048 * 31, [5])].foldl (fun m x => writeBytes m (0x400000 + x.1) x.2) sSaved.mem }
theorem hyp_restore_full : (savedQueue sSaved2 tile0 saved0).length = 1 ∧ (savedRegs sSaved2 tile0 saved0).length = 1 ∧
    saved0.lq.length ≤ 16 ∧ (sSaved2.inflight, sSaved2.releases) = ([], []) ∧
    (List.range 32).all (fun n => natOfBytes (readBytes sSaved2.mem (saved0.area + (0x380 + 4 * n)) 4) ≤ 32) = true ∧
    ((restorePlan sSaved2 launchS saved0).map (fun a => a.taken)).map (fun x => x.map (fun y => (y.1, y.2.1))) =
      some [(0, savedNum launchS saved0)] := by decide +kernel
theorem hyp_restore_queue : ∀ e ∈ savedQueue sSaved2 tile0 saved0, e.instr = eAdd.instr ∧ isMarker e.instr true = false ∧
    hresReg e.instr = none := by decide +kernel

theorem hyp_restore_area : ∀ a, saved0.area ≤ a → a < saved0.area + 2 ^ 22 → upFrom sSaved2 tile0 a = true :=
  fun a _ h => (area_up sSaved2 rfl a h).2

/-! Watermarks, links, collectives -/

def pub0 : Pub := { uid := 60, owner := 1, launch := 64, wmk := 255, value := 5 }
theorem hyp_watermark : hostQuiet (w0 t0) ∧ wmkUp (w0 t0) (255 : BitVec 8).toNat = true ∧ wmkBound (w0 t0) 255 = false ∧
    wmkBound (w0 { th t0 0 with h := [(0, { hr 0 with push := { wmk := some 255 } })] }) 255 = true ∧
    { w0 t0 with pubs := [pub0] }.pubs.find? (fun x => x.uid = pub0.uid) = some pub0 ∧ pub0.wmk = (255 : BitVec 8).toNat ∧
    releaseReady { w0 t0 with pubs := [pub0] } pub0.owner pub0.uid = true ∧ (∀ x ∈ (w0 t0).threads, x.2.lq = []) ∧
    (∀ c ∈ (w0 t0).clusters, c.2.tracker = []) ∧
    releaseReady { w0 t0 with inflight := [{ rStore with seq := 59 }] } pub0.owner pub0.uid = false :=
  ⟨⟨rfl, by decide, fun _ => rfl⟩, rfl, by decide, by decide, rfl, by decide, by decide, by decide, by decide, by decide⟩

/-- A descriptor of this device: KIND 0, ADDR 0x20100. -/
def rd0 : List Byte := bytesOfNat 2 0xFFFF ++ bytesOfNat 6 0 ++ bytesOfNat 8 0x20100 ++ bytesOfNat 48 0
def eXfer : Entry := { ent (.linkXfer 5 6 7 false false) with cap := { xd := 0xFFFF, xa := 0x20000, xb := 0x20400 } }
theorem hyp_link : eXfer.cap.xb.toNat % 64 = 0 ∧
    readVirt (wm (tv eXfer) [] rd0) (tv eXfer).uid (tv eXfer).ctx eXfer.cap.xb.toNat 64 = .bytes rd0 ∧ rdBad eXfer.instr rd0 = false ∧
    fieldAt rd0 0 2 = 0xFFFF ∧ eXfer.cap.xd.toNat < 2 ^ 32 ∧ fieldAt rd0 32 8 = 0 ∧ linkCh eXfer.instr = false ∧
    (tv eXfer).lq.length < 16 ∧ ({ xb := 0x20420 } : Cap).xb.toNat % 64 ≠ 0 := by decide +kernel
theorem hyp_link_vcp : AtVcp (wm (tv eXfer) [] rd0) 0 (tv eXfer) eXfer [] ∧ handlerFree (tv eXfer) ∧ (tv eXfer).hold = .run :=
  ⟨⟨rfl, rfl, rfl, List.not_mem_nil⟩, ⟨rfl, by decide⟩, rfl⟩
/-- The last 256 bytes of the page go to 0x20100. -/
def cmd0 : LCmd := { uid := 30, instr := .linkXfer 5 6 7 false false, cap := { xd := 256, xa := 0x2FF00, xb := 0x20400 }, desc := rd0 }
def tCmd : Thread := { tv eXfer with lq := [cmd0] }
theorem hyp_link_perform : tCmd.lq = [cmd0] ∧ tCmd.stopReq = false ∧ cmd0.begun = false ∧ cmd0.failed = 0 ∧
    0 < cmd0.cap.xd.toNat ∧ cmd0.cap.xa.toNat % 65536 + cmd0.cap.xd.toNat ≤ 65536 ∧
    fieldAt rd0 8 8 % 65536 + cmd0.cap.xd.toNat ≤ 65536 ∧
    xlateDirect (wm tCmd [] rd0) tCmd.uid tCmd.ctx cmd0.cap.xa.toNat needR = some 0x30FF00 ∧
    homesFrom (wm tCmd [] rd0) (some (tileOfCluster (0 / 4))) 0x30FF00 256 = true ∧
    poisoned (wm tCmd [] rd0) 0x30FF00 256 = false ∧ fieldAt rd0 0 2 = 0xFFFF ∧ fieldAt rd0 32 8 = 0 ∧
    xlateDirect (wm tCmd [] rd0) tCmd.uid (fieldAt rd0 3 1) (fieldAt rd0 8 8) needW = some 0x300100 ∧
    homesFrom (wm tCmd [] rd0) (some (tileOfCluster (0 / 4))) 0x300100 256 = true ∧
    staysPoisoned (wm tCmd [] rd0) 0x300100 256 = false ∧ cmd0.joined = false := by decide +kernel
theorem hyp_link_perform_vcp : (wm tCmd [] rd0).threads = [(0, tCmd)] ∧ AtVcp (wm tCmd [] rd0) 0 tCmd eXfer [] ∧
    (wm tCmd [] rd0).fw.running ≠ some .ckpt ∧ (wm tCmd [] rd0).migration = none := ⟨rfl, ⟨rfl, rfl, rfl, List.not_mem_nil⟩, by decide, rfl⟩

/-- A collective descriptor: SRC, DST, COUNT, GROUP 0x20480, EFB, STATUS 0x20600, SEQ; and a one-level table whose codebook
stands at 0x20800 and whose member list, thread 0, at 0x20500. -/
def cd0 : List Byte := bytesOfNat 8 0x21000 ++ bytesOfNat 8 0x22000 ++ bytesOfNat 8 32 ++ bytesOfNat 8 0x20440 ++ bytesOfNat 8 0x23000 ++
  bytesOfNat 8 0x20600 ++ bytesOfNat 4 1 ++ bytesOfNat 12 0
def gt0 : List Byte := bytesOfNat 1 1 ++ bytesOfNat 1 0 ++ bytesOfNat 2 0 ++ bytesOfNat 4 7 ++ bytesOfNat 8 0x20000 ++
  (bytesOfNat 1 0 ++ bytesOfNat 1 0 ++ bytesOfNat 2 1 ++ bytesOfNat 4 0 ++ bytesOfNat 8 0x20500) ++ bytesOfNat 32 0 ++ bytesOfNat 8 0x99
def eColl : Entry := { ent (.collAred 4 .f32) with cap := { xa := 0x20400 } }
/-- The codebook at 0x20000 holds 1 as its first level. -/
def sColl : State := wm (tv eColl) [1] (cd0 ++ gt0)
def isOk : CollCheck → Option (List Byte × List Byte)
  | .ok d g => some (d, g)
  | .bad _ _ => none
theorem hyp_coll : isOk (collCheck sColl (tv eColl) eColl) = some (cd0, gt0 ++ bytesOfNat 4 0) ∧
    bankOf sColl (gtGen (gt0 ++ bytesOfNat 4 0)) = none ∧ sColl.banks.length < 2 ∧
    readVirt sColl (tv eColl).uid (tv eColl).ctx (gtCb (gt0 ++ bytesOfNat 4 0)) 512 = .bytes (bytesOfNat 512 1) ∧
    (∃ i, i < 256 ∧ sfieldAt (bytesOfNat 512 1) (2 * i) 2 ≠ 0) ∧
    (bankOf { sColl with banks := [{ gen := 7, levels := [] }] } (gtGen (gt0 ++ bytesOfNat 4 0))).isSome = true :=
  ⟨by decide +kernel, by decide +kernel, by decide, by decide +kernel, ⟨0, by decide, by decide +kernel⟩, by decide +kernel⟩
def sPort (n : Nat) (p : Port) : State := { w0 t0 with ports := [(n, { p with trained := true })] }
theorem hyp_peer : portDown (sPort 17 {}) 17 = false ∧ wmkUp (sPort 17 {}) 255 = true ∧ (tabGet {} (sPort 17 {}).ports 17).inj = 0 ∧
    barrierOf { sPort 17 {} with barriers := [bar0] } (64 : Word).toNat 0 (0 : Word).toNat = some bar0 := by decide
theorem hyp_peer_transfer : (0x2FFFF : Word).toNat % 65536 + [1#8].length ≤ 65536 ∧
    xlateDirect (wm t0 [] []) 0 0 (0x2FFFF : Word).toNat needW = some 0x30FFFF ∧
    homesFrom (wm t0 [] []) (some (tileOfPort 17)) 0x30FFFF [1#8].length = true ∧
    staysPoisoned (wm t0 [] []) 0x30FFFF [1#8].length = false ∧ tileOfOwner (wm t0 [] []) 0 = none ∧
    (tabGet {} (wm t0 [] []).ports 17).inj = 0 ∧ barrierUp (w0 t0) 64 0 0 = true := by
  refine ⟨by decide, by decide +kernel, by decide +kernel, by decide +kernel, by decide +kernel, rfl, rfl⟩
def coll0 : Coll := { gid := 0x99, seq := 1, launch := 64, ctx := 0, op := 0, ty := .f32, count := 32, table := [] }
theorem hyp_collective : collOf { w0 t0 with colls := [coll0] } 0x99 1 = some coll0 ∧ coll0.code = 0 ∧
    blockOk { gid := 0x99, seq := 1, level := 0, member := 0, first := 0, header := 0, payload := [] } = false := by decide
theorem hyp_touch_hres : ∀ blk ∈ [mkBlk 0, mkBlk 1, mkBlk 2, accBlk],
    touchRanges (wm (tv eSet) blk (mkTd 2)) (0 / 4) (tv eSet).uid eSet.uid [⟨(tv eSet).ctx, eSet.cap.xa.toNat, 160, needR⟩] =
      (true, wm (tv eSet) blk (mkTd 2)) ∧
    touchRanges (wm (tv eSet) blk (mkTd 2)) (0 / 4) (tv eSet).uid eSet.uid [⟨(tv eSet).ctx, fieldAt blk 0 8, 64, needR⟩] =
      (true, wm (tv eSet) blk (mkTd 2)) := by decide +kernel
theorem hyp_touch_lnch : touchRanges (sQ rec0) (0 / 4) (tv (eLnch 63)).uid (eLnch 63).uid [⟨(tv (eLnch 63)).ctx, (eLnch 63).cap.xa.toNat, 160, needR⟩] =
    (true, sQ rec0) := rfl
theorem hyp_touch_link : touchRanges (wm (tv eXfer) [] rd0) 0 (tv eXfer).uid eXfer.uid [⟨(tv eXfer).ctx, eXfer.cap.xb.toNat, 64, needR⟩] =
    (true, wm (tv eXfer) [] rd0) ∧
    touchRanges (wm tCmd [] rd0) 0 tCmd.uid cmd0.uid [⟨tCmd.ctx, cmd0.cap.xa.toNat, 256, needR⟩, ⟨fieldAt rd0 3 1, fieldAt rd0 8 8, 256, needW⟩] =
    (true, wm tCmd [] rd0) := by refine ⟨rfl, by decide +kernel⟩
/-- A page that the cluster has not translated yet stands in its cache afterwards. -/
theorem hyp_touch_walks : (touchRanges { sQ rec0 with clusters := [] } 0 1 50 [⟨0, 0x20000, 160, needR⟩]).1 = true ∧
    tlbFind (clusterOf (touchRanges { sQ rec0 with clusters := [] } 0 1 50 [⟨0, 0x20000, 160, needR⟩]).2 0).tlb 0 0x20000 =
      some (0x300017, false) := by decide +kernel
/-- A descriptor: peer, KIND, level, watermark, ADDR, VALUE. -/
def rdOf (peer kind lvl w da v : Nat) : List Byte :=
  bytesOfNat 2 peer ++ bytesOfNat 1 kind ++ bytesOfNat 1 0 ++ bytesOfNat 1 lvl ++ bytesOfNat 1 w ++ bytesOfNat 2 0 ++ bytesOfNat 8 da ++
  bytesOfNat 8 v ++ bytesOfNat 40 0
def cmdOf (i : Instr) (d : List Byte) : LCmd := { cmd0 with instr := i, desc := d }
/-- Thread 0 with one link command; the last double word of page 0x20000 holds `m`. -/
def tLq (c : LCmd) : Thread := { tv eXfer with lq := [c] }
def sLq (c : LCmd) (m : List Byte) : State :=
  { wm (tLq c) [] [] with mem := writeBytes (wm (tLq c) [] []).mem 0x30FFF8 m,
                          ports := [(17, { trained := true })], driver := tabSet 0 (w0 t0).driver 0x11000 0x8000 }
def latchRd : List Byte := rdOf 0xFFFF 1 0 0 0x2FFF8 0
def cLacq : LCmd := cmdOf (.linkLacq 7) latchRd
def cLrel : LCmd := cmdOf (.linkLrel 7) latchRd
def cPub : LCmd := cmdOf (.linkLsig 7) (rdOf 0xFFFF 2 0 255 0 9)
def cArr : LCmd := cmdOf (.linkLsig 7) (rdOf 0xFFFF 3 0 0 64 0)
def tag0 : BitVec 56 := BitVec.ofNat 56 (64 % 2 ^ 32 * 2 ^ 24 + 0 % 2 ^ 24)
def heldWord : List Byte := bytesOfNat 8 (256 * (64 * 2 ^ 24) + 4 * 6 + 1)
/-- What every command of the thread asks of the state. -/
theorem hyp_lq (c : LCmd) (m : List Byte) : AtVcp (sLq c m) 0 (tLq c) eXfer [] ∧ (sLq c m).threads = [(0, tLq c)] ∧ (tLq c).lq = [c] ∧
    (sLq c m).migration = none ∧ (sLq c m).fw.running ≠ some .ckpt := ⟨⟨rfl, rfl, rfl, List.not_mem_nil⟩, rfl, rfl, rfl, fun h => by cases h⟩
theorem hyp_lq_fresh : ∀ c ∈ [cLacq, cLrel, cPub, cArr], c.failed = 0 ∧ c.begun = false ∧ c.joined = false ∧ fieldAt c.desc 0 2 = 0xFFFF ∧
    fieldAt c.desc 32 8 = 0 ∧ rdBad c.instr c.desc = false ∧ releaseReady (sLq c heldWord) (tLq c).uid c.uid = true := by decide +kernel
theorem hyp_lq_finds : ∀ c ∈ [cLacq, cLrel], ∀ m ∈ [[], heldWord],
    touchRanges (sLq c m) 0 (tLq c).uid c.uid [⟨fieldAt c.desc 3 1, fieldAt c.desc 8 8, 8, needRW⟩] = (true, sLq c m) ∧
    xlateDirect (sLq c m) (tLq c).uid (fieldAt c.desc 3 1) (fieldAt c.desc 8 8) needRW = some 0x30FFF8 ∧
    upFrom (sLq c m) (some (tileOfCluster 0)) 0x30FFF8 = true ∧ poisoned (sLq c m) 0x30FFF8 8 = false := by decide +kernel
theorem hyp_lacq : (sLq cLacq []).waiters = [] ∧ strongOut (sLq cLacq []) 1 30 = false ∧
    strongOut { sLq cLacq [] with inflight := [{ rOwn with seq := 29 }] } 1 30 = true ∧
    waitersAt (sLq cLacq []) (homeOf 0x30FFF8) < Config.waiterCap := by decide +kernel
theorem hyp_lrel : latchHeld (readWord (sLq cLrel heldWord) 0x30FFF8) = true ∧ latchTag (readWord (sLq cLrel heldWord) 0x30FFF8) = tag0 := by
  decide +kernel
theorem hyp_lsig : fieldAt cPub.desc 2 1 = 2 ∧ wmkUp (sLq cPub []) (fieldAt cPub.desc 5 1) = true ∧ fieldAt cArr.desc 2 1 = 3 ∧
    barrierOf { sLq cArr [] with barriers := [bar0] } (fieldAt cArr.desc 8 8) (fieldAt cArr.desc 4 1) (fieldAt cArr.desc 16 8) = some bar0 := by
  decide +kernel
/-- The waiter of the link command. -/
def waiterL : Waiter := { pa := 0x30FFF8, uid := 30, tag := tag0, sc := .sys, thread := none, ctx := 0 }
def sGrantL : State := { sLq cLacq [] with waiters := [waiterL] }
theorem hyp_link_grant : sGrantL.waiters.find? (fun x => x.pa = 0x30FFF8) = some waiterL ∧ waiterL.uid = cLacq.uid ∧
    homeUp sGrantL 0x30FFF8 = true ∧ poisoned sGrantL 0x30FFF8 8 = false ∧ latchHeld (readWord sGrantL 0x30FFF8) = false := by
  decide +kernel
theorem hyp_joined : { cLacq with joined := true }.joined = true ∧ isColl cLacq.instr = false := ⟨rfl, rfl⟩
/-- The same commands to peer 0, which port 17 reaches. -/
def far (i : Instr) (kind w da : Nat) : LCmd := cmdOf i (rdOf 0 kind 0 w da (if kind < 2 then 0 else 9))
def cFar : List LCmd := [far (.linkXfer 5 6 7 false true) 0 0 0x20100, far (.linkLacq 7) 1 0 0x2FFF8, far (.linkLrel 7) 1 0 0x2FFF8,
  far (.linkLsig 7) 2 255 0, far (.linkLsig 7) 3 0 64]
theorem hyp_far : ∀ c ∈ cFar, fieldAt c.desc 0 2 ≠ 0xFFFF ∧ routeOf (sLq c []) (fieldAt c.desc 0 2) = some 17 ∧
    portDown (sLq c []) 17 = false ∧ wayTo (sLq c []) (some (tileOfCluster 0)) (tileOfPort 17) = true ∧
    stuckTo (sLq c []) (some (tileOfCluster 0)) (tileOfPort 17) = false ∧ c.begun = false ∧ c.joined = false ∧ c.failed = 0 ∧
    fieldAt c.desc 32 8 = 0 ∧ rdBad c.instr c.desc = false ∧ releaseReady (sLq c []) (tLq c).uid c.uid = true := by decide +kernel
theorem hyp_far_xfer : let c := far (.linkXfer 5 6 7 false true) 0 0 0x20100
    touchRanges (sLq c []) 0 (tLq c).uid c.uid [⟨(tLq c).ctx, c.cap.xa.toNat, c.cap.xd.toNat, needR⟩] = (true, sLq c []) ∧
    readVirt (sLq c []) (tLq c).uid (tLq c).ctx c.cap.xa.toNat c.cap.xd.toNat = .bytes (bytesOfNat 256 0) := by decide +kernel
/-- A command that waits for its answer, which may be done, or done on a broken latch. -/
theorem hyp_answer : ∀ c ∈ cFar, let c := { c with begun := true, via := some 17 }
    c.begun = true ∧ c.joined = false ∧ ¬ c.uid ∈ (sLq c []).dropped ∧ ¬ fieldAt c.desc 0 2 = 0xFFFF := by decide +kernel
/-- A command whose packet a router has dropped. -/
theorem hyp_lq_dropped : ∀ c ∈ [cLacq, cLrel, cPub, cArr], c.uid ∈ { sLq c [] with dropped := [30] }.dropped ∧ ¬ c.uid ∈ (sLq c []).dropped := by
  decide +kernel
/-- A joined COLL of one element whose one member's outcome is here; the same collective with a failure. -/
def cColl : LCmd := { uid := 30, instr := .collAred 4 .f32, cap := { xa := 0x20400 }, desc := cd0, joined := true }
def collP : CollPart := { cmd := 30, thread := 0, owner := 1, rank := 0, src := [], dst := 0x22000, efb := 0, status := 0x20600 }
def collDone (code : Nat) : Coll :=
  { coll0 with count := 1, levels := [(0, [0])], parts := [collP], results := [(0, [0x3F800000])], code := code }
def tColl : Thread := { tv eXfer with lq := [cColl] }
def sCollDone (code : Nat) : State := { wm tColl [] [] with colls := [collDone code] }
theorem hyp_coll_ends : ∀ code ∈ [0, 9],
    isColl cColl.instr = true ∧ cColl.joined = true ∧ cColl.failed = 0 ∧ collP.cmd = cColl.uid ∧
    advanceColl (sCollDone code) (collDone code).gid (collDone code).seq = sCollDone code ∧ fieldAt cColl.desc 40 8 = 0x20600 ∧
    outcomeOf (collDone code) collP.rank = some [0x3F800000] ∧ (collDone code).code = code ∧
    touchRanges (sCollDone code) 0 tColl.uid cColl.uid [⟨tColl.ctx, 0x20600, 16, needW⟩] = (true, sCollDone code) ∧
    touchRanges (sCollDone code) 0 tColl.uid cColl.uid [⟨tColl.ctx, collP.dst.toNat, 4, needW⟩, ⟨tColl.ctx, 0x20600, 16, needW⟩] =
      (true, sCollDone code) ∧ (levelMembers (collDone code) 0).length = 1 := by decide +kernel
theorem hyp_coll_ends_vcp (code : Nat) : AtVcp (sCollDone code) 0 tColl eXfer [] ∧ (sCollDone code).threads = [(0, tColl)] ∧
    tColl.lq = [cColl] ∧ (sCollDone code).migration = none ∧ (sCollDone code).colls = [collDone code] ∧ (collDone code).parts = [collP] :=
  ⟨⟨rfl, rfl, rfl, List.not_mem_nil⟩, rfl, rfl, rfl, rfl, rfl⟩
/-- A launch that has ended one collective of GID 0x99 and SEQ 1. -/
def sUsed : State := { sPort 17 {} with
  launches := [{ launch0 with groups := [(0x20480, gt0 ++ bytesOfNat 4 0)] }], colls := [coll0], collUses := [(0x99, 1, 1)] }
theorem hyp_coll_use : useOf sUsed (0x99, 1) = 1 ∧ useOf (sPort 17 {}) (0x99, 1) = 0 ∧ collOf sUsed 0x99 1 = some coll0 ∧
    portDown sUsed 17 = false ∧ 17 < 29 := by decide +kernel
/-- A launch that had read the table of GID 0x99 is lost here, and none is left that has. -/
theorem hyp_coll_lost : let g := gt0 ++ bytesOfNat 4 0
    let s : State := { sPort 17 {} with colls := [coll0], lostTables := [g] }
    lostTable s 0x99 = some g ∧ lostTable sUsed 0x99 = none ∧ collOf s 0x99 1 = some coll0 ∧ coll0.code = 0 ∧ portDown s 17 = false ∧
    useOf s (0x99, 1) = 0 ∧ useOf sUsed (0x99, 1) ≤ 1 := by decide +kernel
theorem hyp_coll_touch : touchColl sColl 0 (tv eColl) eColl.uid eColl.cap.xa.toNat = (true, sColl) ∧
    touchRanges (keepGroup sColl (tv eColl).launch (cdGroup cd0) (gt0 ++ bytesOfNat 4 0)) 0 (tv eColl).uid eColl.uid
      [⟨(tv eColl).ctx, gtCb (gt0 ++ bytesOfNat 4 0), 512, needR⟩] =
      (true, keepGroup sColl (tv eColl).launch (cdGroup cd0) (gt0 ++ bytesOfNat 4 0)) := by decide +kernel
/-- What a peer's command asks of the routers, and its place, seen from port 17. -/
theorem hyp_arrival : (∀ cmd ∈ [RemoteCmd.publish 255 5, .xfer 0 0x2FFFF [1] 0xFFFFFFFF],
      arrivalStuck (sPort 17 {}) (portOrigin 17) cmd = false) ∧
    arrivalStuck { sPort 17 {} with silent := [(tileOfPort 17, 1)] } (portOrigin 17) (.publish 255 5) = true ∧
    wmkFrom (sPort 17 {}) (portOrigin 17).tile 255 = true ∧
    xlateVia (wm t0 [] []) (portOrigin 17) 0 0x2FFFF needW = some 0x30FFFF ∧
    homesFrom (wm t0 [] []) (portOrigin 17).tile 0x30FFFF 1 = true := by decide +kernel
theorem hyp_arrive : arrivalStuck (sPort 17 {}) (portOrigin 17) (.arrive 64 0 0) = false ∧
    barrierReached (sPort 17 {}) (portOrigin 17).tile 64 0 0 = true ∧
    barrierReached (sLq cArr []) (some (tileOfCluster 0)) 64 0 0 = true :=
  ⟨not_stuck _ rfl _ _, barrier_reached _ rfl rfl _ (by decide) _ _ _, barrier_reached _ rfl rfl _ (by decide) _ _ _⟩

/-! The arithmetic of collectives -/

theorem hyp_inject : fvalOf .f32 0x3FC00000 = .fin false 0xC00000 (-23) ∧ fvalOf .f32 0x7FC00000 = .nan ∧
    fvalOf .f32 0xFF800000 = .inf true := by decide +kernel
theorem hyp_sums : ([1, 2] : List Nat).Perm [2, 1] ∧ (List.replicate 256 (1 : Int)).length = 256 ∧
    (∃ v ∈ List.replicate 256 (1 : Int), v ≠ 0) ∧ (∀ c ∈ [({ s := -(2 ^ 63 - 1) } : CSum)], c.s.natAbs < 2 ^ 63) := by decide +kernel
/-- One element of one thread of this device, whose error feedback is the last double word of the page, enters level 1. -/
def part0 : CollPart :=
  { cmd := 30, thread := 0, owner := 1, rank := Config.collBefore 0x99, src := [0x3F800000], dst := 0x22000, efb := 0x2FFF8, status := 0x20600 }
def collF : Coll := { coll0 with
  count := 1, levels := [(0, [0]), (2, [Config.collOrdinal 0x99])], parts := [part0] }
theorem hyp_feedback_sum : levelKind collF 1 = 2 ∧ levelRoot collF 1 = Config.collOrdinal collF.gid ∧
    ∃ sums, levelSum (wm t0 [] []) collF (1 - 1) = some sums ∧ sums.length = collF.count := ⟨rfl, rfl, _, rfl, rfl⟩
theorem hyp_feedback : feedback (wm t0 [] []) collF = .entries part0 [0] := by
  have h : collF.parts.find? (fun p => p.rank = collBase collF) = some part0 := by
    simp [collF, part0, collBase, coll0]
  have b : readVirt (wm t0 [] []) 1 0 0x2FFF8 8 = .bytes (bytesOfNat 8 0) := by decide +kernel
  have w : writableVirt (wm t0 [] []) 1 0 0x2FFF8 8 = true := by decide +kernel
  simp only [feedback, h]
  exact (by simp only [part0, collF, coll0]; simp [b, w]; decide)
theorem hyp_feedback_place : part0.efb.toNat % 65536 + 8 * collF.count ≤ 65536 ∧
    xlateDirect (wm t0 [] []) part0.owner collF.ctx part0.efb.toNat needW = some 0x30FFF8 ∧
    homesFrom (wm t0 [] []) (tileOfOwner (wm t0 [] []) part0.owner) 0x30FFF8 (8 * collF.count) = true ∧
    ([0] : List Int).length = collF.count := ⟨by decide, by decide +kernel, by decide +kernel, rfl⟩

/-! Power, host accesses, command blocks, ports -/

theorem hyp_power : hostQuiet (w0 t0) ∧ ((7 : Word).extractLsb' 0 2).toNat = 3 ∧ ((2 : Word).extractLsb' 0 2).toNat ≠ 3 :=
  ⟨⟨rfl, by decide, fun _ => rfl⟩, by decide, by decide⟩
theorem hyp_host_fenced : hostReach { w0 t0 with fence := [(tileOfPort 0, 1)] } = false := by decide
/-- A granule far from the control blocks, wherever they stand. -/
def farOff : Nat := if controlBlock 0 < 0x20000 then 0x3A1FFFF00 else 0
theorem far_cases : farOff = 0x3A1FFFF00 ∨ farOff = 0 := by unfold farOff; split <;> simp
theorem hyp_host_plain : 0 < 256 ∧ farOff % 256 + 256 ≤ 256 ∧ rangesMeet farOff 256 (controlBlock 0) 4096 = false ∧
    farOff < Config.sramEnd ∧ hostUp (w0 t0) farOff = true := by
  refine ⟨by decide, by rcases far_cases with h | h <;> rw [h], ?_, by rcases far_cases with h | h <;> rw [h] <;> decide,
    by rcases far_cases with h | h <;> rw [h] <;> decide⟩
  unfold farOff
  split
  · simp only [rangesMeet, decide_eq_false_iff_not]; omega
  · simp only [rangesMeet, decide_eq_false_iff_not]; omega
def opFar : HostOp := .write 2 farOff (List.replicate 256 1) false
def sHost (fw : Fw) (l : List HostReq) : State := { w0 t0 with fw := fw, posted := l ++ [⟨9, opFar, []⟩] }
theorem hyp_host_write : (sHost {} []).posted = [] ++ ⟨9, opFar, []⟩ :: [] ∧ (∀ r ∈ (sHost {} []).inflight, r.uid ≠ 9) ∧
    (sHost {} []).fw.running ≠ some .ckpt ∧ (sHost { running := some .ckpt } []).fw.running = some .ckpt ∧
    (sHost {} []).migration = none ∧ hostReach (w0 t0) = true ∧
    (∃ x ∈ [(⟨8, .write 2 0 [1] false, []⟩ : HostReq)], hostPrecedes x.op opFar = true) ∧
    (∀ x ∈ [(⟨8, .read 2 0 1, []⟩ : HostReq)], hostPrecedes x.op opFar = false) ∧
    (∃ x ∈ (sHost {} []).posted, isHostWrite x.op = true ∧ isRelaxed x.op = false) :=
  ⟨rfl, by decide, by decide, rfl, rfl, rfl, ⟨_, List.mem_singleton_self _, rfl⟩,
    fun x h => by rw [List.mem_singleton.mp h]; rfl, ⟨9, opFar, []⟩, List.mem_singleton_self _, rfl, rfl⟩
/-- The granule's tile has been fenced since the write was received, and it has not. -/
theorem hyp_host_gone : tileOfSlice (homeOf farOff) ∈ [tileOfSlice (homeOf farOff)] ∧ ¬ tileOfSlice (homeOf farOff) ∈ ([] : List Nat) :=
  ⟨List.mem_singleton_self _, List.not_mem_nil⟩
theorem hyp_host_down : hostUp { w0 t0 with fence := [(tileOfSlice (homeOf farOff), 1)] } farOff = false ∧
    hostQuiet { w0 t0 with fence := [(tileOfSlice (homeOf farOff), 1)] } := by
  rcases far_cases with h | h <;> rw [h] <;> exact ⟨by decide +kernel, by decide +kernel, by decide +kernel, fun _ => rfl⟩
/-- The first address that does not exist; the control blocks lie below it. -/
theorem hyp_host_nowhere : rangesMeet 0x3A2000000 256 (controlBlock 0) 4096 = false ∧ Config.sramEnd ≤ 0x3A2000000 ∧
    0x3A2000000 < 2 ^ 34 := by
  refine ⟨?_, by decide, by decide⟩
  have : Config.controlBase % (Config.sramEnd / 64 - 63) < Config.sramEnd / 64 - 63 := Nat.mod_lt _ (by decide)
  have e : Config.sramEnd = 0x3A2000000 := by decide
  have h : controlBlock 0 + 4096 ≤ 0x3A2000000 := by unfold controlBlock; omega
  simp only [rangesMeet, decide_eq_false_iff_not]
  omega
theorem hyp_host_bar0 : hostQuiet { w0 t0 with fw := { up := true } } ∧ { w0 t0 with fw := { up := true } }.fw.up = true ∧ wmkUp (w0 t0) 255 = true ∧ 255 < 256 :=
  ⟨⟨rfl, by decide, fun _ => rfl⟩, rfl, rfl, by decide⟩
/-- The last word of the route table, of the INVAL block and of the MIGRATE block. -/
theorem hyp_driver_words : (0x11000 ≤ (0x12FF8 : Word).toNat ∧ (0x12FF8 : Word).toNat < 0x13000) ∧ (0x12FF8 : Word).toNat % 8 = 0 ∧
    (0x4008 ≤ (0x4018 : Word).toNat ∧ (0x4018 : Word).toNat < 0x4020) ∧ (0x5008 ≤ (0x5018 : Word).toNat ∧ (0x5018 : Word).toNat < 0x5020) ∧
    (0x6000 : Word).toNat = 0x6000 := by decide
theorem hyp_injector : (tabGet {} (sPort 28 { inj := 0x8000000000000000 }).ports 28).inj.getLsbD 63 = true ∧
    (tabGet {} (sPort 28 {}).ports 28).inj.getLsbD 63 = false := by decide
def sInval : State :=
  { w0 t0 with driver := [(0x4008, 0), (0x4010, 0xFFFFFFFFF0000), (0x4018, 1), (0x10000, 0x80000), (0x10010, 0x100000001)] }
theorem hyp_inval : sInval.inval = none ∧ invalErr sInval = 0 ∧ (∀ x ∈ (clusterOf sInval 0).tlb, x.big = true → x.va % 2 ^ 24 = 0) ∧
    oldAccesses { sInval with inflight := [rStore] } 0 71 = true ∧ oldAccesses sInval 0 71 = false :=
  ⟨rfl, by decide, by decide, by decide, by decide⟩
/-- Page 0x20000 moves to 0x410000. -/
def move0 : Move := { ctx := 0, va := 0x20000, leaf := 0x410017 }
def sMig : State := { wm t0 [] [] with migration := some move0, migrate := some ⟨1, 0⟩ }
theorem hyp_migration : leafPlace sMig 0 (0x20000 : Word).toNat = some (0x108010, 0x300017, false) ∧
    homesUp sMig (leafPa 0 0x300017 false 0x20000) 65536 = true ∧ homesUp sMig (leafPa 0 0x410017 false 0x20000) 65536 = true ∧
    0x108010 + 8 ≤ leafPa 0 0x410017 false 0x20000 ∧ move0.moved = false ∧
    homesUp { sMig with fence := [(tileOfSlice (homeOf 0x410000), 1)] } (leafPa 0 0x410017 false 0x20000) 65536 = false := by decide +kernel
theorem migration_quiet : accessesTo sMig 0x300000 65536 = [] := by decide +kernel
/-- The page at `old` stands at `new`, and the move `m` goes on. -/
def moved (s : State) (old new n : Nat) (m : Move) : State := { movePage s old new n with migration := some m }
/-- With nothing on its way, a move of a page beyond a page-table word leaves what a walk reads there. -/
theorem pte_moved (s : State) (m : Move) (old new n x : Nat) (tile : Option Nat) (hi : s.inflight = []) (hp : s.poison = [])
    (hs : forwardedPa s x = x) (hx : x + 8 ≤ new) (ho : x < m.old) :
    pteRead (moved s old new n m) tile 0 x = pteRead s tile 0 x := by
  have out (y : Nat) (hy : y < new) : readByte (writeBytes s.mem new (readBytes s.mem old n)) y = readByte s.mem y :=
    readByte_writeBytes_outside _ _ _ _ (.inl hy)
  have f : forwardedPa (moved s old new n m) x = x := by simp [forwardedPa, moved, Nat.not_le.mpr ho]
  have u : upFrom (moved s old new n m) tile x = upFrom s tile x := rfl
  rw [pteRead, f, u, pteRead, hs]
  simp only [moved, movePage, hi, hp, List.map_nil, List.filter_nil, List.foldl_nil, paExists, poisoned, ownBytes, ownByte,
    List.any_nil]
  rw [out x (by omega), out (x + 1) (by omega), out (x + 1 + 1) (by omega), out (x + 1 + 1 + 1) (by omega),
    out (x + 1 + 1 + 1 + 1) (by omega), out (x + 1 + 1 + 1 + 1 + 1) (by omega), out (x + 1 + 1 + 1 + 1 + 1 + 1) (by omega),
    out (x + 1 + 1 + 1 + 1 + 1 + 1 + 1) (by omega)]
/-- The walk of page 0x20000, from what it reads. -/
theorem leaf_of (m : State) (r : ctxRoot m 0 = some 0x80000) (e2 : pteRead m none 0 0x80000 = 0x100001)
    (e1 : pteRead m (walkerTile 0x80000 0x20000) 0 0x100000 = 0x108001)
    (e0 : pteRead m (walkerTile 0x80000 0x20000) 0 0x108010 = 0x300017) (k1 : bigOk m 0x108001 = false)
    (k0 : smallOk m 0x300017 = true) : leafPlace m 0 (0x20000 : Word).toNat = some (0x108010, 0x300017, false) := by
  have q2 : ptrOk 0x100001 32768 = true := by decide
  have q1 : ptrOk 0x108001 2048 = true := by decide
  have lo : ¬ 2 ^ 52 ≤ 0x20000 := by decide
  have a2 : rootEntry 0x80000 0x20000 = 0x80000 := by decide
  have a1 : pteAddr 0x100001 + 8 * bitsOf 0x20000 24 12 = 0x100000 := by decide
  have a0 : pteAddr 0x108001 + 8 * bitsOf 0x20000 16 8 = 0x108010 := by decide
  have w : walkLeaf m none 0 0 0x20000 = some (0x300017, false) := by
    simp only [walkLeaf, r, a2, a1, a0, e2, e1, e0, k1, k0, q2, q1, if_neg lo]; rfl
  show leafPlace m 0 0x20000 = _
  simp only [leafPlace, r, w, a2, a1, e2, e1, a0]
  rfl
/-- The move of the page once its data stands at the new home, with nothing forwarded. -/
def move1 : Move := { move0 with moved := true, old := 0x300000, new := 0x410000, size := 65536 }
theorem quiet_leaf (n : Nat) :
    leafPlace (moved sMig 0x300000 0x410000 n move1) 0 (0x20000 : Word).toNat = some (0x108010, 0x300017, false) := by
  have p (x : Nat) (tile : Option Nat) (hx : x + 8 ≤ 0x410000) (ho : x < 0x300000) :=
    pte_moved sMig move1 0x300000 0x410000 n x tile rfl rfl rfl hx ho
  have r : ctxRoot (moved sMig 0x300000 0x410000 n move1) 0 = ctxRoot sMig 0 := rfl
  have k (e : Word) : smallOk (moved sMig 0x300000 0x410000 n move1) e = smallOk sMig e := rfl
  have k' (e : Word) : bigOk (moved sMig 0x300000 0x410000 n move1) e = bigOk sMig e := rfl
  refine leaf_of _ ?_ ?_ ?_ ?_ ?_ ?_
  · rw [r]; decide +kernel
  · rw [p _ _ (by decide) (by decide)]; decide +kernel
  · rw [p _ _ (by decide) (by decide)]; decide +kernel
  · rw [p _ _ (by decide) (by decide)]; decide +kernel
  · rw [k']; decide +kernel
  · rw [k]; decide +kernel
theorem hyp_migration_quiet : accessesTo sMig 0x300000 65536 = [] ∧
    leafPlace (moved sMig 0x300000 0x410000 65536 move1) 0 (0x20000 : Word).toNat = some (0x108010, 0x300017, false) :=
  ⟨migration_quiet, quiet_leaf 65536⟩
/-- What the copy asks of the routers, and a stopped one. -/
theorem hyp_migration_copy : copyLost sMig 0x300000 0x410000 65536 = false ∧ copyStuck sMig 0x300000 0x410000 65536 = false ∧
    copyStuck { sMig with silent := [(tileOfSlice (homeOf 0x300000), 1)] } 0x300000 0x410000 256 = true ∧
    move1.moved = true ∧ (∀ u ∈ move1.forwarded, stillOut sMig u = false) ∧ move1.old % 256 = 0 ∧ move1.new % 256 = 0 :=
  ⟨rfl, rfl, by decide +kernel, rfl, by decide, by decide, by decide⟩
theorem hyp_migration_forwards : accessesTo { sMig with inflight := [rStore] } 0x310000 65536 ≠ [] ∧
    stillOut { sMig with inflight := [rStore] } rStore.uid = true ∧ stillOut sMig rStore.uid = false := by decide
theorem hyp_ports : portDown (sPort 24 {}) 24 = false ∧ portDown (sPort 28 {}) 28 = false ∧
    (3 : IWord).toNat = (tabGet {} (sPort 28 { rxSeq := 3 }).ports 28).rxSeq ∧
    (2 ^ 31 - 1 : Nat) < 2 ^ 31 ∧ (0x80000002 : IWord).toNat = (3 + (2 ^ 31 - 1)) % 2 ^ 32 ∧
    (tabGet {} (sPort 28 { replay := [(4, 1), (5, 32), (6, 2)], txSeq := 7 }).ports 28).replay =
      [(4, 1)] ++ ((5 : IWord).toNat, 32) :: [(6, 2)] ∧
    (∀ x ∈ [((4 : Nat), (1 : Nat))], x.1 ≠ (5 : IWord).toNat) ∧ (5 : IWord).toNat ≠ 7 ∧
    inService (w0 t0) (tileOfPort 28) = true := by decide
/-- The replay buffer holds 96 MiB, and one packet waits. -/
theorem hyp_ports_full : let p : Port := { replay := [(4, 393216)], txSeq := 7, waiting := [(.askAgain 3, 40)] }
    ¬ (∃ y ∈ p.replay, y.1 = (5 : IWord).toNat) ∧ (5 : IWord).toNat ≠ p.txSeq ∧ p.waiting = [(.askAgain 3, 40)] ∧ 0 < 40 ∧
    393216 < (p.replay.map (fun y => y.2)).sum + min 32 40 ∧ p.replay ≠ [] ∧ (0 < 32 ∧ 32 ≤ 32) := by decide
/-- The last byte of a page is the source of what port 24 sent last. -/
theorem hyp_resend : readSource (wm t0 [] []) 1 0 0x2FFFF 1 = .ok (readBytes (wm t0 [] []).mem 0x30FFFF 1) := by
  have h : readVirt (wm t0 [] []) 1 0 0x2FFFF 1 = .bytes (readBytes (wm t0 [] []).mem 0x30FFFF 1) := by decide +kernel
  simp only [readSource, h]
theorem hyp_cxl : Config.cxlBase ≤ 0x10000000000 + 2 ^ 40 - 1 ∧ paExists (w0 t0) (0x10000000000 + 2 ^ 40 - 1) = true ∧
    portDown (sPort 16 {}) (cxlPortOf (0x10000000000 + 2 ^ 40 - 1)) = false ∧ 0x3A1FFFFFF < Config.sramEnd := by decide
theorem hyp_scratch_error : (w0 (th t0 0)).threads = [(0, th t0 0)] ∧ (th t0 0).h = [(0, hr 0)] ∧ blkLine0 (hr 0).blk ≤ 63 ∧
    63 < blkLine0 (hr 0).blk + blkLines (hr 0).blk ∧ 63 < 16384 := ⟨rfl, rfl, by decide, by decide, by decide⟩

theorem hyp_watermark_host : hostWmk (w0 t0) (255 : BitVec 8).toNat = true := by decide +kernel
def sPub : State := { w0 t0 with pubs := [pub0] }
/-- A publication at a stopped router, one whose packet is lost, one that gets there, and one whose home is fenced. -/
theorem hyp_watermark_ways : tileOfOwner sPub pub0.owner = some (tileOfCluster 0) ∧
    stuckTo { sPub with silent := [(tileOfCluster 0, 1)] } (some (tileOfCluster 0)) (wmkTile 255) = true ∧
    stuckTo sPub (some (tileOfCluster 0)) (wmkTile 255) = false ∧
    60 ∈ { sPub with dropped := [60] }.dropped ∧ ¬ 60 ∈ sPub.dropped ∧ wmkFrom sPub (some (tileOfCluster 0)) 255 = true ∧
    wmkFrom { sPub with fence := [(wmkTile 255, 1)] } (some (tileOfCluster 0)) 255 = false ∧
    stuckTo { sPub with fence := [(wmkTile 255, 1)] } (some (tileOfCluster 0)) (wmkTile 255) = false := by decide +kernel
theorem hyp_power_ckpt : let s := { w0 t0 with fw := { running := some .ckpt }, posted := [⟨9, .write 2 0 [1] false, []⟩] }
    hostReach s = true ∧ s.fw.running = some .ckpt ∧ ∀ x ∈ s.posted, writesPower x.op = false := by
  refine ⟨rfl, rfl, by decide⟩
theorem hyp_window_stuck : windowStuck { w0 t0 with silent := [(tileOfPort 0, 1)] } 2 farOff 256 = true ∧
    windowStuck (w0 t0) 2 farOff 256 = false := by
  rcases far_cases with h | h <;> rw [h] <;> decide +kernel
/-- What a port has sent: a reply, and a transfer whose source is the last byte of a page. -/
def sent0 : Sent := { seq := 4, flits := 3, dest := 9, packet := .reply 7 { code := 1, run := 0, bytes := 0 } }
def sent1 : Sent := { seq := 7, flits := 1, dest := 0, packet := .command 30 (.xfer 0 0x20000 [1] 0), source := some ⟨1, 0, 0x2FFFF, 1⟩ }
theorem hyp_sent : let p : Port := { sent := [sent0, sent1] }
    p.sent.find? (carries (6 : IWord).toNat) = some sent0 ∧ sent0.source = none ∧
    p.sent.find? (carries (7 : IWord).toNat) = some sent1 ∧ sent1.source.isSome = true ∧
    p.sent.find? (carries (8 : IWord).toNat) = none ∧ p.sent.dropWhile (acknowledged (7 : IWord).toNat) = [sent1] ∧
    p.sent.dropWhile (acknowledged (6 : IWord).toNat) = [sent0, sent1] := by decide
/-- A store from a cluster of tile 151 to a home of tile 159, and a walk of the same cluster. -/
def rLink : Req := { rStore with cluster := firstClusterOfTile 151, kind := .store (256 * firstSliceOfTile 159) [1] }
theorem hyp_link_packets : 151 ∈ neighbours 159 ∧ onLink (sReq rLink) 151 159 = [.op 70] ∧ onLink (w0 t0) 151 159 = [] ∧
    ∀ k : Nat, (onLink (w0 t0) 151 159)[k]? = none := by
  have h : onLink (w0 t0) 151 159 = [] := by decide +kernel
  exact ⟨by decide, by decide +kernel, h, fun k => by rw [h]; rfl⟩
def sStep0 : State := storeCode (w0 t0) 0x200000 0x40
def walk0 : Walk := { cl := 0, ctx := 0, page := 2 }
theorem hyp_link_walk : 0 ∈ neighbours 7 ∧ onLink { w0 t0 with walks := [walk0] } 0 7 = [.walk walk0] := by decide +kernel

/-- The instruction that thread 0 fetches next. -/
theorem hyp_link_load : 0 ∈ neighbours 1 ∧ onLink sStep0 0 1 = [.load 0] := by decide +kernel

/-! Cupping -/

theorem hyp_neighbours : 159 ∈ neighbours 151 ∧ 151 < 160 ∧ routerRuns (w0 t0) 151 = true ∧ fenceOf (w0 t0) 159 ≠ 1 ∧
    fenceOf { w0 t0 with fence := [(159, 1)] } 159 = 1 ∧ sendsBeats (w0 t0) 151 = true ∧ ownState (w0 t0) 151 = 0 ∧ dieOfTile 151 = 3 := by decide
theorem hyp_tick : tabGet 0 (w0 t0).cycles 3 < 4096 * (tabGet 0 (w0 t0).ticks 3 + 1) ∧
    4096 * (tabGet 0 (w0 t0).ticks 3 + 1) ≤ tabGet 0 { w0 t0 with cycles := [(3, 4096)] }.cycles 3 ∧
    (tabGet 0 { w0 t0 with ticks := [(3, 15)] }.ticks 3 + 1) % 16 = 0 ∧ (tabGet 0 (w0 t0).ticks 3 + 1) % 16 ≠ 0 := by decide
theorem hyp_appealing : fenceOf { w0 t0 with fence := [(151, 2)] } 151 = 2 := by decide
/-- Five of eleven neighbours have accused tile 151; a sixth makes the majority. -/
def sAcc (tally : Nat) : State := { w0 t0 with bcasts := [.accuse 151 159 0], tally := [(151, tally)] }
theorem hyp_accusation : nextBcast (sAcc 0) (dieOfTile 151) = some (.accuse 151 159 0) ∧
    fenceDue { sAcc 0 with bcasts := [], tally := [(151, 0 ||| 2 ^ (neighbours 151).idxOf 159)] } 151 = false ∧
    fenceDue { sAcc 31 with bcasts := [], tally := tabSet 0 (sAcc 31).tally 151 (31 ||| 2 ^ (neighbours 151).idxOf 159) } 151 = true ∧
    (tabGet {} (sAcc 31).drains (dieOfTile 151)).active = false := by decide
def sDr (d : Drain) (c : Nat) : State := { w0 t0 with drains := [(3, d)], cycles := [(3, c)] }
/-- Some neighbours of tile 151 are fenced; with every other but 159 having accused it, a retraction by 159 leaves a majority. -/
def sRetract (tally : Nat) : State :=
  { w0 t0 with bcasts := [.retract 151 159], tally := [(151, tally)], fence := [(150, 1), (152, 1), (153, 1), (154, 1), (155, 1), (156, 1)] }
theorem hyp_retraction : nextBcast (sRetract 0) (dieOfTile 151) = some (.retract 151 159) ∧ fenceOf (sRetract 0) 159 ≠ 1 ∧
    fenceDue { sRetract 0 with bcasts := [], tally := tabSet 0 (sRetract 0).tally 151 0 } 151 = false ∧
    (∃ w, (if w &&& 2 ^ (neighbours 151).idxOf 159 = 0 then w else w - 2 ^ (neighbours 151).idxOf 159) = w ∧
      fenceDue { sRetract w with bcasts := [], tally := tabSet 0 (sRetract w).tally 151 w } 151 = true) ∧
    (tabGet {} (sDr { active := true } 0).drains (dieOfTile 151)).active = true :=
  ⟨by decide, by decide, by decide, ⟨2 ^ (neighbours 151).idxOf 159 - 1, by decide⟩, by decide⟩
theorem hyp_self_test : let s := { w0 t0 with fence := [(151, 1)] }
    fenceOf s 151 = 1 ∧ routerRuns s 151 = true ∧ ¬ 151 ∈ s.testFailed ∧ ¬ 151 ∈ s.appealing := by decide
theorem hyp_vote_alone (j : Nat) (h : j ≠ 151) : voteDue { w0 t0 with fence := [(151, 2)] } j = false := by
  have : fenceOf { w0 t0 with fence := [(151, 2)] } j ≠ 2 := by simp [fenceOf, tabGet, tabFind, Ne.symm h]
  simp [voteDue, this]
theorem hyp_bcasts : nextBcast { w0 t0 with bcasts := [.retract 151 159] } 3 = some (.retract 151 159) ∧
    nextBcast { w0 t0 with bcasts := [.appeal 151], fence := [(151, 1)] } 3 = some (.appeal 151) ∧
    nextBcast { w0 t0 with bcasts := [.vote 151 159 false], fence := [(151, 2)] } 3 = some (.vote 151 159 false) ∧
    fenceOf { w0 t0 with fence := [(151, 1)] } 151 = 1 ∧ fenceOf { w0 t0 with fence := [(151, 2)] } 151 = 2 ∧
    ¬ Bcast.appeal 151 ∈ (w0 t0).bcasts ∧ ¬ 151 ∈ (w0 t0).testFailed := by decide
theorem hyp_votes : let s := { w0 t0 with fence := [(151, 2)] }
    let live := (neighbours 151).filter (inService s)
    tallyCount s (0 ||| 2 ^ (neighbours 151).idxOf 159) 151 < live.length / 2 + 1 ∧
    live.length / 2 + 1 ≤ tallyCount s (31 ||| 2 ^ (neighbours 151).idxOf 159) 151 := by decide
theorem hyp_drain : tabGet 0 (sDr {} 65535).cycles 3 / 65536 ≤ (tabGet {} (sDr {} 65535).drains 3).round ∧
    (tabGet {} (sDr {} 65536).drains 3).round < tabGet 0 (sDr {} 65536).cycles 3 / 65536 ∧
    (tabGet {} (sDr { active := true, pending := [(151, 1, 7)] } 0).drains 3).pending = [(151, 1, 7)] ∧
    inService (sDr { active := true, pending := [(151, 1, 7)] } 0) 151 = true := by decide

/-! Reuse, firmware, reset, the machine -/

/-- v1 and v2 of thread 0 are the registers 5 and 6 of cluster 0; v2 holds `x`, v1 zero. -/
def sMerge (x : VReg) : State :=
  setCluster (w0 { t0 with v := tabSet 0 [] 2 x }) 0 { rs := { names := [(1, 5), (2, 6)], ages := [(5, 3), (6, 4)], unequal := [(5, 6)] } }
theorem hyp_merge : physReg (sMerge 0) 0 5 = some (0, some 0) ∧ physReg (sMerge 0) 0 6 = some (0, some 0) ∧
    ¬ 5 ∈ (clusterOf (sMerge 0) 0).rs.noMerge ∧ ¬ 6 ∈ (clusterOf (sMerge 0) 0).rs.noMerge ∧
    beingWritten (sMerge 0) 0 5 = false ∧ beingWritten (sMerge 0) 0 6 = false ∧
    ((clusterOf (sMerge 0) 0).rs.names.map (fun e => e.1)).Nodup ∧ (∀ e ∈ (clusterOf (sMerge 0) 0).rs.names, e.1 < 128) ∧
    ageOf (clusterOf (sMerge 0) 0) 5 ≤ ageOf (clusterOf (sMerge 0) 0) 6 ∧
    ageOf (clusterOf (sMerge 0) 0) 5 < ageOf (clusterOf (sMerge 0) 0) 6 ∧
    (5, 6) ∈ (clusterOf (sMerge 0) 0).rs.unequal ∧ ¬ (6, 5) ∈ (clusterOf (sMerge 0) 0).rs.unequal := by
  refine ⟨by decide +kernel, by decide +kernel, ?_⟩
  decide +kernel
theorem crcShift_injective (x y : IWord) (h : crcShift x = crcShift y) : x = y := by
  have bit (z : IWord) : (z >>> 1).getLsbD 31 = false := by simp
  have low (z : IWord) : z.getLsbD 0 = decide (z.toNat % 2 = 1) := by
    simp [BitVec.getLsbD, Nat.testBit]; rfl
  have halves (h1 : x >>> 1 = y >>> 1) (h0 : x.getLsbD 0 = y.getLsbD 0) : x = y := by
    have h2 := congrArg BitVec.toNat h1
    simp only [BitVec.toNat_ushiftRight, Nat.shiftRight_one] at h2
    simp only [low, decide_eq_decide] at h0
    exact BitVec.eq_of_toNat_eq (by omega)
  unfold crcShift at h
  split at h <;> split at h <;> rename_i h1 h2
  · exact halves (by simpa using h) (by rw [h1, h2])
  · have := congrArg (fun z => z.getLsbD 31) h
    simp only [BitVec.getLsbD_xor, bit] at this; exact absurd this (by decide)
  · have := congrArg (fun z => z.getLsbD 31) h
    simp only [BitVec.getLsbD_xor, bit] at this; exact absurd this (by decide)
  · exact halves h (by rw [Bool.not_eq_true] at h1 h2; rw [h1, h2])
theorem crcUpdate_injective (l : List Byte) (x y : IWord) (h : crcUpdate x l = crcUpdate y l) : x = y := by
  induction l generalizing x y with
  | nil => exact h
  | cons b r ih => simpa using crcShift_injective _ _ (crcShift_injective _ _ (crcShift_injective _ _ (crcShift_injective _ _
      (crcShift_injective _ _ (crcShift_injective _ _ (crcShift_injective _ _ (crcShift_injective _ _ (ih _ _ h))))))))
theorem crcUpdate_append (a b : List Byte) (x : IWord) : crcUpdate x (a ++ b) = crcUpdate (crcUpdate x a) b := by
  induction a generalizing x with
  | nil => rfl
  | cons c r ih => exact ih _
theorem bytesOfNat_split (m n v : Nat) : bytesOfNat (m + n) v = bytesOfNat m v ++ bytesOfNat n (v / 256 ^ m) := by
  induction m generalizing v with
  | zero => simp [bytesOfNat]
  | succ m ih => rw [Nat.succ_add, bytesOfNat, ih, bytesOfNat, Nat.div_div_eq_div_mul, Nat.pow_succ, Nat.mul_comm 256]; rfl
theorem hash_of_low (v : Nat) (h : v < 256 ^ 5) : contentHash (BitVec.ofNat 16384 v) =
    ~~~ crcUpdate (crcUpdate 0xFFFFFFFF#32 (bytesOfNat 5 v)) (bytesOfNat 2043 0) := by
  have hv : (BitVec.ofNat 16384 v).toNat = v := by
    rw [BitVec.toNat_ofNat, Nat.mod_eq_of_lt (lt_trans (lt_of_lt_of_eq h (by norm_num : 256 ^ 5 = 2 ^ 40))
      (Nat.pow_lt_pow_right (by decide : 1 < 2) (by decide : 40 < 16384)))]
  rw [contentHash, hv, show 2048 = 5 + 2043 from rfl, bytesOfNat_split, crcUpdate_append, Nat.div_eq_of_lt h]
/-- 1 and 0 have different hashes; 0 and the CRC's own polynomial have one. -/
theorem hyp_merge_hash : contentHash (BitVec.ofNat 16384 0) ≠ contentHash (BitVec.ofNat 16384 1) ∧
    contentHash (BitVec.ofNat 16384 0) = contentHash (BitVec.ofNat 16384 (1 + 2 * 0x82F63B78)) := by
  refine ⟨fun h => ?_, ?_⟩
  · rw [hash_of_low 0 (by decide), hash_of_low 1 (by decide)] at h
    have h' := congrArg (fun z => ~~~ z) h
    simp only [BitVec.not_not] at h'
    exact absurd (crcUpdate_injective _ _ _ h') (by decide +kernel)
  · rw [hash_of_low 0 (by decide), hash_of_low _ (by decide)]
    rw [show crcUpdate 0xFFFFFFFF#32 (bytesOfNat 5 0) = crcUpdate 0xFFFFFFFF#32 (bytesOfNat 5 (1 + 2 * 0x82F63B78)) by decide +kernel]
def sFw (f : Fw) (i : Image) : State := { w0 t0 with fw := f, image := i }
theorem hyp_firmware : (sFw { state := 1 } {}).fw.state = 1 ∧ (sFw {} {}).fw.state ≠ 1 ∧ (sFw {} {}).fw.state ≠ 2 ∧
    (sFw { state := 2, fresh := true } {}).fw.fresh = true ∧ (sFw {} {}).fw.fresh = false ∧ (sFw {} {}).fw.running = none ∧
    (sFw { len := 1280 } {}).fw.len < 1281 ∧ ¬ (2 ^ 26 : Nat) < 2 ^ 26 ∧ (2 ^ 26 : Nat) < 2 ^ 26 + 1 ∧ (sFw { fenced := true } {}).fw.fenced = true ∧
    (sFw {} { valid := true, cxlCap := 2 ^ 40 }).image.cxlCap = (w0 t0).cxlCap ∧ (sFw {} { valid := true }).image.cxlCap ≠ (w0 t0).cxlCap ∧
    quiet { w0 t0 with threads := [] } = true ∧ (w0 t0).threads ≠ [] ∧ writesOut (sFw { state := 2 } {}) = false ∧
    writesOut { w0 t0 with posted := [⟨9, .write 2 0 [1] true, []⟩] } = true ∧
    (sFw { running := some (.load 0x1000 1281) } {}).fw.running = some (.load 0x1000 1281) ∧
    natOfBytes [(3 : Byte)] % 2 ^ 32 &&& (natOfBytes [(3 : Byte)] % 2 ^ 32 - 1) ≠ 0 ∧ natOfBytes [(0 : Byte)] % 2 ^ 32 = 0 ∧
    (16 ≤ natOfBytes [(16 : Byte)] % 2 ^ 32 ∧ natOfBytes [(16 : Byte)] % 2 ^ 32 &&& (natOfBytes [(16 : Byte)] % 2 ^ 32 - 1) = 0) ∧
    (∀ k ∈ [1, 2, 4, 8], natOfBytes [BitVec.ofNat 8 k] % 2 ^ 32 = k) ∧
    (sFw { running := some .restore } { retired := [(0, [ret0])] }).image.retired = [(0, [ret0])] ∧ inService (w0 t0) (tileOfCluster 0) = true := by decide
theorem hyp_report : (∀ t, inService (w0 t0) t = true) ∧ (0x3A1FFFA00 : Word).toNat % 256 = 0 ∧
    (0x3A1FFFA00 : Word).toNat + 1536 ≤ Config.sramEnd := ⟨fun _ => rfl, by decide, by decide⟩
/-- The word of sys.call stands at the pc. -/
def sStep : State := { storeCode (w0 t0) 0x200000 0x40 with agenda := [.run 0] }
def s1Step : State := { passTime sStep with agenda := sStep.agenda.drop 1 }
theorem hyp_step : nextTurn sStep = .run 0 ∧ threadAt sStep 0 = some t0 ∧ canRun t0 = true ∧
    canRun { t0 with hold := .push } = false ∧ nextTurn { w0 t0 with agenda := [.event .sysCall] } = .event .sysCall ∧
    eventAllowed (w0 t0) .deviceReset = true ∧ nextTurn { w0 t0 with agenda := [.run 1280] } = .run 1280 :=
  ⟨rfl, rfl, rfl, rfl, rfl, rfl, rfl⟩
theorem hyp_step_fetch : (xlate s1Step (0 / 4) t0.uid 0 t0.ctx t0.area t0.pc.toNat needX).1 = .ok 0x200000 ∧
    fetchWord s1Step t0 0x200000 = 0x40 ∧ wordAt s1Step.mem 0x200000 = 0x40 ∧ decode 0x40 = .ok .sysCall := by
  refine ⟨rfl, by decide +kernel, by decide +kernel, by decide⟩
theorem hyp_step_no_fetch : (xlate s1Step (0 / 4) t0.uid 0 t0.ctx t0.area (0xFFFFFFFFFFFFC : Word).toNat needX).1 = .fail ∧
    ∃ e, decode 0xFFFFFFFF = .error e := ⟨rfl, _, rfl⟩
/-- The page of the pc is being moved, so that the fetch waits. -/
theorem hyp_step_waits : (xlate { s1Step with migration := some { ctx := 0, va := 0x10000, leaf := 0x20001B } } (0 / 4) t0.uid 0 t0.ctx
    t0.area t0.pc.toNat needX).1 = .wait := by rfl
theorem hyp_canonical : Canonical sStep ∧ Canonical State.reset := ⟨⟨by decide +kernel, rfl⟩, rfl, rfl⟩
/-- Every operand of a loading form at its largest value. -/
theorem hyp_encodes : (Instr.ld 31 31 31 .z32 (some .sys) 15).wf = true ∧
    ∃ w, encode (.ld 31 31 31 .z32 (some .sys) 15) = some w := ⟨rfl, _, rfl⟩

/-! ## Single steps: expected values from the tables and examples of the spec, or worked out from them by hand -/

def nextOf : Host.Outcome State Fault Refusal → Option State
  | .next s => some s
  | _ => none
/-- x[r] of thread 0 after the instruction. -/
def xOf (i : Instr) (t : Thread) (r : Reg) : Option Word := (nextOf (exec i (w0 t))).bind (fun s => (threadAt s 0).map (fun u => rx u r))
/-- Something of thread 0 after the instruction. -/
def after {α : Type} (i : Instr) (s : State) (f : Thread → α) : Option α := (nextOf (exec i s)).bind (fun s => (threadAt s 0).map f)
/-- Element j of vD, w bits wide, after the whole work of an entry of n elements in one row. -/
def lane (i : Instr) (t : Thread) (c : Cap) (eb : Option Word) (d w j : Nat) : Option Nat :=
  (laneWork t { ent i with cap := c, eb := eb }).map (fun k => match k with
    | .groups d' p w' f => elem (writeGroup t p d' w' 0 (nElems c) f) d w j
    | .bits d' p _ f => if maskBit (writeBits t p d' 0 (nElems c) f) d j then 1 else 0
    | .whole u => elem u d w j)
/-- A captured format: type code, columns, rows. -/
def fm (ty cols rows : Word) : Cap := { vfmt := ty, vcols := cols, vrows := rows }
/-- t0 with vector and mask registers. -/
def vt (v p : List (Nat × Nat)) : Thread :=
  { t0 with v := v.map (fun x => (x.1, BitVec.ofNat 16384 x.2)), p := p.map (fun x => (x.1, BitVec.ofNat 16384 x.2)) }

theorem test_alu_sub : xOf (.aluSub 4 5 6) t0 4 = some (-2) := by decide
theorem test_alu_sra : xOf (.aluSra 4 5 6) (tx [(5, 0x8000000000000000), (6, 0x7F)]) 4 = some 0xFFFFFFFFFFFFFFFF := by decide
theorem test_alu_slt : xOf (.aluSlt 4 5 6) (tx [(5, 0xFFFFFFFFFFFFFFFF), (6, 0)]) 4 = some 1 ∧
    xOf (.aluSltu 4 5 6) (tx [(5, 0xFFFFFFFFFFFFFFFF), (6, 0)]) 4 = some 0 := by decide
theorem test_alu_addw : xOf (.aluAddw 4 5 6) (tx [(5, 0x7FFFFFFF), (6, 1)]) 4 = some 0xFFFFFFFF80000000 := by decide
theorem test_alu_minu : xOf (.aluMinu 4 5 6) (tx [(5, 0xFFFFFFFFFFFFFFFF), (6, 9)]) 4 = some 9 ∧
    xOf (.aluMin 4 5 6) (tx [(5, 0xFFFFFFFFFFFFFFFF), (6, 9)]) 4 = some 0xFFFFFFFFFFFFFFFF := by decide
theorem test_alu_x0 : xOf (.aluAdd 0 5 6) t0 0 = some 0 := by decide
theorem test_alui : xOf (.alui 5 5 0xFFF0) t0 5 = some 0xFFFFFFFFFFFFFFF7 := by decide
theorem test_upi : xOf (.upi 4 0x100000) t0 4 = some 0xFFFFFFF000000000 := by decide
theorem test_mdv_div : xOf (.mdvDiv 4 5 6) (tx [(5, -7)]) 4 = some 0x8000000000000000 ∧
    xOf (.mdvDiv 4 5 6) (tx [(5, 7), (6, -2)]) 4 = some (-3) := by decide
theorem test_mdv_rem : xOf (.mdvRem 4 5 6) (tx [(5, -7)]) 4 = some 0 ∧
    xOf (.mdvRem 4 5 6) (tx [(5, 7), (6, -2)]) 4 = some 1 := by decide
theorem test_mdv_mulh : xOf (.mdvMulh 4 5 6) (tx [(5, -1), (6, 1)]) 4 = some 0xFFFFFFFFFFFFFFFF ∧
    xOf (.mdvMulhu 4 5 6) (tx [(5, -1), (6, -1)]) 4 = some 0xFFFFFFFFFFFFFFFE := by decide
theorem test_bit_clz : xOf (.bitClz 4 5) (tx [(5, 1)]) 4 = some 63 ∧ xOf (.bitCtz 4 5) (tx []) 4 = some 64 := by decide
theorem test_bit_rev8 : xOf (.bitRev8 4 5) (tx [(5, 0x0102030405060708)]) 4 = some 0x0807060504030201 := by decide
theorem test_br : after (.brLt 5 6 (-4)) (w0 t0) (fun u => u.pc) = some 0xFFF0 ∧
    after (.brEq 5 6 (-4)) (w0 t0) (fun u => u.pc) = some 0x10004 := by decide
theorem test_jlr : after (.jlr 5 5 1) (w0 t0) (fun u => (u.pc, rx u 5)) = some (8, 0x10004) := by decide
theorem test_ld : after (.ld 4 5 0 .s8 none 1) (wm (tx [(5, 0x20000)]) [0, 0xFE] []) (fun u => rx u 4) = some 0xFFFFFFFFFFFFFFFE := by
  decide +kernel
theorem test_st : (nextOf (exec (.st 6 5 0 .i16 none 0xF) (w0 (tx [(5, 0x20002), (6, 0x12345)])))).map (fun s => s.inflight.map (fun r => r.kind)) =
    some [.store 0x300000 [0x45, 0x23]] := by decide +kernel
theorem test_ctl_stctl : after (.ctlWr 5 0x020) (w0 (tx [(5, 0x1F)])) (fun u => u.csr.stctl) = some 0x1B := by decide
theorem test_ctl_adv : after (.ctlAdv 4 5 0x045) (w0 t0) (fun u => (u.csr.tkeep, rx u 4)) = some (7, 0) := by decide
theorem test_trap : after (.sysTrap 63) (w0 t0) (fun u => (u.pc, u.csr.tcause, u.csr.tval, u.csr.tepc, u.csr.tstat)) =
    some (0x10080, 8, 63, 0x10004, 1) := by decide
theorem test_vset : ([(GMul.m1, ElemTy.f32, 100, 50, 100, 5), (.m4, .f32, 100, 50, 100, 20), (.m1, .s8, 3000, 7, 2048, 1),
    (.m8, .bf16, 64, 1000, 64, 128), (.m2, .s64, 0, 9, 0, 0)] : List (GMul × ElemTy × Word × Word × Word × Word)).all
    (fun x => after (.vsetLenf 5 6 x.1 x.2.1) (w0 (tx [(5, x.2.2.1), (6, x.2.2.2.1)])) (fun u => (u.csr.vcols, u.csr.vrows)) =
      some (x.2.2.2.2.1, x.2.2.2.2.2)) = true := by decide
theorem test_kcnt_carry : after (.kcntAdv 0) (w0 tk) (fun u => ((kreg u.kpush 0).value, (kreg u.kpush 1).value)) = some (0, 1) := by decide

theorem test_valu_sadd : lane (.valuSadd 3 1 2 0 false .s8) (vt [(1, 0x7F80), (2, 0xFF80)] []) (fm 0 2 1) none 3 16 0 = some 0x7E80 := by
  decide +kernel
theorem test_valu_ssub_z8 : lane (.valuSsub 3 1 2 0 false .z8) (vt [(1, 0x0510), (2, 0x0601)] []) (fm 4 2 1) none 3 16 0 = some 0x000F := by
  decide +kernel
theorem test_valu_f32 : lane (.valuAdd 3 1 2 0 true .f32) (vt [(1, 0x3F800000)] []) (fm 8 1 1) (some 0x40000000) 3 32 0 =
    some 0x40400000 := by decide +kernel
theorem test_valu_masked : lane (.valuAdd 3 1 2 1 false .s32) (vt [(1, 5), (2, 6), (3, 9)] [(1, 2)]) (fm 2 2 1) none 3 32 0 = some 9 := by
  decide +kernel
theorem test_valui_minus_one : lane (.valuiMax 3 1 (-1) 0 .z8) (vt [(1, 5)] []) (fm 4 1 1) none 3 8 0 = some 255 := by decide +kernel
theorem test_valui_sra : lane (.valuiSra 3 1 3 0 .z8) (vt [(1, 0x80)] []) (fm 4 1 1) none 3 8 0 = some 0xF0 := by decide +kernel
/-- R145: a × b = +0 and d = −0 under rne. -/
theorem test_vfma_zero_signs :
    lane (.vfmaFma 3 1 2 0 false .f32) (vt [(3, 0x80000000)] []) (fm 8 1 1) none 3 32 0 = some 0 ∧
    lane (.vfmaFms 3 1 2 0 false .f32) (vt [(3, 0x80000000)] []) (fm 8 1 1) none 3 32 0 = some 0 ∧
    lane (.vfmaFnma 3 1 2 0 false .f32) (vt [(3, 0x80000000)] []) (fm 8 1 1) none 3 32 0 = some 0 ∧
    lane (.vfmaFnms 3 1 2 0 false .f32) (vt [(3, 0x80000000)] []) (fm 8 1 1) none 3 32 0 = some 0x80000000 := by decide +kernel
/-- 1 × 2 + 3 × 4 + 1 = 15 in bf16, written to the first element of the pair alone. -/
theorem test_vfma_dot2 : lane (.vfmaDot2 3 1 2 0 false .bf16) (vt [(1, 0x40403F80), (2, 0x40804000), (3, 0xAAAA3F80)] []) (fm 9 2 1) none 3 32 0 =
    some 0xAAAA4170 := by decide +kernel
theorem test_vcmp_unordered : lane (.vcmp 7 1 2 0 false .un .f32) (vt [(1, 0x7FC00000)] []) (fm 8 1 1) none 7 1 0 = some 1 ∧
    lane (.vcmp 7 1 2 0 false .ne .f32) (vt [(1, 0x7FC00000)] []) (fm 8 1 1) none 7 1 0 = some 1 := by decide +kernel
theorem test_vmsk_frst : lane (.vmskFrst 4 1 2) (vt [] [(1, 6), (2, 4)]) (fm 2 8 1) none 4 32 0 = some 2 ∧
    lane (.vmskFrst 4 1 2) (vt [] [(1, 6)]) (fm 2 8 1) none 4 32 0 = some 0xFFFFFFFF := by decide +kernel
/-- R148: with s8, a popc of 300 reads as 44. -/
theorem test_vmsk_popc : lane (.vmskPopc 4 0 0) (vt [] []) (fm 0 300 1) none 4 8 0 = some 44 := by decide +kernel
theorem test_vprm_cmpr : lane (.vprmCmpr 6 2 3 .lin .w8) (vt [(2, 0x04030201), (6, 0xEEEEEEEE)] [(3, 10)]) (fm 0 4 1) none 6 32 0 =
    some 0xEEEE0402 := by decide +kernel
theorem test_vprm_expd : lane (.vprmExpd 6 2 3 .lin .w8) (vt [(2, 0x04030201), (6, 0xEEEEEEEE)] [(3, 10)]) (fm 0 4 1) none 6 32 0 =
    some 0x02EE01EE := by decide +kernel
theorem test_vprm_tran : lane (.vprmTran 6 2 0 .w8) (vt [(2, 0x060504030201)] []) (fm 0 3 2) none 6 48 0 = some 0x060305020401 := by
  decide +kernel
/-- R158: an amax of s8 inputs −128 and 5 with carry-in 0 gives 127. -/
theorem test_vred_amax : lane (.vredAmax 6 2 0 .lin .s8) (vt [(2, 0x0580)] []) (fm 0 2 1) none 6 8 0 = some 127 := by decide +kernel
/-- R103, R104: 2^24 and 32 ones with carry-in +0 under lam 1. -/
theorem test_vred_canonical : lane (.vredSum 6 2 0 .lin .f32)
    (vt [(2, 0x4B800000 + 0x3F800000 * ((2 ^ 1056 - 1) / (2 ^ 32 - 1) - 1)), (3, 0x3F800000)] []) { fm 8 33 1 with vmode := 8 } none 6 32 0 =
    some 0x4B800010 := by decide +kernel
theorem test_vcvt_narrow : lane (.vcvt 4 8 0 .bf16 .f32) (vt [(8, 0x3F808000)] []) (fm 8 1 1) none 4 16 0 = some 0x3F80 ∧
    lane (.vcvt 4 8 0 .s32 .f32) (vt [(8, 0xC0200000)] []) (fm 8 1 1) none 4 32 0 = some 0xFFFFFFFE := by decide +kernel
/-- R162: v = −75 with p = 4. -/
theorem test_vbpl_planes : lane (.vbplPext 2 1 3 0) (vt [(1, 0xB5)] []) (fm 13 1 1) (some 4) 2 8 0 = some 0xFB ∧
    lane (.vbplPins 2 1 3 0) (vt [(1, 0xFB)] []) (fm 13 1 1) (some 4) 2 8 0 = some 0xB0 ∧
    lane (.vbplPmac 2 1 3 0) (vt [(1, 0xFB), (2, 5)] []) (fm 13 1 1) (some 4) 2 8 0 = some 0xB5 := by decide +kernel
theorem test_vbpl_sra_wide : lane (.vbplSra 2 1 3 0 .z8) (vt [(1, 0x80), (3, 200)] []) (fm 4 1 1) none 2 8 0 = some 0xFF := by decide +kernel
/-- Row 1 of a 2 × 2 block is scaled by element 1 of B: 3 × 5 + 1 = 16. -/
theorem test_vsca_rmac : lane (.vscaRmac 8 2 3 0 false .s32) (vt [(2, 3 * 2 ^ 64), (3, 5 * 2 ^ 32), (8, 0x3F800000 * 2 ^ 64)] []) (fm 2 2 2) none 8 32 2 =
    some 0x41800000 := by decide +kernel
/-- R164, R165: la = (2, 5, 9), lb = (1, 5, 9, 12), six positions padded with top. -/
def lists : Thread := vt [(1, 2 + 5 * 2 ^ 32 + 9 * 2 ^ 64 + (2 ^ 96 - 1) * 2 ^ 96), (2, 1 + 5 * 2 ^ 32 + 9 * 2 ^ 64 + 12 * 2 ^ 96 + (2 ^ 64 - 1) * 2 ^ 128)] []
theorem test_vsx_isec : [0, 1, 2].map (lane (.vsxIsec 4 1 2 0 .z32) lists (fm 6 6 1) none 4 32) = [some 5, some 9, some 0xFFFFFFFF] := by
  decide +kernel
theorem test_vsx_icnt : lane (.vsxIcnt 4 1 2 0 .z32) lists (fm 6 6 1) none 4 32 0 = some 2 := by decide +kernel
theorem test_vsx_unio : [0, 1, 2, 3, 4, 5].map (lane (.vsxUnio 4 1 2 0 .z32) lists (fm 6 6 1) none 4 32) =
    [some 1, some 2, some 5, some 9, some 12, some 0xFFFFFFFF] := by decide +kernel
theorem test_vsx_diff : [0, 1].map (lane (.vsxDiff 4 1 2 0 .z32) lists (fm 6 6 1) none 4 32) = [some 2, some 0xFFFFFFFF] := by decide +kernel

/-- A 2 × 4 tile of a 4 × 4 box, rows along dimension 1; element 7 is masked off. -/
theorem test_vwld : (nextOf (exec (.issueGrant 0) (setCluster (w0 tLd) 0 { tlb := pages, scratch := [(0, 5), (4, 7), (16, 9), (28, 8)] }))).bind
    (fun s => (threadAt s 0).map (fun u => (List.range 8).map (elem u 8 32))) = some [5, 7, 0, 0, 9, 0, 0, 0] := by decide +kernel
/-- 1.0 × 2.0 for element (63, 63). -/
def cMma : Cluster := { slots := [(0, { (slotAt cSlots 0) with bytes := [(127, 0x3F), (126, 0x80)] }),
  (1, { (slotAt cSlots 1) with bytes := [(127, 0x40)] })] }
theorem test_tile_mma : addProducts (slotAt cMma 0) (slotAt cMma 1) 63 63 0 [0] = 0x40000000 := by decide +kernel
/-- Row 63 of the tile receives the row of vA where P governs it. -/
theorem test_tmov_vtor : (nextOf (exec (.tileEngineStep 0) (wc (tStep { qMma with instr := .tmovVtor 2 4 5 0, pred := 2, data := 7 * 2 ^ 32 + 5 }) {}))).map
    (fun s => (tileElem (clusterOf s 0) 15 63 0, tileElem (clusterOf s 0) 15 63 1)) = some (0, 7) := by decide +kernel
/-- vD receives the old value, and memory the sum. -/
theorem test_vamo_add : (nextOf (exec (.entryAtVcp 0) { w0 { tAmo (eAmo true false) with v := [(3, BitVec.ofNat 16384 (5 * 2 ^ 32))] } with
    mem := writeBytes (w0 t0).mem 0x30FFF8 [0xFF, 0xFF, 0xFF, 0xFF] })).map (fun s =>
      (readBytes s.mem 0x30FFF8 4, (threadAt s 0).map (fun u => elem u 8 32 1))) = some ([4, 0, 0, 0], some 0xFFFFFFFF) := by decide +kernel
/-- A granted latch shows HELD, the scope and the tag. -/
theorem test_latch_grant : (nextOf (exec (.latchGrant 0x30FFF8) (sGrant []))).map (fun s => readWord s 0x30FFF8) = some 0x11 := by decide +kernel
/-- R247: three arrivals of three complete the phase; an expectation of the completing cycle counts in the phase after. -/
theorem test_barrier_phase : let b : Barrier := { bar0 with arrived := 3, expect := 3, live := 3, dueAt := some 3, late := 1, lateAt := 3 }
    settled (wb4 b) b = { bar0 with phase := 1, arrived := 0, expect := 3, next := 1, live := 3, lateAt := 3 } := by
  intro b
  rw [settled, barrier_now]; decide
/-- Element (0, 0): 1 × 1 twice in e4m3 by step 0; −128 × −128 twice in bpi and s8; 1 × 1 twice, strained, at the last step. -/
theorem test_tile_mma_kinds : [(cE4m3, 0), (cBpi, 0), (cStrained [1] [(0, 0)], 1), (cSkip, 1)].map (fun x =>
    (nextOf (exec (.tileEngineStep 0) (wc (tStep (qProd x.2)) x.1))).map (fun s => tileElem (clusterOf s 0) 15 0 0)) =
    [some 0x40000000, some 0x47000000, some 0x40000000, some 0] := by decide +kernel
/-- The copies of the slot that elements 0 and 1 reach hold their values. -/
theorem test_accw_group : (nextOf (exec (.issueGrant 0) (w0 tUpd2))).map (fun s =>
    [0, 1].map (fun l => spRead (clusterOf s 0).scratch (copyByte (hr 3) l 0) 4)) = some [7, 9] := by decide +kernel
/-- Both threads of the group stand at CODE with their own index in x2. -/
theorem test_place_two : (nextOf (exec .schedulerPlace (sRec rec2 oneTile []))).map (fun s =>
    s.threads.map (fun (x : Nat × Thread) => (x.1, x.2.pc, rx x.2 1, rx x.2 2, x.2.area))) =
    some [(0, 0x10000, 0x1234, 0, 0x400000), (1, 0x10000, 0x1234, 1, 0x800000)] := by decide +kernel
theorem test_watermark : (nextOf (exec (.hostWatermarkWrite 255 5) { w0 t0 with wmk := [(255, 9)] })).map (fun s => tabGet 0 s.wmk 255) =
    some 9 := by decide
/-- The CRC-32C of the nine digits. -/
theorem test_crc : ~~~ crcUpdate 0xFFFFFFFF#32 [0x31, 0x32, 0x33, 0x34, 0x35, 0x36, 0x37, 0x38, 0x39] = 0xE3069283#32 := by decide +kernel
/-- SHAKE256 of no bytes, as the standard's published examples have it. -/
theorem test_shake256 : shake256 [] = [
    0x46, 0xB9, 0xDD, 0x2B, 0x0B, 0xA8, 0x8D, 0x13, 0x23, 0x3B, 0x3F, 0xEB, 0x74, 0x3E, 0xEB, 0x24,
    0x3F, 0xCD, 0x52, 0xEA, 0x62, 0xB8, 0x1B, 0x82, 0xB5, 0x0C, 0x27, 0x64, 0x6E, 0xD5, 0x76, 0x2F,
    0xD7, 0x5D, 0xC4, 0xDD, 0xD8, 0xC0, 0xF2, 0x00, 0xCB, 0x05, 0x01, 0x9D, 0x67, 0xB5, 0x92, 0xF6,
    0xFC, 0x82, 0x1C, 0x49, 0x47, 0x9A, 0xB4, 0x86, 0x40, 0x29, 0x2E, 0xAC, 0xB3, 0xB7, 0xC4, 0xBE] := by decide +kernel
/-- The table's word of alu.sub, as the first instruction after reset. -/
theorem test_step_first : decodeTableWord 32 0x04A63801 = some (.aluSub 5 6 7) ∧
    (nextOf (step (State.reset.withFetchWord 32 0x04A63801))).bind (fun s => (threadAt s 0).map (fun u => u.pc)) = some 0x10004 := by
  decide +kernel
theorem test_step_illegal : (nextOf (step (State.reset.withFetchWord 32 0xFFFFFFFF))).map (fun s => s.launches.length) = some 0 := by
  decide +kernel

end Sys2Proof.Tests
end

section
/-! PROOFS. The laws that host accesses share: what counting, flits of the host port and posted events leave alone, which fields
decide whether an access gets to a home, and how a driver-area write arrives. -/

namespace Sys2Proof.Machine

variable {s s' : State}

/-! ## Tables and fields -/

/-- What every number reads after one write. -/
theorem tabGet_tabSet {α : Type} [DecidableEq α] (d : α) (t : Tab α) (k j : Nat) (v : α) :
    tabGet d (tabSet d t k v) j = if j = k then v else tabGet d t j := by
  split
  · next h => rw [h, tabGet_tabSet_self]
  · next h => exact tabGet_tabSet_ne d t v h

theorem tabGet_tabPut {α : Type} (d : α) (t : Tab α) (k j : Nat) (v : α) :
    tabGet d (tabPut t k v) j = if j = k then v else tabGet d t j := by
  split
  · next h => rw [h, tabGet_tabPut_self]
  · next h => exact tabGet_tabPut_ne d t v h

theorem drv_setDrv (s : State) (off j : Nat) (v : Word) :
    drv (setDrv s off v) j = if j = off then v else drv s j := tabGet_tabSet 0 s.driver off j v

/-- A field of a word as the model reads it is the slice of its bits. -/
theorem fieldOf_eq (w : Word) (lo n : Nat) : fieldOf w lo n = (w.extractLsb' lo n).toNat := by
  rw [fieldOf, bitsOf, BitVec.extractLsb'_toNat, Nat.shiftRight_eq_div_pow]

/-! ## Frames -/

/-- A counter that grows changes the counters alone. -/
theorem bump_frame (s : State) (p i n : Nat) : bump s p i n = { s with counters := (bump s p i n).counters } := by
  unfold bump; split <;> rfl

/-- Flits of the host port take a number and change the counters (R323). -/
theorem hostFlits_frame (s : State) (i : Nat) :
    hostFlits s i = { s with uid := s.uid + 1, counters := (hostFlits s i).counters } := by rw [hostFlits, bump_frame]

@[simp] theorem hostFlits_mem (s : State) (i : Nat) : (hostFlits s i).mem = s.mem := by rw [hostFlits_frame]
@[simp] theorem hostFlits_poison (s : State) (i : Nat) : (hostFlits s i).poison = s.poison := by rw [hostFlits_frame]
@[simp] theorem hostFlits_cxlCap (s : State) (i : Nat) : (hostFlits s i).cxlCap = s.cxlCap := by rw [hostFlits_frame]
@[simp] theorem hostFlits_threads (s : State) (i : Nat) : (hostFlits s i).threads = s.threads := by rw [hostFlits_frame]
@[simp] theorem hostFlits_wmk (s : State) (i : Nat) : (hostFlits s i).wmk = s.wmk := by rw [hostFlits_frame]
@[simp] theorem hostFlits_power (s : State) (i : Nat) : (hostFlits s i).power = s.power := by rw [hostFlits_frame]
@[simp] theorem hostFlits_dieMode (s : State) (i : Nat) : (hostFlits s i).dieMode = s.dieMode := by rw [hostFlits_frame]
@[simp] theorem hostFlits_fence (s : State) (i : Nat) : (hostFlits s i).fence = s.fence := by rw [hostFlits_frame]
@[simp] theorem hostFlits_ports (s : State) (i : Nat) : (hostFlits s i).ports = s.ports := by rw [hostFlits_frame]
@[simp] theorem hostFlits_hostReads (s : State) (i : Nat) : (hostFlits s i).hostReads = s.hostReads := by rw [hostFlits_frame]
@[simp] theorem hostFlits_fw (s : State) (i : Nat) : (hostFlits s i).fw = s.fw := by rw [hostFlits_frame]
@[simp] theorem hostFlits_migration (s : State) (i : Nat) : (hostFlits s i).migration = s.migration := by rw [hostFlits_frame]
@[simp] theorem hostFlits_inval (s : State) (i : Nat) : (hostFlits s i).inval = s.inval := by rw [hostFlits_frame]
@[simp] theorem hostFlits_migrate (s : State) (i : Nat) : (hostFlits s i).migrate = s.migrate := by rw [hostFlits_frame]

/-- An event record changes the ring, the lost count and the counters (R13, R333). -/
theorem postEvent_frame (s : State) (ty d : Nat) (a b : Word) :
    postEvent s ty d a b = { s with
      driver := (postEvent s ty d a b).driver, events := (postEvent s ty d a b).events,
      counters := (postEvent s ty d a b).counters, evLost := (postEvent s ty d a b).evLost } := by
  unfold postEvent postRecord recordEvent
  split
  · split
    · rw [bump_frame]; rfl
    · rfl
  · rfl

@[simp] theorem postEvent_threads (s : State) (ty d : Nat) (a b : Word) : (postEvent s ty d a b).threads = s.threads := by
  rw [postEvent_frame]
@[simp] theorem postEvent_power (s : State) (ty d : Nat) (a b : Word) : (postEvent s ty d a b).power = s.power := by
  rw [postEvent_frame]
@[simp] theorem postEvent_dieMode (s : State) (ty d : Nat) (a b : Word) : (postEvent s ty d a b).dieMode = s.dieMode := by
  rw [postEvent_frame]

/-- A request that performed changes the counters alone (R323). -/
theorem countHere_frame (s : State) (a : Nat) : countHere s a = { s with counters := (countHere s a).counters } := by
  unfold countHere; dsimp only; split
  · exact bump_frame _ _ _ _
  · rw [bump_frame, bump_frame s]

theorem countAccess_frame (s : State) (a : Nat) : countAccess s a = { s with counters := (countAccess s a).counters } := by
  unfold countAccess; split
  · rw [bump_frame, countHere_frame]
  · exact countHere_frame s a

theorem countPa_frame (s : State) (a : Nat) : countPa s a = { s with counters := (countPa s a).counters } := by
  unfold countPa; split
  · exact countHere_frame s a
  · exact countAccess_frame s _

@[simp] theorem countPa_poison (s : State) (a : Nat) : (countPa s a).poison = s.poison := by rw [countPa_frame]
@[simp] theorem countPa_posted (s : State) (a : Nat) : (countPa s a).posted = s.posted := by rw [countPa_frame]
@[simp] theorem countPa_hostReads (s : State) (a : Nat) : (countPa s a).hostReads = s.hostReads := by rw [countPa_frame]

/-! ## What decides whether an access gets to a home

The fence table decides which tiles are in service and which ways lead through them (R306, R312); for CXL memory the ports count too,
and for a page that moves the migration. -/

theorem inService_congr (hf : s'.fence = s.fence) (t : Nat) : inService s' t = inService s t := by simp [inService, hf]

theorem hostReach_congr (hf : s'.fence = s.fence) : hostReach s' = hostReach s := inService_congr hf _

theorem hops_congr (hf : s'.fence = s.fence) (a b : Nat) : hops s' a b = hops s a b := by
  simp only [hops, inService_congr hf]

theorem wayFrom_congr (hf : s'.fence = s.fence) (n a b : Nat) : wayFrom s' n a b = wayFrom s n a b := by
  induction n generalizing a with
  | zero => simp only [wayFrom, hops_congr hf]
  | succ n ih => simp only [wayFrom, hops_congr hf, inService_congr hf, ih]

theorem routeUp_congr (hf : s'.fence = s.fence) (a b : Nat) : routeUp s' a b = routeUp s a b := by
  simp only [routeUp, way, wayFrom_congr hf]

theorem portDown_congr (hf : s'.fence = s.fence) (hp : s'.ports = s.ports) (n : Nat) : portDown s' n = portDown s n := by
  simp only [portDown, inService_congr hf, hp]

theorem homeUp_congr (hf : s'.fence = s.fence) (hp : s'.ports = s.ports) (a : Nat) : homeUp s' a = homeUp s a := by
  simp only [homeUp, inService_congr hf, portDown_congr hf hp]

theorem forwardedPa_congr (hm : s'.migration = s.migration) (a : Nat) : forwardedPa s' a = forwardedPa s a := by
  simp only [forwardedPa, hm]

theorem hostUp_congr (hf : s'.fence = s.fence) (hp : s'.ports = s.ports) (hm : s'.migration = s.migration) (a : Nat) :
    hostUp s' a = hostUp s a := by
  simp only [hostUp, reachesFrom, forwardedPa_congr hm, homeUp_congr hf hp, routeUp_congr hf]

theorem hostWmk_congr (hf : s'.fence = s.fence) (w : Nat) : hostWmk s' w = hostWmk s w := by
  simp only [hostWmk, wmkFrom, wmkUp, inService_congr hf, wayTo, routeUp_congr hf]

/-! ## Host accesses while nothing holds them -/

/-- No way meets a stopped router where none has stopped (R307). -/
theorem stuckTo_none (h : ∀ tile, stopped s tile = false) (tile : Option Nat) (d : Nat) : stuckTo s tile d = false := by
  have hw (t : Nat) : wayStopped s t d = false := by simp [wayStopped, h]
  cases tile <;> simp [stuckTo, hw]

theorem windowStuck_none (h : ∀ tile, stopped s tile = false) (bar off n : Nat) : windowStuck s bar off n = false := by
  cases hb : barPa s bar off <;> simp [windowStuck, stuckFrom, stuckTo_none h, hb]

theorem hostStuck_none (h : ∀ tile, stopped s tile = false) (op : HostOp) : hostStuck s op = false := by
  cases op with
  | write bar off l r => exact windowStuck_none h bar off l.length
  | read bar off n => exact windowStuck_none h bar off n
  | tail q v | enable q r | disable q => simp [hostStuck, stuckFrom, stuckTo_none h]

/-- What a host access waits for (R239, R307, R355, R358): an access that precedes it, of which a write of POWER counts only another
such write while a checkpoint runs; the end of a checkpoint, if it writes memory; and a stopped router. -/
theorem hostHeld_iff (before : List HostReq) (op : HostOp) : hostHeld s before op = true ↔
    (∃ x ∈ before, hostPrecedes x.op op = true ∧
      (s.fw.running = some .ckpt → writesPower op = true → writesPower x.op = true)) ∨
    (writesMemory op = true ∧ s.fw.running = some .ckpt) ∨ hostStuck s op = true := by
  have hi (a b c : Bool) : (!(a && b) || c) = true ↔ (a = true → b = true → c = true) := by cases a <;> cases b <;> simp
  simp only [hostHeld, Bool.or_eq_true (_ || _), Bool.or_eq_true (List.any _ _), List.any_eq_true, Bool.and_eq_true, hi,
    decide_eq_true_eq, or_assoc]

/-- What arrives at a quiet host port need not wait, unless it writes memory during a checkpoint. -/
theorem hostHeld_quiet (h : hostQuiet s) {op : HostOp} (hw : writesMemory op = false) : hostHeld s s.posted op = false := by
  obtain ⟨-, hp, hs⟩ := h
  rw [Bool.eq_false_iff, Ne, hostHeld_iff]
  rintro (⟨x, hx, hpre, -⟩ | ⟨hm, -⟩ | hst)
  · simp [hostPrecedes, hp x hx] at hpre
  · simp [hw] at hm
  · simp [hostStuck_none hs] at hst

/-- A driver-area write at a quiet host port takes effect at once (R239). -/
theorem driverArrives_quiet (h : hostQuiet s) (off : Nat) (v : Word) (f : State → State) :
    driverArrives s off v f = f (hostFlits s 1) := by
  have hh : hostHeld s s.posted (.write 0 off (bytesOfNat 8 v.toNat) false) = false := hostHeld_quiet h (by simp [writesMemory])
  simp [driverArrives, h.1, hh]

/-- A driver-area write is lost while the tile of the host port is fenced (R13). -/
theorem driverArrives_fenced (h : hostReach s = false) (off : Nat) (v : Word) (f : State → State) :
    driverArrives s off v f = s := by simp [driverArrives, h]

end Sys2Proof.Machine
end

section
/-! PROOFS. Power modes and the thermal halt (R16 to R18, R332, R333, R358). -/

namespace Sys2Proof.Machine

variable {s : State}

/-! ## The instructions as the model dispatches them -/

theorem exec_powerWrite (s : State) (v : Word) :
    exec (.powerWrite v) s = .next (driverArrives s 0x1000 v (fun s => writePower s v)) := rfl
theorem exec_powerModeApply (s : State) (die : Nat) :
    exec (.powerModeApply die) s = .next (if 4 ≤ die then s else { s with dieMode := tabSet 0 s.dieMode die s.power }) := rfl
theorem exec_coolantLimitExit (s : State) (die : Nat) :
    exec (.coolantLimitExit die) s = .next (if 4 ≤ die then s else changeMode s 2 die 1) := rfl
theorem exec_thermalHalt (s : State) :
    exec .thermalHalt s = .next { haltWork s with fw := { s.fw with state := 4, running := none, fresh := false } } := rfl

/-! ## Modes -/

/-- The states in which a write of POWER takes effect at once: at a quiet host port, and while a checkpoint runs that holds no earlier
write of POWER (R358). -/
def powerTaken (s : State) : Prop :=
  hostQuiet s ∨ (hostReach s = true ∧ s.fw.running = some .ckpt ∧ ∀ x ∈ s.posted, writesPower x.op = false)

theorem driverArrives_power (h : powerTaken s) (v : Word) (f : State → State) :
    driverArrives s 0x1000 v f = f (hostFlits s 1) := by
  obtain hq | ⟨hr, hc, hp⟩ := h
  · exact driverArrives_quiet hq _ _ _
  · have hh : hostHeld s s.posted (.write 0 0x1000 (bytesOfNat 8 v.toNat) false) = false := by
      rw [Bool.eq_false_iff, Ne, hostHeld_iff]
      rintro (⟨x, hx, -, hpow⟩ | ⟨hm, -⟩ | hst)
      · simpa [hp x hx] using hpow hc rfl
      · simp [writesMemory] at hm
      · simp [hostStuck, windowStuck] at hst
    simp [driverArrives, hr, hh]

/-- A mode change sets the mode, and touches no thread, no memory and no die's mode (R18). -/
theorem changeMode_power (s : State) (m die cause : Nat) : (changeMode s m die cause).power = m := by
  unfold changeMode; split
  · assumption
  · rw [postEvent_power]
@[simp] theorem changeMode_threads (s : State) (m die cause : Nat) : (changeMode s m die cause).threads = s.threads := by
  unfold changeMode; split <;> simp
@[simp] theorem changeMode_mem (s : State) (m die cause : Nat) : (changeMode s m die cause).mem = s.mem := by
  unfold changeMode; split <;> simp
@[simp] theorem changeMode_dieMode (s : State) (m die cause : Nat) : (changeMode s m die cause).dieMode = s.dieMode := by
  unfold changeMode; split <;> simp

/-- POWER takes the mode of its low two bits; 3 is ignored (R332). -/
theorem writePower_reserved {v : Word} (h : (v.extractLsb' 0 2).toNat = 3) : writePower s v = s := by
  rw [writePower, fieldOf_eq, if_pos h]
theorem writePower_mode {v : Word} (h : (v.extractLsb' 0 2).toNat ≠ 3) :
    writePower s v = changeMode s (v.extractLsb' 0 2).toNat 0 0 := by
  rw [writePower, fieldOf_eq, if_neg h]

theorem exec_powerWrite_taken (h : powerTaken s) (v : Word) :
    exec (.powerWrite v) s = .next (writePower (hostFlits s 1) v) := by
  rw [exec_powerWrite, driverArrives_power h]

/-- Settles O48: a write of POWER that is taken, and an exit from the coolant limits, are a mode change; the halt is `haltWork`. -/
theorem powerModesAndThermalHalt : Obligations.PowerModesAndThermalHalt := by
  unfold Obligations.PowerModesAndThermalHalt
  intro s v die off m taken
  refine ⟨?write, ?keeps, ?apply, ?coolant, ?halt⟩
  case write =>
    intro h
    rw [exec_powerWrite_taken h]
    by_cases h3 : m = 3
    · rw [writePower_reserved h3, if_pos (Or.inl h3)]
    · rw [writePower_mode h3, changeMode, hostFlits_power]
      simp only [h3, false_or, eq_comm (a := s.power)]
      rfl
  case keeps =>
    intro h h3
    refine ⟨_, exec_powerWrite_taken h v, ?_⟩
    rw [writePower_mode h3]
    exact ⟨changeMode_power _ _ _ _, by simp, by simp, by simp⟩
  case apply =>
    intro hd
    refine ⟨_, exec_powerModeApply s die, ?_⟩
    rw [if_neg (by omega)]
    exact ⟨rfl, fun d => tabGet_tabSet 0 s.dieMode die d s.power⟩
  case coolant =>
    intro hd
    rw [exec_coolantLimitExit, if_neg (by omega)]
    rfl
  case halt =>
    refine ⟨_, exec_thermalHalt s, rfl, rfl, rfl, rfl, rfl, rfl, rfl, ?_⟩
    show drv (setDrv (setDrv s 0x4000 0) 0x5000 0) off = _
    by_cases h5 : off = 0x5000
    · simp [h5]
    · simp [h5, drv_setDrv]

end Sys2Proof.Machine
end

section
/-! PROOFS. Host accesses to memory, to watermarks and to the driver area (R13, R239, R321, R330 to R332, R342, R350, R355). -/

namespace Sys2Proof.Machine

variable {s : State}

/-! ## The instructions as the model dispatches them -/

theorem exec_hostPostedWrite (s : State) (bar off : Nat) (l : List Byte) (r : Bool) :
    exec (.hostPostedWrite bar off l r) s = execHostPostedWrite bar off l r s := rfl
theorem exec_hostNonpostedRead (s : State) (bar off len : Nat) :
    exec (.hostNonpostedRead bar off len) s = execHostNonpostedRead bar off len s := rfl
theorem exec_driverAreaWrite (s : State) (reg v : Word) : exec (.driverAreaWrite reg v) s =
    .next (driverArrives s reg.toNat v (fun s => driverPerform s reg.toNat v)) := rfl
theorem exec_portctlEnable (s : State) (port : Nat) (e : Bool) : exec (.portctlEnable port e) s =
    .next (driverArrives s (0x14000 + 1024 * (port - 25)) (BitVec.ofNat 64 e.toNat) (fun s => writePortctl s port e)) := rfl
theorem exec_injWrite (s : State) (port : Nat) (v : Word) : exec (.injWrite port v) s =
    .next (driverArrives s (0x18000 + 8 * port) v (fun s => writeInj s port v)) := rfl

/-! ## Ranges inside one granule -/

/-- `n` bytes inside one 256-byte granule, none of them of a control block. -/
def plainRange (a n : Nat) : Prop := 0 < n ∧ a % 256 + n ≤ 256 ∧ rangesMeet a n (controlBlock 0) 4096 = false

/-- Such a range is one granule of its own. -/
theorem granulesOf_inside {a n : Nat} (h0 : 0 < n) (h : a % 256 + n ≤ 256) : granulesOf a n = [(a, n)] := by
  have hlo : max a (256 * (a / 256 + 0)) = a := by omega
  have hhi : min (a + n) (256 * (a / 256 + 0 + 1)) = a + n := by omega
  rw [granulesOf, List.range_succ_eq_map, List.filterMap_cons_some (b := (a, n)), List.filterMap_eq_nil_iff.mpr]
  · intro i hi
    obtain ⟨k, -, rfl⟩ := List.mem_map.mp hi
    exact if_neg (by omega)
  · dsimp only
    rw [hlo, hhi, if_pos (by omega), Nat.add_sub_cancel_left]

theorem controlBlock_eq (q : Nat) : controlBlock q = controlBlock 0 + 64 * q := by simp [controlBlock]

theorem rangesMeet_eq_false_iff (a n b m : Nat) : rangesMeet a n b m = false ↔ min (a + n) (b + m) ≤ max a b := by
  simp only [rangesMeet, decide_eq_false_iff_not, not_lt]

/-- A write that meets no control block touches no field of one. -/
theorem controlField_plain {a q field : Nat} {l : List Byte} (h : plainRange a l.length) (hq : q < 64) (hf : field + 8 ≤ 64) :
    controlField s q a l field = none := by
  obtain ⟨h0, -, hc⟩ := h
  have : rangesMeet a l.length (controlBlock q + field) 8 = false := by
    rw [rangesMeet_eq_false_iff] at hc ⊢
    rw [controlBlock_eq q]
    omega
  simp [controlField, this]

/-- No byte of the range belongs to a control block. -/
theorem controlAt_plain {a n i : Nat} (h : plainRange a n) (hi : i < n) : controlAt (a + i) = none := by
  obtain ⟨-, -, hc⟩ := h
  rw [rangesMeet_eq_false_iff] at hc
  rw [controlAt, List.find?_eq_none]
  intro q hq
  rw [List.mem_range] at hq
  rw [controlBlock_eq q, decide_eq_true_eq]
  omega

theorem readBytes_eq_map (m : Memory) (a n : Nat) : readBytes m a n = (List.range n).map (fun i => readByte m (a + i)) :=
  List.ext_getElem (by simp) (fun i h _ => by simp [getElem_readBytes])

/-- The host reads such a range byte by byte, each where it stands now (R287). -/
theorem hostBytes_plain {a n : Nat} (h : plainRange a n) :
    hostBytes s a n = (List.range n).map (fun i => readByte s.mem (forwardedPa s (a + i))) := by
  rw [hostBytes, h.2.2, Bool.false_or]
  split
  · refine List.map_congr_left fun i hi => ?_
    rw [controlAt_plain h (List.mem_range.mp hi)]
  · next hm =>
    rw [Bool.not_eq_true, Option.isSome_eq_false_iff, Option.isNone_iff_eq_none] at hm
    rw [readBytes_eq_map]
    simp only [forwardedPa_none hm]

/-- A byte read after a range was written. -/
theorem readByte_writeBytes (m : Memory) (a : Nat) (l : List Byte) (c : Nat) :
    readByte (writeBytes m a l) c = if a ≤ c ∧ c < a + l.length then l.getD (c - a) 0 else readByte m c := by
  split
  · next h =>
    obtain ⟨i, rfl⟩ := Nat.exists_eq_add_of_le h.1
    have hi : i < l.length := by omega
    rw [readByte_writeBytes_inside l m a i hi, Nat.add_sub_cancel_left, List.getD_eq_getElem _ _ hi]
  · next h => exact readByte_writeBytes_outside l m a c (by omega)

/-- A write takes the poison of the granules that it covers whole (R225). -/
theorem mem_performWrite_poison (s : State) (a : Nat) (l : List Byte) (g : Nat) : g ∈ (performWrite s a l).poison ↔
    g ∈ s.poison ∧ ¬ (a ≤ 32 * g ∧ 32 * g + 32 ≤ a + l.length) := by
  simp only [performWrite, clearPoison, List.mem_filter, decide_eq_true_eq]

/-! ## Posted writes -/

theorem barPa_sram {off : Nat} (h : off < 2 ^ 34) : barPa s 2 off = some off := if_pos ⟨rfl, h⟩

/-- A posted write of such a range stores its bytes where the address is forwarded to, unless its tile has been fenced since. -/
theorem hostStore_plain {a : Nat} {l : List Byte} (gone : List Nat) (h : plainRange a l.length) (ha : a < Config.sramEnd)
    (hu : hostUp s a = true) : hostStore s 2 a l gone =
      if tileOfSlice (homeOf a) ∈ gone then s else countPa (performWrite s (forwardedPa s a) l) a := by
  obtain ⟨h0, hin, hc⟩ := h
  rw [hostStore, granulesOf_inside h0 hin]
  simp [hc, barHas, paExists, ha, hu]

/-- What order and stopped routers hold is held, whatever it writes. -/
theorem hostOpHeld_of_hostHeld {before : List HostReq} {op : HostOp} (h : hostHeld s before op = true) :
    hostOpHeld s before op = true := by simp [hostOpHeld, controlHeld, h]

/-- A write of such a range waits for nothing else: it commits no record. -/
theorem hostOpHeld_plain {off : Nat} {l : List Byte} (before : List HostReq) (r : Bool) (hb : off < 2 ^ 34)
    (h : plainRange off l.length) : hostOpHeld s before (.write 2 off l r) = hostHeld s before (.write 2 off l r) := by
  have hn (q : Nat) (hq : q < 64) : controlField s q off l 0 = none := controlField_plain h hq (by omega)
  have ha (f : Nat → Word → Bool) : (List.range 64).any (fun q => (controlField s q off l 0).any (f q)) = false := by
    simp +contextual [hn]
  simp [hostOpHeld, controlHeld, barPa_sram hb, ha]

/-- A received access performs when its order lets it, and then it is no longer among those received. -/
theorem performPosted_eq {before after : List HostReq} {x : HostReq} (hp : s.posted = before ++ x :: after)
    (hb : ∀ y ∈ before, y.uid ≠ x.uid) : performPosted s x.uid =
      if hostOpHeld s before x.op then s
      else hostPerform { s with posted := s.posted.filter (fun y => y.uid ≠ x.uid) } x.op x.gone := by
  have hfind : s.posted.find? (fun y => y.uid = x.uid) = some x := by
    have hn : before.find? (fun y => decide (y.uid = x.uid)) = none := by simpa using hb
    rw [hp, List.find?_append, hn]
    simp
  have htake : s.posted.takeWhile (fun y => y.uid ≠ x.uid) = before := by
    rw [hp, List.takeWhile_append_of_pos (by simpa using hb)]
    simp
  rw [performPosted, hfind]
  dsimp only
  rw [htake]

theorem exec_sliceRequest_posted {uid : Nat} (hi : ∀ r ∈ s.inflight, r.uid ≠ uid) :
    exec (.sliceRequest uid) s = .next (performPosted s uid) := by
  have : s.inflight.find? (fun r => decide (r.uid = uid)) = none := by simpa using hi
  show execSliceRequest uid s = _
  rw [execSliceRequest, this]

/-! ## Reads -/

/-- A host read is answered with `r`, and changes no memory and no thread. -/
def ReadAnswers (s : State) (bar off len : Nat) (r : HostDone) : Prop :=
  ∃ s', exec (.hostNonpostedRead bar off len) s = .next s' ∧
    s'.hostReads = s.hostReads ++ [r] ∧ s'.mem = s.mem ∧ s'.threads = s.threads

theorem foldl_countPa_frame (gs : List (Nat × Nat)) (s : State) :
    gs.foldl (fun s g => countPa s g.1) s = { s with counters := (gs.foldl (fun s g => countPa s g.1) s).counters } := by
  induction gs generalizing s with
  | nil => rfl
  | cons g r ih => rw [List.foldl_cons, ih, countPa_frame]

/-- An answer changes the counters, and joins those that went to the host. -/
theorem answerRead_eq {bar off len : Nat} {r : HostDone} (h : hostRead s bar off len = some r) :
    ∃ c, answerRead s bar off len = hostFlits { s with counters := c, hostReads := s.hostReads ++ [r] } 0 := by
  rw [answerRead, h]
  dsimp only
  split
  · exact ⟨_, by rw [foldl_countPa_frame]⟩
  · split
    · exact ⟨_, by rw [countWmk, bump_frame]⟩
    · exact ⟨_, rfl⟩
  · exact ⟨_, rfl⟩

theorem readAnswers_of {bar off len : Nat} {r : HostDone}
    (he : bar = 6 ∨ hostHeld s s.posted (.read bar off len) = false) (hr : hostRead (hostFlits s 1) bar off len = some r) :
    ReadAnswers s bar off len r := by
  obtain ⟨c, hc⟩ := answerRead_eq hr
  have hn : ¬ ((decide (bar ≠ 6) && hostReach s && hostHeld s s.posted (.read bar off len)) = true) := by
    obtain h | h := he <;> simp [h]
  refine ⟨answerRead (hostFlits s 1) bar off len, ?_, ?_⟩
  · rw [exec_hostNonpostedRead, execHostNonpostedRead, if_neg hn]
  · rw [hc]
    simp

/-- How a read of such a range of BAR2 completes (R13, R223, R331). -/
theorem hostRead_window {off len : Nat} (hr : hostReach s = true) (hb : off < 2 ^ 34) (h : plainRange off len) :
    hostRead s 2 off len = some (if paExists s off = false then .unsupported else if hostUp s off = false then .abort
      else .data ((List.range len).map (fun i => readByte s.mem (forwardedPa s (off + i))))) := by
  simp [hostRead, barPa_sram hb, granulesOf_inside h.1 h.2.1, hostBytes_plain h, hr, barHas]

/-- The word of a watermark is its value (R332). -/
theorem driverWord_wmk {w : Nat} (hu : s.fw.up = true) (hw : w < 256) : driverWord s (0x20000 + 8 * w) = tabGet 0 s.wmk w := by
  have hi : (0x20000 + 8 * w - 0x20000) / 8 = w := by omega
  simp (disch := omega) only [driverWord, hu, Bool.not_true, Bool.false_eq_true, if_false, if_neg, if_pos, hi]

theorem hostRead_wmk {w : Nat} (hr : hostReach s = true) (hu : s.fw.up = true) (hw : w < 256) (hk : hostWmk s w = true) :
    hostRead s 0 (0x20000 + 8 * w) 8 = some (.data (bytesOfNat 8 (tabGet 0 s.wmk w).toNat)) := by
  have hi : (0x20000 + 8 * w - 0x20000) / 8 = w := by omega
  have hl : ¬ ((0x20000 + 8 * w) % 8 ≠ 0 ∨ 8 ≠ 8 ∨ 0x400000 ≤ 0x20000 + 8 * w) := by omega
  rw [hostRead, if_neg (by decide), if_pos rfl, if_neg (by simp [hr]), if_neg hl, hi, hk, driverWord_wmk hu hw]
  simp

/-! ## The driver area -/

theorem exec_driverAreaWrite_quiet (h : hostQuiet s) (reg v : Word) :
    exec (.driverAreaWrite reg v) s = .next (driverPerform (hostFlits s 1) reg.toNat v) := by
  rw [exec_driverAreaWrite, driverArrives_quiet h]

section
variable {off : Nat} (h8 : off % 8 = 0) (v : Word)
include h8

/-- The words of the context table, the queue map and the route table hold what is written (R332). -/
theorem driverPerform_table (h : 0x10000 ≤ off ∧ off < 0x10840 ∨ 0x11000 ≤ off ∧ off < 0x13000) :
    driverPerform s off v = setDrv s off v := by
  simp (disch := omega) only [driverPerform, if_neg, if_pos]

/-- The parameters of INVAL hold what is written while no command runs (R334). -/
theorem driverPerform_inval (h : 0x4008 ≤ off) (h' : off < 0x4020) :
    driverPerform s off v = if s.inval.isSome then s else setDrv s off v := by
  simp (disch := omega) only [driverPerform, if_neg, if_pos]
  cases s.inval <;> rfl

/-- The parameters of MIGRATE hold what is written while no command runs (R334). -/
theorem driverPerform_migrate (h : 0x5008 ≤ off) (h' : off < 0x5020) :
    driverPerform s off v = if s.migrate.isSome then s else setDrv s off v := by
  simp (disch := omega) only [driverPerform, if_neg, if_pos]
  cases s.migrate <;> rfl

end

/-- CXLWIN, the base of BAR4, holds what is written as a multiple of 64 GiB (R332). -/
theorem driverPerform_cxlWindow {off : Nat} (v : Word) (h : off = 0x6000) :
    driverPerform s off v = setDrv s off (v &&& ~~~0xFFFFFFFFF#64) := by subst h; rfl

/-! ## Ports -/

theorem port_without_fault {p : Port} (h : p.fault = false) : { p with fault := false } = p := by
  cases p; cases h; rfl

/-- PORTCTL enables a long-haul port: its word is 1 and its fault is gone, and nothing else changes (R330; log 53). -/
theorem writePortctl_enable {port : Nat} (h : 25 ≤ port) (h' : port < 29) :
    drv (writePortctl s port true) (0x14000 + 1024 * (port - 25)) = 1 ∧
    (∀ j, tabGet {} (writePortctl s port true).ports j =
      if j = port then { tabGet {} s.ports port with fault := false } else tabGet {} s.ports j) ∧
    writePortctl s port true = { s with driver := (writePortctl s port true).driver, ports := (writePortctl s port true).ports } := by
  have hw : writePortctl s port true = (if (tabGet {} s.ports port).fault = true then
      { setDrv s (0x14000 + 1024 * (port - 25)) 1 with
        ports := tabPut s.ports port { tabGet {} s.ports port with fault := false } }
      else setDrv s (0x14000 + 1024 * (port - 25)) 1) := if_neg (by omega)
  rw [hw]
  split
  · exact ⟨by simp [drv], fun j => tabGet_tabPut _ _ _ _ _, rfl⟩
  · next hf =>
    rw [Bool.not_eq_true] at hf
    refine ⟨by simp, fun j => ?_, rfl⟩
    rw [setDrv_ports, port_without_fault hf]
    split
    · next hj => rw [hj]
    · rfl

/-- An armed injector ignores a write; any other takes the fields it has (R342). -/
theorem writeInj_armed {port : Nat} (v : Word) (h : (tabGet {} s.ports port).inj.getLsbD 63 = true) :
    writeInj s port v = s := by
  rw [writeInj]
  exact if_pos (by rw [h]; rfl)

theorem writeInj_free {port : Nat} (v : Word) (hp : port < 29) (h : (tabGet {} s.ports port).inj.getLsbD 63 = false) :
    writeInj s port v =
      { s with ports := tabPut s.ports port { tabGet {} s.ports port with inj := v &&& 0x800000000007FFFF } } := by
  rw [writeInj]
  exact if_neg (by rw [h, decide_eq_false (by omega)]; decide)


/-! ## What each access comes to -/

/-- A posted write of the configuration space acts at once; any other joins the received ones, and is lost while the host port is
fenced (R13, R239; log 68). -/
theorem exec_hostPostedWrite_config (s : State) (off : Nat) (l : List Byte) (r : Bool) :
    exec (.hostPostedWrite 6 off l r) s = .next (dvsecWrite s off (natOfBytes l)) := rfl

theorem exec_hostPostedWrite_fenced {bar : Nat} (h : hostReach s = false) (hb : bar ≠ 6) (off : Nat) (l : List Byte) (r : Bool) :
    exec (.hostPostedWrite bar off l r) s = .next s := by
  rw [exec_hostPostedWrite, execHostPostedWrite, if_neg hb, if_pos (by rw [h]; rfl)]

theorem exec_hostPostedWrite_received {off : Nat} (h : hostReach s = true) (hb : off < 2 ^ 34) (l : List Byte) (r : Bool) :
    exec (.hostPostedWrite 2 off l r) s = .next (receiveHost (hostFlits s 1) (.write 2 off l r)) := by
  rw [exec_hostPostedWrite, execHostPostedWrite, if_neg (by decide), if_neg (by simp [h]), if_neg (by decide), barPa_sram hb]
  rfl

section
variable {before after : List HostReq} {gone : List Nat} {uid off : Nat} {l : List Byte} {r : Bool}
  (hp : s.posted = before ++ ⟨uid, .write 2 off l r, gone⟩ :: after) (hb : ∀ y ∈ before, y.uid ≠ uid)
  (hi : ∀ q ∈ s.inflight, q.uid ≠ uid)
include hp hb hi

/-- A received write that order, a checkpoint or a stopped router holds stays where it is. -/
theorem sliceRequest_held (h : hostHeld s before (.write 2 off l r) = true) : exec (.sliceRequest uid) s = .next s := by
  rw [exec_sliceRequest_posted hi, performPosted_eq hp hb, if_pos (hostOpHeld_of_hostHeld h)]

/-- A received write that nothing holds performs at its home, and is no longer among those received. -/
theorem sliceRequest_stores (h : hostHeld s before (.write 2 off l r) = false) (hr : plainRange off l.length)
    (ho : off < Config.sramEnd) (hu : hostUp s off = true) : exec (.sliceRequest uid) s = .next (
      let s1 := { s with posted := s.posted.filter (fun y => y.uid ≠ uid) }
      if tileOfSlice (homeOf off) ∈ gone then s1 else countPa (performWrite s1 (forwardedPa s off) l) off) := by
  have h34 : off < 2 ^ 34 := ho.trans (by decide)
  rw [exec_sliceRequest_posted hi, performPosted_eq hp hb, if_neg (by rw [hostOpHeld_plain _ _ h34 hr, h]; decide), hostPerform,
    if_neg (by decide), barPa_sram h34]
  exact congrArg _ (hostStore_plain gone hr ho ((hostUp_congr rfl rfl rfl off).trans hu))

/-- Its bytes are then in memory and nothing else of memory has changed, unless its tile has been fenced since (R223, R225, R313). -/
theorem sliceRequest_effect (h : hostHeld s before (.write 2 off l r) = false) (hr : plainRange off l.length)
    (ho : off < Config.sramEnd) (hu : hostUp s off = true) :
    ∃ s', exec (.sliceRequest uid) s = .next s' ∧ s'.threads = s.threads ∧ (∀ x, x ∈ s'.posted ↔ x ∈ s.posted ∧ x.uid ≠ uid) ∧
      (tileOfSlice (homeOf off) ∈ gone → s'.mem = s.mem) ∧
      (¬ tileOfSlice (homeOf off) ∈ gone →
        (∀ a, readByte s'.mem a = if forwardedPa s off ≤ a ∧ a < forwardedPa s off + l.length
          then l.getD (a - forwardedPa s off) 0 else readByte s.mem a) ∧
        ∀ g, g ∈ s'.poison ↔ g ∈ s.poison ∧ ¬ (forwardedPa s off ≤ 32 * g ∧ 32 * g + 32 ≤ forwardedPa s off + l.length)) := by
  refine ⟨_, sliceRequest_stores hp hb hi h hr ho hu, ?_⟩
  dsimp only
  by_cases hg : tileOfSlice (homeOf off) ∈ gone
  · rw [if_pos hg]
    exact ⟨rfl, fun x => by simp, fun _ => rfl, fun hn => absurd hg hn⟩
  · rw [if_neg hg]
    refine ⟨by simp, fun x => by simp, fun hg' => absurd hg' hg, fun _ => ⟨fun a => ?_, fun g => ?_⟩⟩
    · rw [countPa_mem, performWrite_mem, readByte_writeBytes]
    · rw [countPa_poison, mem_performWrite_poison]

end

/-- A read behind a write without Relaxed Ordering waits among the received accesses (R239). -/
theorem exec_hostNonpostedRead_waits {bar : Nat} (h : hostReach s = true) (hb : bar ≠ 6)
    (hx : ∃ x ∈ s.posted, isHostWrite x.op = true ∧ isRelaxed x.op = false) (off len : Nat) :
    exec (.hostNonpostedRead bar off len) s = .next (receiveHost (hostFlits s 1) (.read bar off len)) := by
  obtain ⟨x, hx, hw, hr⟩ := hx
  have hh : hostHeld s s.posted (.read bar off len) = true :=
    (hostHeld_iff _ _).mpr (.inl ⟨x, hx, by rw [hostPrecedes, hw, hr]; rfl, fun _ h => absurd h Bool.false_ne_true⟩)
  rw [exec_hostNonpostedRead, execHostNonpostedRead, if_pos (by simp [hb, h, hh])]

/-- FWSTAT answers always: STATE, ERR and whether the host port is down (R13, R350). -/
theorem readAnswers_fwstat (s : State) : ReadAnswers s 6 0x10 4
    (.data (bytesOfNat 4 (s.fw.state % 16 + 256 * (s.fw.err % 256) + 65536 * (!hostReach s).toNat))) := by
  refine readAnswers_of (.inl rfl) ?_
  rw [hostRead, if_pos rfl]
  show some (HostDone.data (bytesOfNat 4 (fwstat (hostFlits s 1)))) = _
  rw [fwstat, hostFlits_fw, hostReach_congr (hostFlits_fence s 1)]

/-- A read of such a range of BAR2 at a quiet host port. -/
theorem readAnswers_window {off len : Nat} {r : HostDone} (hq : hostQuiet s) (hb : off < 2 ^ 34) (h : plainRange off len)
    (hr : (if paExists s off = false then .unsupported else if hostUp s off = false then .abort
      else .data ((List.range len).map (fun i => readByte s.mem (forwardedPa s (off + i))))) = r) : ReadAnswers s 2 off len r := by
  refine readAnswers_of (.inr (hostHeld_quiet hq rfl)) ?_
  have hp : paExists (hostFlits s 1) off = paExists s off := by simp [paExists]
  rw [hostRead_window ((hostReach_congr (hostFlits_fence s 1)).trans hq.1) hb h, ← hr, hp,
    hostUp_congr (hostFlits_fence s 1) (hostFlits_ports s 1) (hostFlits_migration s 1), hostFlits_mem]
  simp only [forwardedPa_congr (hostFlits_migration s 1)]

/-- A read of a watermark at a quiet host port. -/
theorem readAnswers_wmk {w : Nat} (hq : hostQuiet s) (hu : s.fw.up = true) (hw : w < 256) (hk : hostWmk s w = true) :
    ReadAnswers s 0 (0x20000 + 8 * w) 8 (.data (bytesOfNat 8 (tabGet 0 s.wmk w).toNat)) := by
  refine readAnswers_of (.inr (hostHeld_quiet hq rfl)) ?_
  have hf := hostFlits_fence s 1
  rw [hostRead_wmk ((hostReach_congr hf).trans hq.1) (by rw [hostFlits_fw, hu]) hw ((hostWmk_congr hf w).trans hk), hostFlits_wmk]

theorem paExists_sram {a : Nat} (h : a < Config.sramEnd) : paExists s a = true := by simp [paExists, h]
/-- Between slice memory and CXL memory no address exists (R220). -/
theorem paExists_gap {a : Nat} (h : Config.sramEnd ≤ a) (h' : a < 2 ^ 34) : paExists s a = false := by
  have hc : ¬ Config.cxlBase ≤ a := by unfold Config.cxlBase; omega
  simp [paExists, hc, h]

/-- PORTCTL at a quiet host port. -/
theorem exec_portctlEnable_quiet (h : hostQuiet s) (port : Nat) (e : Bool) :
    exec (.portctlEnable port e) s = .next (writePortctl (hostFlits s 1) port e) := by
  rw [exec_portctlEnable, driverArrives_quiet h]
/-- An injector's word at a quiet host port. -/
theorem exec_injWrite_quiet (h : hostQuiet s) (port : Nat) (v : Word) :
    exec (.injWrite port v) s = .next (writeInj (hostFlits s 1) port v) := by
  rw [exec_injWrite, driverArrives_quiet h]

/-- Settles O49: a posted write is received and performs through `hostStore`, a read answers through `hostRead`, and what arrives in
the driver area of a quiet host port acts at once. -/
theorem hostAccessesReachMemory : Obligations.HostAccessesReachMemory := by
  unfold Obligations.HostAccessesReachMemory
  intro s bar off len uid l relaxed reg value w port before after gone at' reads o op plain
  have h34 : off < Config.sramEnd → off < 2 ^ 34 := fun h => h.trans (by decide)
  refine ⟨?fenced, exec_hostPostedWrite_config s off l relaxed, readAnswers_fwstat s, ?received, ?performs, ?waits, ?reads, ?watermark,
    ?driverArea, ?portctl, ?injector⟩
  case fenced =>
    intro h
    refine ⟨fun hb => exec_hostPostedWrite_fenced h hb off l relaxed, ?_, ?_, ?_⟩
    · rw [exec_driverAreaWrite, driverArrives_fenced h]
    · rw [exec_injWrite, driverArrives_fenced h]
    · rw [exec_portctlEnable, driverArrives_fenced h]
  case received => exact fun h hb => exec_hostPostedWrite_received h hb l relaxed
  case performs =>
    intro hp hb hi
    refine ⟨fun h => ?_, fun h => ?_, fun hc hpre hst hr ho hu => ?_⟩
    · refine sliceRequest_held hp hb hi ((hostHeld_iff _ _).mpr ?_)
      obtain hc | ⟨x, hx, hpre⟩ := h
      · exact .inr (.inl ⟨rfl, hc⟩)
      · exact .inl ⟨x, hx, hpre, fun _ hw => absurd hw Bool.false_ne_true⟩
    · exact sliceRequest_held hp hb hi ((hostHeld_iff _ _).mpr (.inr (.inr h)))
    · refine sliceRequest_effect hp hb hi ?_ hr ho hu
      rw [Bool.eq_false_iff, Ne, hostHeld_iff]
      rintro (⟨x, hx, hx', -⟩ | ⟨-, hc'⟩ | hs)
      · exact Bool.false_ne_true ((hpre x hx).symm.trans hx')
      · exact hc hc'
      · exact Bool.false_ne_true (hst.symm.trans hs)
  case waits => exact fun h hb hx => exec_hostNonpostedRead_waits h hb hx off len
  case reads =>
    intro hq hr
    refine ⟨fun ho hu => ?_, fun ho hu => ?_, fun ho hb => ?_⟩
    · exact readAnswers_window hq (h34 ho) hr (by simp [paExists_sram ho, hu])
    · exact readAnswers_window hq (h34 ho) hr (by simp [paExists_sram ho, hu])
    · exact readAnswers_window hq hb hr (by simp [paExists_gap ho hb])
  case watermark => exact fun hq hu hw hk => readAnswers_wmk hq hu hw hk
  case driverArea =>
    intro hq h8
    rw [exec_driverAreaWrite_quiet hq]
    refine ⟨fun h => ?_, fun h => ?_, fun h h' => ?_, fun h h' => ?_⟩
    · rw [driverPerform_cxlWindow value h]
    · rw [driverPerform_table h8 value h]
    · rw [driverPerform_inval h8 value h h', hostFlits_inval]
    · rw [driverPerform_migrate h8 value h h', hostFlits_migrate]
  case portctl =>
    intro hq h h'
    refine ⟨_, exec_portctlEnable_quiet hq port true, ?_⟩
    simpa using writePortctl_enable (s := hostFlits s 1) h h'
  case injector =>
    intro hq hport
    refine ⟨fun ha => ?_, fun ha => ⟨_, exec_injWrite_quiet hq port value, ?_⟩⟩
    · rw [exec_injWrite_quiet hq, writeInj_armed value (by rw [hostFlits_ports, ha])]
    · rw [writeInj_free value hport (by rw [hostFlits_ports, ha])]
      exact ⟨fun j => by rw [tabGet_tabPut, hostFlits_ports], rfl⟩

end Sys2Proof.Machine
end

section
/-! PROOFS. The laws of the reuse bookkeeping (R294 to R302): it changes the reuse state of clusters, event counters and the keys that
queued entries have looked up, and nothing else. -/

namespace Sys2Proof.Machine

variable {s s' s'' : State}

/-! ## Keys of queued entries -/

theorem unkeyed_congr {t u : Thread} (h : unkeyed t = unkeyed u) : t = { u with vq := t.vq } :=
  congrArg (fun a : Thread => { a with vq := t.vq }) h

/-- An entry without the key that it has looked up. -/
def unkey (e : Entry) : Entry := { e with key := none }

@[simp] theorem unkeyed_vq (t : Thread) : (unkeyed t).vq = t.vq.map unkey := rfl

/-- Two threads that differ at most in the keys of their queued entries. -/
theorem unkeyed_eq_iff {t u : Thread} :
    unkeyed t = unkeyed u ↔ t = { u with vq := t.vq } ∧ t.vq.map unkey = u.vq.map unkey := by
  constructor
  · intro h
    exact ⟨unkeyed_congr h, congrArg Thread.vq h⟩
  · rintro ⟨h, hq⟩
    rw [h]
    show { u with vq := t.vq.map unkey } = { u with vq := u.vq.map unkey }
    rw [hq]

/-! ## What the bookkeeping changes -/

/-- `s'` is `s` but for the reuse state of clusters, event counters and keys that queued entries have looked up. -/
structure RsOnly (s s' : State) : Prop where
  rest : s' = { s with threads := s'.threads, clusters := s'.clusters, counters := s'.counters }
  threads : ∀ j, (threadAt s' j).map unkeyed = (threadAt s j).map unkeyed
  clusters : ∀ c, clusterOf s' c = { clusterOf s c with rs := (clusterOf s' c).rs }

namespace RsOnly

theorem refl (s : State) : RsOnly s s := ⟨rfl, fun _ => rfl, fun _ => rfl⟩

theorem trans (h : RsOnly s s') (h' : RsOnly s' s'') : RsOnly s s'' where
  rest := by rw [h'.rest, h.rest]
  threads := fun j => (h'.threads j).trans (h.threads j)
  clusters := fun c => by rw [h'.clusters c, h.clusters c]

theorem foldl {α : Type} {f : State → α → State} (hf : ∀ s a, RsOnly s (f s a)) (l : List α) (s : State) :
    RsOnly s (l.foldl f s) := by
  induction l generalizing s with
  | nil => exact refl s
  | cons a l ih => exact (hf s a).trans (ih (f s a))

theorem mem (h : RsOnly s s') : s'.mem = s.mem := by rw [h.rest]
theorem inflight (h : RsOnly s s') : s'.inflight = s.inflight := by rw [h.rest]

/-- A thread stands where it stood, with its queue up to keys. -/
theorem threadAt (h : RsOnly s s') {j : Nat} {t : Thread} (ht : threadAt s j = some t) :
    ∃ u, Machine.threadAt s' j = some u ∧ unkeyed u = unkeyed t := by
  have hj := h.threads j
  rw [ht, Option.map_some, Option.map_eq_some_iff] at hj
  exact hj

theorem threadAt_none (h : RsOnly s s') {j : Nat} (ht : Machine.threadAt s j = none) : Machine.threadAt s' j = none := by
  simpa [ht] using h.threads j

end RsOnly

theorem rsOnly_bump (s : State) (p i n : Nat) : RsOnly s (bump s p i n) where
  rest := by rw [bump_frame]
  threads := fun j => by simp [threadAt]
  clusters := fun c => by simp [clusterOf]

theorem rsOnly_setRs (s : State) (cl : Nat) (rs : Resteep) : RsOnly s (setCluster s cl { clusterOf s cl with rs := rs }) where
  rest := rfl
  threads := fun _ => rfl
  clusters := fun c => by
    by_cases h : c = cl
    · rw [h, clusterOf_setCluster_self]
    · rw [clusterOf_setCluster_ne s _ h]

/-- A thread set with other keys at most. -/
theorem rsOnly_setThread {tid : Nat} {t u : Thread} (ht : threadAt s tid = some t) (hu : unkeyed u = unkeyed t) :
    RsOnly s (setThread s tid u) where
  rest := rfl
  threads := fun j => by
    by_cases h : j = tid
    · rw [h, threadAt_setThread_self, ht, Option.map_some, Option.map_some, hu]
    · rw [threadAt_setThread_ne s u h]
  clusters := fun _ => rfl

/-- Threads of a cluster stand in its slots. -/
theorem mem_threadsOf {cl : Nat} {x : Nat × Thread} (h : x ∈ threadsOf s cl) : threadAt s x.1 = some x.2 ∧ x.1 / 4 = cl := by
  simp only [threadsOf, List.mem_filterMap, Option.map_eq_some_iff] at h
  obtain ⟨k, hk, t, ht, rfl⟩ := h
  refine ⟨ht, ?_⟩
  simp at hk
  dsimp only
  omega

theorem threadsOf_nodup (s : State) (cl : Nat) : ((threadsOf s cl).map (fun x => x.1)).Nodup := by
  have h : List.Sublist ((threadsOf s cl).map (fun x => x.1)) ([0, 1, 2, 3].map (fun k => 4 * cl + k)) := by
    rw [threadsOf, List.map_filterMap]
    generalize [0, 1, 2, 3] = l
    induction l with
    | nil => exact List.Sublist.slnil
    | cons k l ih =>
      rw [List.filterMap_cons, List.map_cons]
      cases threadAt s (4 * cl + k) with
      | none => exact ih.cons _
      | some t => exact ih.cons_cons _
  exact h.nodup (by simp)

/-- The keys that a reuse table forgets in the queue of a thread. -/
def forgetKeys (bad : RsKey → Bool) (t : Thread) : Thread :=
  { t with vq := t.vq.map (fun e => if (e.key.map bad).getD false then { e with key := none } else e) }

theorem unkeyed_forgetKeys (bad : RsKey → Bool) (t : Thread) : unkeyed (forgetKeys bad t) = unkeyed t := by
  unfold forgetKeys
  rw [unkeyed_eq_iff]
  refine ⟨rfl, ?_⟩
  rw [List.map_map]
  refine List.map_congr_left fun e _ => ?_
  dsimp only [Function.comp]
  split <;> rfl

/-- Threads set one by one at different numbers. -/
theorem threadAt_setThreads (f : Thread → Thread) (l : List (Nat × Thread)) (hl : (l.map (fun x => x.1)).Nodup) (s : State) (j : Nat) :
    threadAt (l.foldl (fun s x => setThread s x.1 (f x.2)) s) j =
      ((l.find? (fun x => x.1 = j)).map (fun x => f x.2)).or (threadAt s j) := by
  induction l generalizing s with
  | nil => rfl
  | cons x l ih =>
    rw [List.map_cons, List.nodup_cons] at hl
    rw [List.foldl_cons, ih hl.2, List.find?_cons]
    by_cases h : x.1 = j
    · have hn : l.find? (fun y => y.1 = j) = none := by
        rw [List.find?_eq_none]
        intro y hy hj
        exact hl.1 (List.mem_map.mpr ⟨y, hy, (of_decide_eq_true hj).trans h.symm⟩)
      simp [h, hn, threadAt_setThread_self]
    · simp [h, threadAt_setThread_ne s (f x.2) (Ne.symm h)]

theorem dropKeys_eq (s : State) (cl : Nat) (bad : RsKey → Bool) :
    dropKeys s cl bad = (threadsOf s cl).foldl (fun s x => setThread s x.1 (forgetKeys bad x.2)) s := rfl

theorem rsOnly_dropKeys (s : State) (cl : Nat) (bad : RsKey → Bool) : RsOnly s (dropKeys s cl bad) := by
  rw [dropKeys_eq]
  have hf (l : List (Nat × Thread)) (s : State) : ∃ ts, l.foldl (fun s x => setThread s x.1 (forgetKeys bad x.2)) s = { s with threads := ts } := by
    induction l generalizing s with
    | nil => exact ⟨_, rfl⟩
    | cons x l ih => exact ih (setThread s x.1 (forgetKeys bad x.2))
  have ht (j : Nat) := threadAt_setThreads (forgetKeys bad) _ (threadsOf_nodup s cl) s j
  obtain ⟨ts, hts⟩ := hf (threadsOf s cl) s
  refine ⟨by rw [hts], fun j => ?_, fun c => by rw [hts]; rfl⟩
  rw [ht]
  cases hx : (threadsOf s cl).find? (fun x => x.1 = j) with
  | none => rfl
  | some x =>
    have hj : x.1 = j := by simpa using List.find?_some hx
    rw [← hj, (mem_threadsOf (List.mem_of_find?_eq_some hx)).1]
    simp [unkeyed_forgetKeys]

/-- Keys are forgotten in the cluster's own slots alone. -/
theorem dropKeys_others {cl j : Nat} (bad : RsKey → Bool) (h : j / 4 ≠ cl) : threadAt (dropKeys s cl bad) j = threadAt s j := by
  rw [dropKeys_eq, threadAt_setThreads _ _ (threadsOf_nodup s cl)]
  have hn : (threadsOf s cl).find? (fun x => x.1 = j) = none := by
    rw [List.find?_eq_none]
    intro x hx hj
    exact h ((of_decide_eq_true hj) ▸ (mem_threadsOf hx).2)
  rw [hn]
  rfl

/-! ## The operations -/

theorem rsOnly_rsInvalidate (s : State) (cl : Nat) (bad : RsEntry → Bool) : RsOnly s (rsInvalidate s cl bad) := by
  unfold rsInvalidate
  dsimp only
  split
  · exact RsOnly.refl s
  · exact (rsOnly_setRs s cl _).trans (rsOnly_bump _ _ _ _)

@[simp] theorem rsInvalidate_threads (s : State) (cl : Nat) (bad : RsEntry → Bool) : (rsInvalidate s cl bad).threads = s.threads := by
  unfold rsInvalidate
  dsimp only
  split
  · rfl
  · rw [bump_threads]; rfl

theorem rsOnly_rsDropLoads (s : State) (cl slot : Nat) : RsOnly s (rsDropLoads s cl slot) := rsOnly_rsInvalidate s cl _
@[simp] theorem rsDropLoads_threads (s : State) (cl slot : Nat) : (rsDropLoads s cl slot).threads = s.threads := rsInvalidate_threads s cl _

theorem rsOnly_rsLeave (s : State) (cl p : Nat) : RsOnly s (rsLeave s cl p) :=
  (rsOnly_rsInvalidate s cl _).trans (rsOnly_dropKeys _ cl _)

theorem rsOnly_rsRelease (s : State) (cl p : Nat) : RsOnly s (rsRelease s cl p) := by
  unfold rsRelease
  split
  · exact RsOnly.refl s
  · exact (rsOnly_rsLeave s cl p).trans (rsOnly_setRs _ cl _)

/-- Names that lose the zero register's mapping keep the extent of their changes; a name mapped to the zero register forgets it
(R292, VEXT). -/
def clearExtents (ms : List (Nat × Nat)) (t : Thread) : Thread :=
  { t with vext := ((ms.filter (fun m => m.2 = 0)).map (fun m => m.1)).foldl tabErase t.vext }

/-- Mapping names is bookkeeping, but for what a name mapped to the zero register forgets. -/
theorem rsOnly_rsMapAll (s : State) (cl slot : Nat) (ms : List (Nat × Nat)) :
    RsOnly (modThread s (4 * cl + slot) (clearExtents ms)) (rsMapAll s cl slot ms) := by
  have hfold (s : State) (rs : Resteep) (l : List Nat) :
      RsOnly s (l.foldl (fun s p => rsRelease s cl p) (setCluster s cl { clusterOf s cl with rs := rs })) :=
    (rsOnly_setRs s cl rs).trans (RsOnly.foldl (fun s p => rsOnly_rsRelease s cl p) l _)
  unfold rsMapAll modThread
  dsimp only
  cases ht : threadAt s (4 * cl + slot) with
  | none => exact hfold s _ _
  | some t =>
    dsimp only
    split
    · next hz =>
      have hc : clearExtents ms t = t := by simp only [clearExtents, hz, List.foldl_nil]
      refine RsOnly.trans ?_ (hfold s _ _)
      rw [hc]
      refine ⟨rfl, fun j => ?_, fun _ => rfl⟩
      by_cases hj : j = 4 * cl + slot
      · rw [hj, threadAt_setThread_self, ht]
      · rw [threadAt_setThread_ne s t hj]
    · exact hfold (setThread s (4 * cl + slot) (clearExtents ms t)) _ _

theorem rsOnly_rsFresh (s : State) (cl slot v : Nat) : RsOnly s (rsFresh s cl slot v) := by
  unfold rsFresh
  dsimp only
  split
  · exact rsOnly_rsLeave s cl _
  · split
    · next q hq =>
      have hq0 : q ≠ 0 := by
        have := List.find?_some hq
        simp only [rsFree, Bool.and_eq_true, decide_eq_true_eq] at this
        exact this.1
      have hid : clearExtents [(v, q)] = id := by funext t; simp [clearExtents, hq0]
      have h := rsOnly_rsMapAll s cl slot [(v, q)]
      refine RsOnly.trans ?_ h
      rw [hid, modThread]
      split
      · exact RsOnly.refl s
      · next t ht => exact rsOnly_setThread ht rfl
    · exact RsOnly.refl s

theorem rsOnly_rsTake (s : State) (cl slot v : Nat) (rsctl : Word) : RsOnly s (rsTake s cl slot v rsctl) :=
  (rsOnly_rsFresh s cl slot v).trans (rsOnly_setRs _ cl _)

theorem rsOnly_takeDests (s : State) (tid : Nat) (e : Entry) : RsOnly s (takeDests s tid e) :=
  RsOnly.foldl (fun s v => rsOnly_rsTake s _ _ v _) _ s

/-- An insertion changes the reuse state of the cluster and counts, or does nothing. -/
theorem rsInsert_cases (s : State) (tid : Nat) (e : Entry) : rsInsert s tid e = s ∨
    ∃ rs, rsInsert s tid e = bump (setCluster s (tid / 4) { clusterOf s (tid / 4) with rs := rs }) (tid / 4) 9 1 := by
  have hif (b : Bool) (rs : Resteep) (s1 : State)
      (h : s1 = bump (setCluster s (tid / 4) { clusterOf s (tid / 4) with rs := rs }) (tid / 4) 9 1) :
      (if b then s else s1) = s ∨ ∃ rs, (if b then s else s1) =
        bump (setCluster s (tid / 4) { clusterOf s (tid / 4) with rs := rs }) (tid / 4) 9 1 := by
    cases b
    · exact .inr ⟨rs, h⟩
    · exact .inl rfl
  unfold rsInsert
  split
  · exact .inl rfl
  · exact hif _ _ _ rfl

theorem rsOnly_rsInsert (s : State) (tid : Nat) (e : Entry) : RsOnly s (rsInsert s tid e) := by
  obtain h | ⟨rs, h⟩ := rsInsert_cases s tid e
  · rw [h]; exact RsOnly.refl s
  · rw [h]; exact (rsOnly_setRs s _ rs).trans (rsOnly_bump _ _ _ _)

@[simp] theorem rsInsert_threads (s : State) (tid : Nat) (e : Entry) : (rsInsert s tid e).threads = s.threads := by
  obtain h | ⟨rs, h⟩ := rsInsert_cases s tid e <;> rw [h]
  rw [bump_threads]; rfl

theorem rsOnly_rsTagMask (s : State) (cl slot p : Nat) : RsOnly s (rsTagMask s cl slot p) := by
  unfold rsTagMask
  dsimp only
  split
  · exact (rsOnly_setRs s cl _).trans (rsOnly_dropKeys _ cl _)
  · exact rsOnly_setRs s cl _

theorem rsTagMask_others {cl j : Nat} (slot p : Nat) (h : j / 4 ≠ cl) : threadAt (rsTagMask s cl slot p) j = threadAt s j := by
  unfold rsTagMask
  dsimp only
  split
  · rw [dropKeys_others _ h]; rfl
  · rfl

end Sys2Proof.Machine
end

section
/-! PROOFS. Watermarks: publications, host writes and clears (R51, R312, R319 to R321). -/

namespace Sys2Proof.Machine

variable {s s' : State}

/-! ## The instructions as the model dispatches them -/

theorem exec_watermarkPublish (uid : Nat) (s : State) : exec (.watermarkPublish uid) s = execWatermarkPublish uid s := rfl
theorem exec_hostWatermarkWrite (n : BitVec 8) (v : Word) (s : State) : exec (.hostWatermarkWrite n v) s =
    .next (driverArrives s (0x20000 + 8 * n.toNat) v (fun s => hostPublish s n.toNat v)) := rfl
theorem exec_hostWatermarkClear (n : BitVec 8) (s : State) : exec (.hostWatermarkClear n) s =
    .next (driverArrives s (0x20800 + 8 * n.toNat) 0 (fun s => hostClear s n.toNat)) := rfl

/-! ## What a publication does -/

/-- Load entries of some threads leave the table: no thread changes. -/
theorem rsDropLoads_where (f : Nat × Thread → Bool) (l : List (Nat × Thread)) (s : State) :
    let s' := l.foldl (fun (s : State) (e : Nat × Thread) => if f e then rsDropLoads s (e.1 / 4) (e.1 % 4) else s) s
    s'.threads = s.threads ∧ RsOnly s s' := by
  induction l generalizing s with
  | nil => exact ⟨rfl, RsOnly.refl s⟩
  | cons e l ih =>
    rw [List.foldl_cons]
    split
    · obtain ⟨ht, hr⟩ := ih (rsDropLoads s (e.1 / 4) (e.1 % 4))
      exact ⟨ht.trans (rsDropLoads_threads _ _ _), (rsOnly_rsDropLoads s _ _).trans hr⟩
    · exact ih s

/-- A publication sets the watermark where the published value is greater, and changes nothing else but the reuse state of clusters
and counters. -/
theorem publish_only (s : State) (w : Nat) (v : Word) : (publish s w v).threads = s.threads ∧
    RsOnly { s with wmk := if v.toNat ≤ (tabGet 0 s.wmk w).toNat then s.wmk else tabSet 0 s.wmk w v } (publish s w v) := by
  unfold publish
  dsimp only
  split
  · exact ⟨rfl, RsOnly.refl s⟩
  · exact rsDropLoads_where (fun e => ungates w (tabGet 0 s.wmk w).toNat v.toNat e.2) s.threads { s with wmk := tabSet 0 s.wmk w v }

@[simp] theorem publish_threads (s : State) (w : Nat) (v : Word) : (publish s w v).threads = s.threads := (publish_only s w v).1
@[simp] theorem publish_mem (s : State) (w : Nat) (v : Word) : (publish s w v).mem = s.mem := (publish_only s w v).2.mem
@[simp] theorem publish_pubs (s : State) (w : Nat) (v : Word) : (publish s w v).pubs = s.pubs := by
  rw [(publish_only s w v).2.rest]

theorem publish_wmk (s : State) (w : Nat) (v : Word) :
    (publish s w v).wmk = if v.toNat ≤ (tabGet 0 s.wmk w).toNat then s.wmk else tabSet 0 s.wmk w v := by
  rw [(publish_only s w v).2.rest]

/-- A publication raises its watermark to the maximum (R320). -/
theorem publish_raises (s : State) (w : Nat) (v : Word) :
    (tabGet 0 (publish s w v).wmk w).toNat = max (tabGet 0 s.wmk w).toNat v.toNat := by
  rw [publish_wmk]
  split
  · next h => rw [max_eq_left h]
  · next h => rw [tabGet_tabSet_self, max_eq_right (by omega)]

theorem publish_others (s : State) {w j : Nat} (v : Word) (h : j ≠ w) :
    tabGet 0 (publish s w v).wmk j = tabGet 0 s.wmk j := by
  rw [publish_wmk]
  split
  · rfl
  · exact tabGet_tabSet_ne _ _ _ h

/-! ## The host's writes and clears -/

theorem wmkBound_congr (ht : s'.threads = s.threads) (hq : s'.queues = s.queues) (w : Nat) : wmkBound s' w = wmkBound s w := by
  simp only [wmkBound, ht, hq]

/-- What a host access to a watermark counts before it acts. -/
theorem hostWmkCounted_frame (s : State) (w : Nat) :
    countWmk (hostFlits s 1) w = { s with uid := s.uid + 1, counters := (countWmk (hostFlits s 1) w).counters } := by
  rw [countWmk, bump_frame, hostFlits_frame]

section
variable {w : Nat} (hw : hostWmk s w = true)
include hw

/-- A write of a watermark that gets to its home publishes there (R321). -/
theorem hostPublish_reached (v : Word) : hostPublish (hostFlits s 1) w v = publish (countWmk (hostFlits s 1) w) w v := by
  rw [hostPublish, hostWmk_congr (hostFlits_fence s 1), if_pos hw]

theorem hostClear_free (hb : wmkBound s w = false) : hostClear (hostFlits s 1) w =
    { countWmk (hostFlits s 1) w with wmk := tabSet 0 (countWmk (hostFlits s 1) w).wmk w 0 } := by
  have hf := hostWmkCounted_frame s w
  have hb' : wmkBound (countWmk (hostFlits s 1) w) w = false := (wmkBound_congr (by rw [hf]) (by rw [hf]) w).trans hb
  rw [hostClear, hostWmk_congr (hostFlits_fence s 1), hw]
  dsimp only
  rw [hb']
  rfl

/-- A clear is refused with an event while a launch is bound to the watermark (R321). -/
theorem hostClear_bound (hb : wmkBound s w = true) : hostClear (hostFlits s 1) w =
    postEvent (countWmk (hostFlits s 1) w) 1 (w % 160 / 40) (BitVec.ofNat 64 w) 3 := by
  have hf := hostWmkCounted_frame s w
  have hb' : wmkBound (countWmk (hostFlits s 1) w) w = true := (wmkBound_congr (by rw [hf]) (by rw [hf]) w).trans hb
  rw [hostClear, hostWmk_congr (hostFlits_fence s 1), hw]
  dsimp only
  rw [hb']
  rfl

end

theorem exec_hostWatermarkWrite_quiet (h : hostQuiet s) (n : BitVec 8) (v : Word) :
    exec (.hostWatermarkWrite n v) s = .next (hostPublish (hostFlits s 1) n.toNat v) := by
  rw [exec_hostWatermarkWrite, driverArrives_quiet h]
theorem exec_hostWatermarkClear_quiet (h : hostQuiet s) (n : BitVec 8) :
    exec (.hostWatermarkClear n) s = .next (hostClear (hostFlits s 1) n.toNat) := by
  rw [exec_hostWatermarkClear, driverArrives_quiet h]

/-! ## A publication of a thread at its home -/

theorem wmkFrom_congr (hf : s'.fence = s.fence) (tile : Option Nat) (w : Nat) : wmkFrom s' tile w = wmkFrom s tile w := by
  simp only [wmkFrom, wmkUp, inService_congr hf, wayTo, routeUp_congr hf]

section
variable {p : Pub} (hp : s.pubs.find? (fun x => x.uid = p.uid) = some p)
include hp

/-- A publication waits for its thread's earlier writes, and for ever where a router has dropped its packet (R307, R309, R320). -/
theorem watermarkPublish_held (h : releaseReady s p.owner p.uid = false ∨ stuckTo s (tileOfOwner s p.owner) (wmkTile p.wmk) = true ∨
    p.uid ∈ s.dropped) : exec (.watermarkPublish p.uid) s = .next s := by
  have hc : (!releaseReady s p.owner p.uid || stuckTo s (tileOfOwner s p.owner) (wmkTile p.wmk) || decide (p.uid ∈ s.dropped)) = true := by
    simpa only [Bool.or_eq_true, Bool.not_eq_true', decide_eq_true_eq, or_assoc] using h
  rw [exec_watermarkPublish, execWatermarkPublish, hp]
  dsimp only
  rw [if_pos hc]

/-- Otherwise it performs where it finds a way, and is over in any case (R312, R320). -/
theorem watermarkPublish_free (h : ¬ (releaseReady s p.owner p.uid = false ∨
    stuckTo s (tileOfOwner s p.owner) (wmkTile p.wmk) = true ∨ p.uid ∈ s.dropped)) :
    exec (.watermarkPublish p.uid) s = .next (
      let s1 := { s with pubs := s.pubs.filter (fun q => q.uid ≠ p.uid) }
      if wmkFrom s (tileOfOwner s p.owner) p.wmk then modCmd (publish s1 p.wmk p.value) p.uid (fun c => { c with joined := true })
      else modCmd s1 p.uid (fun c => { c with failed := 3 })) := by
  have hc : ¬ (!releaseReady s p.owner p.uid || stuckTo s (tileOfOwner s p.owner) (wmkTile p.wmk) || decide (p.uid ∈ s.dropped)) = true := by
    simpa only [Bool.or_eq_true, Bool.not_eq_true', decide_eq_true_eq, or_assoc] using h
  have hf : wmkFrom { s with pubs := s.pubs.filter (fun q => q.uid ≠ p.uid) } (tileOfOwner s p.owner) p.wmk =
      wmkFrom s (tileOfOwner s p.owner) p.wmk :=
    wmkFrom_congr rfl _ _
  rw [exec_watermarkPublish, execWatermarkPublish, hp]
  dsimp only
  rw [if_neg hc, hf]

end

/-- Settles O45: a host write and a thread's publication both come to `publish`, which raises one watermark; a clear is `hostClear`. -/
theorem publicationsRaiseAWatermark : Obligations.PublicationsRaiseAWatermark := by
  unfold Obligations.PublicationsRaiseAWatermark
  intro s n v p w rises
  have hf := hostWmkCounted_frame s w
  refine ⟨fun hq hw => ⟨?write, fun hb => ?clear, fun hb => ?refused⟩, ?own⟩
  case write =>
    refine ⟨_, exec_hostWatermarkWrite_quiet hq n v, ?_⟩
    rw [hostPublish_reached hw, publish_threads, publish_mem, publish_raises, hf]
    exact ⟨rfl, rfl, rfl, fun j hj => publish_others _ _ hj⟩
  case clear =>
    refine ⟨_, exec_hostWatermarkClear_quiet hq n, ?_⟩
    rw [hostClear_free hw hb, hf]
    exact ⟨tabGet_tabSet_self 0 s.wmk w 0, rfl, rfl, fun j hj => tabGet_tabSet_ne 0 s.wmk 0 hj⟩
  case refused => rw [exec_hostWatermarkClear_quiet hq, hostClear_bound hw hb]
  case own =>
    intro hp hpw tile held
    refine ⟨fun hh => watermarkPublish_held hp (by rw [hpw]; exact hh), fun hn => ?_⟩
    refine ⟨_, watermarkPublish_free hp (by rw [hpw]; exact hn), ?_⟩
    dsimp only
    rw [hpw]
    cases wmkFrom s (tileOfOwner s p.owner) w with
    | true =>
      rw [if_pos rfl]
      exact ⟨publish_pubs _ _ _, publish_mem _ _ _, fun _ => ⟨publish_raises _ _ _, fun j hj => publish_others _ _ hj⟩,
        fun h => absurd h (by decide)⟩
    | false =>
      rw [if_neg (by decide)]
      exact ⟨rfl, rfl, fun h => absurd h (by decide), fun _ => rfl⟩

end Sys2Proof.Machine
end

section
/-! PROOFS. The end of a thread (R46, R127, R272, R278, R299). -/

namespace Sys2Proof.Machine

variable {s s' s'' : State} {tid : Nat} {t : Thread}

theorem exec_sysTend (s : State) : exec .sysTend s = .next (threadEnd s s.cur) := rfl

/-! ## Tables and misses -/

/-- What a table finds stands in it. -/
theorem mem_of_tabFind {α : Type} {l : Tab α} {k : Nat} {v : α} (h : tabFind l k = some v) : (k, v) ∈ l := by
  induction l with
  | nil => cases h
  | cons e l ih =>
    obtain ⟨a, w⟩ := e
    rw [tabFind] at h
    split at h
    · next ha =>
      cases h
      rw [ha]
      exact List.mem_cons_self
    · exact List.mem_cons_of_mem _ (ih h)

/-- The misses of a cluster changed: every cluster keeps everything else. -/
theorem clusterOf_modMisses (s : State) (cl c : Nat) (f : List Miss → List Miss) :
    clusterOf (modMisses s cl f) c = { clusterOf s c with missed := (clusterOf (modMisses s cl f) c).missed } := by
  unfold modMisses
  split
  · rfl
  · by_cases h : c = cl
    · rw [h, clusterOf_setCluster_self]
    · rw [clusterOf_setCluster_ne s _ h]

/-! ## What an end leaves alone -/

/-- `s'` has the memory, the requests on their way, the retirement trackers and, up to keys of the reuse table (R299), the threads
but `tid` of `s`. -/
structure LeavesOthers (s s' : State) (tid : Nat) : Prop where
  threads : ∀ j, j ≠ tid → (threadAt s' j).map unkeyed = (threadAt s j).map unkeyed
  mem : s'.mem = s.mem
  inflight : s'.inflight = s.inflight
  trackers : ∀ c, (clusterOf s' c).tracker = (clusterOf s c).tracker

namespace LeavesOthers

theorem refl (s : State) (tid : Nat) : LeavesOthers s s tid := ⟨fun _ _ => rfl, rfl, rfl, fun _ => rfl⟩

theorem trans (h : LeavesOthers s s' tid) (h' : LeavesOthers s' s'' tid) : LeavesOthers s s'' tid where
  threads := fun j hj => (h'.threads j hj).trans (h.threads j hj)
  mem := h'.mem.trans h.mem
  inflight := h'.inflight.trans h.inflight
  trackers := fun c => (h'.trackers c).trans (h.trackers c)

theorem of_rsOnly (h : RsOnly s s') (tid : Nat) : LeavesOthers s s' tid where
  threads := fun j _ => h.threads j
  mem := h.mem
  inflight := h.inflight
  trackers := fun c => by rw [h.clusters c]

theorem setThread (s : State) (tid : Nat) (u : Thread) : LeavesOthers s (setThread s tid u) tid where
  threads := fun j hj => by rw [threadAt_setThread_ne s u hj]
  mem := rfl
  inflight := rfl
  trackers := fun _ => rfl

theorem setCluster (s : State) (cl tid : Nat) {c : Cluster} (hc : c.tracker = (clusterOf s cl).tracker) :
    LeavesOthers s (setCluster s cl c) tid where
  threads := fun _ _ => rfl
  mem := rfl
  inflight := rfl
  trackers := fun d => by
    by_cases h : d = cl
    · rw [h, clusterOf_setCluster_self, hc]
    · rw [clusterOf_setCluster_ne s _ h]

theorem postEvent (s : State) (ty d : Nat) (a b : Word) (tid : Nat) : LeavesOthers s (postEvent s ty d a b) tid where
  threads := fun j _ => by simp only [threadAt, postEvent_threads]
  mem := postEvent_mem s ty d a b
  inflight := by rw [postEvent_frame]
  trackers := fun c => by rw [postEvent_frame]; rfl

end LeavesOthers

/-! ## VREL of a thread without dirty elements -/

/-- Nothing waits to be written back where nothing is dirty (R182). -/
theorem cleanRegs_clean (ht : threadAt s tid = some t) (hd : ∀ h ∈ t.h, h.2.dirty = []) (seq : Nat) (l : List Nat) :
    cleanRegs s tid seq l = (s, true) := by
  have hreg (n : Nat) : cleanReg s tid n seq false = (s, true) := by
    rw [cleanReg, cleanSome, ht]
    dsimp only
    cases hn : tabFind t.h n with
    | none => rfl
    | some h =>
      have hh : h.dirty = [] := hd _ (mem_of_tabFind hn)
      simp [hh]
  induction l with
  | nil => rfl
  | cons n l ih => rw [cleanRegs, hreg n]; exact ih

/-- The event of lost write-backs touches nothing that an end leaves alone (R378). -/
theorem postLost_leaves (ht : threadAt s tid = some t) :
    LeavesOthers s (postLost s tid) tid ∧ ∃ v, threadAt (postLost s tid) tid = some { t with lost := v } := by
  unfold postLost
  rw [ht]
  dsimp only
  split
  · exact ⟨LeavesOthers.refl s tid, t.lost, ht⟩
  · refine ⟨(LeavesOthers.setThread s tid _).trans (LeavesOthers.postEvent _ _ _ _ _ tid), none, ?_⟩
    rw [threadAt, postEvent_threads]
    exact threadAt_setThread_self s tid _

/-- Names that leave their registers touch nothing of other threads (R299). -/
theorem rsForget_leaves (s : State) (tid : Nat) : LeavesOthers s (rsForget s (tid / 4) (tid % 4)) tid := by
  have hid : 4 * (tid / 4) + tid % 4 = tid := by omega
  refine LeavesOthers.trans ?_ (LeavesOthers.of_rsOnly (rsOnly_rsDropLoads _ _ _) tid)
  refine LeavesOthers.trans ?_ (LeavesOthers.of_rsOnly (rsOnly_rsMapAll s _ _ _) tid)
  rw [hid, modThread]
  split
  · exact LeavesOthers.refl s tid
  · exact LeavesOthers.setThread s tid _

/-- Units that return to their cluster neither (R197). -/
theorem freeUnits_leaves (s : State) (tid : Nat) (u : Thread) : LeavesOthers s (freeUnits s tid u) tid := by
  obtain ⟨c, hc, he⟩ : ∃ c, c.tracker = (clusterOf s (tid / 4)).tracker ∧
    freeUnits s tid u = rsForget (setCluster s (tid / 4) c) (tid / 4) (tid % 4) := ⟨_, rfl, rfl⟩
  rw [he]
  exact (LeavesOthers.setCluster s _ tid hc).trans (rsForget_leaves _ tid)

/-- What a thread keeps through the effect of VREL: what names it, and what it hands to the retirement tracker. -/
structure SameOps (t u : Thread) : Prop where
  uid : u.uid = t.uid
  launch : u.launch = t.launch
  ctx : u.ctx = t.ctx
  lq : u.lq = t.lq
  remote : u.remote = t.remote

/-- The effect of VREL on a thread without dirty elements (R45). -/
theorem vrelEffect_clean (ht : threadAt s tid = some t) (hd : ∀ h ∈ t.h, h.2.dirty = []) (seq : Nat) :
    ∃ s' u, vrelEffect s tid seq = (s', true) ∧ LeavesOthers s s' tid ∧ threadAt s' tid = some u ∧ SameOps t u := by
  obtain ⟨hp, v, hv⟩ := postLost_leaves ht
  have he : vrelEffect s tid seq = (setThread (freeUnits (postLost s tid) tid { t with lost := v }) tid
      { t with lost := v, v := [], vext := [], p := [], h := [], recomps := [], t := [], q := [], lgrp := none, vreleased := true },
      true) := by
    rw [vrelEffect, ht, Option.map_some, Option.getD_some, cleanRegs_clean ht hd]
    dsimp only
    rw [hv]
  exact ⟨_, _, he, (hp.trans (freeUnits_leaves _ tid _)).trans (LeavesOthers.setThread _ tid _), threadAt_setThread_self _ tid _,
    ⟨rfl, rfl, rfl, rfl, rfl⟩⟩

/-! ## The retirement tracker -/

/-- Barriers that a thread leaves are all that changes. -/
theorem leaveBarriers_frame (s : State) (t : Thread) (raw : List Byte) :
    leaveBarriers s t raw = { s with barriers := (leaveBarriers s t raw).barriers } := rfl

/-- A thread's scalar access that ends changes nothing but what its cluster has missed. -/
theorem endScalar_frame (s : State) (cl o : Nat) : endScalar s cl o = { s with clusters := (endScalar s cl o).clusters } := by
  rw [endScalar, endMiss, modMisses_frame, endMiss, modMisses_frame]

@[simp] theorem endScalar_tracker (s : State) (cl o c : Nat) :
    (clusterOf (endScalar s cl o) c).tracker = (clusterOf s c).tracker := by
  rw [endScalar, endMiss, clusterOf_modMisses, endMiss, clusterOf_modMisses]

/-- The entry of the tracker that a thread leaves behind (R46). -/
def retiredOf (t : Thread) : Retired :=
  { uid := t.uid, launch := t.launch, ctx := t.ctx, tag := tagOf t.launch t.flat, lq := t.lq, remote := t.remote }

/-- A thread that retires leaves its slot, and its entry joins the tracker. -/
theorem retire_eq (s : State) (tid : Nat) (t : Thread) : ∃ b, retire s tid t = dropThread (endScalar { setCluster s (tid / 4)
    { clusterOf s (tid / 4) with tracker := (clusterOf s (tid / 4)).tracker ++ [retiredOf t] } with barriers := b } (tid / 4) t.uid) tid := by
  unfold retire
  dsimp only
  split
  · exact ⟨_, congrArg (fun x => dropThread (endScalar x (tid / 4) t.uid) tid) (leaveBarriers_frame _ t _)⟩
  · exact ⟨_, rfl⟩

theorem retire_leaves (s : State) (tid : Nat) (t : Thread) :
    (clusterOf (retire s tid t) (tid / 4)).tracker = (clusterOf s (tid / 4)).tracker ++ [retiredOf t] ∧
      threadAt (retire s tid t) tid = none ∧ (retire s tid t).mem = s.mem ∧ (retire s tid t).inflight = s.inflight ∧
      ∀ j, j ≠ tid → threadAt (retire s tid t) j = threadAt s j := by
  obtain ⟨b, hb⟩ := retire_eq s tid t
  rw [hb]
  refine ⟨?_, threadAt_dropThread_self _ tid, ?_, ?_, fun j hj => ?_⟩
  · refine (endScalar_tracker _ (tid / 4) t.uid (tid / 4)).trans ?_
    exact congrArg Cluster.tracker (clusterOf_setCluster_self s _ _)
  · rw [dropThread_mem, endScalar_frame]; rfl
  · rw [dropThread_inflight, endScalar_frame]; rfl
  · rw [threadAt_dropThread_ne _ hj, endScalar_frame]; rfl

/-! ## sys.tend -/

section
variable (ht : threadAt s tid = some t)
include ht

/-- A thread with an entry in its queue or a release on its way waits (R46). -/
theorem threadEnd_waits (h : t.vq ≠ [] ∨ ∃ r ∈ s.releases, r.owner = t.uid) : threadEnd s tid = s := by
  rw [threadEnd, ht]
  exact if_pos (by simpa using h)

variable (hq : t.vq = []) (hr : ∀ r ∈ s.releases, r.owner ≠ t.uid)
include hq hr

theorem threadEnd_latched (hl : t.latches ≠ []) : threadEnd s tid = scalarTrap s tid causeLatchHeld 0 t.pc := by
  rw [threadEnd, ht]
  dsimp only
  rw [if_neg (by simpa [hq] using hr), if_pos hl]

variable (hl : t.latches = [])
include hl

/-- Before VREL the thread waits for its tile queue (R278). -/
theorem threadEnd_tiles (hv : t.vreleased = false) (htq : t.tq ≠ []) : threadEnd s tid = s := by
  rw [threadEnd, ht]
  dsimp only
  rw [if_neg (by simpa [hq] using hr), if_neg (by simp [hl]), if_pos (by simp [hv, htq])]

/-- What is left of sys.tend once nothing waits: VREL, and then a place in the tracker. -/
theorem threadEnd_go (h : t.vreleased = true ∨ t.tq = []) {s1 : State} {u : Thread}
    (hv : (if t.vreleased then (setThread s tid { t with held := [] }, true)
      else vrelEffect (setThread s tid { t with held := [] }) tid s.uid) = (s1, true)) (hu : threadAt s1 tid = some u) :
    threadEnd s tid = if 8 ≤ (clusterOf s1 (tid / 4)).tracker.length then s1 else retire s1 tid u := by
  have hw : ¬ (!t.vreleased && decide (t.tq ≠ [])) = true := by
    obtain h | h := h <;> simp [h]
  rw [threadEnd, ht]
  dsimp only
  rw [if_neg (by simpa [hq] using hr), if_neg (by simp [hl]), if_neg hw, setThread_uid, hv]
  dsimp only
  rw [hu]
  rfl

end

/-- Settles O16: the cases of `threadEnd`; with nothing dirty the effect of VREL leaves other threads alone, and the tracker takes what
the thread leaves behind. -/
theorem threadEndRetires : Obligations.ThreadEndRetires := by
  unfold Obligations.ThreadEndRetires
  intro s t ht free tracked
  rw [exec_sysTend]
  refine ⟨?retires, fun h => ?waits, fun ⟨hq, hr, hl⟩ hv htq => ?tiles, fun ⟨hq, hr, hl⟩ hv hfull => ?full, fun hq hr hl hf => ?latched⟩
  case waits => rw [threadEnd_waits ht h]
  case tiles => rw [threadEnd_tiles ht hq hr hl hv htq]
  case full =>
    rw [threadEnd_go ht hq hr hl (.inl hv) (by rw [if_pos hv]) (threadAt_setThread_self _ _ _)]
    exact congrArg _ (if_pos hfull)
  case latched => exact traps_of ht hf (by rw [exec_sysTend, threadEnd_latched ht hq hr hl]; rfl)
  case retires =>
    rintro ⟨hq, hr, hl⟩ htq hd hroom
    obtain ⟨s1, u, hv, hleaves, hu, hops⟩ : ∃ s1 u, (if t.vreleased then (setThread s s.cur { t with held := [] }, true)
        else vrelEffect (setThread s s.cur { t with held := [] }) s.cur s.uid) = (s1, true) ∧ LeavesOthers s s1 s.cur ∧
        threadAt s1 s.cur = some u ∧ SameOps t u := by
      have h0 := LeavesOthers.setThread s s.cur { t with held := [] }
      split
      · exact ⟨_, _, rfl, h0, threadAt_setThread_self _ _ _, ⟨rfl, rfl, rfl, rfl, rfl⟩⟩
      · obtain ⟨s1, u, hv, hle, hu, hops⟩ := vrelEffect_clean (threadAt_setThread_self s s.cur { t with held := [] }) hd s.uid
        exact ⟨s1, u, hv, h0.trans hle, hu, ⟨hops.uid, hops.launch, hops.ctx, hops.lq, hops.remote⟩⟩
    obtain ⟨htr, hgone, hmem, hin, hothers⟩ := retire_leaves s1 s.cur u
    have hlen : ¬ 8 ≤ (clusterOf s1 (s.cur / 4)).tracker.length := by rw [hleaves.trackers]; exact Nat.not_le.mpr hroom
    refine ⟨retire s1 s.cur u, retiredOf u, ?_, ⟨fun j hj => ?_, hmem.trans hleaves.mem⟩, hgone, ?_, hin.trans hleaves.inflight,
      hops.uid, hops.launch, hops.ctx, hops.lq, hops.remote⟩
    · rw [threadEnd_go ht hq hr hl (.inr htq) hv hu, if_neg hlen]
    · rw [hothers j hj, hleaves.threads j hj]
    · rw [htr, hleaves.trackers]

end Sys2Proof.Machine
end

section
/-! PROOFS. Pushes (R22 to R26, R40, R45, R57, R58, R68, R137, R177, R278). -/

namespace Sys2Proof.Machine

variable {s : State} {t : Thread} {i : Instr}

/-! ## Instructions whose push changes no push copy -/

/-- The instructions whose push changes no copy of a counter or of a residency register, and holds no thread: those that only enter the
queue, VREL and VSET. -/
def pushesOnly (i : Instr) : Prop :=
  plainPush i = true ∨ i = .vrel ∨ (∃ a b, i = .vsetLen a b) ∨ (∃ a b g ty, i = .vsetLenf a b g ty)

/-- Each of them is pushed by the current thread. -/
theorem exec_pushesOnly (h : pushesOnly i) (s : State) : exec i s = .next (push s s.cur i) := by
  obtain h | rfl | ⟨a, b, rfl⟩ | ⟨a, b, g, ty, rfl⟩ := h
  · cases i <;> cases h <;> rfl
  · rfl
  · rfl
  · rfl

/-- None changes a counter, and none is an HRES form with push copies (R174, R186). -/
theorem kcntEffect_pushesOnly (h : pushesOnly i) (cap : Cap) (ks : Tab KReg) : kcntEffect i cap ks = (ks, []) := by
  obtain h | rfl | ⟨a, b, rfl⟩ | ⟨a, b, g, ty, rfl⟩ := h
  · cases i <;> cases h <;> rfl
  · rfl
  · rfl
  · rfl

theorem hresReg_pushesOnly (h : pushesOnly i) : hresReg i = none ∧ hresMarker i = none := by
  obtain h | rfl | ⟨a, b, rfl⟩ | ⟨a, b, g, ty, rfl⟩ := h
  · cases i <;> cases h <;> exact ⟨rfl, rfl⟩
  · exact ⟨rfl, rfl⟩
  · exact ⟨rfl, rfl⟩
  · exact ⟨rfl, rfl⟩

theorem pushCopies_pushesOnly (h : pushesOnly i) (t : Thread) (cap : Cap) : pushCopies t i cap = (t, []) := by
  obtain ⟨hr, hm⟩ := hresReg_pushesOnly h
  simp [pushCopies, kcntEffect_pushesOnly h, hr, hm]

/-- A plain push changes nothing of the CSRs but vesr (R142). -/
theorem vsetEffect_plain (h : plainPush i = true ∨ i = .vrel) (t : Thread) : vsetEffect t i = t := by
  obtain h | rfl := h
  · cases i <;> cases h <;> rfl
  · rfl

theorem plainPush_ne_vrel (h : plainPush i = true) : i ≠ .vrel := by
  rintro rfl
  cases h

/-! ## Room -/

/-- A push that finds a free entry and no full count, and recomputes nothing, is not blocked (R25, R318). -/
theorem pushBlocked_room (hr : t.vq.length < 64) (hc : ∀ k, k < 5 → classCount s t k < 65535) (i : Instr) (changed : Bool) :
    pushBlocked s t i changed [] = false := by
  have h (k : Nat) (hk : k < 5) : decide (classMax ≤ classCount s t k) = false := decide_eq_false (Nat.not_le.mpr (hc k hk))
  simp [pushBlocked, h, hr]

/-- With every entry of the queue occupied a push is blocked (R25). -/
theorem pushBlocked_full (hf : 64 ≤ t.vq.length) (i : Instr) (changed : Bool) (regs : List Nat) :
    pushBlocked s t i changed regs = true := by simp [pushBlocked, hf]

/-- So is one that would give a register a third recomputation in delivery (R177). -/
theorem pushBlocked_third {regs : List Nat} {n : Nat} (hn : n ∈ regs) (h2 : 2 ≤ inDelivery t n) (i : Instr) (changed : Bool) :
    pushBlocked s t i changed regs = true := by
  have h : regs.any (fun n => decide (2 ≤ inDelivery t n)) = true := List.any_eq_true.mpr ⟨n, hn, decide_eq_true h2⟩
  simp only [pushBlocked, h, Bool.or_true, Bool.true_or]

/-! ## What enters the queue -/

/-- An entry whose push changes no push copy joins the queue as the last one. -/
theorem enqueue_pushesOnly {tid : Nat} {e : Entry} (h : pushesOnly e.instr) (hb : e.boxes = []) (hc : e.changed = false)
    (hr : t.vq.length < 64) (hcount : ∀ k, k < 5 → classCount s t k < 65535) :
    enqueue s tid t e = some (setThread s tid { t with vq := t.vq ++ [e] }) := by
  have he : { e with boxes := [], changed := false } = e := by rw [← hb, ← hc]
  rw [enqueue, pushCopies_pushesOnly h, kcntEffect_pushesOnly h]
  dsimp only
  rw [decide_eq_false (fun hn => hn rfl), pushBlocked_room hr hcount]
  simp [recomputeAll, he]

theorem enqueue_full (hf : 64 ≤ t.vq.length) (h : pushesOnly i) (tid : Nat) {e : Entry} (he : e.instr = i) : enqueue s tid t e = none := by
  rw [enqueue, he, pushCopies_pushesOnly h]
  exact if_pos (pushBlocked_full hf i _ _)

/-- What a legal push of a plain instruction or of VREL that finds room comes to: its entry, vesr 0, the next instruction (R22, R23,
R137); VREL closes the queue (R45). -/
theorem exec_push_room (h : plainPush i = true ∨ i = .vrel) (ht : threadAt s s.cur = some t) (hok : PushOk s t i) :
    exec i s = .next (setThread { s with uid := s.uid + 1 } s.cur { t with
      csr := { t.csr with vesr := 0 }, pc := t.pc + 4, vrelPushed := decide (i = .vrel), hold := .run,
      vq := t.vq ++ [entryFor s t i] }) := by
  have hp : pushesOnly i := h.elim .inl (fun h => .inr (.inl h))
  rw [exec_pushesOnly hp]
  refine congrArg _ (push_eq ht hok.legal hok.unreleased ?_)
  rw [vsetEffect_plain h]
  exact enqueue_pushesOnly hp rfl rfl hok.room hok.counts

/-- A push that finds the queue full stalls (R25). -/
theorem exec_push_full (h : plainPush i = true) (ht : threadAt s s.cur = some t) (hl : pushLegal s t i = true)
    (hr : t.vrelPushed = false) (hf : 64 ≤ t.vq.length) :
    exec i s = .next (setThread s s.cur { t with hold := .push, stallOn := [] }) := by
  have hp : pushesOnly i := .inl h
  have hv : pushedBy t i = { t with csr := { t.csr with vesr := 0 }, pc := t.pc + 4, vrelPushed := decide (i = .vrel), hold := .run } :=
    vsetEffect_plain (.inl h) _
  have ho : olderOf (pushedBy t i) (entryFor s t i) = [] := by
    rw [olderOf, show (entryFor s t i).instr = i from rfl, pushCopies_pushesOnly hp]
    rfl
  have he : enqueue { s with uid := s.uid + 1 } s.cur (pushedBy t i) (entryFor s t i) = none :=
    enqueue_full (by rw [hv]; exact hf) hp s.cur rfl
  rw [exec_pushesOnly hp, push_legal ht hl hr, he, ho]
  rfl

/-- What a push captures of the x registers its fields name (R23). -/
theorem captureOf_fields (t : Thread) (i : Instr) :
    (∀ r, (xFields i).1 = some r → (captureOf t i).xd = rx t r) ∧ (∀ r, (xFields i).2.1 = some r → (captureOf t i).xa = rx t r) ∧
    ∀ r, (xFields i).2.2 = some r → (captureOf t i).xb = rx t r := by
  unfold captureOf
  obtain ⟨d, a, b⟩ := xFields i
  refine ⟨?_, ?_, ?_⟩ <;> (rintro r rfl; rfl)

/-! ## The stall for recomputations in delivery -/

theorem exec_hresAnch (d a : Reg) (n : BitVec 2) (s : State) : exec (.hresAnch d a n) s = .next (push s s.cur (.hresAnch d a n)) := rfl
theorem exec_pushStallResume (tid : Nat) (s : State) : exec (.pushStallResume tid) s = execPushStallResume tid s := rfl

theorem stallHeld_iff (t : Thread) : stallHeld t = true ↔
    ∃ x ∈ t.stallOn, ∃ r ∈ t.recomps, r.h = x.1 ∧ r.marker = x.2 ∧ r.counts = true := by
  simp [stallHeld]

/-- A configured register stands in the table after an item of it has been set. -/
theorem mem_keys_tabPut {α : Type} (l : Tab α) (k : Nat) (v : α) : (k, v) ∈ tabPut l k v := by
  induction l with
  | nil => exact List.mem_cons_self
  | cons e l ih =>
    obtain ⟨a, w⟩ := e
    rw [tabPut]
    split
    · exact List.mem_cons_self
    · split
      · exact List.mem_cons_self
      · exact List.mem_cons_of_mem _ ih

/-- hres.anch recomputes its own register and no other (R175). -/
theorem hresAnch_recomputes {t : Thread} {d a : Reg} (n : BitVec 2) (cap : Cap) (h : (tabFind t.h d.toNat).isSome = true) (m : Nat) :
    m ∈ (pushCopies t (.hresAnch d a n) cap).2 ↔ m = d.toNat := by
  obtain ⟨r, hr⟩ := Option.isSome_iff_exists.mp h
  have hk (x : Nat × HReg) : m ∈ (if hresMarker (.hresAnch d a n) = some x.1 then some x.1 else none) ↔ x.1 = d.toNat ∧ m = d.toNat := by
    rw [show hresMarker (.hresAnch d a n) = some d.toNat from rfl]
    by_cases hx : x.1 = d.toNat
    · simp [hx, eq_comm]
    · simp [hx, Ne.symm hx]
  have he : (pushCopies t (.hresAnch d a n) cap).2 = (tabPut t.h d.toNat { r with push := hresEffect (.hresAnch d a n) cap r.push }).filterMap
      (fun e => if hresMarker (.hresAnch d a n) = some e.1 then some e.1 else none) := by
    simp [pushCopies, show hresReg (.hresAnch d a n) = some d.toNat from rfl, hr,
      show kcntEffect (.hresAnch d a n) cap t.kpush = (t.kpush, []) from rfl]
  rw [he, List.mem_filterMap]
  constructor
  · rintro ⟨x, -, hx⟩
    exact ((hk x).mp hx).2
  · rintro rfl
    exact ⟨_, mem_keys_tabPut _ _ _, (hk _).mpr ⟨rfl, rfl⟩⟩

/-- A push of hres.anch to a register with two recomputations in delivery stalls for the older of them (R177). -/
theorem exec_hresAnch_third {d a : Reg} {n : BitVec 2} {older younger : Recomp} (ht : threadAt s s.cur = some t)
    (hl : pushLegal s t (.hresAnch d a n) = true) (hr : t.vrelPushed = false) (hd : (tabFind t.h d.toNat).isSome = true)
    (h2 : t.recomps.filter (fun r => r.h = d.toNat ∧ r.counts) = [older, younger]) :
    ∃ l, exec (.hresAnch d a n) s = .next (setThread s s.cur { t with hold := .push, stallOn := l }) ∧
      ∀ x, x ∈ l ↔ x = (d.toNat, older.marker) := by
  let i := Instr.hresAnch d a n
  let u := pushedBy t i
  have hu : u.recomps = t.recomps ∧ u.h = t.h := ⟨rfl, rfl⟩
  have hin := fun m => hresAnch_recomputes (t := u) (a := a) n (captureOf t i) hd m
  refine ⟨olderOf u (entryFor s t i), ?_, fun x => ?_⟩
  · have he : enqueue { s with uid := s.uid + 1 } s.cur u (entryFor s t i) = none := by
      refine if_pos (pushBlocked_third ((hin d.toNat).mpr rfl) ?_ i _)
      rw [inDelivery, hu.1, h2]
      exact Nat.le_refl 2
    rw [exec_hresAnch, push_legal ht hl hr, he]
    rfl
  · rw [olderOf, List.mem_filterMap]
    constructor
    · rintro ⟨m, hm, hx⟩
      rw [(hin m).mp hm, hu.1, h2] at hx
      exact (Option.some.inj hx).symm
    · rintro rfl
      refine ⟨d.toNat, (hin d.toNat).mpr rfl, ?_⟩
      rw [hu.1, h2]

/-- A stalled thread tries again once no recomputation that it waits for is in delivery (R25, R177). -/
theorem exec_pushStallResume_push {tid : Nat} (ht : threadAt s tid = some t) (hh : t.hold = .push) (hs : t.stopReq = false) :
    exec (.pushStallResume tid) s = .next (if stallHeld t then s else setThread s tid { t with hold := .run, stallOn := [] }) := by
  rw [exec_pushStallResume, execPushStallResume, ht]
  dsimp only
  rw [hs, hh, Bool.false_or]

/-- Settles O18: a plain push that finds room only enters the queue, one that finds none stalls, and hres.anch stalls for the older of
two recomputations. -/
theorem plainPushJoinsQueue : Obligations.PlainPushJoinsQueue := by
  unfold Obligations.PlainPushJoinsQueue
  refine ⟨fun s t i ht hp hok => ⟨?joins, ?captures⟩, fun s t i tid => ⟨fun ht hp hl hr hf => ?full, fun ht hh hs => ?resumes⟩,
    fun s t d a n older younger ht hl hr hd h2 => exec_hresAnch_third ht hl hr hd h2⟩
  case joins =>
    rw [Pushes, exec_push_room (.inl hp) ht hok, decide_eq_false (plainPush_ne_vrel hp), ← hok.unreleased]
  case captures => exact ⟨rfl, rfl, rfl, rfl, rfl, rfl, rfl, rfl, rfl, rfl, rfl, rfl, captureOf_fields t i⟩
  case full => exact ⟨exec_push_full hp ht hl hr hf, rfl⟩
  case resumes =>
    rw [exec_pushStallResume_push ht hh hs, ← stallHeld_iff]
    exact ⟨fun h => by rw [if_pos h], fun h => by rw [if_neg h]⟩

end Sys2Proof.Machine
end

section
/-! PROOFS. The traps at push, and what legality asks of a word (R26, R40, R45, R57, R58, R68, R242, R278). -/

namespace Sys2Proof.Machine

variable {s : State} {t : Thread} {i : Instr}

/-! ## Legality -/

/-- The multiplier of a vfmt value is a power of two by its field (R130). -/
theorem vfmtGm_eq (f : Word) : vfmtGm f = 2 ^ (f.extractLsb' 4 2).toNat := by rw [vfmtGm, fieldOf_eq]

theorem aligned_some (r : Reg) (n : Nat) : aligned (some r) n = true ↔ r.toNat % n = 0 := decide_eq_true_iff

/-- Three groups and a type (R57, R58): the type has the captured width, and each v field names the start of a group. -/
theorem pushLegal_valuAdd {d a b : Reg} {p : PReg} {e : Bool} {ty : ElemTy} :
    pushLegal s t (.valuAdd d a b p e ty) = true ↔ ty.bits = vfmtW t.csr.vfmt ∧ d.toNat % vfmtGm t.csr.vfmt = 0 ∧
      a.toNat % vfmtGm t.csr.vfmt = 0 ∧ (e = true ∨ b.toNat % vfmtGm t.csr.vfmt = 0) := by
  have hb : aligned (if e then none else some b) (vfmtGm t.csr.vfmt) = true ↔ e = true ∨ b.toNat % vfmtGm t.csr.vfmt = 0 := by
    cases e
    · simp [aligned_some]
    · simp [aligned]
  have hl : pushLegal s t (.valuAdd d a b p e ty) =
      ((aligned (some d) (vfmtGm t.csr.vfmt) && aligned (some a) (vfmtGm t.csr.vfmt) &&
        aligned (if e then none else some b) (vfmtGm t.csr.vfmt)) && decide (ty.bits = vfmtW t.csr.vfmt) && true && true) := rfl
  rw [hl]
  simp only [Bool.and_eq_true, aligned_some, hb, decide_eq_true_eq, and_true]
  tauto

/-- A conversion: FT has the captured width, and the wider field names a larger group, of at most 8 registers (R57). -/
theorem pushLegal_vcvt {d a : Reg} {p : PReg} {tt ft : ElemTy} :
    pushLegal s t (.vcvt d a p tt ft) = true ↔ ft.bits = vfmtW t.csr.vfmt ∧
      let gd := if ft.bits < tt.bits then vfmtGm t.csr.vfmt * (tt.bits / ft.bits) else vfmtGm t.csr.vfmt
      let ga := if tt.bits < ft.bits then vfmtGm t.csr.vfmt * (ft.bits / tt.bits) else vfmtGm t.csr.vfmt
      gd ≤ 8 ∧ ga ≤ 8 ∧ d.toNat % gd = 0 ∧ a.toNat % ga = 0 := by
  have hl : pushLegal s t (.vcvt d a p tt ft) = ((decide (ft.bits = vfmtW t.csr.vfmt) &&
      (match cvtGroups (vfmtGm t.csr.vfmt) tt ft with
       | some (gd, ga) => aligned (some d) gd && aligned (some a) ga
       | none => false)) && true && true && true) := rfl
  rw [hl, cvtGroups]
  dsimp only
  simp only [Bool.and_true, Bool.and_eq_true, decide_eq_true_eq]
  refine and_congr_right fun _ => ?_
  generalize (if ft.bits < tt.bits then _ else _) = gd
  generalize (if tt.bits < ft.bits then _ else _) = ga
  by_cases h : 8 < gd ∨ 8 < ga
  · simp only [if_pos h, Bool.false_eq_true, false_iff]
    omega
  · simp only [if_neg h, Bool.and_eq_true, aligned_some]
    omega

/-- A permute: the width of its word is the captured one, and both fields name the start of a group (R64). -/
theorem pushLegal_vprmTran {d a : Reg} {p : PReg} {w : PWidth} :
    pushLegal s t (.vprmTran d a p w) = true ↔
      pwBits w = vfmtW t.csr.vfmt ∧ d.toNat % vfmtGm t.csr.vfmt = 0 ∧ a.toNat % vfmtGm t.csr.vfmt = 0 := by
  have hl : pushLegal s t (.vprmTran d a p w) = ((aligned (some d) (vfmtGm t.csr.vfmt) && aligned (some a) (vfmtGm t.csr.vfmt) && true) &&
      true && decide (pwBits w = vfmtW t.csr.vfmt) && true) := rfl
  rw [hl]
  simp only [Bool.and_eq_true, aligned_some, decide_eq_true_eq, and_true]
  tauto

/-- A barrier: its level exists in the launch, with the scope that the word names (R40, R242). -/
theorem pushLegal_syncBarr {l : Launch} (h : launchOf s t.launch = some l) {sc : Scope} {lvl : BitVec 4} :
    pushLegal s t (.syncBarr sc lvl) = true ↔
      lvl.toNat < recLevels l.raw ∧ lvlScope (recLevel l.raw lvl.toNat) = sc.code.toNat := by
  have hl : pushLegal s t (.syncBarr sc lvl) = ((true && true && true) && barrierWordOk s t sc lvl) := rfl
  rw [hl, barrierWordOk, h]
  simp

/-- Settles O20: VREL is a push that closes the queue; an illegal word and a released queue are the two traps of `push`. -/
theorem pushTrapsAndRelease : Obligations.PushTrapsAndRelease := by
  unfold Obligations.PushTrapsAndRelease
  refine ⟨fun s t ht hok => exec_push_room (.inr rfl) ht hok, fun s t i ht hf hp => ⟨fun hl => ?illegal, fun hl hr => ?released⟩,
    fun s t l d a b p e ty tt ft w sc lvl => ?legality⟩
  case illegal => exact traps_of ht hf (by rw [exec_pushesOnly hp, push_illegal ht hl]; rfl)
  case released => exact traps_of ht hf (by rw [exec_pushesOnly hp, push_released ht hl hr]; rfl)
  case legality =>
    dsimp only
    simp only [← vfmtGm_eq]
    exact ⟨pushLegal_valuAdd, pushLegal_vcvt, pushLegal_vprmTran, fun h => pushLegal_syncBarr h⟩

end Sys2Proof.Machine
end

section
/-! PROOFS. The laws of vector and mask registers (R132 to R135, R138): what an element reads after a write of an element. -/

namespace Sys2Proof.Machine

variable {t u : Thread}

/-! ## Bits of a register -/

/-- A bit of a register after some of its bits have been replaced. -/
theorem getLsbD_withBits (v : VReg) (lo w val i : Nat) (hi : i < 16384) :
    (withBits v lo w val).getLsbD i = if lo ≤ i ∧ i < lo + w then val.testBit (i - lo) else v.getLsbD i := by
  have hs (m : Nat) : (BitVec.ofNat 16384 m <<< lo).getLsbD i = (decide (lo ≤ i) && m.testBit (i - lo)) := by
    rw [BitVec.getLsbD_shiftLeft, BitVec.getLsbD_ofNat, decide_eq_true hi, decide_eq_true (show i - lo < 16384 by omega)]
    by_cases h : lo ≤ i
    · simp [h, Nat.not_lt.mpr h]
    · simp [h, Nat.lt_of_not_le h]
  rw [withBits, BitVec.getLsbD_or, BitVec.getLsbD_and, BitVec.getLsbD_not, hs, hs, Nat.testBit_two_pow_sub_one,
    Nat.testBit_mod_two_pow, decide_eq_true hi]
  by_cases h : lo ≤ i ∧ i < lo + w
  · simp [h, show i - lo < w by omega]
  · rw [if_neg h]
    by_cases hlo : lo ≤ i
    · simp [show ¬ i - lo < w by omega]
    · simp [hlo]

/-- Bit i of w bits of a register from bit lo on. -/
theorem testBit_bitsAt (v : VReg) (lo w i : Nat) : (bitsAt v lo w).testBit i = (decide (i < w) && v.getLsbD (lo + i)) := by
  rw [bitsAt, ← BitVec.getLsbD, BitVec.getLsbD_extractLsb']

/-- The bits replaced are those written. -/
theorem bitsAt_withBits_same (v : VReg) {lo w : Nat} (val : Nat) (h : lo + w ≤ 16384) :
    bitsAt (withBits v lo w val) lo w = val % 2 ^ w := by
  apply Nat.eq_of_testBit_eq
  intro i
  rw [testBit_bitsAt, Nat.testBit_mod_two_pow]
  by_cases hi : i < w
  · rw [getLsbD_withBits v lo w val _ (by omega), if_pos (by omega), Nat.add_sub_cancel_left]
  · simp [hi]

/-- Bits beside those replaced are unchanged. -/
theorem bitsAt_withBits_apart (v : VReg) {lo lo' w : Nat} (val : Nat) (h : lo' + w ≤ 16384) (ha : lo' + w ≤ lo ∨ lo + w ≤ lo') :
    bitsAt (withBits v lo w val) lo' w = bitsAt v lo' w := by
  apply Nat.eq_of_testBit_eq
  intro i
  rw [testBit_bitsAt, testBit_bitsAt]
  by_cases hi : i < w
  · rw [getLsbD_withBits v lo w val _ (by omega), if_neg (by omega)]
  · simp [hi]

/-! ## Registers -/

/-- What vM reads after a write of vN: registers are numbered modulo 32 (R135). -/
theorem rv_wv (t : Thread) (n m : Nat) (v : VReg) (top : Nat) : rv (wv t n v top) m = if m % 32 = n % 32 then v else rv t m := by
  unfold rv wv
  dsimp only
  split
  · next h => rw [h, tabGet_tabSet_self]
  · next h => rw [tabGet_tabSet_ne _ _ _ h]

/-- An element written changes its own register. -/
theorem rv_setElem (t : Thread) (d w i val r : Nat) (h : r % 32 ≠ (d + i * w / 16384) % 32) : rv (setElem t d w i val) r = rv t r :=
  (rv_wv t _ r _ _).trans (if_neg h)

/-- `u` is `t` but for v registers and how far they have been changed (R292, VEXT). -/
def VOnly (t u : Thread) : Prop := u = { t with v := u.v, vext := u.vext }

theorem vOnly_setElem (t : Thread) (d w i val : Nat) : VOnly t (setElem t d w i val) := rfl

theorem VOnly.trans {t u x : Thread} (h : VOnly t u) (h' : VOnly u x) : VOnly t x := by
  unfold VOnly at *
  rw [h', h]

theorem VOnly.foldl {α : Type} {f : Thread → α → Thread} (hf : ∀ u a, VOnly u (f u a)) (l : List α) (t : Thread) :
    VOnly t (l.foldl f t) := by
  induction l generalizing t with
  | nil => rfl
  | cons a l ih => exact (hf t a).trans (ih _)

/-! ## Elements of a group of registers -/

/-- An element width of an element group form. -/
def elemWidth (w : Nat) : Prop := w = 8 ∨ w = 16 ∨ w = 32 ∨ w = 64

/-- Where an element lies: whole in its register, at a multiple of its width. -/
theorem elem_place {w : Nat} (hw : elemWidth w) (i : Nat) : i * w % 16384 + w ≤ 16384 ∧
    ∀ j, i * w / 16384 = j * w / 16384 → j ≠ i → j * w % 16384 + w ≤ i * w % 16384 ∨ i * w % 16384 + w ≤ j * w % 16384 := by
  rcases hw with rfl | rfl | rfl | rfl <;> refine ⟨by omega, fun j hq hj => ?_⟩ <;> omega

/-- Elements of a group of at most eight registers lie in different registers when their register numbers differ. -/
theorem elem_register {a b d : Nat} (ha : a < 8) (hb : b < 8) (h : (d + a) % 32 = (d + b) % 32) : a = b := by omega

/-- An element of the group after one of them has been written (R132). -/
theorem elem_setElem {d w i j val : Nat} (hw : elemWidth w) (hi : i * w < 131072) (hj : j * w < 131072) (t : Thread) :
    elem (setElem t d w i val) d w j = if j = i then val % 2 ^ w else elem t d w j := by
  obtain ⟨hfit, hapart⟩ := elem_place hw i
  obtain ⟨hfit', -⟩ := elem_place hw j
  unfold elem setElem
  simp only [Config.vlen, rv_wv]
  by_cases hr : (d + j * w / 16384) % 32 = (d + i * w / 16384) % 32
  · have hq : i * w / 16384 = j * w / 16384 := elem_register (by omega) (by omega) hr.symm
    rw [if_pos hr]
    split
    · next h => rw [h, bitsAt_withBits_same _ _ hfit]
    · next h => rw [bitsAt_withBits_apart _ _ hfit' (hapart j hq h), hq]
  · have hij : j ≠ i := fun h => hr (by rw [h])
    rw [if_neg hr, if_neg hij]

/-! ## A whole element group -/

theorem mem_span {a b i : Nat} : i ∈ span a b ↔ a ≤ i ∧ i < b := by
  simp only [span, List.mem_map, List.mem_range]
  constructor
  · rintro ⟨k, hk, rfl⟩; omega
  · rintro ⟨h1, h2⟩; exact ⟨i - a, by omega, by omega⟩

/-- Elements written one by one where a mask governs: each listed one has its value, every other is as it was (R134). -/
theorem elem_foldl_setElem {d w j : Nat} (hw : elemWidth w) (hj : j * w < 131072) (g : Nat → Bool) (f : Nat → Nat) (l : List Nat)
    (hl : ∀ i ∈ l, i * w < 131072) (t : Thread) :
    elem (l.foldl (fun u i => if g i then setElem u d w i (f i) else u) t) d w j =
      if j ∈ l ∧ g j = true then f j % 2 ^ w else elem t d w j := by
  induction l generalizing t with
  | nil => simp
  | cons i l ih =>
    have hstep : elem (if g i then setElem t d w i (f i) else t) d w j = if j = i ∧ g i = true then f i % 2 ^ w else elem t d w j := by
      cases hg : g i with
      | true => simp [elem_setElem hw (hl i List.mem_cons_self) hj]
      | false => simp
    rw [List.foldl_cons, ih (fun i hi => hl i (List.mem_cons_of_mem _ hi)), hstep]
    by_cases hji : j = i
    · subst hji
      by_cases hg : g j = true <;> simp [hg]
    · simp [hji]

/-- What an element group writes: its active, governed elements (R132, R134). -/
theorem elem_writeGroup {p d w lo hi i : Nat} {f : Nat → Nat} (hw : elemWidth w) (h : hi * w ≤ 131072) (hi' : i * w < 131072) (t : Thread) :
    elem (writeGroup t p d w lo hi f) d w i =
      if lo ≤ i ∧ i < hi ∧ maskBit t p i = true then f i % 2 ^ w else elem t d w i := by
  have hl : ∀ k ∈ span lo hi, k * w < 131072 := by
    intro k hk
    have hpos : 0 < w := by rcases hw with rfl | rfl | rfl | rfl <;> decide
    exact lt_of_lt_of_le (Nat.mul_lt_mul_of_pos_right (mem_span.mp hk).2 hpos) h
  rw [writeGroup, elem_foldl_setElem hw hi' (maskBit t p) f _ hl]
  simp only [mem_span, and_assoc]

/-- Registers that no element of the group touches are as they were (R135). -/
theorem rv_writeGroup {p d w lo hi r : Nat} {f : Nat → Nat} (hw : elemWidth w)
    (h : ∀ j, j * 16384 < hi * w → r % 32 ≠ (d + j) % 32) (t : Thread) : rv (writeGroup t p d w lo hi f) r = rv t r := by
  have hpos : 0 < w := by rcases hw with rfl | rfl | rfl | rfl <;> decide
  have hgen (g : Nat → Bool) (l : List Nat) (hl : ∀ i ∈ l, i < hi) (t : Thread) :
      rv (l.foldl (fun u i => if g i then setElem u d w i (f i) else u) t) r = rv t r := by
    induction l generalizing t with
    | nil => rfl
    | cons i l ih =>
      rw [List.foldl_cons, ih (fun i hi => hl i (List.mem_cons_of_mem _ hi))]
      split
      · refine rv_setElem t d w i (f i) r (h _ ?_)
        have : i * w < hi * w := Nat.mul_lt_mul_of_pos_right (hl i List.mem_cons_self) hpos
        omega
      · rfl
  exact hgen _ _ (fun i hi => (mem_span.mp hi).2) t

theorem vOnly_writeGroup (t : Thread) (p d w lo hi : Nat) (f : Nat → Nat) : VOnly t (writeGroup t p d w lo hi f) := by
  refine VOnly.foldl (fun u i => ?_) _ t
  split
  · exact vOnly_setElem u d w i _
  · rfl

/-! ## Mask registers -/

/-- A bit of a mask register that has been written. -/
theorem maskBit_wp_self {d : Nat} (hd : d ≠ 0) (t : Thread) (v : VReg) (i : Nat) : maskBit (wp t d v) d i = v.getLsbD i := by
  rw [maskBit, if_neg hd, wp, if_neg hd, tabGet_tabSet_self]

theorem rp_wp_ne {d r : Nat} (h : r ≠ d) (t : Thread) (v : VReg) : rp (wp t d v) r = rp t r := by
  unfold rp wp
  split
  · rfl
  · split
    · rfl
    · exact tabGet_tabSet_ne _ _ _ h

theorem getLsbD_rp {d : Nat} (hd : d ≠ 0) (t : Thread) (i : Nat) : (rp t d).getLsbD i = maskBit t d i := by
  rw [rp, if_neg hd, maskBit, if_neg hd]

/-- Bits of a register set one by one. -/
theorem getLsbD_foldl_setBitAt (b : Nat → Bool) (l : List Nat) (v : VReg) (i : Nat) (hi : i < 16384) :
    (l.foldl (fun v i => setBitAt v i (b i)) v).getLsbD i = if i ∈ l then b i else v.getLsbD i := by
  induction l generalizing v with
  | nil => simp
  | cons k l ih =>
    have hk : (setBitAt v k (b k)).getLsbD i = if i = k then b k else v.getLsbD i := by
      rw [setBitAt, getLsbD_withBits _ _ _ _ _ hi]
      by_cases h : i = k
      · subst h
        cases b i <;> simp
      · rw [if_neg (by omega), if_neg h]
    rw [List.foldl_cons, ih, hk]
    by_cases hik : i = k
    · subst hik; simp
    · simp [hik]

/-- The bits that an element group of a mask destination writes (R138). -/
theorem maskBit_writeBits {p d lo hi i : Nat} (hd : d ≠ 0) (hi' : i < 16384) (t : Thread) (f : Nat → Bool) :
    maskBit (writeBits t p d lo hi f) d i = if lo ≤ i ∧ i < hi then maskBit t p i && f i else maskBit t d i := by
  rw [writeBits, maskBit_wp_self hd, getLsbD_foldl_setBitAt (fun i => maskBit t p i && f i) _ _ _ hi', getLsbD_rp hd]
  simp only [mem_span]

/-- A mask destination loses its bits from n on (R138). -/
theorem maskBit_clearFrom {d n i : Nat} (hd : d ≠ 0) (hi : i < 16384) (t : Thread) :
    maskBit (clearFrom t d n) d i = if n ≤ i then false else maskBit t d i := by
  have hn : (BitVec.ofNat 16384 (2 ^ n - 1)).getLsbD i = decide (i < n) := by
    rw [BitVec.getLsbD_ofNat, Nat.testBit_two_pow_sub_one]
    simp [hi]
  rw [clearFrom, maskBit_wp_self hd, BitVec.getLsbD_and, hn, getLsbD_rp hd]
  by_cases h : n ≤ i
  · simp [h, Nat.not_lt.mpr h]
  · simp [h, Nat.lt_of_not_le h]

/-- `u` is `t` but for v and p registers. -/
def RegsOnly (t u : Thread) : Prop := u = { t with v := u.v, vext := u.vext, p := u.p }

theorem VOnly.regs (h : VOnly t u) : RegsOnly t u := by
  unfold RegsOnly VOnly at *
  rw [h]

theorem RegsOnly.trans {t u x : Thread} (h : RegsOnly t u) (h' : RegsOnly u x) : RegsOnly t x := by
  unfold RegsOnly at *
  rw [h', h]

/-- `u` is `t` but for p registers. -/
def POnly (t u : Thread) : Prop := u = { t with p := u.p }

theorem POnly.regs (h : POnly t u) : RegsOnly t u := by
  unfold RegsOnly POnly at *
  rw [h]

theorem POnly.trans {t u x : Thread} (h : POnly t u) (h' : POnly u x) : POnly t x := by
  unfold POnly at *
  rw [h', h]

theorem pOnly_wp (t : Thread) (d : Nat) (v : VReg) : POnly t (wp t d v) := by
  unfold wp POnly
  split <;> rfl

theorem pOnly_writeBits (t : Thread) (p d lo hi : Nat) (f : Nat → Bool) : POnly t (writeBits t p d lo hi f) := pOnly_wp t d _
theorem pOnly_clearFrom (t : Thread) (d n : Nat) : POnly t (clearFrom t d n) := pOnly_wp t d _

end Sys2Proof.Machine
end

section
/-! PROOFS. Entries that need lanes: how they begin, and what a grant commits (R27, R131 to R139, R273, R298). -/

namespace Sys2Proof.Machine

variable {s s' s'' : State} {t : Thread} {e : Entry} {rest : List Entry} {tid : Nat}

theorem exec_entryAtVcp (tid : Nat) (s : State) : exec (.entryAtVcp tid) s = execEntryAtVcp tid s := rfl
theorem exec_issueGrant (cl : Nat) (s : State) : exec (.issueGrant cl) s = .next ([0, 1, 2, 3].foldl (issueGroup cl) s) := rfl

/-! ## The work of an entry -/

@[simp] theorem RegsOnly.refl (t : Thread) : RegsOnly t t := rfl

@[simp] theorem regsOnly_setElem (t : Thread) (d w i val : Nat) : RegsOnly t (setElem t d w i val) := (vOnly_setElem t d w i val).regs

@[simp] theorem regsOnly_writeE (t : Thread) (c : Cap) (d : Reg) (v : Nat) : RegsOnly t (writeE t c d v) := regsOnly_setElem t _ _ _ _

@[simp] theorem regsOnly_writeWhole (t : Thread) (p d w start n : Nat) (f : Nat → Option Nat) :
    RegsOnly t (writeWhole t p d w start n f) := by
  refine (VOnly.foldl (fun u i => ?_) _ t).regs
  split
  · split <;> rfl
  · rfl

@[simp] theorem regsOnly_packWork (t : Thread) (c : Cap) (start : Nat) (d a : Reg) (p : PReg) (dim : Dim) (expand : Bool) :
    RegsOnly t (packWork t c start d a p dim expand) := (VOnly.foldl (fun u _ => vOnly_setElem u _ _ _ _) _ t).regs

@[simp] theorem regsOnly_vsxWrite (t : Thread) (e : Entry) (d : Reg) (ty : ElemTy) (out : List Nat) :
    RegsOnly t (vsxWrite t e d ty out) := (VOnly.foldl (fun u _ => vOnly_setElem u _ _ _ _) _ t).regs

@[simp] theorem regsOnly_mask (t : Thread) (p d lo n : Nat) (f : Nat → Bool) :
    RegsOnly t (clearFrom (writeBits t p d lo n f) d n) := ((pOnly_writeBits t p d lo n f).trans (pOnly_clearFrom _ d n)).regs

@[simp] theorem RegsOnly.ite {t g : Thread} {c : Prop} [Decidable c] (h : RegsOnly t g) : RegsOnly t (if c then t else g) := by
  split
  · rfl
  · exact h

/-- Some work, where it commits whole, changes registers alone. -/
def WholeRegs (t : Thread) (w : Option Work) : Prop := ∀ f, w = some (.whole f) → RegsOnly t f

@[simp] theorem wholeRegs_none (t : Thread) : WholeRegs t none := by simp [WholeRegs]
@[simp] theorem wholeRegs_groups (t : Thread) (d p w : Nat) (f : Nat → Nat) : WholeRegs t (some (.groups d p w f)) := by simp [WholeRegs]
@[simp] theorem wholeRegs_bits (t : Thread) (d p w : Nat) (f : Nat → Bool) : WholeRegs t (some (.bits d p w f)) := by simp [WholeRegs]
@[simp] theorem wholeRegs_whole (t g : Thread) : WholeRegs t (some (.whole g)) ↔ RegsOnly t g := by simp [WholeRegs]

theorem WholeRegs.or {t : Thread} {a b : Option Work} (ha : WholeRegs t a) (hb : WholeRegs t b) : WholeRegs t (a.or b) := by
  cases a with
  | none => exact hb
  | some x => exact ha

theorem wholeRegs_valuWork (t : Thread) (e : Entry) : WholeRegs t (valuWork t e) := by unfold valuWork; split <;> simp
theorem wholeRegs_vfmaWork (t : Thread) (e : Entry) : WholeRegs t (vfmaWork t e) := by unfold vfmaWork; split <;> simp
theorem wholeRegs_vbplWork (t : Thread) (e : Entry) : WholeRegs t (vbplWork t e) := by unfold vbplWork; split <;> simp
theorem wholeRegs_vmskWork (t : Thread) (e : Entry) : WholeRegs t (vmskWork t e) := by unfold vmskWork; split <;> simp
theorem wholeRegs_vprmWork (t : Thread) (e : Entry) : WholeRegs t (vprmWork t e) := by unfold vprmWork; split <;> simp
theorem wholeRegs_vscaWork (t : Thread) (e : Entry) : WholeRegs t (vscaWork t e) := by unfold vscaWork; split <;> simp
theorem wholeRegs_vsxWork (t : Thread) (e : Entry) : WholeRegs t (vsxWork t e) := by unfold vsxWork; split <;> simp

theorem wholeRegs_redWork (t : Thread) (e : Entry) (op : Nat) (d a : Reg) (p : PReg) (dim : Dim) (ty : ElemTy) :
    WholeRegs t (redWork t e op d a p dim ty) :=
  (wholeRegs_whole t _).mpr (RegsOnly.ite (VOnly.foldl (fun u _ => vOnly_setElem u _ _ _ _) _ t).regs)

theorem wholeRegs_vredWork (t : Thread) (e : Entry) : WholeRegs t (vredWork t e) := by
  unfold vredWork
  split <;> simp [wholeRegs_redWork]

theorem wholeRegs_vcvtWork (t : Thread) (e : Entry) : WholeRegs t (vcvtWork t e) := by
  unfold vcvtWork
  split
  · dsimp only
    split <;> simp
  · simp

/-- Work that commits whole changes v and p registers alone (R151). -/
theorem laneWork_whole {f : Thread} (h : laneWork t e = some (.whole f)) : RegsOnly t f :=
  ((wholeRegs_valuWork t e).or ((wholeRegs_vfmaWork t e).or ((wholeRegs_vmskWork t e).or ((wholeRegs_vprmWork t e).or
    ((wholeRegs_vredWork t e).or ((wholeRegs_vcvtWork t e).or ((wholeRegs_vbplWork t e).or ((wholeRegs_vscaWork t e).or
      (wholeRegs_vsxWork t e))))))))) f h

/-- accw.upd has no work on registers (R258). -/
theorem laneWork_accwUpd {d a b : Reg} {p : PReg} {ty : ElemTy} (h : e.instr = .accwUpd d a b p ty) : laneWork t e = none := by
  simp [laneWork, valuWork, vfmaWork, vmskWork, vprmWork, vredWork, vcvtWork, vbplWork, vscaWork, vsxWork, h]

/-- A mask write takes its tag (R296). -/
def tagMask (s : State) (tid : Nat) (e : Entry) : State :=
  match maskDest e.instr with
  | some d => rsTagMask s (tid / 4) (tid % 4) d
  | none => s

theorem rsOnly_tagMask (s : State) (tid : Nat) (e : Entry) : RsOnly s (tagMask s tid e) := by
  unfold tagMask
  split
  · exact rsOnly_rsTagMask s _ _ _
  · exact RsOnly.refl s

theorem tagMask_others {j : Nat} (h : j / 4 ≠ tid / 4) : threadAt (tagMask s tid e) j = threadAt s j := by
  unfold tagMask
  split
  · exact rsTagMask_others _ _ h
  · rfl

/-- An entry with work on registers and no window access does that work at its grant. -/
theorem laneStep_work {w : Work} (ha : accessOf t e = none) (hw : laneWork t e = some w) : laneStep s tid t e = workStep s tid t e := by
  unfold laneStep
  rw [ha]
  dsimp only
  split
  · next h => rw [laneWork_accwUpd h] at hw; cases hw
  · rfl

theorem workStep_groups {d p w : Nat} {f : Nat → Nat} (h : laneWork t e = some (.groups d p w f)) :
    workStep s tid t e =
      let u := setThread s tid (writeGroup t p d w e.k (min (nElems e.cap) (groupEnd w e.k)) f)
      if nElems e.cap ≤ min (nElems e.cap) (groupEnd w e.k) then .done u
      else .more (modHead u tid (fun x => { x with k := min (nElems e.cap) (groupEnd w e.k) })) := by
  unfold workStep
  rw [h]

theorem workStep_bits {d p w : Nat} {f : Nat → Bool} (h : laneWork t e = some (.bits d p w f)) :
    workStep s tid t e =
      let hi := min (nElems e.cap) (groupEnd w e.k)
      let u := writeBits t p d e.k hi f
      if nElems e.cap ≤ hi then .done (tagMask (setThread s tid (clearFrom u d (max (nElems e.cap) e.k))) tid e)
      else .more (modHead (tagMask (setThread s tid u) tid e) tid (fun x => { x with k := hi })) := by
  unfold workStep
  rw [h]
  rfl

theorem workStep_whole {g : Thread} (h : laneWork t e = some (.whole g)) :
    workStep s tid t e = .done (tagMask (setThread s tid g) tid e) := by
  unfold workStep
  rw [h]
  rfl

theorem done_ne_wait (s s' : State) : Res.done s ≠ .wait s' := by simp
theorem more_ne_wait (s s' : State) : Res.more s ≠ .wait s' := by simp

/-! ## Grants -/

theorem OnlyThread.trans (h : OnlyThread s s' tid) (h' : OnlyThread s' s'' tid) : OnlyThread s s'' tid :=
  ⟨fun j hj => (h'.threads j hj).trans (h.threads j hj), h'.mem.trans h.mem⟩

theorem onlyThread_setThread (s : State) (tid : Nat) (u : Thread) : OnlyThread s (setThread s tid u) tid :=
  ⟨fun _ hj => threadAt_setThread_ne s u hj, rfl⟩

theorem onlyThread_modHead (s : State) (tid : Nat) (f : Entry → Entry) : OnlyThread s (modHead s tid f) tid := by
  unfold modHead
  split
  · exact ⟨fun _ _ => rfl, rfl⟩
  · exact onlyThread_setThread s tid _

/-- The thread whose entry at vcp is changed. -/
theorem threadAt_modHead {u : Thread} (h : threadAt s tid = some u) (hq : u.vq = e :: rest) (f : Entry → Entry) :
    threadAt (modHead s tid f) tid = some { u with vq := f e :: rest } := by
  rw [modHead, h]
  dsimp only
  rw [hq]
  exact threadAt_setThread_self s tid _

theorem onlyThread_bump (s : State) (p i n : Nat) (tid : Nat) : OnlyThread s (bump s p i n) tid :=
  ⟨fun j _ => by simp [threadAt], by simp⟩

/-- What a grant makes of a step that completes the entry: it leaves the queue (R27), whether or not it enters the reuse table. -/
theorem grant_done {u : Thread} (h : threadAt s' tid = some u) : OnlyThread s' (grant s tid (.done s')) tid ∧
    threadAt (grant s tid (.done s')) tid = some { u with vq := u.vq.drop 1 } := by
  have hb : threadAt (bump s' (tid / 4) 1 1) tid = some u := by simpa [threadAt] using h
  obtain ⟨s1, ht, hm, he⟩ : ∃ s1, s1.threads = s'.threads ∧ s1.mem = s'.mem ∧ grant s tid (.done s') = completeHead s1 tid := by
    unfold grant
    dsimp only
    split
    · exact ⟨_, by simp, by rw [(rsOnly_rsInsert _ _ _).mem]; simp, rfl⟩
    · exact ⟨_, by simp, by simp, rfl⟩
  have h1 (j : Nat) : threadAt s1 j = threadAt s' j := by rw [threadAt, ht, threadAt]
  rw [he]
  refine ⟨⟨fun j hj => ?_, ?_⟩, threadAt_completeHead ((h1 tid).trans h)⟩
  · rw [threadAt_completeHead_ne hj, h1]
  · rw [completeHead_mem, hm]

theorem grant_more (s s' : State) (tid : Nat) : OnlyThread s' (grant s tid (.more s')) tid ∧
    threadAt (grant s tid (.more s')) tid = threadAt s' tid :=
  ⟨onlyThread_bump s' _ 1 1 tid, by simp [grant, threadAt]⟩

/-! ## The arbiter of a cluster with one thread -/

/-- Thread 4 × cl + k is alone in its cluster, and holds lane group `g`. -/
structure HoldsAlone (s : State) (cl k g : Nat) : Prop where
  alone : ∀ j, j < 4 → j ≠ k → threadAt s (4 * cl + j) = none
  holder : ∃ u, threadAt s (4 * cl + k) = some u ∧ u.lgrp = some g

variable {cl k g : Nat}

/-- A slot of the cluster that has a thread is the holder's. -/
theorem HoldsAlone.lgrp (h : HoldsAlone s cl k g) {j : Nat} (hj : j < 4) {u : Thread} (hu : threadAt s (4 * cl + j) = some u) :
    j = k ∧ u.lgrp = some g := by
  obtain ⟨x, hx, hg⟩ := h.holder
  by_cases hjk : j = k
  · subst hjk
    rw [hx] at hu
    cases hu
    exact ⟨rfl, hg⟩
  · rw [h.alone j hj hjk] at hu
    cases hu

theorem HoldsAlone.groupHolder_other (h : HoldsAlone s cl k g) {g' : Nat} (hg : g' ≠ g) : groupHolder s cl g' = none := by
  rw [groupHolder, List.find?_eq_none]
  intro j hj
  cases hu : threadAt s (4 * cl + j) with
  | none => simp
  | some u => simp [(h.lgrp (List.mem_range.mp hj) hu).2, Ne.symm hg]

theorem HoldsAlone.groupHolder_own (h : HoldsAlone s cl k g) (hk : k < 4) : groupHolder s cl g = some k := by
  obtain ⟨u, hu, hg⟩ := h.holder
  cases hf : groupHolder s cl g with
  | none =>
    rw [groupHolder, List.find?_eq_none] at hf
    simpa [hu, hg] using hf k (List.mem_range.mpr hk)
  | some j =>
    rw [groupHolder] at hf
    have hj := List.mem_range.mp (List.mem_of_find?_eq_some hf)
    have hp := List.find?_some hf
    cases hu : threadAt s (4 * cl + j) with
    | none => simp [hu] at hp
    | some x => rw [(h.lgrp hj hu).1]

/-- No thread of the cluster shares lane groups, so that the arbiter has none to give one to (R273). -/
theorem HoldsAlone.arbitrate_none (h : HoldsAlone s cl k g) : arbitrate s cl = none := by
  have hs : ∀ j ∈ ringFrom (clusterOf s cl).ptr, ¬ sharesReady s cl j = true := by
    intro j hj
    have hj4 : j < 4 := by
      simp only [ringFrom, List.map_cons, List.map_nil, List.mem_cons, List.not_mem_nil, or_false] at hj
      omega
    cases hu : threadAt s (4 * cl + j) with
    | none => simp [sharesReady, readyStep, hu]
    | some u => simp [sharesReady, hu, (h.lgrp hj4 hu).2]
  have hring : (ringFrom (clusterOf s cl).ptr).filter (sharesReady s cl) = [] := List.filter_eq_nil_iff.mpr hs
  rw [arbitrate]
  simp [hring]

/-- A lane group that the thread does not hold is granted to no one. -/
theorem HoldsAlone.issueGroup_other (h : HoldsAlone s cl k g) {g' : Nat} (hg : g' ≠ g) : issueGroup cl s g' = s := by
  rw [issueGroup, h.groupHolder_other hg, h.arbitrate_none]
  exact ite_self s

/-- The group that it holds is granted to it once (R273). -/
theorem HoldsAlone.issue_once (h : HoldsAlone s cl k g) (hk : k < 4) (hg : g < 4) (hb : groupBusy s cl g = false) {r : Res}
    (hr : readyStep s (4 * cl + k) = some r) (h' : HoldsAlone (grant s (4 * cl + k) r) cl k g) :
    [0, 1, 2, 3].foldl (issueGroup cl) s = grant s (4 * cl + k) r := by
  have hown : issueGroup cl s g = grant s (4 * cl + k) r := by
    rw [issueGroup, hb, h.groupHolder_own hk]
    dsimp only
    rw [hr]
    rfl
  have hbefore : ∀ j, j ≠ g → issueGroup cl s j = s := fun j hj => h.issueGroup_other hj
  have hafter : ∀ j, j ≠ g → issueGroup cl (grant s (4 * cl + k) r) j = grant s (4 * cl + k) r := fun j hj => h'.issueGroup_other hj
  simp only [List.foldl_cons, List.foldl_nil]
  interval_cases g
  · rw [hown, hafter 1 (by decide), hafter 2 (by decide), hafter 3 (by decide)]
  · rw [hbefore 0 (by decide), hown, hafter 2 (by decide), hafter 3 (by decide)]
  · rw [hbefore 0 (by decide), hbefore 1 (by decide), hown, hafter 3 (by decide)]
  · rw [hbefore 0 (by decide), hbefore 1 (by decide), hbefore 2 (by decide), hown]

section
variable {cl k g : Nat} (h : SoleHolder s cl k g t e rest)
include h

theorem SoleHolder.holdsAlone : HoldsAlone s cl k g := ⟨h.alone, t, h.vcp.here, h.holds⟩

/-- Its next grant is the step of its entry at vcp. -/
theorem SoleHolder.readyStep_eq {r : Res} (hr : laneStep s (4 * cl + k) t e = r) (hw : ∀ x, r ≠ .wait x) :
    readyStep s (4 * cl + k) = some r := by
  have hc : (!headFree t || !needsLanes e.instr || !e.begun) = false := by simp [h.vcp.free, h.lanes, h.begun]
  rw [readyStep, h.vcp.here]
  dsimp only
  rw [h.vcp.queue]
  dsimp only
  rw [hc, hr]
  cases r with
  | wait x => exact absurd rfl (hw x)
  | done x | more x | trap x _ _ _ => rfl

/-- One grant of the cluster, when the step leaves other threads alone and the holder its lane group. -/
theorem SoleHolder.issueGrant_eq {r : Res} {u : Thread} (hr : laneStep s (4 * cl + k) t e = r) (hw : ∀ x, r ≠ .wait x)
    (ho : OnlyThread s (grant s (4 * cl + k) r) (4 * cl + k)) (hu : threadAt (grant s (4 * cl + k) r) (4 * cl + k) = some u)
    (hl : u.lgrp = t.lgrp) : exec (.issueGrant cl) s = .next (grant s (4 * cl + k) r) := by
  have h' : HoldsAlone (grant s (4 * cl + k) r) cl k g :=
    ⟨fun j hj hjk => (ho.threads _ (by omega)).trans (h.alone j hj hjk), u, hu, hl.trans h.holds⟩
  rw [exec_issueGrant, h.holdsAlone.issue_once h.slot h.group h.free (h.readyStep_eq hr hw) h']

/-- A mask tag touches no other thread, since there is none in the cluster. -/
theorem SoleHolder.onlyThread_tag (w : Thread) :
    OnlyThread s (tagMask (setThread s (4 * cl + k) w) (4 * cl + k) e) (4 * cl + k) := by
  have hk := h.slot
  refine ⟨fun j hj => ?_, ?_⟩
  · by_cases hc : j / 4 = (4 * cl + k) / 4
    · have hn : threadAt s j = none := by
        have := h.alone (j % 4) (Nat.mod_lt _ (by decide)) (by omega)
        rwa [show 4 * cl + j % 4 = j by omega] at this
      rw [hn]
      exact (rsOnly_tagMask _ _ _).threadAt_none ((threadAt_setThread_ne s w hj).trans hn)
    · rw [tagMask_others hc, threadAt_setThread_ne s w hj]
  · rw [(rsOnly_tagMask _ _ _).mem, setThread_mem]

/-- A step that writes registers of the thread, and the tag of a mask destination, is committed with the entry gone or further on:
the thread is as the step left it, up to keys. -/
theorem SoleHolder.grant_tagged {x : Thread} (hx : RegsOnly t x) :
    let s1 := tagMask (setThread s (4 * cl + k) x) (4 * cl + k) e
    (laneStep s (4 * cl + k) t e = .done s1 → ∃ s' u, exec (.issueGrant cl) s = .next s' ∧ OnlyThread s s' (4 * cl + k) ∧
      threadAt s' (4 * cl + k) = some u ∧ unkeyed u = unkeyed { x with vq := rest }) ∧
    ∀ hi, laneStep s (4 * cl + k) t e = .more (modHead s1 (4 * cl + k) (fun y => { y with k := hi })) →
      ∃ s' u, exec (.issueGrant cl) s = .next s' ∧ OnlyThread s s' (4 * cl + k) ∧ threadAt s' (4 * cl + k) = some u ∧
        unkeyed u = unkeyed { x with vq := { e with k := hi } :: rest } := by
  intro s1
  have hxq : x.vq = e :: rest := by rw [hx]; exact h.vcp.queue
  have hxl : x.lgrp = t.lgrp := by rw [hx]
  have hown : OnlyThread s s1 (4 * cl + k) := h.onlyThread_tag x
  obtain ⟨y, hy, hyx⟩ := (rsOnly_tagMask (setThread s (4 * cl + k) x) (4 * cl + k) e).threadAt (threadAt_setThread_self s _ x)
  obtain ⟨hy', hyq⟩ := unkeyed_eq_iff.mp hyx
  have hyl : y.lgrp = t.lgrp := by rw [hy']; exact hxl
  rw [hxq, List.map_cons] at hyq
  obtain ⟨e1, r1, hq1, he1, hr1⟩ := List.map_eq_cons_iff.mp hyq
  refine ⟨fun hstep => ?_, fun hi hstep => ?_⟩
  · obtain ⟨ho, hu⟩ := grant_done (s := s) hy
    refine ⟨_, _, h.issueGrant_eq hstep (done_ne_wait _) (hown.trans ho) hu hyl, hown.trans ho, hu, unkeyed_eq_iff.mpr ⟨?_, ?_⟩⟩
    · rw [hy']
    · rw [hq1]; exact hr1
  · have hmod := threadAt_modHead hy hq1 (fun y => { y with k := hi })
    obtain ⟨ho, hu⟩ := grant_more s (modHead s1 (4 * cl + k) (fun y => { y with k := hi })) (4 * cl + k)
    have ho' := (hown.trans (onlyThread_modHead _ _ _)).trans ho
    refine ⟨_, _, h.issueGrant_eq hstep (more_ne_wait _) ho' (hu.trans hmod) hyl, ho', hu.trans hmod, unkeyed_eq_iff.mpr ⟨?_, ?_⟩⟩
    · rw [hy']
    · rw [List.map_cons, List.map_cons, hr1]
      exact congrArg (fun z : Entry => { z with k := hi } :: rest.map unkey) he1

end

/-! ## What a grant commits -/

theorem VOnly.vq {u : Thread} (h : VOnly t u) : u.vq = t.vq := by rw [h]
theorem VOnly.lgrp {u : Thread} (h : VOnly t u) : u.lgrp = t.lgrp := by rw [h]

section
variable {cl k g : Nat} (h : SoleHolder s cl k g t e rest) (ha : accessOf t e = none)
include h ha

/-- An element group of a v destination (R133, R134). -/
theorem SoleHolder.grant_groups {d p w : Nat} {f : Nat → Nat} (hw : laneWork t e = some (.groups d p w f)) :
    let hi := min (nElems e.cap) (groupEnd w e.k)
    ∃ s', exec (.issueGrant cl) s = .next s' ∧ OnlyThread s s' (4 * cl + k) ∧ threadAt s' (4 * cl + k) =
      some { writeGroup t p d w e.k hi f with vq := if nElems e.cap ≤ hi then rest else { e with k := hi } :: rest } := by
  intro hi
  let u := writeGroup t p d w e.k hi f
  have hv : VOnly t u := vOnly_writeGroup t p d w e.k hi f
  have hq : u.vq = e :: rest := hv.vq.trans h.vcp.queue
  have hset : threadAt (setThread s (4 * cl + k) u) (4 * cl + k) = some u := threadAt_setThread_self s _ u
  have hstep := (laneStep_work (s := s) (tid := 4 * cl + k) ha hw).trans (workStep_groups hw)
  have hown := onlyThread_setThread s (4 * cl + k) u
  by_cases hn : nElems e.cap ≤ hi
  · obtain ⟨ho, hu⟩ := grant_done (s := s) hset
    refine ⟨_, h.issueGrant_eq (hstep.trans (if_pos hn)) (done_ne_wait _) (hown.trans ho) hu hv.lgrp, hown.trans ho, ?_⟩
    rw [hu, hq, if_pos hn, List.drop_one, List.tail_cons]
  · have hmod := threadAt_modHead hset hq (fun x => { x with k := hi })
    obtain ⟨ho, hu⟩ := grant_more s (modHead (setThread s (4 * cl + k) u) (4 * cl + k) (fun x => { x with k := hi })) (4 * cl + k)
    have ho' := (hown.trans (onlyThread_modHead _ _ _)).trans ho
    refine ⟨_, h.issueGrant_eq (hstep.trans (if_neg hn)) (more_ne_wait _) ho' (hu.trans hmod) hv.lgrp, ho', ?_⟩
    rw [hu, hmod, if_neg hn]

/-- Bits of a mask destination, those from n on cleared by the last group (R138). -/
theorem SoleHolder.grant_bits {d p w : Nat} {f : Nat → Bool} (hw : laneWork t e = some (.bits d p w f)) (hd : 1 ≤ d) :
    let n := nElems e.cap
    let hi := min n (groupEnd w e.k)
    ∃ s' u, exec (.issueGrant cl) s = .next s' ∧ OnlyThread s s' (4 * cl + k) ∧ threadAt s' (4 * cl + k) = some u ∧
      unkeyed u = unkeyed { t with p := u.p, vq := if n ≤ hi then rest else { e with k := hi } :: rest } ∧
      (∀ i, i < 16384 → maskBit u d i = if e.k ≤ i ∧ i < hi then maskBit t p i && f i
        else if n ≤ hi ∧ n ≤ i ∧ e.k ≤ i then false else maskBit t d i) ∧
      ∀ r, r ≠ d → rp u r = rp t r := by
  intro n hi
  have hd0 : d ≠ 0 := by omega
  have hle : hi ≤ n := Nat.min_le_left _ _
  let y := writeBits t p d e.k hi f
  have hy : POnly t y := pOnly_writeBits t p d e.k hi f
  have hstep := (laneStep_work (s := s) (tid := 4 * cl + k) ha hw).trans (workStep_bits hw)
  have hmask {u x : Thread} {q : List Entry} (hu : unkeyed u = unkeyed { x with vq := q }) : u.p = x.p := by
    have := congrArg Thread.p hu
    exact this
  by_cases hn : n ≤ hi
  · let x := clearFrom y d (max n e.k)
    have hx : POnly t x := hy.trans (pOnly_clearFrom y d _)
    obtain ⟨s', u, he, ho, hu, hux⟩ := (h.grant_tagged hx.regs).1 (hstep.trans (if_pos hn))
    have hp : u.p = x.p := hmask hux
    refine ⟨s', u, he, ho, hu, ?_, fun i hi' => ?_, fun r hr => ?_⟩
    · rw [hux, if_pos hn, hp]
      exact congrArg (fun z : Thread => unkeyed { z with vq := rest }) hx
    · have hb : maskBit u d i = maskBit x d i := by simp only [maskBit, hp]
      rw [hb, maskBit_clearFrom hd0 hi', maskBit_writeBits hd0 hi']
      by_cases hin : e.k ≤ i ∧ i < hi
      · rw [if_neg (by omega), if_pos hin, if_pos hin]
      · rw [if_neg hin, if_neg hin]
        by_cases hc : max n e.k ≤ i
        · rw [if_pos hc, if_pos (by omega)]
        · rw [if_neg hc, if_neg (by omega)]
    · have hb : rp u r = rp x r := by simp only [rp, hp]
      rw [hb]
      exact (rp_wp_ne hr _ _).trans (rp_wp_ne hr _ _)
  · obtain ⟨s', u, he, ho, hu, hux⟩ := (h.grant_tagged hy.regs).2 hi (hstep.trans (if_neg hn))
    have hp : u.p = y.p := hmask hux
    refine ⟨s', u, he, ho, hu, ?_, fun i hi' => ?_, fun r hr => ?_⟩
    · rw [hux, if_neg hn, hp]
      exact congrArg (fun z : Thread => unkeyed { z with vq := { e with k := hi } :: rest }) hy
    · have hb : maskBit u d i = maskBit y d i := by simp only [maskBit, hp]
      rw [hb, maskBit_writeBits hd0 hi', if_neg (fun hc : n ≤ hi ∧ n ≤ i ∧ e.k ≤ i => hn hc.1)]
    · have hb : rp u r = rp y r := by simp only [rp, hp]
      rw [hb]
      exact rp_wp_ne hr _ _

/-- What commits whole (R151). -/
theorem SoleHolder.grant_whole {f : Thread} (hw : laneWork t e = some (.whole f)) :
    ∃ s' u, exec (.issueGrant cl) s = .next s' ∧ OnlyThread s s' (4 * cl + k) ∧ threadAt s' (4 * cl + k) = some u ∧
      unkeyed u = unkeyed { f with vq := f.vq.drop 1 } := by
  have hf : RegsOnly t f := laneWork_whole hw
  have hq : f.vq.drop 1 = rest := by rw [hf]; exact congrArg (List.drop 1) h.vcp.queue
  rw [hq]
  exact (h.grant_tagged hf).1 ((laneStep_work ha hw).trans (workStep_whole hw))

end

/-! ## How an entry begins -/

/-- The entry as it begins: its e operand read, its lookup before it (R139, R298). -/
def beginning (t : Thread) (e : Entry) : Entry := { readE t e with begun := true, cleared := false }

/-- Reading the e operand changes nothing else of the entry. -/
theorem beginning_frame (t : Thread) (e : Entry) :
    beginning t e = { e with eb := (beginning t e).eb, begun := true, cleared := false } := by
  unfold beginning readE
  dsimp only
  split <;> rfl

/-- The e operand is element (0,0) of its register, at the captured width (R139, R140). -/
theorem beginning_eb {r : Reg} (h : (shapeOf e.instr).be = some r) (hb : e.eb = none) (t : Thread) :
    (beginning t e).eb = some (((rv t r.toNat).extractLsb' 0 (vfmtTy e.cap.vfmt).bits).zeroExtend 64) := by
  have he : elem t r.toNat (vfmtW e.cap.vfmt) 0 = ((rv t r.toNat).extractLsb' 0 (vfmtTy e.cap.vfmt).bits).toNat := by
    simp [elem, bitsAt, vfmtW]
  rw [beginning, readE, h, hb]
  show some (BitVec.ofNat 64 (elem t r.toNat (vfmtW e.cap.vfmt) 0)) = _
  rw [he, BitVec.ofNat_toNat]

@[simp] theorem modHead_clusters (s : State) (tid : Nat) (f : Entry → Entry) : (modHead s tid f).clusters = s.clusters := by
  unfold modHead
  split <;> rfl

/-- A lookup that finds no entry leaves the key with the entry, and counts (R298, R305). -/
theorem beginLanes_miss (hr : (clusterOf s (tid / 4)).rs.table = []) (t : Thread) (e : Entry) :
    ∃ s1 key, RsOnly (modHead s tid (fun _ => beginning t e)) s1 ∧
      beginLanes s tid t e = awaitGrants s1 tid t { beginning t e with key := key } := by
  unfold beginLanes
  dsimp only
  split
  · exact ⟨_, none, RsOnly.refl _, rfl⟩
  · next key hk =>
    have ht : (clusterOf (bump (modHead s tid (fun _ => beginning t e)) (tid / 4) 6 1) (tid / 4)).rs.table = [] := by
      rw [clusterOf, bump_clusters, modHead_clusters]
      exact hr
    refine ⟨_, some key, rsOnly_bump _ (tid / 4) 6 1, ?_⟩
    dsimp only [beginning] at ht ⊢
    rw [ht]
    rfl

/-- An entry with elements to do waits for grants, its destinations renamed (R298). -/
theorem awaitGrants_waits {x : Entry} (hk : x.k < nElems x.cap) (s : State) (tid : Nat) (t : Thread) :
    awaitGrants s tid t x = .more (modHead (takeDests s tid x) tid (fun _ => x)) := by
  have hn : noGroups t x = false := by
    rw [noGroups]
    simp [show nElems x.cap ≠ 0 by omega, hk]
  rw [awaitGrants, hn]
  rfl

/-- An entry that begins stays at vcp, and nothing else of its thread changes but keys (R298). -/
theorem beginLanes_waits (hr : (clusterOf s (tid / 4)).rs.table = []) (hk : e.k < nElems e.cap) (h : threadAt s tid = some t)
    (hq : t.vq = e :: rest) : ∃ s' u key, beginLanes s tid t e = .more s' ∧ OnlyThreadRs s s' tid ∧ threadAt s' tid = some u ∧
      unkeyed u = unkeyed { t with vq := { beginning t e with key := key } :: rest } := by
  obtain ⟨s1, key, hs1, hbl⟩ := beginLanes_miss hr t e
  let x : Entry := { beginning t e with key := key }
  have hx : x.k < nElems x.cap := by
    have hb := beginning_frame t e
    show (beginning t e).k < nElems (beginning t e).cap
    rw [hb]
    exact hk
  have hrs : RsOnly (modHead s tid (fun _ => beginning t e)) (takeDests s1 tid x) := hs1.trans (rsOnly_takeDests s1 tid x)
  obtain ⟨y, hy, hyu⟩ := hrs.threadAt (threadAt_modHead h hq _)
  obtain ⟨hy', hyq⟩ := unkeyed_eq_iff.mp hyu
  obtain ⟨e1, r1, hq1, -, hr1⟩ := List.map_eq_cons_iff.mp hyq
  have hmod := threadAt_modHead hy hq1 (fun _ => x)
  have ho := onlyThread_modHead (takeDests s1 tid x) tid (fun _ => x)
  have ho' := onlyThread_modHead s tid (fun _ => beginning t e)
  refine ⟨_, _, key, hbl.trans (awaitGrants_waits hx s1 tid t), ⟨fun j hj => ?_, ?_⟩, hmod, unkeyed_eq_iff.mpr ⟨?_, ?_⟩⟩
  · rw [ho.threads j hj, hrs.threads j, ho'.threads j hj]
  · rw [ho.mem, hrs.mem, ho'.mem]
  · rw [hy']
  · rw [List.map_cons, List.map_cons, hr1]

/-- A turn of an entry at vcp that needs lanes (R27). -/
theorem entryAtVcp_lanes (h : AtVcp s tid t e rest) (hl : needsLanes e.instr = true) :
    exec (.entryAtVcp tid) s = .next (if e.begun then s else settle tid (beginLanes s tid t e)) := by
  have hc : (!headFree t || decide (e.uid ∈ s.dropped)) = false := by simp [h.free, h.whole]
  rw [exec_entryAtVcp, execEntryAtVcp, h.here]
  dsimp only
  rw [h.queue]
  dsimp only
  rw [hc, hl]
  rfl

/-- Settles O23: an entry begins by `beginLanes_waits`, and a grant commits what `laneWork` gives; a group's elements and bits read by the
laws of registers. -/
theorem lanesCommitByElementGroups : Obligations.LanesCommitByElementGroups := by
  unfold Obligations.LanesCommitByElementGroups
  refine ⟨fun s tid t e rest h hl => ⟨fun hb => ?begun, fun hb hr hk => ?begins⟩, fun s cl k g t e rest d p w h ha => ?grants,
    fun t p d w lo hi f hw hhi => ⟨fun i hi' => elem_writeGroup hw hhi hi' t, fun r hr => rv_writeGroup hw hr t, vOnly_writeGroup t p d w lo hi f⟩⟩
  case begun => rw [entryAtVcp_lanes h hl, if_pos hb]
  case begins =>
    obtain ⟨s', u, key, hbl, ho, hu, hux⟩ := beginLanes_waits hr hk h.here h.queue
    have hf := beginning_frame t e
    refine ⟨s', u, { beginning t e with key := key }, ?_, ho, hu, hux, rfl, ?_, ?_, ?_, ?_, fun r hbe heb => beginning_eb hbe heb t⟩
    · rw [entryAtVcp_lanes h hl, if_neg (by simp [hb]), hbl]
      rfl
    all_goals rw [hf]
  case grants =>
    exact ⟨fun f hw => h.grant_groups ha hw, fun f hw hd _ => h.grant_bits ha hw hd, fun f hw => h.grant_whole ha hw⟩

end Sys2Proof.Machine
end

section
/-! PROOFS. Physical writes and the trap of the entry at vcp (R29, R289, R290). -/

namespace Sys2Proof.Machine

variable {s s' s'' : State} {t : Thread} {e : Entry} {rest : List Entry} {tid : Nat}

/-! ## Homes that answer -/

/-- Which homes answer, and from where, is decided alike (R223, R312). -/
structure SameHomes (s s' : State) : Prop where
  fence : s'.fence = s.fence
  ports : s'.ports = s.ports
  cxlCap : s'.cxlCap = s.cxlCap

namespace SameHomes

theorem trans (h : SameHomes s s') (h' : SameHomes s' s'') : SameHomes s s'' :=
  ⟨h'.fence.trans h.fence, h'.ports.trans h.ports, h'.cxlCap.trans h.cxlCap⟩

theorem paExists (h : SameHomes s s') (a : Nat) : paExists s' a = Machine.paExists s a := by
  simp only [Machine.paExists, h.cxlCap]

theorem upFrom (h : SameHomes s s') (tile : Option Nat) (a : Nat) : upFrom s' tile a = Machine.upFrom s tile a := by
  simp only [Machine.upFrom, homeUp_congr h.fence h.ports, wayTo, routeUp_congr h.fence]

end SameHomes

/-! ## Physical writes -/

/-- `s'` has `s` but for memory, poison and event counters. -/
def StoresOnly (s s' : State) : Prop := s' = { s with mem := s'.mem, poison := s'.poison, counters := s'.counters }

namespace StoresOnly

theorem refl (s : State) : StoresOnly s s := rfl

theorem trans (h : StoresOnly s s') (h' : StoresOnly s' s'') : StoresOnly s s'' := by
  unfold StoresOnly at *
  rw [h', h]

theorem foldl {α : Type} {f : State → α → State} (hf : ∀ s a, StoresOnly s (f s a)) (l : List α) (s : State) :
    StoresOnly s (l.foldl f s) := by
  induction l generalizing s with
  | nil => exact refl s
  | cons a l ih => exact (hf s a).trans (ih (f s a))

theorem threads (h : StoresOnly s s') : s'.threads = s.threads := by rw [h]
theorem homes (h : StoresOnly s s') : SameHomes s s' := ⟨by rw [h], by rw [h], by rw [h]⟩

end StoresOnly

/-- One granule of a physical write. -/
def writeGranule (tile : Option Nat) (a : Nat) (l : List Byte) (s : State) (g : Nat × Nat) : State :=
  if paExists s g.1 && upFrom s tile g.1 then countAccess (performWrite s g.1 ((l.drop (g.1 - a)).take g.2)) g.1 else s

theorem physWrite_eq (s : State) (tile : Option Nat) (a : Nat) (l : List Byte) :
    physWrite s tile a l = (granulesOf a l.length).foldl (writeGranule tile a l) s := rfl

theorem storesOnly_writeGranule (tile : Option Nat) (a : Nat) (l : List Byte) (s : State) (g : Nat × Nat) :
    StoresOnly s (writeGranule tile a l s g) := by
  unfold writeGranule
  split
  · rw [StoresOnly, countAccess_frame]
    rfl
  · exact StoresOnly.refl s

theorem storesOnly_physWrite (s : State) (tile : Option Nat) (a : Nat) (l : List Byte) : StoresOnly s (physWrite s tile a l) :=
  StoresOnly.foldl (storesOnly_writeGranule tile a l) _ s

/-- The granules of a range are its parts. -/
theorem mem_granulesOf {a n : Nat} {g : Nat × Nat} (h : g ∈ granulesOf a n) : a ≤ g.1 ∧ g.1 + g.2 ≤ a + n ∧ 0 < g.2 := by
  simp only [granulesOf, List.mem_filterMap, List.mem_range, Option.ite_none_right_eq_some, Option.some.injEq] at h
  obtain ⟨i, -, hlt, rfl⟩ := h
  dsimp only
  omega

/-- Every byte of a range lies in one of its granules. -/
theorem exists_granulesOf {a n x : Nat} (h : a ≤ x ∧ x < a + n) : ∃ g ∈ granulesOf a n, g.1 ≤ x ∧ x < g.1 + g.2 := by
  refine ⟨(max a (256 * (x / 256)), min (a + n) (256 * (x / 256 + 1)) - max a (256 * (x / 256))), ?_, ?_, ?_⟩
  · rw [granulesOf, List.mem_filterMap]
    refine ⟨x / 256 - a / 256, List.mem_range.mpr (by omega), ?_⟩
    have hi : a / 256 + (x / 256 - a / 256) = x / 256 := by omega
    dsimp only
    rw [hi]
    exact if_pos (by omega)
  · dsimp only
    omega
  · dsimp only
    omega

/-- A byte after one granule of a write. -/
theorem readByte_writeGranule {tile : Option Nat} {a : Nat} {l : List Byte} {g : Nat × Nat} (hg : a ≤ g.1 ∧ g.1 + g.2 ≤ a + l.length)
    (hu : paExists s g.1 = true ∧ upFrom s tile g.1 = true) (x : Nat) :
    readByte (writeGranule tile a l s g).mem x =
      if g.1 ≤ x ∧ x < g.1 + g.2 then l.getD (x - a) 0 else readByte s.mem x := by
  have hlen : ((l.drop (g.1 - a)).take g.2).length = g.2 := by simp; omega
  rw [writeGranule, hu.1, hu.2, Bool.true_and, if_pos rfl, countAccess_mem, performWrite_mem, readByte_writeBytes, hlen]
  split
  · next h =>
    have h1 : x - g.1 < g.2 := by omega
    have h2 : g.1 - a + (x - g.1) = x - a := by omega
    simp [List.getD, h1, List.getElem?_drop, h2]
  · rfl

/-- A byte outside a range that is written. -/
theorem readByte_physWrite_outside {tile : Option Nat} {a x : Nat} {l : List Byte} (h : x < a ∨ a + l.length ≤ x) :
    readByte (physWrite s tile a l).mem x = readByte s.mem x := by
  have hin : ∀ g ∈ granulesOf a l.length, a ≤ g.1 ∧ g.1 + g.2 ≤ a + l.length := fun g hg => ⟨(mem_granulesOf hg).1, (mem_granulesOf hg).2.1⟩
  rw [physWrite_eq]
  generalize granulesOf a l.length = gs at hin
  induction gs generalizing s with
  | nil => rfl
  | cons g gs ih =>
    have hg := hin g List.mem_cons_self
    rw [List.foldl_cons, ih fun g hg => hin g (List.mem_cons_of_mem _ hg), writeGranule]
    split
    · have hlen : ((l.drop (g.1 - a)).take g.2).length = g.2 := by simp; omega
      rw [countAccess_mem, performWrite_mem, readByte_writeBytes, hlen, if_neg (by omega)]
    · rfl

/-- A byte of a range whose homes all answer, after the range was written. -/
theorem readByte_physWrite_inside {tile : Option Nat} {a x : Nat} {l : List Byte} (h : a ≤ x ∧ x < a + l.length)
    (hu : ∀ b, a ≤ b → b < a + l.length → paExists s b = true ∧ upFrom s tile b = true) :
    readByte (physWrite s tile a l).mem x = l.getD (x - a) 0 := by
  have hin : ∀ g ∈ granulesOf a l.length, (a ≤ g.1 ∧ g.1 + g.2 ≤ a + l.length) ∧ 0 < g.2 := fun g hg =>
    ⟨⟨(mem_granulesOf hg).1, (mem_granulesOf hg).2.1⟩, (mem_granulesOf hg).2.2⟩
  have hcov : readByte s.mem x = l.getD (x - a) 0 ∨ ∃ g ∈ granulesOf a l.length, g.1 ≤ x ∧ x < g.1 + g.2 := .inr (exists_granulesOf h)
  rw [physWrite_eq]
  generalize granulesOf a l.length = gs at hin hcov
  induction gs generalizing s with
  | nil => simpa using hcov
  | cons g gs ih =>
    obtain ⟨hg, hg0⟩ := hin g List.mem_cons_self
    have hs := storesOnly_writeGranule tile a l s g
    have hr := readByte_writeGranule (s := s) (l := l) hg (hu g.1 (by omega) (by omega)) x
    rw [List.foldl_cons]
    refine ih (fun b h1 h2 => ?_) (fun g hg => hin g (List.mem_cons_of_mem _ hg)) ?_
    · rw [hs.homes.paExists, hs.homes.upFrom]
      exact hu b h1 h2
    · rw [hr]
      split
      · exact .inl rfl
      · next hx =>
        rcases hcov with hc | ⟨k, hk, hkx⟩
        · exact .inl hc
        · rcases List.mem_cons.mp hk with rfl | hk
          · exact absurd hkx hx
          · exact .inr ⟨k, hk, hkx⟩

/-- A range whose homes all answer reads as it was written. -/
theorem readBytes_physWrite {tile : Option Nat} {a : Nat} {l : List Byte}
    (hu : ∀ b, a ≤ b → b < a + l.length → paExists s b = true ∧ upFrom s tile b = true) :
    readBytes (physWrite s tile a l).mem a l.length = l := by
  refine List.ext_getElem (length_readBytes _ _ _) fun i h h' => ?_
  rw [getElem_readBytes, readByte_physWrite_inside (by omega) hu, Nat.add_sub_cancel_left, List.getD_eq_getElem]

theorem readBytes_physWrite_outside {tile : Option Nat} {a b n : Nat} {l : List Byte} (h : b + n ≤ a ∨ a + l.length ≤ b) :
    readBytes (physWrite s tile a l).mem b n = readBytes s.mem b n := by
  refine List.ext_getElem (by simp) fun i h' _ => ?_
  have hi : i < n := by simpa using h'
  rw [getElem_readBytes, getElem_readBytes, readByte_physWrite_outside (by omega)]

/-! ## The records of held entries (R290) -/

@[simp] theorem length_vqRecord (e : Entry) : (vqRecord e).length = 128 := by simp [vqRecord, entryBytes]

/-- The record of one held entry is written. -/
def saveRecord (tile area : Nat) (s : State) (x : Entry × Nat) : State :=
  physWrite s (some tile) (area + 0x1000 + 128 * x.2) (vqRecord x.1)

theorem saveHeld_eq (s : State) (tile area : Nat) (held : List Entry) : ∃ s1, StoresOnly s s1 ∧
    saveHeld s tile area held = held.zipIdx.foldl (saveRecord tile area) s1 :=
  ⟨_, (storesOnly_physWrite s _ _ _).trans (storesOnly_physWrite _ _ _ _), rfl⟩

theorem storesOnly_saveHeld (s : State) (tile area : Nat) (held : List Entry) : StoresOnly s (saveHeld s tile area held) := by
  obtain ⟨s1, h1, he⟩ := saveHeld_eq s tile area held
  rw [he]
  exact h1.trans (StoresOnly.foldl (fun s _ => storesOnly_physWrite s _ _ _) _ s1)

/-- Records from the `j`-th on leave the earlier ones. -/
theorem readBytes_saveRecords_before (tile area : Nat) {i j : Nat} (hij : i < j) (held : List Entry) (s : State) :
    readBytes ((held.zipIdx j).foldl (saveRecord tile area) s).mem (area + 0x1000 + 128 * i) 128 =
      readBytes s.mem (area + 0x1000 + 128 * i) 128 := by
  induction held generalizing s j with
  | nil => rfl
  | cons e held ih =>
    rw [List.zipIdx_cons, List.foldl_cons, ih (by omega), saveRecord, readBytes_physWrite_outside]
    exact .inl (by dsimp only; omega)

/-- Each record whose homes answer stands at its place. -/
theorem readBytes_saveRecords {tile area : Nat} (j : Nat) (held : List Entry) (s : State)
    (hu : ∀ a, area + 0x1000 + 128 * j ≤ a → a < area + 0x1000 + 128 * (j + held.length) →
      paExists s a = true ∧ upFrom s (some tile) a = true) {i : Nat} {x : Entry} (hx : held[i]? = some x) :
    readBytes ((held.zipIdx j).foldl (saveRecord tile area) s).mem (area + 0x1000 + 128 * (j + i)) 128 = vqRecord x := by
  induction held generalizing s j i with
  | nil => simp at hx
  | cons e held ih =>
    rw [List.length_cons] at hu
    rw [List.zipIdx_cons, List.foldl_cons]
    cases i with
    | zero =>
      obtain rfl : e = x := by simpa using hx
      rw [readBytes_saveRecords_before tile area (by omega), saveRecord, ← length_vqRecord e]
      exact readBytes_physWrite fun b h1 h2 => hu b h1 (by rw [length_vqRecord] at h2; omega)
    | succ i =>
      have hs := storesOnly_physWrite s (some tile) (area + 0x1000 + 128 * j) (vqRecord e)
      rw [show j + (i + 1) = j + 1 + i by omega]
      refine ih (j + 1) _ (fun a h1 h2 => ?_) hx
      rw [saveRecord, hs.homes.paExists, hs.homes.upFrom]
      exact hu a (by omega) (by omega)

/-- The records of held entries stand in the save area. -/
theorem readBytes_saveHeld {tile area : Nat} {held : List Entry}
    (hu : ∀ a, area + 0x1000 ≤ a → a < area + 0x1000 + 128 * held.length → paExists s a = true ∧ upFrom s (some tile) a = true)
    {i : Nat} {x : Entry} (hx : held[i]? = some x) :
    readBytes (saveHeld s tile area held).mem (area + 0x1000 + 128 * i) 128 = vqRecord x := by
  obtain ⟨s1, h1, he⟩ := saveHeld_eq s tile area held
  rw [he]
  have h := readBytes_saveRecords 0 held s1 (fun a h2 h3 => by
    rw [h1.homes.paExists, h1.homes.upFrom]
    exact hu a (by omega) (by omega)) hx
  rwa [Nat.zero_add] at h

/-! ## The trap of the entry at vcp (R29, R289) -/

@[simp] theorem endScalar_threads (s : State) (cl owner : Nat) : (endScalar s cl owner).threads = s.threads := by simp [endScalar]

/-- The entry at vcp as a trap at element `k` leaves it. -/
def heldAt (e : Entry) (k : Nat) : Entry := { e with k := k, begun := false, sat := [] }

/-- The thread whose queue a trap at vcp holds, before it enters its handler. -/
def holding (t : Thread) (held : List Entry) : Thread := dropPush { t with vq := [], held := held, deferred := none, hold := .run }

/-- The thread in its handler. -/
def inHandler (t : Thread) (cause : BitVec 8) (tval : Word) (k : Nat) : Thread :=
  { t with
    csr := { t.csr with tcause := cause.zeroExtend 64, tval := tval, tepc := t.pc &&& ~~~3#64,
                        tstat := tstatOf true (t.held ≠ []) true, vesr := BitVec.ofNat 64 k },
    pc := t.csr.thand, hold := .run }

theorem takeTrap_vector (ht : threadAt s tid = some t) (hf : handlerFree t) (cause : BitVec 8) (tval : Word) (k : Nat) :
    takeTrap s tid cause tval t.pc (some k) = setThread (bump s (tid / 4) 14 1) tid (inHandler t cause tval k) := by
  unfold takeTrap
  rw [ht]
  dsimp only
  rw [if_neg (by simp [hf.1]), if_neg hf.2]
  rfl

theorem threadAt_saveHeld_self (s : State) (tid : Nat) (u : Thread) (cl slot tile area : Nat) (held : List Entry) :
    threadAt (saveHeld (rsDropLoads (setThread s tid u) cl slot) tile area held) tid = some u := by
  rw [threadAt, (storesOnly_saveHeld _ tile area held).threads, rsDropLoads_threads]
  exact threadAt_setThread_self s tid u

/-- The records of `held` stand in the save area of `t`, as far as its homes answer. -/
def RecordsStand (s s' : State) (tid area : Nat) (held : List Entry) : Prop :=
  (∀ a, area + 0x1000 ≤ a → a < area + 0x1000 + 128 * held.length → paExists s a = true ∧
    upFrom s (some (tileOfCluster (tid / 4))) a = true) →
  ∀ i x, held[i]? = some x → readBytes s'.mem (area + 0x1000 + 128 * i) 128 = vqRecord x

/-- A trap of the entry at vcp holds the queue from it on, writes its records, and enters the handler. -/
theorem vectorTrap_holds (ht : threadAt s tid = some t) (hq : t.vq = e :: rest) (hf : handlerFree t) (hh : t.hold = .run)
    (cause : BitVec 8) (tval : Word) (k : Nat) : ∃ s2, (∀ j, j ≠ tid → threadAt s2 j = threadAt s j) ∧
      RecordsStand s s2 tid t.area (heldAt e k :: rest) ∧
      vectorTrap s tid cause tval k false = setThread s2 tid (inHandler (holding t (heldAt e k :: rest)) cause tval k) := by
  let held := heldAt e k :: rest
  let s1 := endScalar (endMiss s (tid / 4) t.uid e.uid) (tid / 4) t.uid
  let s2 := rsDropLoads (setThread s1 tid (holding t held)) (tid / 4) (tid % 4)
  have h1 : SameHomes s s1 := ⟨by simp [s1, endScalar], by simp [s1, endScalar], by simp [s1, endScalar]⟩
  have hd : RsOnly (setThread s1 tid (holding t held)) s2 := rsOnly_rsDropLoads _ _ _
  have h2 : SameHomes s s2 := h1.trans ⟨by rw [hd.rest]; rfl, by rw [hd.rest]; rfl, by rw [hd.rest]; rfl⟩
  refine ⟨bump (saveHeld s2 (tileOfCluster (tid / 4)) t.area held) (tid / 4) 14 1, fun j hj => ?_, fun hu i x hx => ?_, ?_⟩
  · rw [threadAt, bump_threads, (storesOnly_saveHeld _ _ _ _).threads, rsDropLoads_threads]
    refine (threadAt_setThread_ne s1 _ hj).trans ?_
    simp [s1, threadAt]
  · rw [bump_mem]
    refine readBytes_saveHeld (fun a ha hb => ?_) hx
    rw [h2.paExists, h2.upFrom]
    exact hu a ha hb
  · unfold vectorTrap
    rw [ht]
    dsimp only
    rw [hq]
    dsimp only
    rw [if_neg (by simp [hf.1]), if_neg (by simp [hf.1]), hh, if_neg Bool.false_ne_true]
    dsimp only
    rw [List.append_nil]
    exact takeTrap_vector (threadAt_saveHeld_self s1 tid (holding t held) (tid / 4) (tid % 4) _ _ held) hf cause tval k

/-- A turn of an entry at vcp that needs no lanes. -/
theorem exec_entryAtVcp_engine (h : AtVcp s tid t e rest) (hl : needsLanes e.instr = false) :
    exec (.entryAtVcp tid) s = .next (settle tid (engineAtVcp s tid t e)) := by
  rw [exec_entryAtVcp, execEntryAtVcp, h.here]
  dsimp only
  rw [h.queue]
  dsimp only
  rw [h.free, decide_eq_false h.whole, hl, if_neg (by simp), if_neg Bool.false_ne_true]

/-- An entry at vcp that its engine finds at fault traps (R29). -/
theorem vecTraps_of_engine (h : AtVcp s tid t e rest) (hf : handlerFree t) (hh : t.hold = .run) (hl : needsLanes e.instr = false)
    {cause : BitVec 8} {tval : Word} (he : engineAtVcp s tid t e = .trap s cause tval e.k) :
    VecTraps s tid t e rest cause tval e.k := by
  obtain ⟨s2, hother, hrec, hv⟩ := vectorTrap_holds h.here h.queue hf hh cause tval e.k
  refine ⟨setThread s2 tid (inHandler (holding t (heldAt e e.k :: rest)) cause tval e.k),
    inHandler (holding t (heldAt e e.k :: rest)) cause tval e.k, ?_, threadAt_setThread_self s2 tid _,
    fun j hj => (threadAt_setThread_ne s2 _ hj).trans (hother j hj), rfl, rfl, rfl, rfl, rfl, rfl, rfl, rfl, rfl, rfl, rfl, rfl, hrec⟩
  rw [exec_entryAtVcp_engine h hl, he, settle, hv]

/-- An entry at vcp that its engine keeps waiting changes nothing. -/
theorem vcpWaits_of_engine (h : AtVcp s tid t e rest) (hl : needsLanes e.instr = false) (he : engineAtVcp s tid t e = .wait s) :
    VcpWaits s tid := by
  rw [VcpWaits, exec_entryAtVcp_engine h hl, he, settle]

end Sys2Proof.Machine
end

section
/-! PROOFS. The checks that fail at vcp (R180, R191, R200, R202, R245, R251). -/

namespace Sys2Proof.Machine

variable {s : State} {t : Thread} {e : Entry} {tid : Nat} {d a b : Reg} {p : PReg} {n : BitVec 2} {ty : ElemTy} {sc : Scope}

/-! ## Residency -/

/-- An HRES entry of a register without configuration: the fault of reason 1 (R180, R191). -/
theorem markerAtVcp_unset {r : Nat} (hr : hresReg e.instr = some r) (hn : tabFind t.h r = none) :
    markerAtVcp s tid t e = .trap s causeResFault (resTval r false 1) e.k := by
  simp [markerAtVcp, hr, hn]

theorem hresClrAtVcp_unset {r : Nat} (hn : tabFind t.h r = none) :
    hresClrAtVcp s tid t e r = .trap s causeResFault (resTval r false 1) e.k := by
  simp [hresClrAtVcp, hn]

theorem engineAtVcp_hres_unset (hn : tabFind t.h d.toNat = none) (h : e.instr = .hresClr d ∨ e.instr = .hresAnch d a n ∨
    e.instr = .hresLim d a n ∨ e.instr = .hresBind d a ∨ e.instr = .hresWmk d a) : needsLanes e.instr = false ∧
    engineAtVcp s tid t e = .trap s 0x12 (BitVec.ofNat 64 (d.toNat + 16)) e.k := by
  have hm (hr : hresReg e.instr = some d.toNat) := markerAtVcp_unset (s := s) (tid := tid) hr hn
  unfold engineAtVcp
  rcases h with h | h | h | h | h
  · rw [h]
    exact ⟨rfl, hresClrAtVcp_unset hn⟩
  all_goals
    have hr := hm (by rw [h]; rfl)
    rw [h]
    exact ⟨rfl, hr⟩

/-! ## Tiles and Caddy slots -/

theorem tileAtVcp_off (hq : t.tq.length < 16) (hn : tabFind t.t d.toNat = none) (data : BitVec 2048) :
    tileAtVcp s tid t e d p data = tileOffTrap s e d.toNat := by
  simp [tileAtVcp, Nat.not_le.mpr hq, hn]

theorem mmaAtVcp_off (hq : t.tq.length < 16) (hn : tabFind t.t d.toNat = none) :
    mmaAtVcp s tid t e d a b p ty = tileOffTrap s e d.toNat := by
  simp [mmaAtVcp, Nat.not_le.mpr hq, hn]

theorem tmovInAtVcp_off (hq : t.tq.length < 16) (hn : tabFind t.t d.toNat = none) :
    tmovInAtVcp s tid t e d a b p = tileOffTrap s e d.toNat := by
  simp [tmovInAtVcp, Nat.not_le.mpr hq, hn]

/-- An entry of a tile that is not on: the tile-disabled trap (R200). -/
theorem engineAtVcp_tile_off (hq : t.tq.length < 16) (hn : tabFind t.t d.toNat = none) (h : e.instr = .tileZero d p ∨
    e.instr = .tileOff d ∨ e.instr = .tileScal d a p ∨ e.instr = .tileMma d a b p ty ∨ e.instr = .tmovVtor d a b p ∨
    e.instr = .tmovVtoc d a b p) : needsLanes e.instr = false ∧ engineAtVcp s tid t e = tileOffTrap s e d.toNat := by
  unfold engineAtVcp
  rcases h with h | h | h | h | h | h <;> rw [h]
  · exact ⟨rfl, tileAtVcp_off hq hn _⟩
  · exact ⟨rfl, tileAtVcp_off hq hn _⟩
  · exact ⟨rfl, tileAtVcp_off hq hn _⟩
  · exact ⟨rfl, mmaAtVcp_off hq hn⟩
  · exact ⟨rfl, tmovInAtVcp_off hq hn⟩
  · exact ⟨rfl, tmovInAtVcp_off hq hn⟩

/-- tmov.rtov and ctov at vcp are one step, but for what they read. -/
theorem engineAtVcp_tmovOut (h : e.instr = .tmovRtov d a b p ∨ e.instr = .tmovCtov d a b p) : needsLanes e.instr = false ∧
    ∃ col, engineAtVcp s tid t e = tmovOutAtVcp s tid t e d a b p col := by
  unfold engineAtVcp
  rcases h with h | h <;> rw [h]
  · exact ⟨rfl, false, rfl⟩
  · exact ⟨rfl, true, rfl⟩

theorem tmovOutAtVcp_named {col : Bool} (h : ∃ q ∈ t.tq, tileName q.instr = some d.toNat) :
    tmovOutAtVcp s tid t e d a b p col = .wait s := by
  rw [tmovOutAtVcp, if_pos]
  simpa using h

theorem tmovOutAtVcp_off {col : Bool} (h : ¬ ∃ q ∈ t.tq, tileName q.instr = some d.toNat) (hn : tabFind t.t d.toNat = none) :
    tmovOutAtVcp s tid t e d a b p col = tileOffTrap s e d.toNat := by
  rw [tmovOutAtVcp, if_neg, hn]
  simpa using h

/-- The first name of a release is its A field. -/
theorem claimNames_cons (a b : Reg) : ∃ l, claimNames a b = a.toNat :: l := by
  rw [claimNames, List.range_succ_eq_map]
  exact ⟨_, rfl⟩

theorem matrixTrap_unbound (s : State) (e : Entry) (a : Reg) :
    matrixTrap s e 0 1 a.toNat = .trap s 0x19 (BitVec.ofNat 64 (16 + 128 * a.toNat)) e.k := by
  simp [matrixTrap, causeMatrix]

theorem relAtVcp_unbound (hq : t.tq.length < 16) (hn : tabFind t.q a.toNat = none) :
    relAtVcp s tid t e a b = matrixTrap s e 0 1 a.toNat := by
  obtain ⟨l, hl⟩ := claimNames_cons a b
  simp [relAtVcp, Nat.not_le.mpr hq, hl, hn]

/-- cdy.meta and cdy.rel of a name that is not bound: the matrix operand trap of reason 0 (R202). -/
theorem engineAtVcp_caddy_unbound (hq : t.tq.length < 16) (hn : tabFind t.q a.toNat = none)
    (h : e.instr = .cdyMeta d a ∨ e.instr = .cdyRel a b) : needsLanes e.instr = false ∧
    engineAtVcp s tid t e = .trap s 0x19 (BitVec.ofNat 64 (16 + 128 * a.toNat)) e.k := by
  rw [← matrixTrap_unbound]
  unfold engineAtVcp
  rcases h with h | h <;> rw [h]
  · exact ⟨rfl, by simp only [metaAtVcp, hn]⟩
  · exact ⟨rfl, relAtVcp_unbound hq hn⟩

/-! ## Latch bindings and atomics -/

theorem engineAtVcp_syncUbnd (h : e.instr = .syncUbnd d a sc) :
    needsLanes e.instr = false ∧ engineAtVcp s tid t e = ubndAtVcp s tid t e sc := by
  unfold engineAtVcp
  rw [h]
  exact ⟨rfl, rfl⟩

/-- Reason 0 of sync.ubnd: an unaligned latch or base (R245; log 43). -/
theorem ubndAtVcp_unaligned (h : ¬ (e.cap.xd.toNat % 8 = 0 ∧ e.cap.xa.toNat % 256 = 0)) :
    ubndAtVcp s tid t e sc = .trap s 0x24 0 e.k := by
  rw [ubndAtVcp, if_pos (by tauto)]
  rfl

/-- Reason 3: no binding of the latch (R245). -/
theorem ubndAtVcp_absent (h : e.cap.xd.toNat % 8 = 0 ∧ e.cap.xa.toNat % 256 = 0) (hb : ∀ x ∈ s.bindings, x.latch ≠ e.cap.xd) :
    ubndAtVcp s tid t e sc = .trap s 0x24 3 e.k := by
  rw [ubndAtVcp, if_neg (by tauto), List.find?_eq_none.mpr]
  · rfl
  · intro x hx
    simp [hb x (List.mem_reverse.mp hx)]

/-- A VAMO of 64-bit operands under a vfmt of another width: the atomic width trap with that width (R251). -/
theorem engineAtVcp_vamoAdd_width (hv : vfmtTy e.cap.vfmt = .s8) (h : e.instr = .vamoAdd d a b p false false false true) :
    needsLanes e.instr = false ∧ engineAtVcp s tid t e = .trap s 0x26 8 e.k := by
  have hw : vfmtW e.cap.vfmt = 8 := by rw [vfmtW, hv]; rfl
  unfold engineAtVcp
  rw [h]
  refine ⟨rfl, ?_⟩
  show amoAtVcp s tid t e ⟨.add, d, b, p, false, false, false, true⟩ = _
  rw [amoAtVcp, hw]
  exact if_pos (by simp)

/-- Settles O31: an engine that finds its entry at fault traps it with the queue held, and each check that fails does so. -/
theorem vectorTrapHoldsTheQueue : Obligations.VectorTrapHoldsTheQueue := by
  unfold Obligations.VectorTrapHoldsTheQueue
  intro s tid t e rest d a b p n ty sc h hf hh hq
  have traps {cause : BitVec 8} {tval : Word}
      (he : needsLanes e.instr = false ∧ engineAtVcp s tid t e = .trap s cause tval e.k) : VecTraps s tid t e rest cause tval e.k :=
    vecTraps_of_engine h hf hh he.1 he.2
  refine ⟨fun hn hi => traps (engineAtVcp_hres_unset hn hi), fun hn hi => traps (engineAtVcp_tile_off hq hn hi),
    fun hi hnamed => ?_, fun hi hnamed hn => ?_, fun hn hi => traps (engineAtVcp_caddy_unbound hq hn hi), fun hi => ⟨?_, ?_⟩,
    fun hv hi => traps (engineAtVcp_vamoAdd_width hv hi)⟩
  · obtain ⟨hl, col, he⟩ := engineAtVcp_tmovOut (s := s) (tid := tid) (t := t) hi
    exact vcpWaits_of_engine h hl (he.trans (tmovOutAtVcp_named hnamed))
  · obtain ⟨hl, col, he⟩ := engineAtVcp_tmovOut (s := s) (tid := tid) (t := t) hi
    exact traps ⟨hl, he.trans (tmovOutAtVcp_off hnamed hn)⟩
  · obtain ⟨hl, he⟩ := engineAtVcp_syncUbnd (s := s) (tid := tid) (t := t) hi
    exact fun ha => traps ⟨hl, he.trans (ubndAtVcp_unaligned ha)⟩
  · obtain ⟨hl, he⟩ := engineAtVcp_syncUbnd (s := s) (tid := tid) (t := t) hi
    exact fun ha hb => traps ⟨hl, he.trans (ubndAtVcp_absent ha hb)⟩

end Sys2Proof.Machine
end

section
/-! PROOFS. The scheduler: threads that start (R44, R265, R268), and launches that fail or complete (R46, R270). -/

namespace Sys2Proof.Machine

variable {s s' s'' : State} {l : Launch} {q : Nat} {r : QRec} {rs : List QRec}

theorem exec_schedulerPlace (s : State) : exec .schedulerPlace s = execSchedulerPlace s := rfl
theorem exec_retirementEntryFree (cl i : Nat) (s : State) : exec (.retirementEntryFree cl i) s = execRetirementEntryFree cl i s := rfl

/-! ## Status blocks: what writing one changes -/

theorem storesOnly_countPa (s : State) (a : Nat) : StoresOnly s (countPa s a) := by rw [StoresOnly, countPa_frame]

theorem storesOnly_countAccess (s : State) (a : Nat) : StoresOnly s (countAccess s a) := by rw [StoresOnly, countAccess_frame]

theorem storesOnly_bump (s : State) (p i n : Nat) : StoresOnly s (bump s p i n) := by rw [StoresOnly, bump_frame]

theorem storesOnly_countOwnWalk (s : State) (o : Origin) (c va : Nat) : StoresOnly s (countOwnWalk s o c va) := by
  unfold countOwnWalk countWalk
  split
  · exact StoresOnly.refl s
  · refine StoresOnly.trans ?_ (StoresOnly.foldl (fun s x => storesOnly_countPa s _) _ _)
    split
    · exact storesOnly_bump s _ _ _
    · exact StoresOnly.refl s

theorem storesOnly_countRange (s : State) (a n : Nat) : StoresOnly s (countRange s a n) := by
  unfold countRange
  split
  · exact StoresOnly.refl s
  · exact StoresOnly.foldl (fun s i => storesOnly_countAccess s _) _ s

theorem storesOnly_writePieces (o : Origin) (c : Nat) (ps : List (Nat × Nat)) (l : List Byte) (s : State) :
    StoresOnly s (writePieces s o c ps l).1 := by
  induction ps generalizing s l with
  | nil => exact StoresOnly.refl s
  | cons p ps ih =>
    obtain ⟨va, m⟩ := p
    rw [writePieces]
    split
    · next a _ =>
      split
      · have hw : StoresOnly s (performWrite s a (l.take m)) := rfl
        exact (hw.trans (storesOnly_countRange _ a m)).trans (ih _ _)
      · exact ih _ _
    · exact ih _ _

theorem storesOnly_writeStatus (s : State) (ctx : Nat) (raw : List Byte) (state err tile flat id : Nat) (tcause tval tepc : Word) :
    StoresOnly s (writeStatus s ctx raw state err tile flat id tcause tval tepc) :=
  (StoresOnly.foldl (fun s _ => storesOnly_countOwnWalk s _ _ _) _ s).trans (storesOnly_writePieces _ _ _ _ _)

/-! ## Outcomes -/

/-- Neither a thread nor a queue differs. -/
structure SameQueues (s s' : State) : Prop where
  threads : s'.threads = s.threads
  queues : s'.queues = s.queues

namespace SameQueues

theorem refl (s : State) : SameQueues s s := ⟨rfl, rfl⟩

theorem trans (h : SameQueues s s') (h' : SameQueues s' s'') : SameQueues s s'' :=
  ⟨h'.threads.trans h.threads, h'.queues.trans h.queues⟩

theorem foldl {α : Type} {f : State → α → State} (hf : ∀ s a, SameQueues s (f s a)) (l : List α) (s : State) :
    SameQueues s (l.foldl f s) := by
  induction l generalizing s with
  | nil => exact refl s
  | cons a l ih => exact (hf s a).trans (ih (f s a))

theorem of_storesOnly (h : StoresOnly s s') : SameQueues s s' := ⟨by rw [h], by rw [h]⟩

theorem queueAt (h : SameQueues s s') (q : Nat) : queueAt s' q = Machine.queueAt s q := by rw [Machine.queueAt, h.queues]; rfl

end SameQueues

theorem sameQueues_queueError (s : State) (q cause : Nat) : SameQueues s (queueError s q cause) := by
  rw [queueError, postEvent_frame]
  exact ⟨rfl, rfl⟩

/-- No later launch of the queue has taken the place of a launch's outcome (R266). -/
def placeFree (s : State) (id : Nat) : Prop :=
  (tabGet (0, LOut.completed) (queueAt s (id % 64)).outcomes (id / 64 % 1024)).1 ≤ id / 64

/-- The outcome of a launch enters its queue's table. -/
theorem setOutcome_eq {id : Nat} (h : placeFree s id) (o : LOut) : setOutcome s id o = setQueue s (id % 64)
    { queueAt s (id % 64) with outcomes := tabPut (queueAt s (id % 64)).outcomes (id / 64 % 1024) (id / 64, o) } :=
  if_neg (Nat.not_lt.mpr h)

theorem setOutcome_outcomes {id : Nat} (h : placeFree s id) (o : LOut) :
    tabFind (queueAt (setOutcome s id o) (id % 64)).outcomes (id / 64 % 1024) = some (id / 64, o) := by
  rw [setOutcome_eq h, queueAt_setQueue_self]
  exact tabFind_tabPut_self _ _ _

theorem setOutcome_recs (id : Nat) (o : LOut) (q : Nat) : (queueAt (setOutcome s id o) q).recs = (queueAt s q).recs := by
  unfold setOutcome
  dsimp only
  split
  · rfl
  · by_cases h : q = queueOf id
    · rw [h, queueAt_setQueue_self]
    · rw [queueAt_setQueue_ne _ _ h]

@[simp] theorem setOutcome_threads (id : Nat) (o : LOut) : (setOutcome s id o).threads = s.threads := by
  unfold setOutcome
  dsimp only
  split <;> rfl

/-! ## A head that leaves its queue -/

theorem dropHead_recs (h : (queueAt s q).recs = r :: rs) : (queueAt (dropHead s q) q).recs = rs := by
  unfold dropHead
  dsimp only
  rw [queueAt_setQueue_self]
  exact congrArg (List.drop 1) h

@[simp] theorem dropHead_threads (s : State) (q : Nat) : (dropHead s q).threads = s.threads := rfl

theorem dropHead_outcomes (s : State) (q j : Nat) : (queueAt (dropHead s q) j).outcomes = (queueAt s j).outcomes := by
  unfold dropHead
  dsimp only
  by_cases h : j = q
  · rw [h, queueAt_setQueue_self]
  · rw [queueAt_setQueue_ne _ _ h]
    rfl

/-- A launch that never ran leaves its queue with the outcome "failed" (R265, R270). -/
structure FailsAt (s s' : State) (q id : Nat) (rs : List QRec) : Prop where
  threads : s'.threads = s.threads
  recs : (queueAt s' q).recs = rs
  outcome : tabFind (queueAt s' (id % 64)).outcomes (id / 64 % 1024) = some (id / 64, .failed)

/-- What is said of a launch that never ran changes no thread and no queue but for its outcome. -/
theorem failRecord_eq (s : State) (id ctx code : Nat) (raw : List Byte) :
    ∃ s1, SameQueues s s1 ∧ failRecord s id ctx code raw = setOutcome s1 id .failed := by
  refine ⟨_, ?_, rfl⟩
  split
  · exact SameQueues.of_storesOnly (storesOnly_writeStatus _ _ _ _ _ _ _ _ _ _ _)
  · refine SameQueues.trans ?_ (sameQueues_queueError _ _ _)
    split
    · exact SameQueues.refl s
    · exact SameQueues.of_storesOnly (storesOnly_countOwnWalk _ _ _ _)

theorem failRecord_dropHead (hr : (queueAt s q).recs = r :: rs) (hp : placeFree s r.id) (ctx code : Nat) (raw : List Byte) :
    FailsAt s (failRecord (dropHead s q) r.id ctx code raw) q r.id rs := by
  obtain ⟨s1, h1, he⟩ := failRecord_eq (dropHead s q) r.id ctx code raw
  have hp1 : placeFree s1 r.id := by rwa [placeFree, h1.queueAt, dropHead_outcomes]
  rw [he]
  exact ⟨by rw [setOutcome_threads, h1.threads, dropHead_threads], by rw [setOutcome_recs, h1.queueAt, dropHead_recs hr],
    setOutcome_outcomes hp1 .failed⟩

/-! ## Completion (R46, R47) -/

/-- What is left when a launch has completed. -/
structure CompletedAt (s s' : State) (id : Nat) : Prop where
  clusters : s'.clusters = s.clusters
  launch : launchOf s' id = none
  bindings : ∀ b ∈ s'.bindings, b.launch ≠ some id
  barriers : ∀ b ∈ s'.barriers, b.launch ≠ id
  threads : s'.threads = s.threads
  outcome : tabFind (queueAt s' (id % 64)).outcomes (id / 64 % 1024) = some (id / 64, .completed)

theorem completeLaunch_completes (l : Launch) (hp : placeFree s l.id) : CompletedAt s (completeLaunch s l) l.id := by
  obtain ⟨s1, h1, he⟩ : ∃ s1, StoresOnly { s with
      bindings := s.bindings.filter (fun b => b.launch ≠ some l.id), barriers := s.barriers.filter (fun b => b.launch ≠ l.id),
      launches := s.launches.filter (fun x => x.id ≠ l.id) } s1 ∧ completeLaunch s l = setOutcome s1 l.id .completed :=
    ⟨_, storesOnly_writeStatus _ _ _ _ _ _ _ _ _ _ _, rfl⟩
  have hq : SameQueues s s1 := ⟨by rw [h1], by rw [h1]⟩
  have hp1 : placeFree s1 l.id := by rwa [placeFree, hq.queueAt]
  rw [he, setOutcome_eq hp1]
  refine ⟨by rw [h1]; rfl, ?_, ?_, ?_, hq.threads, ?_⟩
  · rw [launchOf, setQueue_launches, h1, List.find?_eq_none]
    intro x hx
    simpa using (List.mem_filter.mp hx).2
  · rw [setQueue_bindings, h1]
    intro b hb
    simpa using (List.mem_filter.mp hb).2
  · rw [setQueue_barriers, h1]
    intro b hb
    simpa using (List.mem_filter.mp hb).2
  · rw [← setOutcome_eq hp1]
    exact setOutcome_outcomes hp1 _

theorem clusterOf_only {cl : Nat} {c : Cluster} (hc : s.clusters = [(cl, c)]) : clusterOf s cl = c := by
  simp [clusterOf, hc, tabGet, tabFind]

/-- The only entry of the only tracker goes. -/
theorem clusters_eraseTracker {cl : Nat} {c : Cluster} (hc : s.clusters = [(cl, c)]) :
    ∀ x ∈ (setCluster s cl { c with tracker := [] }).clusters, x.2.tracker = [] := by
  intro x hx
  rw [setCluster, hc, tabSet] at hx
  split at hx
  · simp [tabErase] at hx
  · simp only [tabPut, lt_irrefl, ↓reduceIte, List.mem_singleton] at hx
    rw [hx]

theorem launchOf_id {id : Nat} (h : launchOf s id = some l) : l.id = id := by
  simpa using List.find?_some h

theorem trackerDone_iff (s : State) (r : Retired) : trackerDone s r = true ↔
    (∀ x ∈ s.inflight, x.owner ≠ r.uid) ∧ (∀ p ∈ s.pubs, p.owner ≠ r.uid) ∧ r.lq = [] := by
  simp [trackerDone, and_assoc]

theorem rangeMoving_still (hm : s.migration = none) (c va n : Nat) : rangeMoving s c va n = false := by simp [rangeMoving, hm]

/-- RETIREMENT_ENTRY_FREE of the entry that a cluster's tracker has alone (R46). -/
theorem retirementEntryFree_eq {cl : Nat} {c : Cluster} {r : Retired} (hc : clusterOf s cl = c) (ht : c.tracker = [r]) (hr : r.remote = [])
    (hm : s.migration = none) : execRetirementEntryFree cl 0 s = .next
      (if trackerDone s r && !isParked s r.launch then
        let s1 := setCluster s cl { c with tracker := [] }
        match launchOf s r.launch with
        | some l => if launchDone s1 l then completeLaunch s1 l else s1
        | none => s1
      else s) := by
  have hmv : ((launchOf s r.launch).any fun l => rangeMoving s l.ctx (recStatus l.raw) 64) = false := by
    cases launchOf s r.launch <;> simp [rangeMoving_still hm]
  unfold execRetirementEntryFree
  dsimp only
  rw [hc, ht]
  dsimp only [List.getElem?_cons_zero]
  rw [hmv, Bool.not_false, Bool.and_true, hr]
  rfl

/-! ## Threads that start (R44) -/

/-- A thread that starts has its arguments in x1 to x3 and zero elsewhere. -/
theorem freshThread_rx (l : Launch) (uid m area : Nat) (lane : Option Nat) : let u := freshThread l uid m area lane
    rx u 1 = BitVec.ofNat 64 (fieldAt l.raw 8 8) ∧ rx u 2 = BitVec.ofNat 64 u.flat ∧ rx u 3 = BitVec.ofNat 64 l.id ∧
    ∀ i : Reg, 4 ≤ i.toNat → rx u i = 0 := by
  have hx (i : Reg) (h0 : i ≠ 0) := show rx (freshThread l uid m area lane) i = tabGet 0 (freshThread l uid m area lane).x i.toNat from if_neg h0
  refine ⟨(hx 1 (by decide)).trans ?_, (hx 2 (by decide)).trans ?_, (hx 3 (by decide)).trans ?_, fun i hi => ?_⟩
  · exact (tabGet_tabSet_ne _ _ _ (by decide)).trans ((tabGet_tabSet_ne _ _ _ (by decide)).trans (tabGet_tabSet_self _ _ _ _))
  · exact (tabGet_tabSet_ne _ _ _ (by decide)).trans (tabGet_tabSet_self _ _ _ _)
  · exact tabGet_tabSet_self _ _ _ _
  · have h0 : i ≠ 0 := by
      rintro rfl
      simp at hi
    refine (hx i h0).trans ?_
    exact (tabGet_tabSet_ne _ _ _ (by omega)).trans ((tabGet_tabSet_ne _ _ _ (by omega)).trans (tabGet_tabSet_ne _ _ _ (by omega)))

/-- A slot of a placement, with its thread's save area. -/
abbrev Start := (Nat × Nat × Option Nat) × Nat

/-- What comes before a thread that starts stands in its slot: its deficit and its mask tags. -/
theorem startThread_eq (s : State) (l : Launch) (x : Nat × Nat × Option Nat) (area : Nat) : ∃ s1,
    (∀ j, (threadAt s1 j).map unkeyed = (threadAt s j).map unkeyed) ∧ s1.queues = s.queues ∧
    startThread s l x area = setThread { s1 with uid := s1.uid + 1 } x.1 (freshThread l s1.uid x.2.1 area x.2.2) := by
  have h := RsOnly.foldl (fun s n => rsOnly_rsTagMask s (x.1 / 4) (x.1 % 4) (n + 1)) (List.range 7)
    (setCluster s (x.1 / 4) { clusterOf s (x.1 / 4) with deficit := tabErase (clusterOf s (x.1 / 4)).deficit (x.1 % 4) })
  exact ⟨_, h.threads, by rw [h.rest]; rfl, rfl⟩

/-- The threads of a placement start one after the other. -/
def startAll (l : Launch) (s : State) (zs : List Start) : State := zs.foldl (fun s x => startThread s l x.1 x.2) s

theorem startAll_cons (s : State) (z : Start) (zs : List Start) :
    startAll l s (z :: zs) = startAll l (startThread s l z.1 z.2) zs := by
  unfold startAll
  exact List.foldl_cons

theorem startAll_others {zs : List Start} {j : Nat} (hj : j ∉ zs.map (fun z => z.1.1)) (s : State) :
    (threadAt (startAll l s zs) j).map unkeyed = (threadAt s j).map unkeyed := by
  induction zs generalizing s with
  | nil => rfl
  | cons z zs ih =>
    rw [List.map_cons, List.mem_cons, not_or] at hj
    obtain ⟨s1, h1, -, he⟩ := startThread_eq s l z.1 z.2
    rw [startAll_cons, ih hj.2, he, threadAt_setThread_ne _ _ hj.1]
    exact h1 j

theorem startAll_queues (zs : List Start) (s : State) : (startAll l s zs).queues = s.queues := by
  induction zs generalizing s with
  | nil => rfl
  | cons z zs ih =>
    obtain ⟨s1, -, h1, he⟩ := startThread_eq s l z.1 z.2
    rw [startAll_cons, ih, he]
    exact h1

/-- An empty queue has no keys. -/
theorem eq_of_unkeyed {t u : Thread} (h : unkeyed u = unkeyed t) (hq : t.vq = []) : u = t := by
  obtain ⟨hu, hv⟩ := unkeyed_eq_iff.mp h
  rw [hq, List.map_nil, List.map_eq_nil_iff] at hv
  rw [hu, hv, ← hq]

/-- Each of them stands in its slot as it started. -/
theorem startAll_starts {zs : List Start} (hn : (zs.map (fun z => z.1.1)).Nodup) (s : State) {z : Start} (hz : z ∈ zs) :
    ∃ uid, threadAt (startAll l s zs) z.1.1 = some (freshThread l uid z.1.2.1 z.2 z.1.2.2) := by
  induction zs generalizing s with
  | nil => cases hz
  | cons y zs ih =>
    rw [List.map_cons, List.nodup_cons] at hn
    rcases List.mem_cons.mp hz with rfl | hz
    · obtain ⟨s1, -, -, he⟩ := startThread_eq s l z.1 z.2
      have h := startAll_others (l := l) hn.1 (startThread s l z.1 z.2)
      rw [he, threadAt_setThread_self, Option.map_some, Option.map_eq_some_iff] at h
      obtain ⟨u, hu, hk⟩ := h
      rw [eq_of_unkeyed hk rfl] at hu
      refine ⟨s1.uid, ?_⟩
      rw [startAll_cons, he]
      exact hu
    · rw [startAll_cons]
      exact ih hn.2 _ hz

/-- The barriers of its gang groups are all that a placement adds beside (R240). -/
theorem sameQueues_startBarriers (s : State) (l : Launch) (taken : List (Nat × Nat × Option Nat)) :
    SameQueues s (startBarriers s l taken) := by
  unfold startBarriers
  refine SameQueues.foldl (fun s i => SameQueues.foldl (fun s g => ?_) _ s) _ s
  split
  · exact SameQueues.refl s
  · exact ⟨rfl, rfl⟩

/-- At `s'` the threads that a placement of `l` takes have started in its slots, each with its save area; others are as they were at
`s` (R44). -/
structure StartsAt (s s' : State) (l : Launch) (taken : List (Nat × Nat × Option Nat)) (areas : List Nat) : Prop where
  others : ∀ j, j ∉ taken.map (fun x => x.1) → (threadAt s' j).map unkeyed = (threadAt s j).map unkeyed
  starts : ∀ (i : Nat) (x : Nat × Nat × Option Nat) (area : Nat), taken[i]? = some x → areas[i]? = some area →
    ∃ uid, threadAt s' x.1 = some (freshThread l uid x.2.1 area x.2.2)

theorem startAtom_starts (l : Launch) (acc : PlaceAcc) (hn : (acc.taken.map (fun x => x.1)).Nodup)
    (ha : (freeAreas s l.ctx acc.taken.length).length = acc.taken.length) :
    StartsAt s (startAtom s l acc) l acc.taken (freeAreas s l.ctx acc.taken.length) ∧ (startAtom s l acc).queues = s.queues := by
  let zs : List Start := acc.taken.zip (freeAreas s l.ctx acc.taken.length)
  have hb := sameQueues_startBarriers (startAll l s zs) l acc.taken
  have hslots : zs.map (fun z => z.1.1) = acc.taken.map (fun x => x.1) := by
    conv_rhs => rw [← List.map_fst_zip ha.ge]
    rw [List.map_map]
    rfl
  have ht (j : Nat) : threadAt (startAtom s l acc) j = threadAt (startAll l s zs) j := congrArg (fun ts => tabFind ts j) hb.threads
  refine ⟨⟨fun j hj => ?_, fun i x area hx hr => ?_⟩, hb.queues.trans (startAll_queues zs s)⟩
  · rw [ht]
    exact startAll_others (by rwa [hslots]) s
  · rw [ht]
    have hz : (x, area) ∈ zs := List.mem_of_getElem? (List.getElem?_zip_eq_some.mpr ⟨hx, hr⟩ : zs[i]? = some (x, area))
    exact startAll_starts (by rwa [hslots]) s hz

/-- A placement for which there is room has a save area for each of its threads. -/
theorem roomFor_areas {acc : PlaceAcc} {gone : List Nat} (h : roomFor s gone l = some acc) :
    (freeAreas s l.ctx acc.taken.length).length = acc.taken.length := by
  unfold roomFor at h
  dsimp only at h
  split at h
  · split at h
    · next ha =>
      cases h
      exact ha
    · cases h
  · cases h

end Sys2Proof.Machine
end

section
/-! PROOFS. What SCHEDULER_PLACE and RETIREMENT_ENTRY_FREE come to (R37, R46, R265, R268). -/

namespace Sys2Proof.Machine

variable {s s' : State} {l : Launch} {q : Nat} {r : QRec} {rs : List QRec} {acc : PlaceAcc}

/-! ## One action of the scheduler -/

theorem execSchedulerPlace_ckpt (h : s.fw.running = some .ckpt) : execSchedulerPlace s = .next s := by
  rw [execSchedulerPlace, if_pos h]

theorem execSchedulerPlace_failing {code : Nat} (h : s.fw.running ≠ some .ckpt) (hf : failingHead s = some (q, code))
    (hr : (queueAt s q).recs = r :: rs) : execSchedulerPlace s = .next (failRecord (dropHead s q) r.id r.ctx code r.raw) := by
  rw [execSchedulerPlace, if_neg h, hf]
  dsimp only
  rw [hr]

theorem execSchedulerPlace_next (h : s.fw.running ≠ some .ckpt) (hf : failingHead s = none) :
    execSchedulerPlace s = .next (placeNext s) := by
  rw [execSchedulerPlace, if_neg h, hf]

theorem placeNext_waits (hu : unfinished s = some l) (hr : roomFor s [] l = none) : placeNext s = s := by
  rw [placeNext, hu]
  dsimp only
  rw [hr]

theorem placeNext_goes (hu : unfinished s = some l) (hr : roomFor s [] l = some acc) : placeNext s = startAtom s l acc := by
  rw [placeNext, hu]
  dsimp only
  rw [hr]

theorem placeNext_candidate (hu : unfinished s = none) (hc : candidateOf s = some q) (hr : (queueAt s q).recs = r :: rs) :
    placeNext s = placeCandidate s q r := by
  rw [placeNext, hu]
  dsimp only
  rw [hc]
  dsimp only
  rw [hr]

/-! ## The candidate -/

theorem lostChecked_iff (ls : List Word) :
    lostChecked ls = true ↔ gangHeight ls ≠ 0 ∨ ∃ w ∈ ls, lvlPlace w = 2 ∧ offDevice w = false := by
  simp [lostChecked]

/-- Check 0x07 fails where it is made and a group does not stand on the empty device (R35). -/
theorem levelLost_iff (s : State) (ls : List Word) :
    levelLost s ls = true ↔ lostChecked ls = true ∧ ¬ ∀ m ∈ atomStarts ls, fitsEmpty s ls m = true := by
  simp [levelLost]

theorem placeCandidate_fails (h : levelLost s (levelsOf r.raw) = true) :
    placeCandidate s q r = failRecord (dropHead s q) r.id r.ctx 0x07 r.raw := by
  rw [placeCandidate, if_pos h]

theorem placeCandidate_holds (h : levelLost s (levelsOf r.raw) = false) (hm : s.migration = none)
    (hr : roomFor s [] (launchOfRec s q r) = none) (hp : recPre r.raw = false) :
    placeCandidate s q r = { s with candidate := some q } := by
  unfold placeCandidate
  dsimp only
  rw [h, rangeMoving_still hm, hr, hp, if_neg Bool.false_ne_true, if_neg Bool.false_ne_true, if_neg Bool.false_ne_true]

/-- The state in which the threads of a candidate start: the launch stands placed, and its record has left the queue. -/
def asPlaced (s : State) (q : Nat) (r : QRec) : State :=
  dropHead { s with uid := s.uid + 1, scan := tabSet 0 s.scan (prioOf q) ((q + 1) % 8),
                    launches := s.launches ++ [launchOfRec s q r] } q

theorem placeCandidate_goes (h : levelLost s (levelsOf r.raw) = false) (hm : s.migration = none)
    (hr : roomFor s [] (launchOfRec s q r) = some acc) : placeCandidate s q r =
      writeStatus (startAtom (asPlaced s q r) (launchOfRec s q r) acc) r.ctx r.raw 1 0 0 0 r.id 0 0 0 := by
  unfold placeCandidate
  dsimp only
  rw [h, rangeMoving_still hm, hr, if_neg Bool.false_ne_true, if_neg Bool.false_ne_true]
  rfl

theorem asPlaced_recs (hr : (queueAt s q).recs = r :: rs) : (queueAt (asPlaced s q r) q).recs = rs := dropHead_recs hr

/-- A launch that has just been placed has saved no thread: the free areas are as they were. -/
theorem areasUsed_asPlaced (s : State) (q : Nat) (r : QRec) (ctx : Nat) : areasUsed (asPlaced s q r) ctx = areasUsed s ctx := by
  show _ ++ ((s.launches ++ [launchOfRec s q r]).filter (fun l => l.ctx = ctx)).flatMap (fun l => l.saved.map (fun v => v.area)) = _
  rw [List.filter_append, List.flatMap_append, areasUsed]
  have h : ([launchOfRec s q r].filter (fun l => l.ctx = ctx)).flatMap (fun l => l.saved.map (fun v => v.area)) = [] := by
    rw [List.filter_singleton]
    cases decide ((launchOfRec s q r).ctx = ctx) <;> rfl
  rw [h, List.append_nil]
  rfl

theorem freeAreas_asPlaced (s : State) (q : Nat) (r : QRec) (ctx n : Nat) :
    freeAreas (asPlaced s q r) ctx n = freeAreas s ctx n := by
  simp only [freeAreas, areasUsed_asPlaced]
  rfl

/-- The first group of a candidate with room starts, and its record leaves the queue (R268). -/
theorem placeCandidate_starts (h : levelLost s (levelsOf r.raw) = false) (hm : s.migration = none)
    (hq : (queueAt s q).recs = r :: rs) (hn : (acc.taken.map (fun x => x.1)).Nodup)
    (hr : roomFor s [] (launchOfRec s q r) = some acc) :
    StartsAt s (placeCandidate s q r) (launchOfRec s q r) acc.taken (freeAreas s r.ctx acc.taken.length) ∧
      (queueAt (placeCandidate s q r) q).recs = rs := by
  have ha := roomFor_areas hr
  rw [← freeAreas_asPlaced s q r] at ha
  obtain ⟨hs, hqs⟩ := startAtom_starts (launchOfRec s q r) acc hn ha
  have hw : SameQueues (startAtom (asPlaced s q r) (launchOfRec s q r) acc) (placeCandidate s q r) := by
    rw [placeCandidate_goes h hm hr]
    exact SameQueues.of_storesOnly (storesOnly_writeStatus _ _ _ _ _ _ _ _ _ _ _)
  have ht (j : Nat) : threadAt (placeCandidate s q r) j = threadAt (startAtom (asPlaced s q r) (launchOfRec s q r) acc) j := by
    rw [threadAt, hw.threads]
    rfl
  rw [freeAreas_asPlaced] at hs
  refine ⟨⟨fun j hj => ?_, fun i x area hx hy => ?_⟩, ?_⟩
  · rw [ht]
    exact hs.others j hj
  · rw [ht]
    exact hs.starts i x area hx hy
  · rw [hw.queueAt, queueAt, hqs]
    exact asPlaced_recs hq

/-! ## The retirement tracker (R46, R47) -/

/-- An entry with something outstanding, or of a launch that waits for its queue, stays. -/
theorem retirementEntryFree_waits {cl : Nat} {c : Cluster} {r : Retired} (hc : clusterOf s cl = c) (ht : c.tracker = [r])
    (hr : r.remote = []) (hm : s.migration = none) (h : trackerDone s r = false ∨ isParked s r.launch = true) :
    execRetirementEntryFree cl 0 s = .next s := by
  rw [retirementEntryFree_eq hc ht hr hm, if_neg]
  rcases h with h | h <;> simp [h]

/-- The last entry of a launch completes it (R46). -/
theorem retirementEntryFree_completes {cl : Nat} {c : Cluster} {r : Retired} (hc : s.clusters = [(cl, c)]) (ht : c.tracker = [r])
    (hr : r.remote = []) (hm : s.migration = none) (hd : trackerDone s r = true) (hl : launchOf s r.launch = some l)
    (hpk : l.parked = false) (hsv : l.saved = []) (hpl : threadsHere (levelsOf l.raw) ≤ l.placed)
    (hth : ∀ x ∈ s.threads, x.2.launch ≠ r.launch) (hp : placeFree s r.launch) : ∃ s', execRetirementEntryFree cl 0 s = .next s' ∧
      CompletedAt (setCluster s cl { c with tracker := [] }) s' r.launch := by
  have hid := launchOf_id hl
  have htr := clusters_eraseTracker hc
  have hdone : launchDone (setCluster s cl { c with tracker := [] }) l = true := by
    have h1 : (setCluster s cl { c with tracker := [] }).threads.any (fun x => x.2.launch = l.id) = false := by
      rw [hid, List.any_eq_false]
      intro x hx
      simpa using hth x hx
    have h2 : (setCluster s cl { c with tracker := [] }).clusters.any (fun x => x.2.tracker.any (fun y => y.launch = l.id)) = false := by
      rw [List.any_eq_false]
      intro x hx
      simp [htr x hx]
    rw [launchDone, h1, h2, decide_eq_true hpl, decide_eq_true hsv]
    rfl
  refine ⟨completeLaunch (setCluster s cl { c with tracker := [] }) l, ?_, ?_⟩
  · rw [retirementEntryFree_eq (clusterOf_only hc) ht hr hm, if_pos (by simp [hd, isParked, hl, hpk]), hl]
    dsimp only
    rw [if_pos hdone]
  · rw [← hid]
    exact completeLaunch_completes l (by rwa [hid])

/-! ## The scheduler, whole -/

@[simp] theorem freshThread_rv (l : Launch) (uid m area : Nat) (lane : Option Nat) (n : Nat) :
    rv (freshThread l uid m area lane) n = 0 := rfl

theorem freshThread_rp (l : Launch) (uid m area : Nat) (lane : Option Nat) {n : Nat} (h : n ≠ 0) :
    rp (freshThread l uid m area lane) n = 0 := if_neg h

theorem schedulerPlace_fails {code : Nat} (h : s.fw.running ≠ some .ckpt) (hf : failingHead s = some (q, code))
    (hr : (queueAt s q).recs = r :: rs) (hp : placeFree s r.id) :
    ∃ s', exec .schedulerPlace s = .next s' ∧ FailsAt s s' q r.id rs :=
  ⟨_, by rw [exec_schedulerPlace, execSchedulerPlace_failing h hf hr], failRecord_dropHead hr hp _ _ _⟩

theorem schedulerPlace_next (h : s.fw.running ≠ some .ckpt) (hf : failingHead s = none) :
    exec .schedulerPlace s = .next (placeNext s) := by rw [exec_schedulerPlace, execSchedulerPlace_next h hf]

/-- Settles O43: one action of the scheduler is the end of a head, the start of a group, or a wait; and the last entry of the
retirement tracker completes its launch. -/
theorem launchesStartAndComplete : Obligations.LaunchesStartAndComplete := by
  unfold Obligations.LaunchesStartAndComplete
  intro stale outcome
  refine ⟨fun s q r rs acc l code => ?_, fun s cl c r l hc ht hr hm => ?_⟩
  · intro ls checked fits starts fails
    have hstarts {l : Launch} {what : State → Prop} {s' : State} (he : exec .schedulerPlace s = .next s') (hw : what s')
        (h : StartsAt s s' l acc.taken (freeAreas s l.ctx acc.taken.length)) : starts l what := by
      refine ⟨s', he, hw, h.others, fun i x area hx ha => ?_⟩
      obtain ⟨uid, hu⟩ := h.starts i x area hx ha
      obtain ⟨h1, h2, h3, h4⟩ := freshThread_rx l uid x.2.1 area x.2.2
      exact ⟨_, hu, rfl, rfl, rfl, rfl, rfl, rfl, h1, h2, h3, h4, freshThread_rv l uid x.2.1 area x.2.2,
        fun _ hn => freshThread_rp l uid x.2.1 area x.2.2 hn, rfl, rfl, rfl, rfl⟩
    have hlost : levelLost s ls = true ↔ checked ∧ ¬ fits := by rw [levelLost_iff, lostChecked_iff]
    have hkept (h : checked → fits) : levelLost s ls = false := by
      rw [Bool.eq_false_iff, Ne, hlost]
      exact fun ⟨hch, hnf⟩ => hnf (h hch)
    refine ⟨fun h => ?_, fun h hf hr _ hp => ?_, fun h hf hn => ⟨fun hu hroom => ?_, fun hu hroom => ?_, fun hu hcand hr hm => ⟨?_, ?_, ?_⟩⟩⟩
    · rw [exec_schedulerPlace, execSchedulerPlace_ckpt h]
    · obtain ⟨s', he, hs⟩ := schedulerPlace_fails h hf hr hp
      exact ⟨s', he, hs.threads, hs.recs, hs.outcome⟩
    · rw [schedulerPlace_next h hf, placeNext_waits hu hroom]
    · refine hstarts (schedulerPlace_next h hf) trivial ?_
      rw [placeNext_goes hu hroom]
      exact (startAtom_starts l acc hn (roomFor_areas hroom)).1
    · intro hch hnf _ hp
      have hs := failRecord_dropHead hr hp r.ctx 0x07 r.raw
      rw [← placeCandidate_fails (hlost.mpr ⟨hch, hnf⟩), ← placeNext_candidate hu hcand hr] at hs
      exact ⟨_, schedulerPlace_next h hf, hs.threads, hs.recs, hs.outcome⟩
    · intro hfit hroom hpre
      rw [schedulerPlace_next h hf, placeNext_candidate hu hcand hr, placeCandidate_holds (hkept hfit) hm hroom hpre]
    · intro hfit hroom
      obtain ⟨hs, hrecs⟩ := placeCandidate_starts (hkept hfit) hm hr hn hroom
      rw [← placeNext_candidate hu hcand hr] at hs hrecs
      exact hstarts (schedulerPlace_next h hf) hrecs hs
  · intro quiet
    have hquiet : trackerDone s r = true ↔ quiet := trackerDone_iff s r
    refine ⟨fun h => ?_, fun h hl hpk hsv hpl hth hp => ?_⟩
    · rw [exec_retirementEntryFree]
      refine retirementEntryFree_waits (clusterOf_only hc) ht hr hm (h.imp (fun hn => ?_) id)
      rwa [Bool.eq_false_iff, Ne, hquiet]
    · obtain ⟨s', he, hs⟩ := retirementEntryFree_completes hc ht hr hm (hquiet.mpr h) hl hpk hsv hpl hth hp
      refine ⟨s', he, ?_, hs.launch, hs.bindings, hs.barriers, hs.threads, hs.outcome⟩
      rw [clusterOf, hs.clusters]
      exact congrArg Cluster.tracker (clusterOf_setCluster_self s cl _)

end Sys2Proof.Machine
end

section
/-! PROOFS. The laws of encodings (R54 to R66): codes, and what each field of an encoded word reads. -/

namespace Sys2Proof

open BitVec (extractLsb'_eq_self)

/-! ## Codes of the small enumerations -/

@[simp] theorem ElemTy.ofCode_code (c : ElemTy) : ElemTy.ofCode c.code = some c := by cases c <;> rfl
@[simp] theorem Scope.ofCode_code (c : Scope) : Scope.ofCode c.code = some c := by cases c <;> rfl
@[simp] theorem LdW.ofCode_code (c : LdW) : LdW.ofCode c.code = some c := by cases c <;> rfl
@[simp] theorem StW.ofCode_code (c : StW) : StW.ofCode c.code = some c := by cases c <;> rfl
@[simp] theorem VCond.ofCode_code (c : VCond) : VCond.ofCode c.code = some c := by cases c <;> rfl
@[simp] theorem WCond.ofCode_code (c : WCond) : WCond.ofCode c.code = some c := by cases c <;> rfl
@[simp] theorem Dim.ofCode_code (c : Dim) : Dim.ofCode c.code = some c := by cases c <;> rfl
@[simp] theorem IdxW.ofCode_code (c : IdxW) : IdxW.ofCode c.code = some c := by cases c <;> rfl
@[simp] theorem PWidth.ofCode_code (c : PWidth) : PWidth.ofCode c.code = c := by cases c <;> rfl
@[simp] theorem GMul.ofCode_code (c : GMul) : GMul.ofCode c.code = c := by cases c <;> rfl

/-- The type that the plane operations of VBPL ask for (R64). -/
@[simp] theorem ElemTy.ofCode_bpi : ElemTy.ofCode 13#4 = some .bpi := rfl

/-! ## The decoder's accessors, each a field of the word -/

@[simp] theorem sel_eq (w : IWord) (lo n : Nat) : sel w lo n = (w.extractLsb' lo n).toNat := rfl
@[simp] theorem fD_eq (w : IWord) : fD w = w.extractLsb' 21 5 := rfl
@[simp] theorem fA_eq (w : IWord) : fA w = w.extractLsb' 16 5 := rfl
@[simp] theorem fB_eq (w : IWord) : fB w = w.extractLsb' 11 5 := rfl
@[simp] theorem fP_eq (w : IWord) : fP w = w.extractLsb' 8 3 := rfl
@[simp] theorem fT_eq (w : IWord) : fT w = ElemTy.ofCode (w.extractLsb' 0 4) := rfl
@[simp] theorem fImm_eq (w : IWord) : fImm w = w.extractLsb' 0 16 := rfl
@[simp] theorem fCsr_eq (w : IWord) : fCsr w = w.extractLsb' 0 12 := rfl
@[simp] theorem fSc_eq (w : IWord) : fSc w = Scope.ofCode (w.extractLsb' 4 3) := rfl

/-- A one-bit subfield is a field of one bit, so that the laws of fields serve it too. -/
@[simp] theorem fBit_eq (w : IWord) (n : Nat) : fBit w n = (w.extractLsb' n 1)[0] := by simp [fBit]

@[simp] theorem bit1_getElem (b : Bool) : (bit1 b)[0] = b := by cases b <;> rfl

/-! ## The formats of R55: each field of a word that a format makes is what was put there -/

/-- A field that lies in one of two parts put together is a field of that part. -/
theorem extractLsb'_append {m n lo k : Nat} {x : BitVec m} {y : BitVec n} :
    (n ≤ lo → (x ++ y).extractLsb' lo k = x.extractLsb' (lo - n) k) ∧
    (lo + k ≤ n → (x ++ y).extractLsb' lo k = y.extractLsb' lo k) :=
  ⟨BitVec.extractLsb'_append_eq_of_le, BitVec.extractLsb'_append_eq_of_add_le⟩

section
variable (m : BitVec 6) (d a b : Reg) (p : PReg)

@[simp] theorem fmtC_fields (f : BitVec 11) :
    (fmtC m d a b f).extractLsb' 26 6 = m ∧ (fmtC m d a b f).extractLsb' 21 5 = d ∧ (fmtC m d a b f).extractLsb' 16 5 = a ∧
    (fmtC m d a b f).extractLsb' 11 5 = b := by
  unfold fmtC
  simp (disch := decide) only [extractLsb'_append, extractLsb'_eq_self, Nat.reduceSub, and_self]

@[simp] theorem fmtC_low (f : BitVec 11) {lo n : Nat} (h : lo + n ≤ 11) :
    (fmtC m d a b f).extractLsb' lo n = f.extractLsb' lo n := extractLsb'_append.2 h

/-- The words of SYS have three zero fields, which the decoder reads as one (R62). -/
@[simp] theorem fmtC_zero_fields (f : BitVec 11) : (fmtC m 0#5 0#5 0#5 f).extractLsb' 11 15 = 0 :=
  (extractLsb'_append.1 (by decide)).trans (by revert m; decide)

@[simp] theorem fmtV_fields (f : BitVec 8) :
    (fmtV m d a b p f).extractLsb' 26 6 = m ∧ (fmtV m d a b p f).extractLsb' 21 5 = d ∧
    (fmtV m d a b p f).extractLsb' 16 5 = a ∧ (fmtV m d a b p f).extractLsb' 11 5 = b ∧
    (fmtV m d a b p f).extractLsb' 8 3 = p := by
  unfold fmtV
  simp (disch := decide) only [extractLsb'_append, extractLsb'_eq_self, Nat.reduceSub, and_self]

@[simp] theorem fmtV_low (f : BitVec 8) {lo n : Nat} (h : lo + n ≤ 8) :
    (fmtV m d a b p f).extractLsb' lo n = f.extractLsb' lo n := extractLsb'_append.2 h

@[simp] theorem fmtI_fields (f : BitVec 16) :
    (fmtI m d a f).extractLsb' 26 6 = m ∧ (fmtI m d a f).extractLsb' 21 5 = d ∧ (fmtI m d a f).extractLsb' 16 5 = a := by
  unfold fmtI
  simp (disch := decide) only [extractLsb'_append, extractLsb'_eq_self, Nat.reduceSub, and_self]

@[simp] theorem fmtI_low (f : BitVec 16) {lo n : Nat} (h : lo + n ≤ 16) :
    (fmtI m d a f).extractLsb' lo n = f.extractLsb' lo n := extractLsb'_append.2 h

@[simp] theorem fmtU_fields (f : BitVec 21) :
    (fmtU m d f).extractLsb' 26 6 = m ∧ (fmtU m d f).extractLsb' 21 5 = d ∧ (fmtU m d f).extractLsb' 0 21 = f := by
  unfold fmtU
  simp (disch := decide) only [extractLsb'_append, extractLsb'_eq_self, Nat.reduceSub, and_self]

@[simp] theorem fmtBR_fields (off : BitVec 14) (c : BitVec 2) :
    (fmtBR a b off c).extractLsb' 26 6 = 0x08 ∧ (fmtBR a b off c).extractLsb' 21 5 = a ∧
    (fmtBR a b off c).extractLsb' 16 5 = b ∧ (fmtBR a b off c).extractLsb' 2 14 = off ∧
    (fmtBR a b off c).extractLsb' 0 2 = c := by
  unfold fmtBR
  simp (disch := decide) only [extractLsb'_append, extractLsb'_eq_self, Nat.reduceSub, and_self]

end

@[simp] theorem fmtJ_fields (off : BitVec 25) (l : BitVec 1) :
    (fmtJ off l).extractLsb' 26 6 = 0x09 ∧ (fmtJ off l).extractLsb' 1 25 = off ∧ (fmtJ off l).extractLsb' 0 1 = l := by
  unfold fmtJ
  simp (disch := decide) only [extractLsb'_append, extractLsb'_eq_self, Nat.reduceSub, and_self]

@[simp] theorem fmtQ_fields (l0 l1 l2 l3 l4 : BitVec 4) (op : BitVec 2) :
    (fmtQ l0 l1 l2 l3 l4 op).extractLsb' 26 6 = 0x22 ∧ (fmtQ l0 l1 l2 l3 l4 op).extractLsb' 22 4 = l0 ∧
    (fmtQ l0 l1 l2 l3 l4 op).extractLsb' 18 4 = l1 ∧ (fmtQ l0 l1 l2 l3 l4 op).extractLsb' 14 4 = l2 ∧
    (fmtQ l0 l1 l2 l3 l4 op).extractLsb' 10 4 = l3 ∧ (fmtQ l0 l1 l2 l3 l4 op).extractLsb' 6 4 = l4 ∧
    (fmtQ l0 l1 l2 l3 l4 op).extractLsb' 4 2 = op ∧ (fmtQ l0 l1 l2 l3 l4 op).extractLsb' 0 4 = 0 := by
  unfold fmtQ
  simp (disch := decide) only [extractLsb'_append, extractLsb'_eq_self, Nat.reduceSub, and_self]

/-! ## The subfields of R62 to R66 -/

@[simp] theorem fSop_fields (s : Bool) (op : BitVec 3) (t : ElemTy) :
    (fSop s op t).extractLsb' 7 1 = bit1 s ∧ (fSop s op t).extractLsb' 4 3 = op ∧
    (fSop s op t).extractLsb' 0 4 = t.code := by
  unfold fSop
  simp (disch := decide) only [extractLsb'_append, extractLsb'_eq_self, Nat.reduceSub, and_self]

@[simp] theorem fOp_fields (op lo : BitVec 4) :
    (fOp op lo).extractLsb' 4 4 = op ∧ (fOp op lo).extractLsb' 0 4 = lo := by
  unfold fOp
  simp (disch := decide) only [extractLsb'_append, extractLsb'_eq_self, Nat.reduceSub, and_self]

@[simp] theorem fOp5_fields (op : BitVec 5) (lo : BitVec 6) :
    (fOp5 op lo).extractLsb' 6 5 = op ∧ (fOp5 op lo).extractLsb' 0 6 = lo := by
  unfold fOp5
  simp (disch := decide) only [extractLsb'_append, extractLsb'_eq_self, Nat.reduceSub, and_self]

@[simp] theorem fAlu_fields (op : BitVec 4) :
    (fAlu op).extractLsb' 4 7 = 0 ∧ (fAlu op).extractLsb' 0 4 = op := by
  unfold fAlu
  simp (disch := decide) only [extractLsb'_append, extractLsb'_eq_self, Nat.reduceSub, and_self]

@[simp] theorem fHres_fields (op : BitVec 4) (n : BitVec 2) :
    (fHres op n).extractLsb' 7 4 = op ∧ (fHres op n).extractLsb' 5 2 = n ∧ (fHres op n).extractLsb' 0 5 = 0 := by
  unfold fHres
  simp (disch := decide) only [extractLsb'_append, extractLsb'_eq_self, Nat.reduceSub, and_self]

@[simp] theorem fKcnt_fields (op : BitVec 3) :
    (fKcnt op).extractLsb' 8 3 = op ∧ (fKcnt op).extractLsb' 0 8 = 0 := by
  unfold fKcnt
  simp (disch := decide) only [extractLsb'_append, extractLsb'_eq_self, Nat.reduceSub, and_self]

@[simp] theorem fSync_fields (op : BitVec 4) (sc : Scope) (lvl : BitVec 4) :
    (fSync op sc lvl).extractLsb' 7 4 = op ∧ (fSync op sc lvl).extractLsb' 4 3 = sc.code ∧
    (fSync op sc lvl).extractLsb' 0 4 = lvl := by
  unfold fSync
  simp (disch := decide) only [extractLsb'_append, extractLsb'_eq_self, Nat.reduceSub, and_self]

@[simp] theorem fVamo_fields (op : BitVec 4) (r q l x : Bool) :
    (fVamo op r q l x).extractLsb' 4 4 = op ∧ (fVamo op r q l x).extractLsb' 3 1 = bit1 r ∧
    (fVamo op r q l x).extractLsb' 2 1 = bit1 q ∧ (fVamo op r q l x).extractLsb' 1 1 = bit1 l ∧
    (fVamo op r q l x).extractLsb' 0 1 = bit1 x := by
  unfold fVamo
  simp (disch := decide) only [extractLsb'_append, extractLsb'_eq_self, Nat.reduceSub, and_self]

@[simp] theorem fVprm_fields (op : BitVec 4) (dim : Dim) (wd : PWidth) :
    (fVprm op dim wd).extractLsb' 4 4 = op ∧ (fVprm op dim wd).extractLsb' 2 2 = dim.code ∧
    (fVprm op dim wd).extractLsb' 0 2 = wd.code := by
  unfold fVprm
  simp (disch := decide) only [extractLsb'_append, extractLsb'_eq_self, Nat.reduceSub, and_self]

@[simp] theorem fVred_fields (dim : Dim) (op : BitVec 2) (t : ElemTy) :
    (fVred dim op t).extractLsb' 6 2 = dim.code ∧ (fVred dim op t).extractLsb' 4 2 = op ∧
    (fVred dim op t).extractLsb' 0 4 = t.code := by
  unfold fVred
  simp (disch := decide) only [extractLsb'_append, extractLsb'_eq_self, Nat.reduceSub, and_self]

@[simp] theorem fAccw_fields (op : BitVec 2) (t : ElemTy) :
    (fAccw op t).extractLsb' 6 2 = op ∧ (fAccw op t).extractLsb' 4 2 = 0 ∧ (fAccw op t).extractLsb' 0 4 = t.code := by
  unfold fAccw
  simp (disch := decide) only [extractLsb'_append, extractLsb'_eq_self, Nat.reduceSub, and_self]

@[simp] theorem fColl_fields (op : BitVec 3) (t : ElemTy) :
    (fColl op t).extractLsb' 8 3 = op ∧ (fColl op t).extractLsb' 4 4 = t.code ∧ (fColl op t).extractLsb' 0 4 = 0 := by
  unfold fColl
  simp (disch := decide) only [extractLsb'_append, extractLsb'_eq_self, Nat.reduceSub, and_self]

@[simp] theorem fCtl_fields (op : BitVec 4) (c : BitVec 12) :
    (fCtl op c).extractLsb' 12 4 = op ∧ (fCtl op c).extractLsb' 0 12 = c := by
  unfold fCtl
  simp (disch := decide) only [extractLsb'_append, extractLsb'_eq_self, Nat.reduceSub, and_self]

@[simp] theorem fLink_fields (op : BitVec 4) (ch lst : Bool) :
    (fLink op ch lst).extractLsb' 7 4 = op ∧ (fLink op ch lst).extractLsb' 6 1 = bit1 ch ∧
    (fLink op ch lst).extractLsb' 5 1 = bit1 lst ∧ (fLink op ch lst).extractLsb' 0 5 = 0 := by
  unfold fLink
  simp (disch := decide) only [extractLsb'_append, extractLsb'_eq_self, Nat.reduceSub, and_self]

/-- CH and LST are zero but in link.xfer, and the decoder reads the two as one (R66). -/
@[simp] theorem fLink_zero_fields (op : BitVec 4) : (fLink op false false).extractLsb' 5 2 = 0 := by revert op; decide

@[simp] theorem fMem_fields (wd : BitVec 3) (sg : Option Scope) (off : BitVec 4) :
    (fMem wd sg off).extractLsb' 8 3 = wd ∧ (fMem wd sg off).extractLsb' 7 1 = bit1 sg.isSome ∧
    (fMem wd sg off).extractLsb' 4 3 = sg.elim 0 Scope.code ∧ (fMem wd sg off).extractLsb' 0 4 = off := by
  cases sg <;> unfold fMem <;>
    simp (disch := decide) only [extractLsb'_append, extractLsb'_eq_self, Nat.reduceSub, and_true, true_and]
  · exact ⟨rfl, rfl⟩
  · exact ⟨rfl, rfl⟩

/-- SC stands behind S in LD and ST (R62). -/
@[simp] theorem fStrong_fmtC_fMem (m : BitVec 6) (d a b : Reg) (wd : BitVec 3) (sg : Option Scope) (off : BitVec 4) :
    fStrong (fmtC m d a b (fMem wd sg off)) = some sg := by cases sg <;> simp [fStrong]

/-! F of VSET, VWLD, VWST, VIDX and VWTC is its subfields put together, without a name in the model: by their widths. -/

@[simp] theorem append_2_2_4_fields (x y : BitVec 2) (z : BitVec 4) :
    (x ++ y ++ z : BitVec 8).extractLsb' 6 2 = x ∧ (x ++ y ++ z : BitVec 8).extractLsb' 4 2 = y := by
  simp (disch := decide) only [extractLsb'_append, extractLsb'_eq_self, Nat.reduceSub, and_self]

@[simp] theorem append_2_2_4_low (x y : BitVec 2) (z : BitVec 4) {lo n : Nat} (h : lo + n ≤ 4) :
    (x ++ y ++ z : BitVec 8).extractLsb' lo n = z.extractLsb' lo n := extractLsb'_append.2 h

@[simp] theorem append_2_2_2_2_fields (x y z v : BitVec 2) :
    (x ++ y ++ z ++ v : BitVec 8).extractLsb' 6 2 = x ∧ (x ++ y ++ z ++ v : BitVec 8).extractLsb' 4 2 = y ∧
    (x ++ y ++ z ++ v : BitVec 8).extractLsb' 2 2 = z ∧ (x ++ y ++ z ++ v : BitVec 8).extractLsb' 0 2 = v := by
  simp (disch := decide) only [extractLsb'_append, extractLsb'_eq_self, Nat.reduceSub, and_self]

@[simp] theorem append_2_2_2_1_1_fields (x y z : BitVec 2) (k l : BitVec 1) :
    (x ++ y ++ z ++ k ++ l : BitVec 8).extractLsb' 6 2 = x ∧ (x ++ y ++ z ++ k ++ l : BitVec 8).extractLsb' 4 2 = y ∧
    (x ++ y ++ z ++ k ++ l : BitVec 8).extractLsb' 2 2 = z ∧ (x ++ y ++ z ++ k ++ l : BitVec 8).extractLsb' 1 1 = k ∧
    (x ++ y ++ z ++ k ++ l : BitVec 8).extractLsb' 0 1 = l := by
  simp (disch := decide) only [extractLsb'_append, extractLsb'_eq_self, Nat.reduceSub, and_self]

@[simp] theorem append_2_2_3_1_fields (x y : BitVec 2) (z : BitVec 3) (k : BitVec 1) :
    (x ++ y ++ z ++ k : BitVec 8).extractLsb' 6 2 = x ∧ (x ++ y ++ z ++ k : BitVec 8).extractLsb' 4 2 = y ∧
    (x ++ y ++ z ++ k : BitVec 8).extractLsb' 1 3 = z ∧ (x ++ y ++ z ++ k : BitVec 8).extractLsb' 0 1 = k := by
  simp (disch := decide) only [extractLsb'_append, extractLsb'_eq_self, Nat.reduceSub, and_self]

@[simp] theorem append_3_1_4_fields (x : BitVec 3) (k : BitVec 1) (z : BitVec 4) :
    (x ++ k ++ z : BitVec 8).extractLsb' 5 3 = x ∧ (x ++ k ++ z : BitVec 8).extractLsb' 4 1 = k ∧
    (x ++ k ++ z : BitVec 8).extractLsb' 0 4 = z := by
  simp (disch := decide) only [extractLsb'_append, extractLsb'_eq_self, Nat.reduceSub, and_self]

end Sys2Proof
end

section
/-! PROOFS. The decoder reads back what the encoder writes (R59 to R67). -/

namespace Sys2Proof

/-! ## The parser of each major (R61) -/

section
variable {w : IWord}

theorem parse_sys (h : sel w 26 6 = 0x00) : parse w = some (parseSys w) := by rw [parse, h]; rfl
theorem parse_alu (h : sel w 26 6 = 0x01) : parse w = some (parseAlu w) := by rw [parse, h]; rfl
theorem parse_alui (h : sel w 26 6 = 0x02) : parse w = some (some (.alui (fD w) (fA w) (fImm w))) := by rw [parse, h]; rfl
theorem parse_upi (h : sel w 26 6 = 0x03) : parse w = some (some (.upi (fD w) (w.extractLsb' 0 21))) := by rw [parse, h]; rfl
theorem parse_mdv (h : sel w 26 6 = 0x04) : parse w = some (parseMdv w) := by rw [parse, h]; rfl
theorem parse_bit (h : sel w 26 6 = 0x05) : parse w = some (parseBit w) := by rw [parse, h]; rfl
theorem parse_ld (h : sel w 26 6 = 0x06) : parse w = some (parseLd w) := by rw [parse, h]; rfl
theorem parse_st (h : sel w 26 6 = 0x07) : parse w = some (parseSt w) := by rw [parse, h]; rfl
theorem parse_br (h : sel w 26 6 = 0x08) : parse w = some (parseBr w) := by rw [parse, h]; rfl
theorem parse_jl (h : sel w 26 6 = 0x09) : parse w = some (parseJl w) := by rw [parse, h]; rfl
theorem parse_jlr (h : sel w 26 6 = 0x0A) : parse w = some (some (.jlr (fD w) (fA w) (fImm w))) := by rw [parse, h]; rfl
theorem parse_ctl (h : sel w 26 6 = 0x0B) : parse w = some (parseCtl w) := by rw [parse, h]; rfl
theorem parse_valu (h : sel w 26 6 = 0x10) : parse w = some (parseValu w) := by rw [parse, h]; rfl
theorem parse_valui (h : sel w 26 6 = 0x11) : parse w = some (parseValui w) := by rw [parse, h]; rfl
theorem parse_vfma (h : sel w 26 6 = 0x12) : parse w = some (parseVfma w) := by rw [parse, h]; rfl
theorem parse_vcmp (h : sel w 26 6 = 0x13) : parse w = some (parseVcmp w) := by rw [parse, h]; rfl
theorem parse_vmsk (h : sel w 26 6 = 0x14) : parse w = some (parseVmsk w) := by rw [parse, h]; rfl
theorem parse_vprm (h : sel w 26 6 = 0x15) : parse w = some (parseVprm w) := by rw [parse, h]; rfl
theorem parse_vred (h : sel w 26 6 = 0x16) : parse w = some (parseVred w) := by rw [parse, h]; rfl
theorem parse_vcvt (h : sel w 26 6 = 0x17) : parse w = some (parseVcvt w) := by rw [parse, h]; rfl
theorem parse_vbpl (h : sel w 26 6 = 0x18) : parse w = some (parseVbpl w) := by rw [parse, h]; rfl
theorem parse_vsca (h : sel w 26 6 = 0x19) : parse w = some (parseVsca w) := by rw [parse, h]; rfl
theorem parse_vset (h : sel w 26 6 = 0x1A) : parse w = some (parseVset w) := by rw [parse, h]; rfl
theorem parse_vwld (h : sel w 26 6 = 0x1B) : parse w = some (parseVwld w) := by rw [parse, h]; rfl
theorem parse_vwst (h : sel w 26 6 = 0x1C) : parse w = some (parseVwst w) := by rw [parse, h]; rfl
theorem parse_vidx (h : sel w 26 6 = 0x1D) : parse w = some (parseVidx w) := by rw [parse, h]; rfl
theorem parse_vsx (h : sel w 26 6 = 0x1E) : parse w = some (parseVsx w) := by rw [parse, h]; rfl
theorem parse_hres (h : sel w 26 6 = 0x20) : parse w = some (parseHres w) := by rw [parse, h]; rfl
theorem parse_kcnt (h : sel w 26 6 = 0x21) : parse w = some (parseKcnt w) := by rw [parse, h]; rfl
theorem parse_qord (h : sel w 26 6 = 0x22) : parse w = some (parseQord w) := by rw [parse, h]; rfl
theorem parse_tile (h : sel w 26 6 = 0x24) : parse w = some (parseTile w) := by rw [parse, h]; rfl
theorem parse_cdy (h : sel w 26 6 = 0x25) : parse w = some (parseCdy w) := by rw [parse, h]; rfl
theorem parse_tmov (h : sel w 26 6 = 0x26) : parse w = some (parseTmov w) := by rw [parse, h]; rfl
theorem parse_sync (h : sel w 26 6 = 0x28) : parse w = some (parseSync w) := by rw [parse, h]; rfl
theorem parse_vamo (h : sel w 26 6 = 0x29) : parse w = some (parseVamo w) := by rw [parse, h]; rfl
theorem parse_vwtc (h : sel w 26 6 = 0x2A) : parse w = some (parseVwtc w) := by rw [parse, h]; rfl
theorem parse_accw (h : sel w 26 6 = 0x2B) : parse w = some (parseAccw w) := by rw [parse, h]; rfl
theorem parse_link (h : sel w 26 6 = 0x2C) : parse w = some (parseLink w) := by rw [parse, h]; rfl
theorem parse_coll (h : sel w 26 6 = 0x2D) : parse w = some (parseColl w) := by rw [parse, h]; rfl
theorem parse_lnch (h : sel w 26 6 = 0x2E) : parse w = some (parseLnch w) := by rw [parse, h]; rfl

end

/-! ## Encoded words -/

/-- The decoder's fields of the word of an instruction give the instruction, whatever the operand limits say of it. -/
def ParsesBack (i : Instr) : Prop := ∀ w, encode i = some w → parse w = some (some i)

/-- An instruction is read back if the parser `P` of its major `n` reads it from its word. -/
theorem parsesBack_of {i : Instr} {w : IWord} {n : Nat} {P : IWord → Option Instr} (he : encode i = some w)
    (hP : ∀ {w}, sel w 26 6 = n → parse w = some (P w)) (hn : sel w 26 6 = n) (hi : P w = some i) : ParsesBack i := by
  intro w' hw
  obtain rfl : w = w' := Option.some.inj (he.symm.trans hw)
  rw [hP hn, hi]

/-- Every well-formed instruction is read back, major by major; of the operand limits only A ≠ 0 of LNCH is needed, whose
words with A = 0 are VREL's (R278). -/
theorem parsesBack_of_wf (i : Instr) (hwf : i.wf = true) : ParsesBack i := by
  cases i
  case sysCall | sysTrap | sysTret | sysTend | sysSnap | sysBrk =>
    exact parsesBack_of rfl parse_sys (by simp) (by simp [parseSys])
  case aluAdd | aluSub | aluAnd | aluOr | aluXor | aluSll | aluSrl | aluSra | aluSlt | aluSltu | aluAddw | aluSubw | aluMin |
      aluMax | aluMinu | aluMaxu =>
    exact parsesBack_of rfl parse_alu (by simp) (by simp [parseAlu])
  case alui => exact parsesBack_of rfl parse_alui (by simp) (by simp)
  case upi => exact parsesBack_of rfl parse_upi (by simp) (by simp)
  case mdvMul | mdvMulh | mdvMulhu | mdvDiv | mdvDivu | mdvRem | mdvRemu | mdvMulw | mdvDivw | mdvRemw =>
    exact parsesBack_of rfl parse_mdv (by simp) (by simp [parseMdv])
  case bitSlli | bitSrli | bitSrai | bitClz | bitCtz | bitPopc | bitRev8 =>
    exact parsesBack_of rfl parse_bit (by simp) (by simp [parseBit])
  case ld => exact parsesBack_of rfl parse_ld (by simp) (by simp [parseLd])
  case st => exact parsesBack_of rfl parse_st (by simp) (by simp [parseSt])
  case brEq | brNe | brLt | brLtu =>
    exact parsesBack_of rfl parse_br (by simp) (by simp [parseBr])
  case jlGo | jlLn =>
    exact parsesBack_of rfl parse_jl (by simp) (by simp [parseJl])
  case jlr => exact parsesBack_of rfl parse_jlr (by simp) (by simp)
  case ctlRd | ctlWr | ctlXchg | ctlBset | ctlBclr | ctlAdv =>
    exact parsesBack_of rfl parse_ctl (by simp) (by simp [parseCtl])
  case valuAdd | valuSub | valuMul | valuMin | valuMax | valuSadd | valuSsub | valuAbsd =>
    exact parsesBack_of rfl parse_valu (by simp) (by simp [parseValu])
  case valuiAdd | valuiRsub | valuiMin | valuiMax | valuiSadd | valuiSll | valuiSrl | valuiSra | valuiAnd | valuiOr | valuiXor
      | valuiMov =>
    exact parsesBack_of rfl parse_valui (by simp) (by simp [parseValui])
  case vfmaFma | vfmaFms | vfmaFnma | vfmaFnms | vfmaDot2 =>
    exact parsesBack_of rfl parse_vfma (by simp) (by simp [parseVfma])
  case vcmp => exact parsesBack_of rfl parse_vcmp (by simp) (by simp [parseVcmp])
  case vmskAnd | vmskOr | vmskXor | vmskAndn | vmskOrn | vmskNot | vmskMov | vmskFrst | vmskPopc =>
    exact parsesBack_of rfl parse_vmsk (by simp) (by simp [parseVmsk])
  case vprmSlup | vprmSldn | vprmGath | vprmCmpr | vprmExpd | vprmBcst | vprmTran | vprmMov =>
    exact parsesBack_of rfl parse_vprm (by simp) (by simp [parseVprm])
  case vredSum | vredMax | vredMin | vredAmax =>
    exact parsesBack_of rfl parse_vred (by simp) (by simp [parseVred])
  case vcvt => exact parsesBack_of rfl parse_vcvt (by simp) (by simp [parseVcvt])
  case vbplAnd | vbplOr | vbplXor | vbplAndn | vbplNot | vbplSll | vbplSrl | vbplSra | vbplPopc | vbplPext | vbplPins |
      vbplPmac =>
    exact parsesBack_of rfl parse_vbpl (by simp) (by simp [parseVbpl])
  case vscaMul | vscaMacc | vscaRmul | vscaCmul | vscaRmac | vscaCmac =>
    exact parsesBack_of rfl parse_vsca (by simp) (by simp [parseVsca])
  case vsetLen | vsetLenf =>
    exact parsesBack_of rfl parse_vset (by simp) (by simp [parseVset])
  case vwld => exact parsesBack_of rfl parse_vwld (by simp) (by simp [parseVwld])
  case vwst => exact parsesBack_of rfl parse_vwst (by simp) (by simp [parseVwst])
  case vidxLd | vidxSt =>
    exact parsesBack_of rfl parse_vidx (by simp) (by simp [parseVidx])
  case vsxIsec | vsxIcnt | vsxUnio | vsxDiff | vsxMrge =>
    exact parsesBack_of rfl parse_vsx (by simp) (by simp [parseVsx])
  case hresSet | hresAnch | hresLim | hresBind | hresWmk | hresClr =>
    exact parsesBack_of rfl parse_hres (by simp) (by simp [parseHres])
  case kcntExt | kcntLink | kcntAdv | kcntSet | kcntRst =>
    exact parsesBack_of rfl parse_kcnt (by simp) (by simp [parseKcnt])
  case qordWait | qordJoin =>
    exact parsesBack_of rfl parse_qord (by simp) (by simp [parseQord])
  case tileMma | tileZero | tileScal | tileOn | tileOff =>
    exact parsesBack_of rfl parse_tile (by simp) (by simp [parseTile])
  case cdyClaim | cdyLoad | cdyLstr | cdyRel | cdyMeta =>
    exact parsesBack_of rfl parse_cdy (by simp) (by simp [parseCdy])
  case tmovRtov | tmovCtov | tmovVtor | tmovVtoc =>
    exact parsesBack_of rfl parse_tmov (by simp) (by simp [parseTmov])
  case syncAcq | syncRel | syncBind | syncUbnd | syncFenc | syncBarr | syncArrv | syncExpt =>
    exact parsesBack_of rfl parse_sync (by simp) (by simp [parseSync])
  case vamoAdd | vamoMin | vamoMax | vamoAnd | vamoOr | vamoXor | vamoSwap | vamoCas | vamoFadd =>
    exact parsesBack_of rfl parse_vamo (by simp) (by simp [parseVamo])
  case vwtc => exact parsesBack_of rfl parse_vwtc (by simp) (by simp [parseVwtc])
  case accwUpd | accwMrge | accwClr =>
    exact parsesBack_of rfl parse_accw (by simp) (by simp [parseAccw])
  case linkXfer | linkLacq | linkLrel | linkLsig =>
    exact parsesBack_of rfl parse_link (by simp) (by simp [parseLink])
  case collAred | collRsct | collAgat =>
    exact parsesBack_of rfl parse_coll (by simp) (by simp [parseColl])
  case vrel => exact parsesBack_of rfl parse_lnch (by simp) (by simp [parseLnch])
  case lnch a b =>
    have ha : a ≠ 0#5 := of_decide_eq_true hwf
    exact parsesBack_of rfl parse_lnch (by simp) (by simp [parseLnch, ha])
  -- What is left are the events, which have no word.
  all_goals exact fun _ h => nomatch h

/-- Exactly the events have no word. -/
theorem encode_isSome (i : Instr) : (encode i).isSome = !Machine.isEvent i := by cases i <;> rfl

/-- R67: what the parsers read is the instruction once the operand limits hold. -/
theorem decode_of_parse {w : IWord} {i : Instr} (hp : parse w = some (some i)) (hwf : i.wf = true) : decode w = .ok i := by
  rw [decode, hp]
  exact if_pos hwf

theorem decode_encode {w : IWord} {i : Instr} (hwf : i.wf = true) (h : encode i = some w) : decode w = .ok i :=
  decode_of_parse (parsesBack_of_wf i hwf w h) hwf

/-- Settles O59: an instruction that is no event has a word by `encode_isSome`, and the decoder reads it back. -/
theorem decodeOfEncodeIsInstruction : Obligations.DecodeOfEncodeIsInstruction := by
  unfold Obligations.DecodeOfEncodeIsInstruction
  intro i hwf
  refine ⟨fun hev => ?_, fun w hw => decode_encode hwf hw⟩
  rw [encode_isSome, hev]
  rfl

/-- Settles O60: each word is the one that the encoder gives its instruction, so the decoder reads it back; the last word has a
reserved major. -/
theorem wordsDecodeToInstructions : Obligations.WordsDecodeToInstructions := by
  unfold Obligations.WordsDecodeToInstructions
  exact ⟨decode_encode rfl rfl, decode_encode rfl rfl, decode_encode rfl rfl, decode_encode rfl rfl, decode_encode rfl rfl,
    decode_encode rfl rfl, decode_encode rfl rfl, decode_encode rfl rfl, .reservedMajor, rfl⟩

end Sys2Proof
end

section
/-! PROOFS. A turn of a thread: what it fetches and what it executes (R54, R67, R68, R121), and the turn of an event. -/

namespace Sys2Proof.Machine

variable {s s' : State} {t : Thread} {tid pa : Nat} {i : Instr}

/-! ## The fetch -/

theorem fetchAt_ok (h : xlate s (tid / 4) t.uid 0 t.ctx t.area t.pc.toNat needX = (.ok pa, s')) :
    fetchAt s tid t = (.word (fetchWord s' t pa), endMiss s' (tid / 4) t.uid 0) := by rw [fetchAt, h]

theorem fetchAt_fail (h : xlate s (tid / 4) t.uid 0 t.ctx t.area t.pc.toNat needX = (.fail, s')) :
    fetchAt s tid t = (.fault, endMiss s' (tid / 4) t.uid 0) := by rw [fetchAt, h]

theorem fetchAt_wait (h : xlate s (tid / 4) t.uid 0 t.ctx t.area t.pc.toNat needX = (.wait, s')) :
    fetchAt s tid t = (.wait, s') := by rw [fetchAt, h]

/-- The word fetched is the one in memory or the one that stood there when the launch was placed (log 40). -/
theorem fetchWord_eq (s : State) (t : Thread) (pa : Nat) :
    fetchWord s t pa = wordAt s.mem pa ∨ ∃ l, launchOf s t.launch = some l ∧ fetchWord s t pa = wordAt l.code pa := by
  unfold fetchWord
  cases launchOf s t.launch with
  | none => exact .inl rfl
  | some l =>
    dsimp only
    split
    · exact .inl rfl
    · exact .inr ⟨l, rfl, rfl⟩

theorem instrOf_word_ok {pc : Word} {w : IWord} (h : decode w = .ok i) : instrOf pc (.word w) = some i := by rw [instrOf, h]

theorem instrOf_word_error {pc : Word} {w : IWord} {e : DecodeError} (h : decode w = .error e) :
    instrOf pc (.word w) = some (.illegalWord w) := by rw [instrOf, h]

/-! ## The turn of a thread -/

theorem runThread_noSuchThread (h : 1280 ≤ tid) : runThread s tid = .fault .noSuchThread := if_pos h

section
variable (htid : tid < 1280) (ht : threadAt s tid = some t)
include htid ht

theorem runThread_waits (hr : canRun t = false) : runThread s tid = .next s := by
  simp [runThread, Nat.not_le.mpr htid, ht, hr]

/-- The rule of a fetch that gives an instruction, be it one of the two traps. -/
theorem runThread_exec {f : Fetched} (hr : canRun t = true) (hf : fetchAt s tid t = (f, s')) (hi : instrOf t.pc f = some i) :
    runThread s tid = exec i { s' with cur := tid } := by
  simp [runThread, Nat.not_le.mpr htid, ht, hr, hf, hi]

theorem runThread_fetch_waits (hr : canRun t = true) (hf : fetchAt s tid t = (.wait, s')) : runThread s tid = .next s' := by
  simp [runThread, Nat.not_le.mpr htid, ht, hr, hf, instrOf]

end

/-! ## The step -/

theorem step_run (h : nextTurn s = .run tid) : step s = runThread { passTime s with agenda := s.agenda.drop 1 } tid := by
  rw [step, h]

theorem step_event (h : nextTurn s = .event i) :
    step s = if eventAllowed s i = true then exec i { passTime s with agenda := s.agenda.drop 1 }
      else .next { passTime s with agenda := s.agenda.drop 1 } := by
  rw [step, h]

/-- Settles O57: a turn of a thread is `runThread` at the state in which time has passed, which leaves the threads alone; each
outcome of the fetch gives the instruction that it executes, or the wait. -/
theorem stepRunsDecoded : Obligations.StepRunsDecoded := by
  unfold Obligations.StepRunsDecoded
  intro s s1 s2 tid pa t w i hs1
  refine ⟨fun hn htid ht => ?_, fun hn => by rw [step_event hn, ← hs1], fun hn htid => by
    rw [step_run hn, runThread_noSuchThread htid]⟩
  have hstep : step s = runThread s1 tid := by rw [step_run hn, ← hs1]
  have ht1 : threadAt s1 tid = some t := by rw [hs1]; exact ht
  rw [hstep]
  refine ⟨fun hr => runThread_waits htid ht1 hr, fun hr hx hw => ⟨?_, fun hd => ?_, fun ⟨e, hd⟩ => ?_⟩, fun hr hx => ?_,
    fun hr hx => ?_⟩
  · rw [hw]
    exact fetchWord_eq s2 t pa
  · exact runThread_exec htid ht1 hr (fetchAt_ok hx) (instrOf_word_ok (hw ▸ hd))
  · rw [hw] at hd ⊢
    exact runThread_exec htid ht1 hr (fetchAt_ok hx) (instrOf_word_error hd)
  · exact runThread_exec htid ht1 hr (fetchAt_fail hx) rfl
  · exact runThread_fetch_waits htid ht1 hr (fetchAt_wait hx)

end Sys2Proof.Machine
end

section
/-! PROOFS. Latch bindings and fences (R87, R90, R245, R246). -/

namespace Sys2Proof.Machine

variable {s s1 : State} {t : Thread} {e : Entry} {rest : List Entry} {tid : Nat} {d a b : Reg} {sc : Scope} {o n : List Binding}
  {x y : Binding} {ctx : Nat} {latch base len : Word}

/-! ## An entry at vcp that completes -/

@[simp] theorem endEntry_bindings (s : State) (tid : Nat) (t : Thread) : (endEntry s tid t).bindings = s.bindings := by
  rw [endEntry_frame]

@[simp] theorem completeHead_bindings (s : State) (tid : Nat) : (completeHead s tid).bindings = s.bindings := by
  unfold completeHead
  split <;> simp

/-- An entry at vcp whose engine has done its work leaves the queue (R27). -/
theorem completesTo_of_engine (h : AtVcp s tid t e rest) (hl : needsLanes e.instr = false) (he : engineAtVcp s tid t e = .done s1)
    (ht : s1.threads = s.threads) (hm : s1.mem = s.mem) : CompletesTo s (completeHead s1 tid) tid t rest := by
  have same (j : Nat) : threadAt s1 j = threadAt s j := by rw [threadAt, ht, threadAt]
  refine ⟨by rw [exec_entryAtVcp_engine h hl, he, settle], ⟨fun j hj => ?_, ?_⟩, ?_⟩
  · rw [threadAt_completeHead_ne hj, same]
  · rw [completeHead_mem, hm]
  · rw [threadAt_completeHead ((same tid).trans h.here), h.queue, List.drop_one, List.tail_cons]

/-- An entry that only changes the binding table completes with the new table. -/
theorem completesTo_of_bindings {l : List Binding} (h : AtVcp s tid t e rest) (hl : needsLanes e.instr = false)
    (he : engineAtVcp s tid t e = .done { s with bindings := l }) : ∃ s', CompletesTo s s' tid t rest ∧ s'.bindings = l :=
  ⟨_, completesTo_of_engine h hl he rfl rfl, completeHead_bindings _ _⟩

/-! ## What the table is asked -/

/-- R245, reason 0: the operands of a binding are aligned, and its region is not empty and lies inside the address space. -/
def WellFormedBinding (latch base len : Word) : Prop :=
  latch.toNat % 8 = 0 ∧ base.toNat % 256 = 0 ∧ len.toNat % 256 = 0 ∧ len ≠ 0 ∧ base.toNat + len.toNat ≤ 2 ^ 52

/-- R245: a binding of another latch at the same or a wider scope, of a part of the region. -/
def BindsPart (sc : Scope) (latch base len : Word) (y : Binding) : Prop :=
  y.latch ≠ latch ∧ sc.code.toNat ≤ y.sc.code.toNat ∧
    max base.toNat y.base.toNat < min (base.toNat + len.toNat) (y.base.toNat + y.length.toNat)

/-- R90, R245: a binding concerns a thread, every one if it is static, else those of its maker's context (log 85) in its unit. -/
def Concerns (tid : Nat) (t : Thread) (y : Binding) : Prop :=
  y.launch = none ∨ (y.ctx = t.ctx ∧ y.unit = unitOf tid t.uid y.sc)

/-- R245: a binding that sync.ubnd of a latch, base and scope names for a thread. -/
def Named (tid : Nat) (t : Thread) (sc : Scope) (latch base : Word) (y : Binding) : Prop :=
  y.latch = latch ∧ y.base = base ∧ y.sc = sc ∧ Concerns tid t y

/-- R90: the static binding of a module, by its context, latch, base and scope. -/
def StaticOf (ctx : Nat) (sc : Scope) (latch base : Word) (y : Binding) : Prop :=
  y.launch = none ∧ y.ctx = ctx ∧ y.latch = latch ∧ y.base = base ∧ y.sc = sc

theorem bindingAligned_iff : bindingAligned latch base len = true ↔ WellFormedBinding latch base len := decide_eq_true_iff

theorem bindingMeets_iff : bindingMeets y latch base len sc = true ↔ BindsPart sc latch base len y := by
  simp [bindingMeets, rangesMeet, BindsPart, and_assoc]

theorem bindingActs_and_covers_iff : bindingActs y t.ctx = true ∧ bindingCovers y tid t.uid = true ↔ Concerns tid t y := by
  simp only [bindingActs, bindingCovers, Bool.or_eq_true, Option.isNone_iff_eq_none, decide_eq_true_iff, Concerns, ← or_and_left]

/-- R234: the unit of a thread's scope, by the thread's place on the device. -/
theorem unitOf_die (tid uid : Nat) : unitOf tid uid .die = tid / 320 := Nat.div_div_eq_div_mul tid 4 80

/-! ## The youngest binding -/

/-- The search for the youngest element that satisfies a test looks from the end of the table. -/
theorem find?_reverse_of_last {p : Binding → Bool} (hx : p x = true) (hn : ∀ y ∈ n, p y ≠ true) :
    (o ++ x :: n).reverse.find? p = some x := by
  have hnone : n.reverse.find? p = none := List.find?_eq_none.mpr fun y hy => hn y (List.mem_reverse.mp hy)
  rw [List.reverse_append, List.reverse_cons, List.append_assoc, List.find?_append, hnone]
  simp [hx]

/-- Taking the youngest copy of a binding out of the table. -/
theorem erase_reverse_of_last (hn : x ∉ n) : ((o ++ x :: n).reverse.erase x).reverse = o ++ n := by
  rw [List.reverse_append, List.reverse_cons, List.append_assoc, List.erase_append_right _ (by simpa using hn)]
  simp

/-- What `sync.ubnd` and an unload both do to the table `l = o ++ x :: n` in which `x` is the youngest that passes the test. -/
theorem youngest_found_and_taken {l : List Binding} {p : Binding → Bool} (hl : l = o ++ x :: n) (hx : p x = true)
    (hn : ∀ y ∈ n, p y ≠ true) : l.reverse.find? p = some x ∧ (l.reverse.erase x).reverse = o ++ n := by
  subst hl
  exact ⟨find?_reverse_of_last hx hn, erase_reverse_of_last fun h => hn x h hx⟩

/-! ## sync.bind -/

/-- Reason 1 of sync.bind asks for a binding that concerns the thread and binds a part of the region. -/
theorem any_bindingClash_iff : (s.bindings.any fun y => bindingCovers y tid t.uid && bindingClash y t.ctx latch base len sc) = true ↔
    ∃ y ∈ s.bindings, Concerns tid t y ∧ BindsPart sc latch base len y := by
  simp only [List.any_eq_true, Bool.and_eq_true, bindingClash, bindingMeets_iff, ← bindingActs_and_covers_iff]
  exact exists_congr fun y => by tauto

theorem engineAtVcp_syncBind (h : e.instr = .syncBind d a b sc) :
    needsLanes e.instr = false ∧ engineAtVcp s tid t e = bindAtVcp s tid t e sc := by
  unfold engineAtVcp
  rw [h]
  exact ⟨rfl, rfl⟩

/-- Reason 0: malformed operands (R245). -/
theorem bindAtVcp_malformed (hg : ¬ WellFormedBinding e.cap.xd e.cap.xa e.cap.xb) :
    bindAtVcp s tid t e sc = .trap s 0x24 0 e.k := by
  rw [← bindingAligned_iff] at hg
  rw [bindAtVcp, if_pos (by simpa using hg)]
  rfl

section
variable (hg : WellFormedBinding e.cap.xd e.cap.xa e.cap.xb)
include hg

/-- Reason 1: another latch binds a part of the region (R245). -/
theorem bindAtVcp_taken (hc : ∃ y ∈ s.bindings, Concerns tid t y ∧ BindsPart sc e.cap.xd e.cap.xa e.cap.xb y) :
    bindAtVcp s tid t e sc = .trap s 0x24 1 e.k := by
  rw [bindAtVcp, if_neg (by simpa using bindingAligned_iff.mpr hg), if_pos (any_bindingClash_iff.mpr hc)]
  rfl

variable (hc : ¬ ∃ y ∈ s.bindings, Concerns tid t y ∧ BindsPart sc e.cap.xd e.cap.xa e.cap.xb y)
include hc

/-- Reason 2: the table is full (R240, R245). -/
theorem bindAtVcp_full (hf : Config.bindingCap ≤ s.bindings.length) :
    bindAtVcp s tid t e sc = .trap s 0x24 2 e.k := by
  rw [bindAtVcp, if_neg (by simpa using bindingAligned_iff.mpr hg), if_neg (mt any_bindingClash_iff.mp hc), if_pos hf]
  rfl

theorem bindAtVcp_made (hf : s.bindings.length < Config.bindingCap) :
    bindAtVcp s tid t e sc = .done { s with bindings := s.bindings ++
      [⟨t.ctx, e.cap.xd, e.cap.xa, e.cap.xb, sc, unitOf tid t.uid sc, some t.launch⟩] } := by
  rw [bindAtVcp, if_neg (by simpa using bindingAligned_iff.mpr hg), if_neg (mt any_bindingClash_iff.mp hc),
    if_neg (Nat.not_le.mpr hf)]

end

/-! ## sync.ubnd -/

/-- The test by which sync.ubnd looks for its binding. -/
theorem ubnd_test_iff : (bindingActs y t.ctx && decide (y.latch = latch ∧ y.base = base ∧ y.sc = sc) &&
    bindingCovers y tid t.uid) = true ↔ Named tid t sc latch base y := by
  simp only [Bool.and_eq_true, decide_eq_true_iff, Named, ← bindingActs_and_covers_iff]
  tauto

section
variable (ha : e.cap.xd.toNat % 8 = 0 ∧ e.cap.xa.toNat % 256 = 0)
include ha

theorem ubndAtVcp_youngest (hl : s.bindings = o ++ x :: n) (hx : Named tid t sc e.cap.xd e.cap.xa x)
    (hn : ∀ y ∈ n, ¬ Named tid t sc e.cap.xd e.cap.xa y) :
    ubndAtVcp s tid t e sc = .done { s with bindings := o ++ n } := by
  obtain ⟨hfind, htake⟩ := youngest_found_and_taken hl (ubnd_test_iff.mpr hx) fun y hy => mt ubnd_test_iff.mp (hn y hy)
  rw [ubndAtVcp, if_neg (by tauto), hfind]
  dsimp only
  rw [htake]

/-- Reason 3: no binding that sync.ubnd names (R245). -/
theorem ubndAtVcp_unnamed (hn : ∀ y ∈ s.bindings, ¬ Named tid t sc e.cap.xd e.cap.xa y) :
    ubndAtVcp s tid t e sc = .trap s 0x24 3 e.k := by
  have hnone := List.find?_eq_none.mpr fun y hy => mt ubnd_test_iff.mp (hn y (List.mem_reverse.mp hy))
  rw [ubndAtVcp, if_neg (by tauto), hnone]
  rfl

end

/-! ## Static bindings -/

theorem exec_staticBinding (s : State) (ctx : Nat) (latch base len : Word) (sc : Scope) :
    exec (.staticBinding ctx latch base len sc) s = execStaticBinding ctx latch base len sc s := rfl

/-- What a static binding must meet to be made (R87, R90). -/
def StaticFits (s : State) (sc : Scope) (latch base len : Word) : Prop :=
  WellFormedBinding latch base len ∧ (∀ y ∈ s.bindings, ¬ BindsPart sc latch base len y) ∧ s.bindings.length < Config.bindingCap

/-- The test by which a static binding is refused. -/
theorem staticRefused_iff : (!bindingAligned latch base len || s.bindings.any (fun y => bindingMeets y latch base len sc) ||
    decide (Config.bindingCap ≤ s.bindings.length)) = true ↔ ¬ StaticFits s sc latch base len := by
  simp only [StaticFits, ← bindingAligned_iff, ← bindingMeets_iff, Bool.or_eq_true, Bool.not_eq_true', List.any_eq_true,
    decide_eq_true_iff, ← Bool.not_eq_true, ← not_lt]
  simp only [not_and_or, not_forall, not_not, exists_prop, or_assoc]

theorem exec_staticBinding_made (hlen : len ≠ 0) (hf : StaticFits s sc latch base len) :
    exec (.staticBinding ctx latch base len sc) s = .next { s with bindings := s.bindings ++
      [{ ctx := ctx, latch := latch, base := base, length := len, sc := sc, unit := 0, launch := none }] } := by
  rw [exec_staticBinding, execStaticBinding, if_neg hlen, if_neg fun h => staticRefused_iff.mp h hf]

theorem exec_staticBinding_refused (hlen : len ≠ 0) (hf : ¬ StaticFits s sc latch base len) :
    exec (.staticBinding ctx latch base len sc) s = .next s := by
  rw [exec_staticBinding, execStaticBinding, if_neg hlen, if_pos (staticRefused_iff.mpr hf)]

/-- The test by which an unload looks for its binding. -/
theorem unload_test_iff : decide (y.launch = none ∧ y.ctx = ctx ∧ y.latch = latch ∧ y.base = base ∧ y.sc = sc) = true ↔
    StaticOf ctx sc latch base y := decide_eq_true_iff

/-- The unload of a module (log 86). -/
theorem exec_staticBinding_unload (hl : s.bindings = o ++ x :: n) (hx : StaticOf ctx sc latch base x)
    (hn : ∀ y ∈ n, ¬ StaticOf ctx sc latch base y) :
    exec (.staticBinding ctx latch base 0 sc) s = .next { s with bindings := o ++ n } := by
  obtain ⟨hfind, htake⟩ := youngest_found_and_taken hl (unload_test_iff.mpr hx) fun y hy => mt unload_test_iff.mp (hn y hy)
  rw [exec_staticBinding, execStaticBinding, if_pos rfl, hfind]
  dsimp only
  rw [htake]

/-! ## sync.fenc -/

/-- R246: something of a thread is outstanding. -/
def Outstanding (s : State) (t : Thread) : Prop :=
  (∃ r ∈ s.inflight, r.owner = t.uid) ∨ (∃ r ∈ s.releases, r.owner = t.uid) ∨ (∃ r ∈ s.pubs, r.owner = t.uid) ∨
    t.recomps ≠ [] ∨ t.tq ≠ [] ∨ t.lq ≠ []

theorem nothingOutstanding_iff : nothingOutstanding s t = true ↔ ¬ Outstanding s t := by
  simp [nothingOutstanding, Outstanding, and_assoc]

theorem engineAtVcp_syncFenc (h : e.instr = .syncFenc sc) :
    needsLanes e.instr = false ∧ engineAtVcp s tid t e = fencAtVcp s t := by
  unfold engineAtVcp
  rw [h]
  exact ⟨rfl, rfl⟩

theorem fencAtVcp_busy (h : Outstanding s t) : fencAtVcp s t = .wait s :=
  if_neg fun hn => nothingOutstanding_iff.mp hn h

theorem fencAtVcp_idle (h : ¬ Outstanding s t) : fencAtVcp s t = .done s := if_pos (nothingOutstanding_iff.mpr h)

/-! ## The obligation -/

/-- Settles O38: the checks of sync.bind and sync.ubnd fail or pass by what the table holds for the thread, and the table changes
by one binding; a static binding asks the same of the whole table; a fence asks whether anything is outstanding. -/
theorem bindingsAndFences : Obligations.BindingsAndFences := by
  unfold Obligations.BindingsAndFences
  intro s tid t e rest d a b sc o n x ctx latch base len h l va size good clash unit mine named taken traps
  have hunit : unit = unitOf tid t.uid := funext fun c => by
    cases c
    case die => exact (unitOf_die tid t.uid).symm
    all_goals rfl
  have hmine : mine = Concerns tid t := by
    simp only [mine, hunit]
    rfl
  have hnamed : named = Named tid t sc l va := by
    simp only [named, hmine]
    rfl
  have htaken : taken = ∃ y ∈ s.bindings, Concerns tid t y ∧ BindsPart sc l va size y := by
    simp only [taken, hmine]
    rfl
  rw [hunit, hnamed, htaken]
  refine ⟨fun hi => ?_, fun hi hl8 hva => ?_, fun hlen => ⟨exec_staticBinding_made hlen, exec_staticBinding_refused hlen⟩,
    exec_staticBinding_unload, fun hi => ?_⟩
  · obtain ⟨hl, he⟩ := engineAtVcp_syncBind (s := s) (tid := tid) (t := t) hi
    refine ⟨fun hf hh => ⟨fun hg => ?_, fun hg hc => ?_, fun hg hc hfull => ?_⟩, fun hg hc hroom => ?_⟩
    · exact vecTraps_of_engine h hf hh hl (he.trans (bindAtVcp_malformed hg))
    · exact vecTraps_of_engine h hf hh hl (he.trans (bindAtVcp_taken hg hc))
    · exact vecTraps_of_engine h hf hh hl (he.trans (bindAtVcp_full hg hc hfull))
    · exact completesTo_of_bindings h hl (he.trans (bindAtVcp_made hg hc hroom))
  · obtain ⟨hl, he⟩ := engineAtVcp_syncUbnd (s := s) (tid := tid) (t := t) hi
    refine ⟨fun hb hx hn => ?_, fun hn hf hh => ?_⟩
    · exact completesTo_of_bindings h hl (he.trans (ubndAtVcp_youngest ⟨hl8, hva⟩ hb hx hn))
    · exact vecTraps_of_engine h hf hh hl (he.trans (ubndAtVcp_unnamed ⟨hl8, hva⟩ hn))
  · obtain ⟨hl, he⟩ := engineAtVcp_syncFenc (s := s) (tid := tid) (t := t) hi
    refine ⟨fun hb => ?_, fun hb => ?_⟩
    · exact vcpWaits_of_engine h hl (he.trans (fencAtVcp_busy hb))
    · exact ⟨_, completesTo_of_engine h hl (he.trans (fencAtVcp_idle hb)) rfl rfl⟩

end Sys2Proof.Machine
end

section
/-! PROOFS. The tile engine: what one step of the head of a tile queue does (R106, R107, R203, R205, R207 to R209, R217). -/

namespace Sys2Proof.Machine

variable {s : State} {cl k : Nat} {t : Thread} {q : TEntry} {rest : List TEntry} {c : Cluster} {d a b : Reg} {p : PReg} {ty : ElemTy}

theorem exec_tileEngineStep (cl : Nat) (s : State) : exec (.tileEngineStep cl) s = execTileEngineStep cl s := rfl

/-! ## f32 patterns -/

/-- An overflowing result, and a magnitude that has been limited, leave the sign bit of an f32 pattern free (R98). -/
theorem limited_f32_lt (rm : RMode) (neg : Bool) (n : Nat) :
    (if largestFinite .f32 < n then overflowOf .f32 rm neg else n) < 2 ^ 31 := by
  split
  · cases rm <;> cases neg <;> (simp only [overflowOf]; decide)
  · next h => exact lt_of_le_of_lt (Nat.le_of_not_lt h) (by decide)

/-- A value rounded to f32 is a pattern of 32 bits (R92, R98). -/
theorem roundTo_f32_lt (rm : RMode) (x : FVal) : roundTo .f32 rm x < 2 ^ 32 := by
  have hsign (neg : Bool) {m : Nat} (hm : m < 2 ^ 31) : (if neg then 2 ^ (8 + 23) else 0) + m < 2 ^ 32 := by split <;> omega
  cases x with
  | nan => exact (by decide : producedNan .f32 < 2 ^ 32)
  | inf neg => exact hsign neg (by decide)
  | fin neg m e =>
    by_cases hm : m = 0
    · simpa [roundTo, floatFmt, hm] using hsign neg (m := 0) (by decide)
    · simp only [roundTo, floatFmt, if_neg hm]
      exact hsign neg (limited_f32_lt rm neg _)

/-- Products added to an f32 pattern leave an f32 pattern (R106). -/
theorem addProducts_lt (x y : CSlot) (i j : Nat) {acc : Nat} (h : acc < 2 ^ 32) (ks : List Nat) : addProducts x y i j acc ks < 2 ^ 32 := by
  unfold addProducts
  induction ks generalizing acc with
  | nil => exact h
  | cons k ks ih => exact ih (roundTo_f32_lt _ _)

/-! ## Elements of tiles -/

theorem tileElem_lt (c : Cluster) (u i j : Nat) : tileElem c u i j < 2 ^ 32 := (tabGet 0 c.tiles _).isLt

/-- An element of any tile after one element of a tile has been written. -/
theorem tileElem_setTileElem {u i j u' i' j' : Nat} (hi : i < 64) (hj : j < 64) (hi' : i' < 64) (hj' : j' < 64) (c : Cluster) (v : Nat) :
    tileElem (setTileElem c u i j v) u' i' j' = if u' = u ∧ i' = i ∧ j' = j then v % 2 ^ 32 else tileElem c u' i' j' := by
  have hplace : 4096 * u' + 64 * i' + j' = 4096 * u + 64 * i + j ↔ u' = u ∧ i' = i ∧ j' = j := by omega
  rw [tileElem, setTileElem, tabGet_tabSet, apply_ite BitVec.toNat, BitVec.toNat_ofNat]
  exact if_congr hplace rfl rfl

/-- `c'` holds `el` in one tile, and what `c` holds in every other. -/
structure TileBecomes (c c' : Cluster) (tile : Nat) (el : Nat → Nat → Nat) : Prop where
  inside : ∀ i j, i < 64 → j < 64 → tileElem c' tile i j = el i j
  others : ∀ u i j, u ≠ tile → i < 64 → j < 64 → tileElem c' u i j = tileElem c u i j

theorem TileBecomes.refl (c : Cluster) (tile : Nat) : TileBecomes c c tile (tileElem c tile) :=
  ⟨fun _ _ _ _ => rfl, fun _ _ _ _ _ _ => rfl⟩

theorem TileBecomes.congr {c c' : Cluster} {tile : Nat} {el el' : Nat → Nat → Nat} (h : TileBecomes c c' tile el)
    (he : ∀ i j, i < 64 → j < 64 → el i j = el' i j) : TileBecomes c c' tile el' :=
  ⟨fun i j hi hj => (h.inside i j hi hj).trans (he i j hi hj), h.others⟩

/-- Elements of a tile written one by one where a guard holds: each listed one has its value, every other is as it was. -/
theorem tileBecomes_foldl (tile : Nat) (g : Nat × Nat → Prop) [DecidablePred g] {f : Nat × Nat → Nat} (hf : ∀ x, f x < 2 ^ 32)
    {l : List (Nat × Nat)} (hl : ∀ x ∈ l, x.1 < 64 ∧ x.2 < 64) (c : Cluster) :
    TileBecomes c (l.foldl (fun u x => if g x then setTileElem u tile x.1 x.2 (f x) else u) c) tile
      (fun i j => if (i, j) ∈ l ∧ g (i, j) then f (i, j) else tileElem c tile i j) := by
  induction l generalizing c with
  | nil => exact (TileBecomes.refl c tile).congr (by simp)
  | cons x l ih =>
    obtain ⟨hx1, hx2⟩ := hl x List.mem_cons_self
    have hstep (u i j : Nat) (hi : i < 64) (hj : j < 64) :
        tileElem (if g x then setTileElem c tile x.1 x.2 (f x) else c) u i j =
          if u = tile ∧ (i, j) = x ∧ g x then f x else tileElem c u i j := by
      by_cases hg : g x
      · simp only [hg, if_true, and_true, tileElem_setTileElem hx1 hx2 hi hj, Nat.mod_eq_of_lt (hf x), Prod.ext_iff]
      · simp [hg]
    obtain ⟨hin, hout⟩ := ih (fun y hy => hl y (List.mem_cons_of_mem _ hy)) (if g x then setTileElem c tile x.1 x.2 (f x) else c)
    refine ⟨fun i j hi hj => ?_, fun u i j hu hi hj => ?_⟩
    · rw [List.foldl_cons, hin i j hi hj, hstep tile i j hi hj]
      by_cases hxy : (i, j) = x
      · subst hxy
        by_cases hg : g (i, j) <;> simp [hg]
      · simp [hxy]
    · rw [List.foldl_cons, hout u i j hu hi hj, hstep u i j hi hj, if_neg (fun h => hu h.1)]

theorem mem_tilePairs {i j : Nat} : (i, j) ∈ tilePairs ↔ i < 64 ∧ j < 64 := by
  simp [tilePairs]

/-- Elements of a whole tile written where a guard holds. -/
theorem tileBecomes_tilePairs (tile : Nat) (g : Nat × Nat → Prop) [DecidablePred g] {f : Nat × Nat → Nat} (hf : ∀ x, f x < 2 ^ 32)
    (c : Cluster) :
    TileBecomes c (tilePairs.foldl (fun u x => if g x then setTileElem u tile x.1 x.2 (f x) else u) c) tile
      (fun i j => if g (i, j) then f (i, j) else tileElem c tile i j) :=
  (tileBecomes_foldl tile g hf (fun _ hx => mem_tilePairs.mp hx) c).congr fun i j hi hj => by simp [mem_tilePairs, hi, hj]

/-! ## The effect of a step on the tile of its entry -/

/-- The data of a tile-queue entry, 32 bits at a time. -/
def tileData (q : TEntry) (n : Nat) : Nat := (q.data.extractLsb' (32 * n) 32).toNat

theorem tileData_lt (q : TEntry) (n : Nat) : tileData q n < 2 ^ 32 := BitVec.isLt _

theorem entryStep_tileZero (h : q.instr = .tileZero d p) (c : Cluster) :
    TileBecomes c (entryStep c q) q.tile (fun i j => if predHolds q.pred i j then 0 else tileElem c q.tile i j) := by
  unfold entryStep
  rw [h]
  exact tileBecomes_tilePairs q.tile (fun x => predHolds q.pred x.1 x.2 = true) (f := fun _ => 0) (by simp) c

theorem entryStep_tileScal (h : q.instr = .tileScal d a p) (c : Cluster) :
    TileBecomes c (entryStep c q) q.tile (fun i j => if predHolds q.pred i j then
      roundTo .f32 .rne (fmul (fvalOf .f32 (tileElem c q.tile i j)) (fvalOf .f32 (tileData q 0))) else tileElem c q.tile i j) := by
  unfold entryStep
  rw [h]
  exact tileBecomes_tilePairs q.tile (fun x => predHolds q.pred x.1 x.2 = true) (fun _ => roundTo_f32_lt _ _) c

/-- Data moved in along a row or a column: datum k goes to place `at' k`, of which k is read back by `pos` (R217). -/
theorem tileBecomes_moveIn (q : TEntry) {at' : Nat → Nat × Nat} {pos : Nat × Nat → Nat} (hpos : ∀ k, pos (at' k) = k)
    (hat : ∀ k, k < 64 → (at' k).1 < 64 ∧ (at' k).2 < 64) (c : Cluster) :
    TileBecomes c ((List.range 64).foldl (fun u k =>
      if q.pred.getLsbD k then setTileElem u q.tile (at' k).1 (at' k).2 (tileData q k) else u) c) q.tile (fun i j =>
        if (pos (i, j) < 64 ∧ at' (pos (i, j)) = (i, j)) ∧ q.pred.getLsbD (pos (i, j)) = true then tileData q (pos (i, j))
        else tileElem c q.tile i j) := by
  have hl : ∀ x ∈ (List.range 64).map at', x.1 < 64 ∧ x.2 < 64 := by simpa using hat
  have h := tileBecomes_foldl q.tile (fun x => q.pred.getLsbD (pos x) = true) (f := fun x => tileData q (pos x))
    (fun _ => tileData_lt q _) hl c
  simp only [List.foldl_map, hpos] at h
  refine h.congr fun i j _ _ => if_congr (and_congr_left' ?_) rfl rfl
  rw [List.mem_map]
  constructor
  · rintro ⟨k, hk, he⟩
    rw [← he, hpos]
    exact ⟨List.mem_range.mp hk, rfl⟩
  · exact fun he => ⟨_, List.mem_range.mpr he.1, he.2⟩

theorem entryStep_tmovVtor (h : q.instr = .tmovVtor d a b p) (hx : q.cap.xb.toNat < 64) (c : Cluster) :
    TileBecomes c (entryStep c q) q.tile (fun i j =>
      if i = q.cap.xb.toNat && q.pred.getLsbD j then tileData q j else tileElem c q.tile i j) := by
  unfold entryStep
  rw [h]
  exact (tileBecomes_moveIn q (at' := fun k => (q.cap.xb.toNat, k)) (pos := Prod.snd) (fun _ => rfl) (fun _ hk => ⟨hx, hk⟩) c).congr
    fun i j _ hj => by simp [hj, @eq_comm _ i]

theorem entryStep_tmovVtoc (h : q.instr = .tmovVtoc d a b p) (hx : q.cap.xb.toNat < 64) (c : Cluster) :
    TileBecomes c (entryStep c q) q.tile (fun i j =>
      if j = q.cap.xb.toNat && q.pred.getLsbD i then tileData q i else tileElem c q.tile i j) := by
  unfold entryStep
  rw [h]
  exact (tileBecomes_moveIn q (at' := fun k => (k, q.cap.xb.toNat)) (pos := Prod.fst) (fun _ => rfl) (fun _ hk => ⟨hk, hx⟩) c).congr
    fun i j hi _ => by simp [hi, @eq_comm _ j]

/-! ## Products -/

/-- The slots that a tile.mma reads. -/
def slotA (c : Cluster) (q : TEntry) : CSlot := slotAt c (q.slots.getD 0 0)
def slotB (c : Cluster) (q : TEntry) : CSlot := slotAt c (q.slots.getD 1 0)

/-- R205, R208: an element of the tile that a product updates. -/
abbrev Updates (c : Cluster) (q : TEntry) (i j : Nat) : Prop :=
  i < miRows (slotA c q).info ∧ j < miCols (slotB c q).info ∧ q.pred.getLsbD i = true ∧ q.pred.getLsbD (64 + j) = true

theorem updates_iff {i j : Nat} :
    Updates c q i j ↔ i < miRows (slotA c q).info ∧ j < miCols (slotB c q).info ∧ predHolds q.pred i j = true := by
  rw [Updates, predHolds, Bool.and_eq_true]

/-- R208, R214: the product by a slot B runs strained. -/
abbrev Strained (y : CSlot) : Prop := miStr y.info = true ∧ miFallback y.info = 0

theorem runsStrained_iff (y : CSlot) : runsStrained y = true ↔ Strained y := by
  rw [runsStrained, Bool.and_eq_true, decide_eq_true_eq]

/-- R208, R216: SKIP lets a product add nothing. -/
abbrev Skipped (x y : CSlot) : Prop :=
  (miSkip x.info = true ∧ miSpec y.info = false) ∨ (miSkip y.info = true ∧ miSpec x.info = false)

theorem productSkipped_iff (x y : CSlot) : productSkipped x y = true ↔ Skipped x y := by
  simp only [productSkipped, Bool.or_eq_true, Bool.and_eq_true, Bool.not_eq_true']

/-- Steps of a dense product (R203). -/
def denseSteps (x : CSlot) : Nat :=
  (miCols x.info + kPerStep (miType x.info) (miPlanes x.info) - 1) / kPerStep (miType x.info) (miPlanes x.info)

/-- Steps of a strained product: those of each term, halved for two patterns, and one for each four of the residual (R208). -/
def strainedSteps (x y : CSlot) : Nat :=
  y.terms.length * (if fieldOf y.stctl 0 2 ≠ 3 ∧ fieldOf y.stctl 2 2 = 0 then (denseSteps x + 1) / 2 else denseSteps x) +
    (if miDropped y.info then 0 else (y.residual.length + 3) / 4)

theorem mmaSteps_dense {x y : CSlot} (h : ¬ Strained y) : mmaSteps x y = denseSteps x := if_neg (mt (runsStrained_iff y).mp h)
theorem mmaSteps_strained {x y : CSlot} (h : Strained y) : mmaSteps x y = strainedSteps x y := if_pos ((runsStrained_iff y).mpr h)

theorem entrySteps_tileMma (h : q.instr = .tileMma d a b p ty) (c : Cluster) : entrySteps c q = mmaSteps (slotA c q) (slotB c q) := by
  rw [entrySteps, h]
  rfl

theorem entryStep_tileMma (h : q.instr = .tileMma d a b p ty) (c : Cluster) : entryStep c q = mmaStep c q q.step := by
  rw [entryStep, h]

/-- The k that step `n` of a dense product takes (R203). -/
def denseOrder (x : CSlot) (n : Nat) : List Nat :=
  span (n * kPerStep (miType x.info) (miPlanes x.info)) (min ((n + 1) * kPerStep (miType x.info) (miPlanes x.info)) (miCols x.info))

/-- A product that SKIP lets add nothing leaves the cluster as it is (R208). -/
theorem mmaStep_skipped (h : Skipped (slotA c q) (slotB c q)) (n : Nat) : mmaStep c q n = c := if_pos ((productSkipped_iff _ _).mpr h)

/-- A strained product leaves the cluster as it is before its last step (log 38). -/
theorem mmaStep_early (hs : Strained (slotB c q)) {n : Nat} (hn : n + 1 ≠ strainedSteps (slotA c q) (slotB c q)) : mmaStep c q n = c := by
  unfold mmaStep
  dsimp only
  split
  · rfl
  · exact if_pos ⟨(runsStrained_iff _).mpr hs, by rwa [← mmaSteps_strained hs] at hn⟩

/-- A step that makes additions makes them in each element that the product updates, in the order of its form (R106, R107). -/
theorem mmaStep_adds {order : Nat → List Nat} {n : Nat} (hk : ¬ Skipped (slotA c q) (slotB c q))
    (hn : ¬ (runsStrained (slotB c q) = true ∧ n + 1 ≠ mmaSteps (slotA c q) (slotB c q)))
    (ho : ∀ j, (if runsStrained (slotB c q) then strainedOrder (slotB c q) j else denseOrder (slotA c q) n) = order j) :
    TileBecomes c (mmaStep c q n) q.tile (fun i j => if Updates c q i j then
      addProducts (slotA c q) (slotB c q) i j (tileElem c q.tile i j) (order j) else tileElem c q.tile i j) := by
  have h := tileBecomes_tilePairs q.tile
    (fun x => x.1 < miRows (slotA c q).info ∧ x.2 < miCols (slotB c q).info ∧ predHolds q.pred x.1 x.2 = true)
    (f := fun x => addProducts (slotA c q) (slotB c q) x.1 x.2 (tileElem c q.tile x.1 x.2)
      (if runsStrained (slotB c q) then strainedOrder (slotB c q) x.2 else denseOrder (slotA c q) n))
    (fun x => addProducts_lt _ _ _ _ (tileElem_lt c q.tile _ _) _) c
  have he : mmaStep c q n = _ := (if_neg (mt (productSkipped_iff _ _).mp hk)).trans (if_neg hn)
  rw [he]
  exact h.congr fun i j _ _ => if_congr updates_iff.symm (by rw [ho]) rfl

theorem mmaStep_dense (hs : ¬ Strained (slotB c q)) (n : Nat) : TileBecomes c (mmaStep c q n) q.tile (fun i j =>
    if ¬ Skipped (slotA c q) (slotB c q) ∧ Updates c q i j then
      addProducts (slotA c q) (slotB c q) i j (tileElem c q.tile i j) (denseOrder (slotA c q) n) else tileElem c q.tile i j) := by
  have hs' := mt (runsStrained_iff (slotB c q)).mp hs
  by_cases hk : Skipped (slotA c q) (slotB c q)
  · rw [mmaStep_skipped hk]
    exact (TileBecomes.refl c q.tile).congr fun i j _ _ => (if_neg (fun h => h.1 hk)).symm
  · exact (mmaStep_adds hk (fun h => hs' h.1) (fun _ => if_neg hs')).congr fun i j _ _ =>
      if_congr (and_iff_right hk).symm rfl rfl

theorem mmaStep_strained (hs : Strained (slotB c q)) (n : Nat) : TileBecomes c (mmaStep c q n) q.tile (fun i j =>
    if ¬ Skipped (slotA c q) (slotB c q) ∧ n + 1 = strainedSteps (slotA c q) (slotB c q) ∧ Updates c q i j then
      addProducts (slotA c q) (slotB c q) i j (tileElem c q.tile i j) (strainedOrder (slotB c q) j) else tileElem c q.tile i j) := by
  have hs' := (runsStrained_iff (slotB c q)).mpr hs
  by_cases hk : Skipped (slotA c q) (slotB c q)
  · rw [mmaStep_skipped hk]
    exact (TileBecomes.refl c q.tile).congr fun i j _ _ => (if_neg (fun h => h.1 hk)).symm
  · by_cases hn : n + 1 = strainedSteps (slotA c q) (slotB c q)
    · have hlast : n + 1 = mmaSteps (slotA c q) (slotB c q) := hn.trans (mmaSteps_strained hs).symm
      exact (mmaStep_adds hk (fun h => h.2 hlast) (fun _ => if_pos hs')).congr fun i j _ _ =>
        if_congr ((and_iff_right hk).trans (and_iff_right hn)).symm rfl rfl
    · rw [mmaStep_early hs hn]
      exact (TileBecomes.refl c q.tile).congr fun i j _ _ => (if_neg (fun h => hn h.2.1)).symm

/-! ## The head of the tile queue -/

/-- Thread 4 × cl + k is alone in its cluster, has `q` at the head of its tile queue and is not to stop; the sequencer is free, and the
power mode lets it step (R203). -/
structure EngineHead (s : State) (cl k : Nat) (t : Thread) (q : TEntry) (rest : List TEntry) : Prop where
  here : threadAt s (4 * cl + k) = some t
  slot : k < 4
  cluster : cl < 320
  alone : ∀ j, j < 4 → j ≠ k → threadAt s (4 * cl + j) = none
  queue : t.tq = q :: rest
  going : t.stopReq = false
  allowed : stepRefused s cl = false
  free : (clusterOf s cl).seqRun = none

/-- The one element of a list that satisfies a test is the one found. -/
theorem find?_eq_some_of_unique {α : Type} {l : List α} {f : α → Bool} {x : α} (hx : x ∈ l) (hf : f x = true)
    (hu : ∀ y ∈ l, f y = true → y = x) : l.find? f = some x := by
  obtain ⟨y, hy⟩ := Option.isSome_iff_exists.mp (List.find?_isSome.mpr ⟨x, hx, hf⟩)
  rw [hy, hu y (List.mem_of_find?_eq_some hy) (List.find?_some hy)]

/-- The sequencer finds the only thread of its cluster, wherever its ring starts (R203). -/
theorem EngineHead.pick (h : EngineHead s cl k t q rest) : sequencerPick s cl = some k := by
  have hk := h.slot
  unfold sequencerPick
  dsimp only
  rw [h.free]
  refine find?_eq_some_of_unique ?_ (by simp [h.here, h.queue, h.going]) fun j hj hready => ?_
  · exact List.mem_map.mpr ⟨(k + 4 - ((clusterOf s cl).seqLast + 1) % 4) % 4, List.mem_range.mpr (by omega), by omega⟩
  · obtain ⟨i, -, rfl⟩ := List.mem_map.mp hj
    by_contra hne
    simp [h.alone _ (Nat.mod_lt _ (by decide)) hne] at hready

/-- A counter of a tile in service grows (R323, R324). -/
theorem tabGet_bump {page : Nat} (h : inService s (tileOfPage page) = true) (idx n : Nat) :
    tabGet 0 (bump s page idx n).counters (256 * page + idx) = tabGet 0 s.counters (256 * page + idx) + BitVec.ofNat 64 n := by
  rw [bump, if_pos h]
  exact tabGet_tabSet_self _ _ _ _

/-- The queue that a step of a head with `total` steps leaves. -/
def queueAfter (total : Nat) (q : TEntry) (rest : List TEntry) : List TEntry :=
  if total ≤ q.step + 1 then rest else { q with step := q.step + 1 } :: rest

/-- What a step of the engine comes to: the effect of the head's step on the cluster, the count, and the queue (R203). -/
theorem EngineHead.exec_step (h : EngineHead s cl k t q rest) (ht : 0 < entrySteps (clusterOf s cl) q) :
    ∃ run last, exec (.tileEngineStep cl) s = .next (setThread
      (setCluster (bump s cl 2 1) cl { entryStep (clusterOf s cl) q with seqRun := run, seqLast := last }) (4 * cl + k)
      { t with tq := queueAfter (entrySteps (clusterOf s cl) q) q rest }) := by
  rw [exec_tileEngineStep]
  unfold execTileEngineStep queueAfter
  rw [h.allowed, h.pick]
  dsimp only
  rw [h.here]
  dsimp only
  rw [h.queue]
  dsimp only
  rw [if_neg Bool.false_ne_true, if_neg (Nat.ne_of_gt ht)]
  by_cases hlast : entrySteps (clusterOf s cl) q ≤ q.step + 1
  · exact ⟨none, k, by rw [if_pos hlast, if_pos hlast]⟩
  · rw [if_neg hlast, if_neg hlast]
    by_cases hint : (q.step + 1) % 16 = 0
    · exact ⟨none, k, by rw [if_pos hint]⟩
    · exact ⟨some k, (entryStep (clusterOf s cl) q).seqLast, by rw [if_neg hint]⟩

/-- A head without steps leaves the queue without one (R208). -/
theorem EngineHead.exec_none (h : EngineHead s cl k t q rest) (ht : entrySteps (clusterOf s cl) q = 0) :
    exec (.tileEngineStep cl) s = .next (setThread
      (setCluster s cl { clusterOf s cl with seqRun := none, seqLast := k }) (4 * cl + k) { t with tq := rest }) := by
  rw [exec_tileEngineStep]
  unfold execTileEngineStep
  rw [h.allowed, h.pick]
  dsimp only
  rw [h.here]
  dsimp only
  rw [h.queue]
  dsimp only
  rw [if_neg Bool.false_ne_true, if_pos ht]

/-- One step of the engine for the thread leaves `left` of its tile queue and `el` in the tile, and is counted (R203); no other
thread, memory or tile changes. -/
def Steps (s : State) (cl k : Nat) (t : Thread) (tile : Nat) (left : List TEntry) (el : Nat → Nat → Nat) : Prop :=
  ∃ s', exec (.tileEngineStep cl) s = .next s' ∧
    OnlyThread s s' (4 * cl + k) ∧ threadAt s' (4 * cl + k) = some { t with tq := left } ∧
    (inService s (tileOfCluster cl) = true → tabGet 0 s'.counters (256 * cl + 2) = tabGet 0 s.counters (256 * cl + 2) + 1) ∧
    (∀ i j, i < 64 → j < 64 → tileElem (clusterOf s' cl) tile i j = el i j) ∧
    ∀ u i j, u ≠ tile → i < 64 → j < 64 → tileElem (clusterOf s' cl) u i j = tileElem (clusterOf s cl) u i j

/-- A step of the engine does to the tiles what the head's step does to its own. -/
theorem EngineHead.steps (h : EngineHead s cl k t q rest) (ht : 0 < entrySteps (clusterOf s cl) q) {el : Nat → Nat → Nat}
    (hb : TileBecomes (clusterOf s cl) (entryStep (clusterOf s cl) q) q.tile el) :
    Steps s cl k t q.tile (queueAfter (entrySteps (clusterOf s cl) q) q rest) el := by
  obtain ⟨run, last, hexec⟩ := h.exec_step ht
  have hpage : tileOfPage cl = tileOfCluster cl := if_pos h.cluster
  have hc := clusterOf_setCluster_self (bump s cl 2 1) cl { entryStep (clusterOf s cl) q with seqRun := run, seqLast := last }
  refine ⟨_, hexec, ⟨fun j hj => ?_, by simp⟩, threadAt_setThread_self _ _ _, fun hs => ?_, fun i j hi hj => ?_,
    fun u i j hu hi hj => ?_⟩
  · rw [threadAt_setThread_ne _ _ hj]
    simp [threadAt]
  · simpa using tabGet_bump (hpage ▸ hs) 2 1
  · exact (congrArg (tileElem · q.tile i j) hc).trans (hb.inside i j hi hj)
  · exact (congrArg (tileElem · u i j) hc).trans (hb.others u i j hu hi hj)

/-- An entry of one step leaves the queue with it. -/
theorem EngineHead.steps_once (h : EngineHead s cl k t q rest) (ht : entrySteps (clusterOf s cl) q = 1) {el : Nat → Nat → Nat}
    (hb : TileBecomes (clusterOf s cl) (entryStep (clusterOf s cl) q) q.tile el) : Steps s cl k t q.tile rest el := by
  have hsteps := h.steps (by omega) hb
  rwa [ht, queueAfter, if_pos (Nat.le_add_left 1 _)] at hsteps

/-- An entry whose step gives a tile or slots back to the cluster leaves the queue with that step. -/
theorem EngineHead.frees (h : EngineHead s cl k t q rest) (ht : entrySteps (clusterOf s cl) q = 1) :
    ∃ s' run last, exec (.tileEngineStep cl) s = .next s' ∧ threadAt s' (4 * cl + k) = some { t with tq := rest } ∧
      clusterOf s' cl = { entryStep (clusterOf s cl) q with seqRun := run, seqLast := last } := by
  obtain ⟨run, last, hexec⟩ := h.exec_step (by omega)
  rw [ht, queueAfter, if_pos (Nat.le_add_left 1 _)] at hexec
  exact ⟨_, run, last, hexec, threadAt_setThread_self _ _ _, clusterOf_setCluster_self _ _ _⟩

/-- tile.off frees its tile and no other (R207). -/
theorem mem_tileBusy_tileOff (h : q.instr = .tileOff d) (c : Cluster) (u : Nat) :
    u ∈ (entryStep c q).tileBusy ↔ u ∈ c.tileBusy ∧ u ≠ q.tile := by
  rw [entryStep, h]
  simp [setDel]

/-- cdy.rel frees its slots and no other (R211). -/
theorem mem_slotBusy_cdyRel (h : q.instr = .cdyRel a b) (c : Cluster) (u : Nat) :
    u ∈ (entryStep c q).slotBusy ↔ u ∈ c.slotBusy ∧ ¬ u ∈ q.slots := by
  rw [entryStep, h]
  simp

section

variable (h : EngineHead s cl k t q rest) (hi : q.instr = .tileMma d a b p ty)
include h hi

theorem EngineHead.dense_product (hs : ¬ Strained (slotB (clusterOf s cl) q)) (hd : 0 < denseSteps (slotA (clusterOf s cl) q)) :
    let c := clusterOf s cl
    Steps s cl k t q.tile (queueAfter (denseSteps (slotA c q)) q rest) (fun i j =>
      if ¬ Skipped (slotA c q) (slotB c q) ∧ Updates c q i j then
        addProducts (slotA c q) (slotB c q) i j (tileElem c q.tile i j) (denseOrder (slotA c q) q.step) else tileElem c q.tile i j) := by
  have ht : entrySteps (clusterOf s cl) q = _ := (entrySteps_tileMma hi _).trans (mmaSteps_dense hs)
  have hsteps := h.steps (ht ▸ hd) (entryStep_tileMma hi _ ▸ mmaStep_dense hs q.step)
  rwa [ht] at hsteps

theorem EngineHead.strained_product (hs : Strained (slotB (clusterOf s cl) q))
    (hd : 0 < strainedSteps (slotA (clusterOf s cl) q) (slotB (clusterOf s cl) q)) :
    let c := clusterOf s cl
    Steps s cl k t q.tile (queueAfter (strainedSteps (slotA c q) (slotB c q)) q rest) (fun i j =>
      if ¬ Skipped (slotA c q) (slotB c q) ∧ q.step + 1 = strainedSteps (slotA c q) (slotB c q) ∧ Updates c q i j then
        addProducts (slotA c q) (slotB c q) i j (tileElem c q.tile i j) (strainedOrder (slotB c q) j) else tileElem c q.tile i j) := by
  have ht : entrySteps (clusterOf s cl) q = _ := (entrySteps_tileMma hi _).trans (mmaSteps_strained hs)
  have hsteps := h.steps (ht ▸ hd) (entryStep_tileMma hi _ ▸ mmaStep_strained hs q.step)
  rwa [ht] at hsteps

/-- A strained product of no terms and no residual leaves the queue without a step (R208). -/
theorem EngineHead.empty_product (hs : Strained (slotB (clusterOf s cl) q))
    (hd : strainedSteps (slotA (clusterOf s cl) q) (slotB (clusterOf s cl) q) = 0) :
    ∃ s', exec (.tileEngineStep cl) s = .next s' ∧ OnlyThread s s' (4 * cl + k) ∧
      threadAt s' (4 * cl + k) = some { t with tq := rest } ∧ s'.counters = s.counters ∧
      ∀ u i j, tileElem (clusterOf s' cl) u i j = tileElem (clusterOf s cl) u i j := by
  have ht : entrySteps (clusterOf s cl) q = _ := (entrySteps_tileMma hi _).trans (mmaSteps_strained hs)
  have hc := clusterOf_setCluster_self s cl { clusterOf s cl with seqRun := none, seqLast := k }
  refine ⟨_, h.exec_none (ht.trans hd), ⟨fun j hj => ?_, rfl⟩, threadAt_setThread_self _ _ _, rfl, fun u i j => ?_⟩
  · exact threadAt_setThread_ne _ _ hj
  · exact (congrArg (tileElem · u i j) hc).trans rfl

end

/-! ## The obligation -/

/-- Settles O34: each clause is the step of the engine with the effect of its instruction on the tile; a product takes its dense or its
strained form. -/
theorem tileEngineStepsTheHead : Obligations.TileEngineStepsTheHead := by
  unfold Obligations.TileEngineStepsTheHead
  intro s cl k t q rest here slot cluster alone queue going _ allowed free c old x data steps
  have h : EngineHead s cl k t q rest := ⟨here, slot, cluster, alone, queue, going, allowed, free⟩
  refine ⟨fun d p hi => ?_, fun d a p hi => ?_, fun d a b p hi hx => ?_, fun d a b p hi hx => ?_, fun d hi => ?_, fun a b hi => ?_,
    fun d a b p ty hi => ⟨h.dense_product hi, h.strained_product hi, h.empty_product hi⟩⟩
  · exact h.steps_once (by rw [entrySteps, hi]) (entryStep_tileZero hi _)
  · exact h.steps_once (by rw [entrySteps, hi]) (entryStep_tileScal hi _)
  · exact h.steps_once (by rw [entrySteps, hi]) (entryStep_tmovVtor hi hx _)
  · exact h.steps_once (by rw [entrySteps, hi]) (entryStep_tmovVtoc hi hx _)
  · obtain ⟨s', run, last, hexec, hthread, hc⟩ := h.frees (by rw [entrySteps, hi])
    have hbusy (u : Nat) : u ∈ (clusterOf s' cl).tileBusy ↔ u ∈ c.tileBusy ∧ u ≠ q.tile := by
      rw [hc]
      exact mem_tileBusy_tileOff hi c u
    exact ⟨s', hexec, hthread, fun hq => ((hbusy _).mp hq).2 rfl, fun u hu => (hbusy u).trans (and_iff_left hu)⟩
  · obtain ⟨s', run, last, hexec, hthread, hc⟩ := h.frees (by rw [entrySteps, hi])
    refine ⟨s', hexec, hthread, fun u => ?_⟩
    rw [hc]
    exact mem_slotBusy_cdyRel hi c u

end Sys2Proof.Machine
end

section
/-! PROOFS. The values of floating lanes: VALU, VFMA and VCMP of a floating type, VCVT and VSCA (R92, R93, R97 to R99, R101, R143,
R145 to R147, R160, R163). -/

namespace Sys2Proof.Machine

variable {t : Thread} {e : Entry} {d a b : Reg} {p : PReg} {sOp : Bool} {ty tt : ElemTy} {rm : RMode} {n w : Nat}

/-! ## VALU and VFMA of a floating type (R143, R145, R146) -/

section

variable (h : ty.isFloat3 = true) (rm : RMode) (x y z : Nat)
include h

theorem vAdd_float : vAdd ty rm x y = roundTo ty rm (fadd rm (fvalOf ty x) (fvalOf ty y)) := if_pos h
theorem vSub_float : vSub ty rm x y = roundTo ty rm (fadd rm (fvalOf ty x) (fneg (fvalOf ty y))) := if_pos h
theorem vMul_float : vMul ty rm x y = roundTo ty rm (fmul (fvalOf ty x) (fvalOf ty y)) := if_pos h
theorem vMin_float : vMin ty x y = roundTo ty .rne (fmin (fvalOf ty x) (fvalOf ty y)) := if_pos h
theorem vMax_float : vMax ty x y = roundTo ty .rne (fmax (fvalOf ty x) (fvalOf ty y)) := if_pos h
theorem vAbsd_float : vAbsd ty rm x y = roundTo ty rm (fabs (fadd rm (fvalOf ty x) (fneg (fvalOf ty y)))) := if_pos h

/-- Product and addend, each with its sign or the other, rounded once. -/
theorem vFma_float (negP negD : Bool) : vFma ty rm negP negD x y z =
    roundTo ty rm (fadd rm (bif negP then fneg (fmul (fvalOf ty x) (fvalOf ty y)) else fmul (fvalOf ty x) (fvalOf ty y))
      (bif negD then fneg (fvalOf ty z) else fvalOf ty z)) := by
  rw [vFma, if_pos h]
  cases negP <;> cases negD <;> rfl

end

/-- dot2 at the first element of a pair, which has a second one unless it is the last column (R146). -/
theorem dot2At_eq (t : Thread) (e : Entry) (d a b : Reg) (sOp : Bool) (ty : ElemTy) (n : Nat) :
    let x (i : Nat) := fvalOf ty (elem t a.toNat ty.bits i)
    let y (i : Nat) := fvalOf ty (bOperand t e sOp b ty.bits i)
    let pair := if n % ncols e.cap + 1 < ncols e.cap then fadd .rne (fmul (x n) (y n)) (fmul (x (n + 1)) (y (n + 1))) else fmul (x n) (y n)
    dot2At t e d a b sOp ty n = roundTo ty (modeOf e.cap n)
      (fadd (modeOf e.cap n) (fvalOf ty (elem t d.toNat ty.bits n)) (fvalOf .f32 (roundTo .f32 .rne pair))) := by
  unfold dot2At dotPair
  by_cases h : n % ncols e.cap + 1 < ncols e.cap
  · simp only [if_pos h, fOp]
  · simp only [if_neg h, fOp]

/-! ## VCMP (R147) -/

/-- When each condition holds of an order; `none` is that of a NaN. -/
def CondMeans (cc : VCond) (o : Option Ordering) : Prop :=
  match cc with
  | .eq => o = some .eq
  | .ne => o ≠ some .eq
  | .lt => o = some .lt
  | .le => o = some .lt ∨ o = some .eq
  | .gt => o = some .gt
  | .ge => o = some .gt ∨ o = some .eq
  | .un => o = none

theorem vcondHolds_iff (cc : VCond) (o : Option Ordering) : vcondHolds cc o = true ↔ CondMeans cc o := by
  cases cc <;> rcases o with _ | _ | _ | _ <;> simp [vcondHolds, CondMeans]

theorem vcmp_float (h : ty.isFloat3 = true) (cc : VCond) (x y : Nat) :
    vcondHolds cc (cmpOf ty x y) = true ↔ CondMeans cc (fcmp (fvalOf ty x) (fvalOf ty y)) := by
  rw [cmpOf, if_pos h, vcondHolds_iff]

/-! ## VCVT (R99, R160) -/

/-- R91: the least and the largest value of an integer type. -/
def intLo (ty : ElemTy) : Int := if ty.isSigned then -2 ^ (ty.bits - 1) else 0
def intHi (ty : ElemTy) : Int := if ty.isSigned then 2 ^ (ty.bits - 1) - 1 else 2 ^ ty.bits - 1

theorem intRange_int (h : ty.isInt = true) : intRange ty = (intLo ty, intHi ty) := by
  cases ty <;> simp [ElemTy.isInt] at h <;> rfl

theorem clampTo_int (h : ty.isInt = true) (i : Int) : clampTo ty i = max (intLo ty) (min (intHi ty) i) := by
  rw [clampTo, intRange_int h]

theorem fvalToInt_inf (h : ty.isInt = true) (rm : RMode) (neg : Bool) :
    fvalToInt ty rm (.inf neg) = if neg then intLo ty else intHi ty := by
  rw [fvalToInt, intRange_int h]

theorem fvalToInt_fin (h : ty.isInt = true) (rm : RMode) (neg : Bool) (m : Nat) (ex : Int) : fvalToInt ty rm (.fin neg m ex) =
    max (intLo ty) (min (intHi ty) (if neg then -(roundUnits rm neg m ex 0 : Int) else (roundUnits rm neg m ex 0 : Int))) :=
  clampTo_int h _

theorem convert_int_int (hs : ty.isInt = true) (hd : tt.isInt = true) (rm : RMode) (v : Nat) :
    convert tt ty rm v = patternOf tt.bits (clampTo tt (intOf ty v)) := by rw [convert, if_pos hs, if_pos hd]

theorem convert_int_float (hs : ty.isInt = true) (hd : ¬ tt.isInt = true) (rm : RMode) (v : Nat) :
    convert tt ty rm v = roundTo tt rm (fvalOfInt (intOf ty v)) := by rw [convert, if_pos hs, if_neg hd]

theorem convert_float_int (hs : ¬ ty.isInt = true) (hd : tt.isInt = true) (rm : RMode) (v : Nat) :
    convert tt ty rm v = patternOf tt.bits (fvalToInt tt rm (fvalOf ty v)) := by rw [convert, if_neg hs, if_pos hd]

theorem convert_float_float (hs : ¬ ty.isInt = true) (hd : ¬ tt.isInt = true) (rm : RMode) (v : Nat) :
    convert tt ty rm v = roundTo tt rm (fvalOf ty v) := by rw [convert, if_neg hs, if_neg hd]

/-- The value that an element is converted to. -/
def convertedElem (t : Thread) (e : Entry) (a : Reg) (tt ty : ElemTy) (i : Nat) : Nat :=
  convert tt ty (modeOf e.cap i) (elem t a.toNat ty.bits i)

/-- Types of equal width convert by element group, others whole (R151). -/
theorem laneWork_vcvt_same (h : tt.bits = ty.bits) : laneWork t { e with instr := .vcvt d a p tt ty } =
    some (.groups d.toNat p.toNat tt.bits (convertedElem t e a tt ty)) := by
  show Option.or (if tt.bits = ty.bits then _ else _) _ = _
  rw [if_pos h]
  rfl

theorem laneWork_vcvt_other (h : tt.bits ≠ ty.bits) : laneWork t { e with instr := .vcvt d a p tt ty } =
    some (.whole (writeWhole t p.toNat d.toNat tt.bits e.k (nElems e.cap) (fun i => some (convertedElem t e a tt ty i)))) := by
  show Option.or (if tt.bits = ty.bits then _ else _) _ = _
  rw [if_neg h]
  rfl

/-! ## Whole writes (R151) -/

theorem elemWidth_bits (ty : ElemTy) : elemWidth ty.bits := by cases ty <;> simp [elemWidth, ElemTy.bits]

theorem writeWhole_some (t : Thread) (p d w start n : Nat) (f : Nat → Nat) :
    writeWhole t p d w start n (fun i => some (f i)) = writeGroup t p d w start n f := rfl

/-- Work that writes a value to each element changes v registers alone, and of its group the active, governed elements (R134). -/
theorem laneWork_writeWhole {p d start N : Nat} {f : Nat → Nat}
    (h : laneWork t e = some (.whole (writeWhole t p d w start N (fun i => some (f i))))) (hw : elemWidth w) (hN : N * w ≤ 131072)
    (hn : n * w < 131072) : ∃ u, laneWork t e = some (.whole u) ∧ u = { t with v := u.v, vext := u.vext } ∧
      elem u d w n = if start ≤ n ∧ n < N ∧ maskBit t p n = true then f n % 2 ^ w else elem t d w n := by
  rw [writeWhole_some] at h
  exact ⟨_, h, vOnly_writeGroup t p d w start N f, elem_writeGroup hw hN hn t⟩

/-! ## VSCA (R163) -/

/-- The exact product of two f32 values, or of two integers. -/
theorem scaProduct_eq (h : ty = .f32 ∨ ty = .s32) (x y : Nat) : scaProduct ty x y =
    if ty = .f32 then fmul (fvalOf .f32 x) (fvalOf .f32 y) else fvalOfInt (intOf .s32 x * intOf .s32 y) := by
  rcases h with rfl | rfl <;> rfl

theorem scaVal_scale (t : Thread) (e : Entry) (sel : Nat) (d a b : Reg) (sOp : Bool) (ty : ElemTy) (n : Nat) :
    scaVal t e sel false d a b sOp ty n = roundTo .f32 (modeOf e.cap n)
      (scaProduct ty (elem t a.toNat 32 n) (bOperand t e sOp b 32 (scaIndex e.cap sel n))) := rfl

theorem scaVal_accumulate (t : Thread) (e : Entry) (sel : Nat) (d a b : Reg) (sOp : Bool) (ty : ElemTy) (n : Nat) :
    scaVal t e sel true d a b sOp ty n = roundTo .f32 (modeOf e.cap n) (fadd (modeOf e.cap n)
      (scaProduct ty (elem t a.toNat 32 n) (bOperand t e sOp b 32 (scaIndex e.cap sel n))) (fvalOf .f32 (elem t d.toNat 32 n))) := rfl

/-! ## The obligation -/

/-- Settles O25: each instruction's work on element n is its value in the tables of R143 to R163, read for a floating type; VCVT between
types of two widths and the line forms of VSCA write whole. -/
theorem floatLanesRoundOnce : Obligations.FloatLanesRoundOnce := by
  unfold Obligations.FloatLanesRoundOnce
  intro t e d a b p sOp ty n rm cols pick
  refine ⟨fun hty => ?_, fun tt => ?_, fun hty => ?_⟩
  · have h : ty.isFloat3 = true := by rcases hty with rfl | rfl | rfl <;> rfl
    intro w x y z gives tests
    refine ⟨⟨_, rfl, vAdd_float h ..⟩, ⟨_, rfl, vSub_float h ..⟩, ⟨_, rfl, vMul_float h ..⟩, ⟨_, rfl, vMin_float h ..⟩,
      ⟨_, rfl, vMax_float h ..⟩, ⟨_, rfl, vAbsd_float h ..⟩, ⟨_, rfl, vFma_float h ..⟩, ⟨_, rfl, vFma_float h ..⟩,
      ⟨_, rfl, vFma_float h ..⟩, ⟨_, rfl, vFma_float h ..⟩, ⟨_, rfl, ?_⟩, ?_⟩
    · by_cases hp : n % cols % 2 = 0
      · rw [if_pos hp]
        exact (if_pos (decide_eq_true hp)).trans (dot2At_eq ..)
      · rw [if_neg hp]
        exact if_neg (by simpa [pairStart] using hp)
    · have test (cc : VCond) : tests cc (CondMeans cc (fcmp (x n) (y n))) :=
        ⟨_, rfl, vcmp_float h ..⟩
      exact ⟨test .eq, test .ne, test .lt, test .le, test .gt, test .ge, test .un⟩
  · intro v lo hi r
    have hr : convertedElem t e a tt ty n = r := by
      by_cases hs : ty.isInt = true <;> by_cases hd : tt.isInt = true
      · simp only [r, if_pos hs, if_pos hd]
        exact (convert_int_int hs hd ..).trans (congrArg _ (clampTo_int hd _))
      · simp only [r, if_pos hs, if_neg hd]
        exact convert_int_float hs hd ..
      · simp only [r, if_neg hs, if_pos hd]
        refine (convert_float_int hs hd ..).trans (congrArg _ ?_)
        show fvalToInt tt rm (fvalOf ty v) = _
        cases fvalOf ty v with
        | nan => rfl
        | inf neg => exact fvalToInt_inf hd rm neg
        | fin neg m ex => exact fvalToInt_fin hd rm neg m ex
      · simp only [r, if_neg hs, if_neg hd]
        exact convert_float_float hs hd ..
    refine ⟨fun hb => ⟨_, laneWork_vcvt_same hb, hr⟩, fun hb hN hn => ?_⟩
    rw [← hr]
    exact laneWork_writeWhole (laneWork_vcvt_other hb) (elemWidth_bits tt) hN hn
  · intro z prod own line
    have hprod (i : Nat) : scaProduct ty (elem t a.toNat 32 n) (pick 32 i) = prod i := scaProduct_eq hty _ _
    have hline {i : Instr} {f : Nat → Nat} {v : FVal}
        (h : laneWork t { e with instr := i } = some (.whole (writeWhole t p.toNat d.toNat 32 e.k (nElems e.cap) (fun i => some (f i)))))
        (hv : f n = roundTo .f32 rm v) : line i v := fun hN hn => by
      rw [← hv]
      exact laneWork_writeWhole h (elemWidth_bits .f32) hN hn
    have hscale (sel : Nat) : scaVal t e sel false d a b sOp ty n = roundTo .f32 rm (prod (scaIndex e.cap sel n)) := by
      rw [← hprod]
      exact scaVal_scale ..
    have hacc (sel : Nat) : scaVal t e sel true d a b sOp ty n = roundTo .f32 rm (fadd rm (prod (scaIndex e.cap sel n)) z) := by
      rw [← hprod]
      exact scaVal_accumulate ..
    exact ⟨⟨_, rfl, hscale 0⟩, ⟨_, rfl, hacc 0⟩, hline rfl (hscale 1), hline rfl (hscale 2), hline rfl (hacc 1), hline rfl (hacc 2)⟩

end Sys2Proof.Machine
end

section
/-! PROOFS. Scalar arithmetic: ALU, MDV and BIT (R116 to R118). -/

namespace Sys2Proof.Machine

variable {s : State} {t : Thread}

/-! ## The instructions as the model dispatches them -/

section
variable {d a b : Reg} {sh : BitVec 6}

theorem exec_aluAdd : exec (.aluAdd d a b) s = alu d a b (· + ·) s := rfl
theorem exec_aluSub : exec (.aluSub d a b) s = alu d a b (· - ·) s := rfl
theorem exec_aluAnd : exec (.aluAnd d a b) s = alu d a b (· &&& ·) s := rfl
theorem exec_aluOr : exec (.aluOr d a b) s = alu d a b (· ||| ·) s := rfl
theorem exec_aluXor : exec (.aluXor d a b) s = alu d a b (· ^^^ ·) s := rfl
theorem exec_aluSll : exec (.aluSll d a b) s = alu d a b (fun x y => x <<< (y.toNat % 64)) s := rfl
theorem exec_aluSrl : exec (.aluSrl d a b) s = alu d a b (fun x y => x >>> (y.toNat % 64)) s := rfl
theorem exec_aluSra : exec (.aluSra d a b) s = alu d a b (fun x y => x.sshiftRight (y.toNat % 64)) s := rfl
theorem exec_aluSlt : exec (.aluSlt d a b) s = alu d a b (fun x y => if x.slt y then 1 else 0) s := rfl
theorem exec_aluSltu : exec (.aluSltu d a b) s = alu d a b (fun x y => if x.ult y then 1 else 0) s := rfl
theorem exec_aluAddw : exec (.aluAddw d a b) s = alu d a b (fun x y => low32 (x + y)) s := rfl
theorem exec_aluSubw : exec (.aluSubw d a b) s = alu d a b (fun x y => low32 (x - y)) s := rfl
theorem exec_aluMin : exec (.aluMin d a b) s = alu d a b (fun x y => if x.slt y then x else y) s := rfl
theorem exec_aluMax : exec (.aluMax d a b) s = alu d a b (fun x y => if x.slt y then y else x) s := rfl
theorem exec_aluMinu : exec (.aluMinu d a b) s = alu d a b (fun x y => if x.ult y then x else y) s := rfl
theorem exec_aluMaxu : exec (.aluMaxu d a b) s = alu d a b (fun x y => if x.ult y then y else x) s := rfl
theorem exec_alui {imm : BitVec 16} : exec (.alui d a imm) s = onCur s fun t => writeX s t d (rx t a + imm.signExtend 64) := rfl
theorem exec_upi {imm : BitVec 21} : exec (.upi d imm) s = onCur s fun t => writeX s t d (imm.signExtend 64 * 65536) := rfl
theorem exec_mdvMul : exec (.mdvMul d a b) s = alu d a b (· * ·) s := rfl
theorem exec_mdvMulh : exec (.mdvMulh d a b) s = alu d a b (fun x y => BitVec.ofInt 64 (x.toInt * y.toInt / 2 ^ 64)) s := rfl
theorem exec_mdvMulhu : exec (.mdvMulhu d a b) s = alu d a b (fun x y => BitVec.ofNat 64 (x.toNat * y.toNat / 2 ^ 64)) s := rfl
theorem exec_mdvDiv : exec (.mdvDiv d a b) s = alu d a b (fun x y => BitVec.ofInt 64 (satDiv 64 x.toInt y.toInt)) s := rfl
theorem exec_mdvRem : exec (.mdvRem d a b) s = alu d a b (fun x y => BitVec.ofInt 64 (satRem 64 x.toInt y.toInt)) s := rfl
theorem exec_mdvDivu : exec (.mdvDivu d a b) s = alu d a b
    (fun x y => if y = 0 then (if x = 0 then 0 else BitVec.allOnes 64) else BitVec.ofNat 64 (x.toNat / y.toNat)) s := rfl
theorem exec_mdvRemu : exec (.mdvRemu d a b) s = alu d a b (fun x y => if y = 0 then 0 else BitVec.ofNat 64 (x.toNat % y.toNat)) s := rfl
theorem exec_mdvMulw : exec (.mdvMulw d a b) s = alu d a b (fun x y => low32 (x * y)) s := rfl
theorem exec_mdvDivw : exec (.mdvDivw d a b) s = alu d a b (fun x y => BitVec.ofInt 64 (satDiv 32 (int32 x) (int32 y))) s := rfl
theorem exec_mdvRemw : exec (.mdvRemw d a b) s = alu d a b (fun x y => BitVec.ofInt 64 (satRem 32 (int32 x) (int32 y))) s := rfl
theorem exec_bitSlli : exec (.bitSlli d a sh) s = bitOp d a (· <<< sh.toNat) s := rfl
theorem exec_bitSrli : exec (.bitSrli d a sh) s = bitOp d a (· >>> sh.toNat) s := rfl
theorem exec_bitSrai : exec (.bitSrai d a sh) s = bitOp d a (fun x => x.sshiftRight sh.toNat) s := rfl
theorem exec_bitClz : exec (.bitClz d a) s = bitOp d a (fun x => BitVec.ofNat 64 (leadingZeros x 64)) s := rfl
theorem exec_bitCtz : exec (.bitCtz d a) s = bitOp d a (fun x => BitVec.ofNat 64 (trailingZeros x 64)) s := rfl
theorem exec_bitPopc : exec (.bitPopc d a) s = bitOp d a (fun x => BitVec.ofNat 64 (onesBelow x 64)) s := rfl
theorem exec_bitRev8 : exec (.bitRev8 d a) s = bitOp d a reverseBytes s := rfl

end

/-! ## The shape of a scalar instruction -/

/-- An instruction of the ALU form gives the value of its function. -/
theorem givesX_alu {i : Instr} {d a b : Reg} {f : Word → Word → Word} {v : Word} (h : threadAt s s.cur = some t)
    (he : exec i s = alu d a b f s) (hv : f (rx t a) (rx t b) = v) : GivesX i s t d v :=
  givesX_of (by rw [he, alu_eq h, hv])

/-- An instruction of the BIT form gives the value of its function. -/
theorem givesX_bitOp {i : Instr} {d a : Reg} {f : Word → Word} {v : Word} (h : threadAt s s.cur = some t)
    (he : exec i s = bitOp d a f s) (hv : f (rx t a) = v) : GivesX i s t d v :=
  givesX_of (by rw [he, bitOp_eq h, hv])

/-- An instruction that writes x[d] from the current thread alone gives that value. -/
theorem givesX_onCur {i : Instr} {d : Reg} {f : Thread → Word} {v : Word} (h : threadAt s s.cur = some t)
    (he : exec i s = onCur s fun t => writeX s t d (f t)) (hv : f t = v) : GivesX i s t d v :=
  givesX_of (by rw [he, onCur_eq h, hv])

/-! ## ALU (R116) -/

/-- A shift amount is the low six bits of its register. -/
theorem shiftAmount_eq (y : Word) : y.toNat % 64 = (y.extractLsb' 0 6).toNat := by simp [BitVec.extractLsb'_toNat]

theorem ite_slt_eq (x y : Word) : (if x.slt y then (1 : Word) else 0) = if x.toInt < y.toInt then 1 else 0 := by
  rw [BitVec.slt_eq_decide]
  simp

theorem ite_ult_eq (x y : Word) : (if x.ult y then (1 : Word) else 0) = if x.toNat < y.toNat then 1 else 0 := by
  simp [BitVec.ult]

/-- The lesser of two unsigned words. -/
theorem word_umin (x y : Word) : (if x.ult y then x else y) = BitVec.ofNat 64 (min x.toNat y.toNat) := by
  simp only [BitVec.ult, decide_eq_true_eq]
  split
  · next h => rw [min_eq_left h.le, BitVec.ofNat_toNat, BitVec.setWidth_eq]
  · next h => rw [min_eq_right (not_lt.mp h), BitVec.ofNat_toNat, BitVec.setWidth_eq]

/-- The greater of two unsigned words. -/
theorem word_umax (x y : Word) : (if x.ult y then y else x) = BitVec.ofNat 64 (max x.toNat y.toNat) := by
  simp only [BitVec.ult, decide_eq_true_eq]
  split
  · next h => rw [max_eq_right h.le, BitVec.ofNat_toNat, BitVec.setWidth_eq]
  · next h => rw [max_eq_left (not_lt.mp h), BitVec.ofNat_toNat, BitVec.setWidth_eq]

/-- Settles O1: each instruction has the form of ALU or writes from its immediate, and its function is the value of the table. -/
theorem aluGivesTableResult : Obligations.AluGivesTableResult := by
  unfold Obligations.AluGivesTableResult
  intro s t d a b imm big h
  refine ⟨givesX_alu h exec_aluAdd rfl, givesX_alu h exec_aluSub rfl, givesX_alu h exec_aluAnd rfl, givesX_alu h exec_aluOr rfl,
    givesX_alu h exec_aluXor rfl, givesX_alu h exec_aluSll ?sll, givesX_alu h exec_aluSrl ?srl, givesX_alu h exec_aluSra ?sra,
    givesX_alu h exec_aluSlt (ite_slt_eq _ _), givesX_alu h exec_aluSltu (ite_ult_eq _ _), givesX_alu h exec_aluAddw rfl,
    givesX_alu h exec_aluSubw rfl, givesX_alu h exec_aluMin (word_smin _ _), givesX_alu h exec_aluMax (word_smax _ _),
    givesX_alu h exec_aluMinu (word_umin _ _), givesX_alu h exec_aluMaxu (word_umax _ _), givesX_onCur h exec_alui rfl,
    givesX_onCur h exec_upi rfl⟩
  case sll => rw [shiftAmount_eq]; rfl
  case srl => rw [shiftAmount_eq]; rfl
  case sra => rw [shiftAmount_eq]; rfl

/-! ## MDV (R117) -/

/-- The high half of an exact signed product. -/
theorem mulh_eq (x y : Word) : BitVec.ofInt 64 (x.toInt * y.toInt / 2 ^ 64) =
    (x.signExtend 128 * y.signExtend 128).extractLsb' 64 64 := by
  have hp : x.signExtend 128 * y.signExtend 128 = BitVec.ofInt 128 (x.toInt * y.toInt) := by
    rw [BitVec.signExtend, BitVec.signExtend, BitVec.ofInt_mul]
  rw [hp]
  apply BitVec.eq_of_toNat_eq
  rw [BitVec.extractLsb'_toNat, Nat.shiftRight_eq_div_pow, BitVec.toNat_ofInt, BitVec.toNat_ofInt]
  generalize x.toInt * y.toInt = p
  omega

/-- The high half of an exact unsigned product. -/
theorem mulhu_eq (x y : Word) : BitVec.ofNat 64 (x.toNat * y.toNat / 2 ^ 64) =
    (x.zeroExtend 128 * y.zeroExtend 128).extractLsb' 64 64 := by
  have hlt : x.toNat * y.toNat < 2 ^ 128 :=
    calc x.toNat * y.toNat < 2 ^ 64 * 2 ^ 64 := Nat.mul_lt_mul'' x.isLt y.isLt
      _ = 2 ^ 128 := by norm_num
  have hz (z : Word) : (z.zeroExtend 128).toNat = z.toNat := BitVec.toNat_setWidth_of_le (by omega)
  apply BitVec.eq_of_toNat_eq
  rw [BitVec.extractLsb'_toNat, Nat.shiftRight_eq_div_pow, BitVec.toNat_mul, BitVec.toNat_ofNat, hz, hz, Nat.mod_eq_of_lt hlt]

theorem mulw_eq (x y : Word) : low32 (x * y) = (x.extractLsb' 0 32 * y.extractLsb' 0 32).signExtend 64 := by
  rw [low32, BitVec.extractLsb'_mul (by omega)]

/-- The signed values of `w` bits. -/
def SignedFits (w : Nat) (a : Int) : Prop := -2 ^ (w - 1) ≤ a ∧ a < 2 ^ (w - 1)

theorem signedFits_toInt {w : Nat} (x : BitVec w) : SignedFits w x.toInt := ⟨x.le_toInt, x.toInt_lt⟩

/-- A quotient of signed values never lies below the least of them: it saturates from above alone. -/
theorem satDiv_eq {w : Nat} {a : Int} (ha : SignedFits w a) (b : Int) : satDiv w a b =
    if b = 0 then (if 0 < a then 2 ^ (w - 1) - 1 else if a < 0 then -2 ^ (w - 1) else 0)
    else min (2 ^ (w - 1) - 1) (a.tdiv b) := by
  obtain ⟨hlo, hhi⟩ := ha
  have hle : (a.tdiv b).natAbs ≤ a.natAbs := by
    rw [Int.natAbs_tdiv]
    exact Nat.div_le_self _ _
  have hpos : (0 : Int) < 2 ^ (w - 1) := by positivity
  unfold satDiv
  split
  · rfl
  · exact max_eq_right (by omega)

theorem signedFits_satDiv (w : Nat) (a b : Int) : SignedFits w (satDiv w a b) := by
  have hpos : (0 : Int) < 2 ^ (w - 1) := by positivity
  unfold satDiv
  split
  · split
    · exact ⟨by omega, by omega⟩
    · split <;> exact ⟨by omega, by omega⟩
  · exact ⟨by omega, by omega⟩

/-- A remainder fits as its dividend does. -/
theorem signedFits_satRem {w : Nat} {a : Int} (ha : SignedFits w a) (b : Int) : SignedFits w (satRem w a b) := by
  obtain ⟨hlo, hhi⟩ := ha
  have hpos : (0 : Int) < 2 ^ (w - 1) := by positivity
  unfold satRem
  split
  · exact ⟨by omega, hpos⟩
  · have hle : (a.tmod b).natAbs ≤ a.natAbs := by
      rw [Int.natAbs_tmod]
      exact Nat.mod_le _ _
    have hpos' : 0 ≤ a → 0 ≤ a.tmod b := Int.tmod_nonneg b
    have hneg : 0 ≤ -a → a.tmod b ≤ 0 := fun h => by simpa using Int.tmod_nonneg b h
    rw [← Int.tmod_def]
    exact ⟨by omega, by omega⟩

/-- A value of 32 bits widens by its sign. -/
theorem ofInt_signExtend {v : Int} (h : SignedFits 32 v) : BitVec.ofInt 64 v = (BitVec.ofInt 32 v).signExtend 64 := by
  rw [BitVec.signExtend, BitVec.toInt_ofInt_eq_self (by omega) h.1 h.2]

/-- Settles O2: each instruction has the form of ALU; the products are exact by their widths, and a quotient saturates from above
alone. -/
theorem mdvGivesSaturatingResult : Obligations.MdvGivesSaturatingResult := by
  unfold Obligations.MdvGivesSaturatingResult
  intro s t d a b h x y xw yw
  refine ⟨givesX_alu h exec_mdvMul rfl, givesX_alu h exec_mdvMulh (mulh_eq x y), givesX_alu h exec_mdvMulhu (mulhu_eq x y),
    givesX_alu h exec_mdvDiv ?div, givesX_alu h exec_mdvRem rfl, givesX_alu h exec_mdvDivu rfl, givesX_alu h exec_mdvRemu rfl,
    givesX_alu h exec_mdvMulw (mulw_eq x y), givesX_alu h exec_mdvDivw ?divw, givesX_alu h exec_mdvRemw ?remw⟩
  case div => exact congrArg _ (satDiv_eq (signedFits_toInt x) _)
  case divw =>
    exact (ofInt_signExtend (signedFits_satDiv 32 _ _)).trans
      (congrArg (fun q => (BitVec.ofInt 32 q).signExtend 64) (satDiv_eq (signedFits_toInt xw) _))
  case remw => exact ofInt_signExtend (signedFits_satRem (signedFits_toInt xw) _)

/-! ## BIT (R118) -/

/-- A byte of a number from its bytes (R5). -/
theorem natOfBytes_div (l : List Byte) (i : Nat) : natOfBytes l / 256 ^ i % 256 = (l.getD i 0).toNat := by
  induction l generalizing i with
  | nil => simp [natOfBytes]
  | cons b r ih =>
    have hb := b.isLt
    cases i with
    | zero => simp only [natOfBytes, List.getD_cons_zero]; omega
    | succ i =>
      rw [List.getD_cons_succ, ← ih, natOfBytes, Nat.pow_succ', ← Nat.div_div_eq_div_mul]
      congr 2
      omega

theorem natOfBytes_lt (l : List Byte) : natOfBytes l < 256 ^ l.length := by
  induction l with
  | nil => simp [natOfBytes]
  | cons b r ih =>
    have hb := b.isLt
    simp only [natOfBytes, List.length_cons, Nat.pow_succ]
    omega

/-- The bytes of a number (R5). -/
theorem getElem_bytesOfNat (n v i : Nat) (h : i < (bytesOfNat n v).length) : (bytesOfNat n v)[i] = BitVec.ofNat 8 (v / 256 ^ i) := by
  induction n generalizing v i with
  | zero => simp at h
  | succ n ih =>
    cases i with
    | zero => simp [bytesOfNat]
    | succ i => simp only [bytesOfNat, List.getElem_cons_succ, ih, Nat.pow_succ', Nat.div_div_eq_div_mul]

/-- Byte n of a number as a slice of its bits. -/
theorem extractLsb'_byte (x : Word) (n : Nat) : x.extractLsb' (8 * n) 8 = BitVec.ofNat 8 (x.toNat / 256 ^ n) := by
  apply BitVec.eq_of_toNat_eq
  rw [BitVec.extractLsb'_toNat, Nat.shiftRight_eq_div_pow, Nat.pow_mul, BitVec.toNat_ofNat]

theorem reverseBytes_byte (x : Word) {n : Nat} (h : n < 8) : (reverseBytes x).extractLsb' (8 * n) 8 = x.extractLsb' (8 * (7 - n)) 8 := by
  have hlt := natOfBytes_lt (bytesOfNat 8 x.toNat).reverse
  rw [List.length_reverse, length_bytesOfNat] at hlt
  have hget : (bytesOfNat 8 x.toNat).reverse.getD n 0 = BitVec.ofNat 8 (x.toNat / 256 ^ (7 - n)) := by
    rw [List.getD_eq_getElem _ _ (by simpa using h), List.getElem_reverse, getElem_bytesOfNat, length_bytesOfNat]
  rw [extractLsb'_byte, extractLsb'_byte, ← hget]
  apply BitVec.eq_of_toNat_eq
  rw [← natOfBytes_div, BitVec.toNat_ofNat, reverseBytes, BitVec.toNat_ofNat, Nat.mod_eq_of_lt (b := 2 ^ 64) hlt]

/-- Settles O3: each instruction has the form of BIT; the counts are those of `leadingZeros_spec` and `trailingZeros_spec`. -/
theorem bitGivesTableResult : Obligations.BitGivesTableResult := by
  unfold Obligations.BitGivesTableResult
  intro s t d a sh h x
  refine ⟨givesX_bitOp h exec_bitSlli rfl, givesX_bitOp h exec_bitSrli rfl, givesX_bitOp h exec_bitSrai rfl,
    ⟨leadingZeros x 64, givesX_bitOp h exec_bitClz rfl, ?clz⟩, ⟨trailingZeros x 64, givesX_bitOp h exec_bitCtz rfl, ?ctz⟩,
    givesX_bitOp h exec_bitPopc (congrArg _ (onesBelow_eq x 64)),
    ⟨reverseBytes x, givesX_bitOp h exec_bitRev8 rfl, fun n hn => reverseBytes_byte x hn⟩⟩
  case clz => exact leadingZeros_spec x 64
  case ctz => simpa using trailingZeros_spec x 64 (le_refl 64)

end Sys2Proof.Machine
end

section
/-! PROOFS. Control transfers, control and status registers, and the scalar traps (R45, R54, R110 to R115, R122 to R126, R288). -/

namespace Sys2Proof.Machine

variable {s : State} {t : Thread} {i : Instr} {c : BitVec 12} {d a b : Reg}

/-! ## The instructions as the model dispatches them -/

section
variable {off : BitVec 14} {far : BitVec 25} {imm : BitVec 16}

theorem exec_brEq : exec (.brEq a b off) s = branch 0 a b off s := rfl
theorem exec_brNe : exec (.brNe a b off) s = branch 1 a b off s := rfl
theorem exec_brLt : exec (.brLt a b off) s = branch 2 a b off s := rfl
theorem exec_brLtu : exec (.brLtu a b off) s = branch 3 a b off s := rfl
theorem exec_jlGo : exec (.jlGo far) s = execJlGo far s := rfl
theorem exec_jlLn : exec (.jlLn far) s = execJlLn far s := rfl
theorem exec_jlr : exec (.jlr d a imm) s = execJlr d a imm s := rfl
theorem exec_ctlRd : exec (.ctlRd d c) s = execCtlRd d c s := rfl
theorem exec_ctlWr : exec (.ctlWr a c) s = ctlWrite none a c (fun _ x => x) s := rfl
theorem exec_ctlXchg : exec (.ctlXchg d a c) s = ctlWrite (some d) a c (fun _ x => x) s := rfl
theorem exec_ctlBset : exec (.ctlBset a c) s = ctlWrite none a c (fun o x => o ||| x) s := rfl
theorem exec_ctlBclr : exec (.ctlBclr a c) s = ctlWrite none a c (fun o x => o &&& ~~~x) s := rfl
theorem exec_ctlAdv : exec (.ctlAdv d a c) s = ctlWrite (some d) a c (fun o x => o + x) s := rfl
theorem exec_eReadWake {tid : Nat} : exec (.eReadWake tid) s = execEReadWake tid s := rfl
theorem exec_sysCall : exec .sysCall s = execSysCall s := rfl
theorem exec_sysTrap {code : BitVec 6} : exec (.sysTrap code) s = execSysTrap code s := rfl
theorem exec_sysBrk : exec .sysBrk s = execSysBrk s := rfl
theorem exec_sysTret : exec .sysTret s = .next (trapReturn s s.cur) := rfl
theorem exec_illegalWord {w : IWord} : exec (.illegalWord w) s = execIllegalWord w s := rfl
theorem exec_instructionPageFault {va : Word} : exec (.instructionPageFault va) s = execInstructionPageFault va s := rfl

end

/-! ## Register writes -/

/-- What the written register reads. -/
theorem rx_wx (t : Thread) (d : Reg) (v : Word) : rx (wx t d v) d = if d = 0 then 0 else v := by
  split
  · next h => rw [h]; rfl
  · next h => exact rx_wx_self t v h

/-! ## Control transfers (R122) -/

/-- The target of a word offset, as the statement writes it. -/
theorem wordTarget_eq {n : Nat} (pc : Word) (off : BitVec n) : wordTarget pc off = pc + 4 * off.signExtend 64 := by
  rw [wordTarget, BitVec.mul_comm]

/-- A word offset from a word address reaches a word address (R54). -/
theorem wordOffset_aligned {pc : Word} (h : pc.toNat % 4 = 0) (z : Word) : (pc + 4 * z).toNat % 4 = 0 := by
  rw [BitVec.toNat_add, BitVec.toNat_mul, show (4 : Word).toNat = 4 from rfl]
  omega

theorem misaligned_iff (w : Word) : w.toNat % 4 ≠ 0 ↔ w.extractLsb' 0 2 ≠ 0 := by
  rw [Ne, Ne, not_iff_not, ← BitVec.toNat_inj, BitVec.extractLsb'_toNat]
  rfl

/-- A branch goes to its target or on, as its condition has it. -/
theorem goesTo_branch {cond : Nat} {off : BitVec 14} {p : Prop} [Decidable p] (h : threadAt s s.cur = some t)
    (he : exec i s = branch cond a b off s) (hp : brTaken cond (rx t a) (rx t b) = true ↔ p) :
    GoesTo i s t (if p then t.pc + 4 * off.signExtend 64 else t.pc + 4) := by
  rw [GoesTo, he, branch, onCur_eq h]
  simp only [hp, wordTarget_eq]

theorem goesTo_jlGo (h : threadAt s s.cur = some t) (far : BitVec 25) : GoesTo (.jlGo far) s t (t.pc + 4 * far.signExtend 64) := by
  rw [GoesTo, exec_jlGo, execJlGo, onCur_eq h, wordTarget_eq]

/-- A jump that links leaves the return address and goes to its target. -/
theorem link_spec (t : Thread) (d : Reg) (v pc : Word) : let u := { wx t d v with pc := pc }
    rx u d = (if d = 0 then 0 else v) ∧ (∀ r, r ≠ d → rx u r = rx t r) ∧ u = { t with x := u.x, pc := pc } :=
  ⟨rx_wx t d v, fun _ hr => rx_wx_ne t v hr, by dsimp only; rw [wx_frame t d v]⟩

theorem execJlr_aligned (h : threadAt s s.cur = some t) (d : Reg) {imm : BitVec 16}
    (ht : (rx t a + imm.signExtend 64).extractLsb' 0 2 = 0) :
    execJlr d a imm s = .next (setThread s s.cur { wx t d (t.pc + 4) with pc := rx t a + imm.signExtend 64 }) := by
  rw [execJlr, onCur_eq h]
  dsimp only
  rw [if_neg (by rw [misaligned_iff, ht]; simp)]

theorem execJlr_misaligned (h : threadAt s s.cur = some t) (d : Reg) {imm : BitVec 16}
    (ht : (rx t a + imm.signExtend 64).extractLsb' 0 2 ≠ 0) :
    execJlr d a imm s = .next (scalarTrap s s.cur causeMisalignedPc (rx t a + imm.signExtend 64) t.pc) := by
  rw [execJlr, onCur_eq h]
  dsimp only
  rw [if_pos ((misaligned_iff _).mpr ht)]

/-- Settles O4: a branch goes as its condition has it, a jump links and goes; the offsets count words, and a target of jlr is tested by
its two low bits. -/
theorem transfersReachTheirTarget : Obligations.TransfersReachTheirTarget := by
  unfold Obligations.TransfersReachTheirTarget
  refine ⟨?goes, fun s t d a imm h hf ht => traps_of h hf (by rw [exec_jlr, execJlr_misaligned h d ht]; rfl)⟩
  intro s t d a b off far imm h near long target
  refine ⟨?eq, ?ne, ?lt, ?ltu, goesTo_jlGo h far, ?ln, fun ht => ?jlr, fun hpc => ?aligned⟩
  case eq => exact goesTo_branch h exec_brEq decide_eq_true_iff
  case ne => exact goesTo_branch h exec_brNe decide_eq_true_iff
  case lt => exact goesTo_branch h exec_brLt (by simp [brTaken, BitVec.slt])
  case ltu => exact goesTo_branch h exec_brLtu (by simp [brTaken, BitVec.ult])
  case ln =>
    obtain ⟨hd, hr, hu⟩ := link_spec t 31 (t.pc + 4) long
    exact ⟨_, by rw [exec_jlLn, execJlLn, onCur_eq h, wordTarget_eq], hd, hr, hu⟩
  case jlr => exact ⟨_, by rw [exec_jlr, execJlr_aligned h d ht], link_spec t d (t.pc + 4) target⟩
  case aligned => exact ⟨wordOffset_aligned hpc _, wordOffset_aligned hpc _⟩

/-! ## Reads of control and status registers (R110, R111, R113, R114) -/

/-- ctl.rd of a register that is no e register gives what it reads. -/
theorem givesX_ctlRd {v : Word} (h : threadAt s s.cur = some t) (hc : c.toNat < 0x800) (hv : csrRead s s.cur t c = v) :
    GivesX (.ctlRd d c) s t d v :=
  givesX_of (by rw [exec_ctlRd, execCtlRd, onCur_eq h, if_neg (Nat.not_le.mpr hc), hv])

/-- Settles O5: vcp reads as `vcpOf` has it, and ctl.rd of it goes on. -/
theorem vcpReadSamplesQueue : Obligations.VcpReadSamplesQueue := by
  unfold Obligations.VcpReadSamplesQueue
  intro s t d h
  have hread : GivesX (.ctlRd d 0x005) s t d (vcpOf t) := givesX_ctlRd h (by decide) rfl
  refine ⟨fun hq => ?_, fun e rest hq => ?_⟩
  · rwa [vcpOf, hq] at hread
  · rwa [vcpOf, hq] at hread

/-- The fields of place (R114). -/
theorem placeOf_fields {tid : Nat} (h : tid < 1280) : (placeOf tid).extractLsb' 0 9 = BitVec.ofNat 9 (tid / 4) ∧
    (placeOf tid).extractLsb' 9 2 = BitVec.ofNat 2 (tid % 4) ∧ (placeOf tid).extractLsb' 11 2 = BitVec.ofNat 2 (tid / 320) ∧
    (placeOf tid).extractLsb' 13 51 = 0 := by
  have hv : (placeOf tid).toNat = tid / 4 + 512 * (tid % 4) + 2048 * (tid / 320) := by
    rw [placeOf, dieOfCluster, Nat.div_div_eq_div_mul, BitVec.toNat_ofNat]
    omega
  have hfield {lo n k : Nat} (hk : (placeOf tid).toNat / 2 ^ lo % 2 ^ n = k % 2 ^ n) : (placeOf tid).extractLsb' lo n = BitVec.ofNat n k := by
    rw [← BitVec.toNat_inj, BitVec.extractLsb'_toNat, Nat.shiftRight_eq_div_pow, hk, BitVec.toNat_ofNat]
  obtain ⟨hcl, hslot, hdie⟩ : tid / 4 < 512 ∧ tid % 4 < 4 ∧ tid / 320 < 4 := by omega
  generalize tid / 4 = cl, tid % 4 = slot, tid / 320 = die at *
  refine ⟨hfield ?_, hfield ?_, hfield ?_, hfield (k := 0) ?_⟩ <;> norm_num only <;> omega

/-- Settles O6: each register that is no e register reads as `csrRead` has it, place by its fields. -/
theorem ctlReadGivesRegister : Obligations.CtlReadGivesRegister := by
  unfold Obligations.CtlReadGivesRegister
  intro s t d h
  have hread (c : BitVec 12) (hc : c.toNat < 0x800) : GivesX (.ctlRd d c) s t d (csrRead s s.cur t c) := givesX_ctlRd h hc rfl
  have hdie : dieOfCluster (s.cur / 4) = s.cur / 320 := Nat.div_div_eq_div_mul s.cur 4 80
  refine ⟨hread 0x000 (by decide), hread 0x001 (by decide), hread 0x002 (by decide), hread 0x003 (by decide), hread 0x004 (by decide),
    hread 0x006 (by decide), hread 0x010 (by decide), hread 0x011 (by decide), hread 0x020 (by decide), hread 0x021 (by decide),
    hread 0x030 (by decide), hread 0x040 (by decide), hread 0x041 (by decide), hread 0x042 (by decide), hread 0x043 (by decide),
    hread 0x044 (by decide), hread 0x045 (by decide), hread 0x082 (by decide), ?lcyc, fun hcur => ?place⟩
  case lcyc => exact hdie ▸ hread 0x080 (by decide)
  case place => exact ⟨placeOf s.cur, hread 0x081 (by decide), placeOf_fields hcur⟩

/-! ## Writes of control and status registers (R123) -/

/-- What a write form of CTL makes of its thread, but for x[D]. -/
def csrSet (t : Thread) (c : BitVec 12) (v : Word) : Thread := { t with csr := csrWrite t.csr c v, pc := t.pc + 4 }

theorem ctlWrite_sets (h : threadAt s s.cur = some t) (a : Reg) (c : BitVec 12) (f : Word → Word → Word) :
    ctlWrite none a c f s = .next (setThread s s.cur (csrSet t c (f (csrRead s s.cur t c) (rx t a)))) := onCur_eq h _

/-- A write form that gives x[D] the old value. -/
theorem ctlWrite_swaps (h : threadAt s s.cur = some t) (d a : Reg) (c : BitVec 12) (f : Word → Word → Word) :
    ∃ u, ctlWrite (some d) a c f s = .next (setThread s s.cur u) ∧ rx u d = (if d = 0 then 0 else csrRead s s.cur t c) ∧
      (∀ r, r ≠ d → rx u r = rx t r) ∧
      u = { t with csr := csrWrite t.csr c (f (csrRead s s.cur t c) (rx t a)), x := u.x, pc := t.pc + 4 } := by
  let t' := csrSet t c (f (csrRead s s.cur t c) (rx t a))
  exact ⟨wx t' d (csrRead s s.cur t c), onCur_eq h _, rx_wx t' d _, fun r hr => rx_wx_ne t' _ hr, wx_frame t' d _⟩

/-- Settles O7: three forms set the register, two of them also give x[D] the old value. -/
theorem ctlWriteSetsRegister : Obligations.CtlWriteSetsRegister := by
  unfold Obligations.CtlWriteSetsRegister
  intro s t d a c h _ old x sets swaps
  exact ⟨exec_ctlWr.trans (ctlWrite_sets h a c _), exec_ctlBset.trans (ctlWrite_sets h a c _),
    exec_ctlBclr.trans (ctlWrite_sets h a c _), by simpa only [swaps, exec_ctlXchg] using ctlWrite_swaps h d a c (fun _ x => x),
    fun _ => by simpa only [swaps, exec_ctlAdv] using ctlWrite_swaps h d a c (fun o x => o + x)⟩

/-! ## e registers (R115, R45) -/

/-- A pattern of `n` bits read as two's complement. -/
theorem signedOf_toNat {n : Nat} (hn : 0 < n) (x : BitVec n) : signedOf n x.toNat = x.toInt := by
  obtain ⟨m, rfl⟩ : ∃ m, n = m + 1 := ⟨n - 1, by omega⟩
  have hm : (x.toNat : Int) % 2 ^ (m + 1) = x.toNat := Int.emod_eq_of_lt (by omega) (by exact_mod_cast x.isLt)
  have hlt : x.toNat < 2 ^ m ↔ 2 * x.toNat < 2 ^ (m + 1) := by rw [Nat.pow_succ]; omega
  rw [signedOf, BitVec.toInt_eq_toNat_cond, Nat.mod_eq_of_lt x.isLt, Nat.add_sub_cancel, hm]
  simp only [hlt, Nat.cast_pow, Nat.cast_ofNat]

theorem elemTy_bits_pos (ty : ElemTy) : 0 < ty.bits := by cases ty <;> decide

/-- Element (0,0) of a register is its low bits. -/
theorem elem_zero (t : Thread) (n w : Nat) : elem t n w 0 = ((rv t n).extractLsb' 0 w).toNat := by
  simp only [elem, bitsAt, Nat.zero_mul, Nat.zero_div, Nat.zero_mod, Nat.add_zero]

/-- The value of an e register: the low bits of its vector register, extended as the type in vfmt says. -/
theorem eValue_eq (t : Thread) (n : Nat) : let ty := vfmtTy t.csr.vfmt
    let low : BitVec ty.bits := (rv t n).extractLsb' 0 ty.bits
    eValue t n = if ty.isSigned ∨ ty = .bpi then low.signExtend 64 else low.zeroExtend 64 := by
  intro ty low
  have hz : low.zeroExtend 64 = BitVec.ofNat 64 low.toNat := (BitVec.ofNat_toNat 64 low).symm
  rw [eValue, elem_zero]
  rw [signedOf_toNat (elemTy_bits_pos ty) low, hz]
  rfl

theorem writerQueued_iff (t : Thread) (n : Nat) : writerQueued t n = true ↔ ∃ e ∈ t.vq, n ∈ destRegs e.cap.vfmt e.instr := by
  simp [writerQueued]

/-- ctl.rd of an e register, by what it finds. -/
theorem execCtlRd_e (h : threadAt s s.cur = some t) (d n : Reg) : execCtlRd d (0x800 + n.zeroExtend 12) s = .next (
    if t.vrelPushed then scalarTrap s s.cur causeVreleased 0 t.pc
    else if writerQueued t n.toNat then setThread s s.cur { t with hold := .eRead d n.toNat }
    else writeX s t d (eValue t n.toNat)) := by
  have hn : (0x800 + n.zeroExtend 12 : BitVec 12).toNat = 0x800 + n.toNat := by
    have h := n.isLt
    rw [BitVec.toNat_add, BitVec.toNat_setWidth, show (0x800 : BitVec 12).toNat = 0x800 from rfl]
    omega
  rw [execCtlRd, onCur_eq h]
  dsimp only
  rw [hn, if_pos (by omega), Nat.add_sub_cancel_left]

/-- A read that waits goes on when no writer is left. -/
theorem eReadWake_gives {tid n : Nat} (h : threadAt s tid = some t) (hh : t.hold = .eRead d n) (hs : t.stopReq = false)
    (hw : writerQueued t n = false) :
    exec (.eReadWake tid) s = .next (setThread s tid { wx t d (eValue t n) with pc := t.pc + 4, hold := .run }) := by
  rw [exec_eReadWake, execEReadWake, h]
  dsimp only
  rw [hh]
  dsimp only
  rw [hw, hs]
  rfl

theorem eReadWake_waits {tid n : Nat} (h : threadAt s tid = some t) (hh : t.hold = .eRead d n) (hw : writerQueued t n = true) :
    exec (.eReadWake tid) s = .next s := by
  rw [exec_eReadWake, execEReadWake, h]
  dsimp only
  rw [hh]
  dsimp only
  rw [hw]
  rfl

/-- Settles O9: ctl.rd of an e register traps, waits or gives the element by what it finds, and a read that waits is tried again. -/
theorem eRegisterReadSynchronises : Obligations.ERegisterReadSynchronises := by
  unfold Obligations.ERegisterReadSynchronises
  intro s t d n tid ty low v writers read
  have hv : eValue t n.toNat = v := eValue_eq t n.toNat
  have hnone (hw : ¬ writers) : writerQueued t n.toNat = false := by rwa [Bool.eq_false_iff, Ne, writerQueued_iff]
  have hsome (hw : writers) : writerQueued t n.toNat = true := (writerQueued_iff t _).mpr hw
  have hread (h : threadAt s s.cur = some t) := (exec_ctlRd (s := s)).trans (execCtlRd_e h d n)
  refine ⟨fun h hr hw => ?gives, fun h hr hw => ?waits, fun h hr hf => ?traps, fun h hh hs hw => ?wakes, fun h hh hw => ?sleeps⟩
  case gives => exact givesX_of (by rw [hread h, hr, hnone hw, hv]; rfl)
  case waits => rw [hread h, hr, hsome hw]; rfl
  case traps => exact traps_of h hf (by rw [hread h, hr]; rfl)
  case wakes =>
    refine ⟨_, eReadWake_gives h hh hs (hnone hw), ?_, fun r hr => rx_wx_ne t _ hr, ?_⟩
    · rw [hv]; exact rx_wx t d v
    · dsimp only; rw [wx_frame]
  case sleeps => exact eReadWake_waits h hh (hsome hw)

/-! ## Scalar traps (R125, R126) -/

/-- Outside a handler sys.tret is a trap (R126). -/
theorem trapReturn_outside {tid : Nat} (h : threadAt s tid = some t) (hi : inh t = false) :
    trapReturn s tid = scalarTrap s tid causeBadTret 0 t.pc := by
  rw [trapReturn, h]
  dsimp only
  rw [hi]
  rfl

/-- Settles O13: each instruction ends in its scalar trap, which the thread takes in its handler. -/
theorem scalarTrapEntersHandler : Obligations.ScalarTrapEntersHandler := by
  unfold Obligations.ScalarTrapEntersHandler
  intro s t code w va h hf
  exact ⟨traps_of h hf (exec_sysCall.trans (onCur_eq h _)), traps_of h hf (exec_sysTrap.trans (onCur_eq h _)),
    traps_of h hf (exec_sysBrk.trans (onCur_eq h _)), traps_of h hf (exec_sysTret.trans (congrArg _ (trapReturn_outside h hf.1))),
    traps_of h hf (exec_illegalWord.trans (onCur_eq h _)), traps_of h hf (exec_instructionPageFault.trans (onCur_eq h _))⟩

end Sys2Proof.Machine
end

section
/-! PROOFS. Stores (R119, R120, R223, R229, R285), and what a strong load waits for (R235, R236). -/

namespace Sys2Proof.Machine

variable {s s' s'' s1 : State} {t : Thread} {cl : Nat}

theorem exec_st (d a b : Reg) (w : StW) (strong : Option Scope) (off : BitVec 4) (s : State) :
    exec (.st d a b w strong off) s = execSt d a b w strong off s := rfl

/-! ## What a translation leaves alone -/

namespace OnlyCaches

theorem refl (s : State) (cl : Nat) : OnlyCaches s s cl := ⟨rfl, rfl, fun _ _ => rfl⟩

theorem trans (h : OnlyCaches s s' cl) (h' : OnlyCaches s' s'' cl) : OnlyCaches s s'' cl where
  rest := by rw [h'.rest, h.rest]
  here := by rw [h'.here, h.here]
  others := fun c hc => (h'.others c hc).trans (h.others c hc)

theorem foldl {α : Type} {f : State → α → State} (hf : ∀ s a, OnlyCaches s (f s a) cl) (l : List α) (s : State) :
    OnlyCaches s (l.foldl f s) cl := by
  induction l generalizing s with
  | nil => exact refl s cl
  | cons a l ih => exact (hf s a).trans (ih (f s a))

/-- Counters alone. -/
theorem of_counters (h : s' = { s with counters := s'.counters }) (cl : Nat) : OnlyCaches s s' cl := by
  rw [h]
  exact ⟨rfl, rfl, fun _ _ => rfl⟩

/-- The translation cache and the misses of the cluster alone. -/
theorem setCluster (s : State) {cl : Nat} {c : Cluster} (hc : c = { clusterOf s cl with tlb := c.tlb, missed := c.missed }) :
    OnlyCaches s (setCluster s cl c) cl where
  rest := rfl
  here := by rw [clusterOf_setCluster_self]; exact hc
  others := fun _ h => clusterOf_setCluster_ne s c h

theorem modMisses (s : State) (cl : Nat) (f : List Miss → List Miss) : OnlyCaches s (modMisses s cl f) cl := by
  unfold Machine.modMisses
  split
  · exact refl s cl
  · exact setCluster s rfl

theorem countMiss (s : State) (cl owner id va : Nat) : OnlyCaches s (countMiss s cl owner id va) cl := by
  unfold Machine.countMiss
  dsimp only
  split
  · exact refl s cl
  · exact (setCluster s rfl).trans (of_counters (bump_frame _ _ _ _) cl)

theorem countWalk (s : State) (tile : Option Nat) (owner c va cl : Nat) : OnlyCaches s (countWalk s tile owner c va) cl := by
  unfold Machine.countWalk
  refine OnlyCaches.trans ?_ (foldl (fun s x => of_counters (countPa_frame s _) cl) _ _)
  split
  · exact of_counters (bump_frame _ _ _ _) cl
  · exact refl s cl

theorem cacheFound (s : State) (cl c va : Nat) (n : Need) (l : Option (Word × Bool)) : OnlyCaches s (cacheFound s cl c va n l) cl := by
  unfold Machine.cacheFound
  split
  · exact refl s cl
  · split
    · exact setCluster s rfl
    · exact refl s cl

/-- A translation that does not wait (R285). -/
theorem of_xlate {o id c area va : Nat} {n : Need} {x : Xlate} (hx : xlate s cl o id c area va n = (x, s1)) (hw : x ≠ .wait) :
    OnlyCaches s s1 cl := by
  unfold xlate at hx
  dsimp only at hx
  split at hx
  · cases hx; exact refl s cl
  · split at hx
    · cases hx; exact refl s cl
    · split at hx
      · cases hx; exact refl s cl
      · split at hx
        · cases hx; exact absurd rfl hw
        · split at hx
          · cases hx; exact absurd rfl hw
          · cases hx
            exact (((countMiss s cl o id va).trans (countWalk _ _ o c va cl)).trans (modMisses _ cl _)).trans (cacheFound _ cl c va n _)

theorem endMiss (s : State) (cl o id : Nat) : OnlyCaches s (endMiss s cl o id) cl := modMisses s cl _

theorem cur (h : OnlyCaches s s' cl) : s'.cur = s.cur := by rw [h.rest]
theorem threadAt (h : OnlyCaches s s' cl) (tid : Nat) : threadAt s' tid = Machine.threadAt s tid := by rw [h.rest]; rfl

end OnlyCaches

/-! ## The checks of a scalar access, in their order (R119, R223) -/

section
variable {ea : Word} {width : Nat} {n : Need} {fault : BitVec 8}

theorem scalarCheck_high (h : 2 ^ 52 ≤ ea.toNat) : scalarCheck s t ea width n fault = (.trap fault, s) := if_pos h

variable (hlow : ea.toNat < 2 ^ 52)
include hlow

theorem scalarCheck_misaligned (h : ea.toNat % width ≠ 0) : scalarCheck s t ea width n fault = (.trap causeMisaligned, s) := by
  rw [scalarCheck, if_neg (Nat.not_le.mpr hlow), if_pos h]

variable (hal : ea.toNat % width = 0)
include hal

theorem scalarCheck_noPage (h : xlate s (s.cur / 4) t.uid t.uid t.ctx t.area ea.toNat n = (.fail, s1)) :
    scalarCheck s t ea width n fault = (.trap fault, endMiss s1 (s.cur / 4) t.uid t.uid) := by
  rw [scalarCheck, if_neg (Nat.not_le.mpr hlow), if_neg (not_not.mpr hal), h, ← (OnlyCaches.of_xlate h nofun).cur]

theorem scalarCheck_page {pa : Nat} (h : xlate s (s.cur / 4) t.uid t.uid t.ctx t.area ea.toNat n = (.ok pa, s1)) :
    scalarCheck s t ea width n fault = if reaches s1 (s.cur / 4) pa then (.at pa, s1)
      else (.trap causeUnavailable, endMiss s1 (s.cur / 4) t.uid t.uid) := by
  rw [scalarCheck, if_neg (Nat.not_le.mpr hlow), if_neg (not_not.mpr hal), h, ← (OnlyCaches.of_xlate h nofun).cur]

end

/-! ## Stores -/

/-- The low bytes of a register, least significant first (R5). -/
theorem bytesOfNat_eq_slices (n : Nat) (x : Word) : bytesOfNat n x.toNat = (List.range n).map fun k => x.extractLsb' (8 * k) 8 := by
  refine List.ext_getElem (by simp) fun i h _ => ?_
  rw [getElem_bytesOfNat, List.getElem_map, List.getElem_range, extractLsb'_byte]

/-- The address of a store (R119). -/
def storeEa (t : Thread) (a b : Reg) (w : StW) (off : BitVec 4) : Word := effAddr t a b off (stBytes w)

/-- A store that need not wait gets to its checks. -/
theorem execSt_checks {strong : Option Scope} (hs : strong = none ∨ strongBusy s t = false) (hc : classCount s t 1 < classMax) :
    (strong.isSome && strongBusy s t) = false ∧ ¬ classMax ≤ classCount s t 1 := by
  refine ⟨?_, Nat.not_le.mpr hc⟩
  obtain rfl | hb := hs
  · rfl
  · rw [hb, Bool.and_false]

section
variable {d a b : Reg} {w : StW} {strong : Option Scope} {off : BitVec 4} (h : threadAt s s.cur = some t)
include h

/-- A strong store waits for the thread's strong accesses (R236). -/
theorem execSt_strong (hs : strong.isSome = true) (hb : strongBusy s t = true) : execSt d a b w strong off s = .next s := by
  rw [execSt, onCur_eq h, hs, hb]
  rfl

/-- A store waits while its class is full (R318). -/
theorem execSt_full (hc : classMax ≤ classCount s t 1) : execSt d a b w strong off s = .next s := by
  rw [execSt, onCur_eq h, if_pos hc, ite_self]

variable (hs : strong = none ∨ strongBusy s t = false) (hc : classCount s t 1 < classMax)
include hs hc

/-- A store that fails a check traps with its cause and address. -/
theorem st_traps {cause : BitVec 8} {s2 : State} (hf : handlerFree t) (ho : OnlyCaches s s2 (s.cur / 4))
    (hk : scalarCheck s t (storeEa t a b w off) (stBytes w) needSt causeStoreFault = (.trap cause, s2)) :
    TrapsFrom (.st d a b w strong off) s s2 t cause (storeEa t a b w off) t.pc := by
  obtain ⟨hgo, hroom⟩ := execSt_checks hs hc
  have ht : threadAt s2 s.cur = some t := (ho.threadAt _).trans h
  rw [TrapsFrom, exec_st, execSt, onCur_eq h, hgo, if_neg Bool.false_ne_true, if_neg hroom]
  rw [storeEa] at hk ⊢
  dsimp only
  rw [hk]
  dsimp only
  rw [ho.cur, scalarTrap_eq ht hf]

/-- A store that passes its checks is issued, and the thread goes on. -/
theorem st_issues {pa : Nat} (ho : OnlyCaches s s1 (s.cur / 4))
    (hk : scalarCheck s t (storeEa t a b w off) (stBytes w) needSt causeStoreFault = (.at pa, s1)) :
    exec (.st d a b w strong off) s = let s2 := endMiss s1 (s.cur / 4) t.uid t.uid
      .next (setThread { s2 with uid := s2.uid + 1, inflight := s2.inflight ++
        [{ uid := s2.uid, seq := s2.uid, owner := t.uid, launch := t.launch, cluster := s.cur / 4, strong := strong.isSome,
           kind := .store pa ((List.range (stBytes w)).map (fun k => (rx t d).extractLsb' (8 * k) 8)) }] } s.cur
        { t with pc := t.pc + 4 }) := by
  obtain ⟨hgo, hroom⟩ := execSt_checks hs hc
  rw [exec_st, execSt, onCur_eq h, hgo, if_neg Bool.false_ne_true, if_neg hroom]
  rw [storeEa] at hk
  dsimp only
  rw [hk]
  dsimp only [issue]
  rw [bytesOfNat_eq_slices, ho.cur, endMiss_uid, endMiss_inflight, endMiss_cur, ho.cur]

end

/-- Settles O11: a store waits, or its checks decide in their order; what its translation leaves is `OnlyCaches.of_xlate`. -/
theorem storeIssuesItsBytes : Obligations.StoreIssuesItsBytes := by
  unfold Obligations.StoreIssuesItsBytes
  intro s s1 t d a b w strong off pa n ea i s2 h
  refine ⟨execSt_strong h, execSt_full h, fun hs hc => ⟨fun hhigh hf => ?_, fun hlow hal hf => ?_, fun hlow hal hx hf => ?_,
    fun hlow hal hx => ?_⟩⟩
  · exact st_traps h hs hc hf (.refl s _) (scalarCheck_high hhigh)
  · exact st_traps h hs hc hf (.refl s _) (scalarCheck_misaligned hlow hal)
  · exact st_traps h hs hc hf ((OnlyCaches.of_xlate hx nofun).trans (.endMiss s1 _ _ _)) (scalarCheck_noPage hlow hal hx)
  · have ho := OnlyCaches.of_xlate hx nofun
    have ho2 : OnlyCaches s s2 (s.cur / 4) := ho.trans (.endMiss s1 _ _ _)
    refine ⟨fun hr hf => ?_, fun hr => ⟨ho2, ?_⟩⟩
    · exact st_traps h hs hc hf ho2 ((scalarCheck_page hlow hal hx).trans (if_neg (by rw [hr]; simp)))
    · exact st_issues h hs hc ho ((scalarCheck_page hlow hal hx).trans (if_pos hr))

/-! ## What a strong load waits for -/

/-- An entry of sync.rel, a strong access. -/
def queuedRelease : Entry := { uid := 0, instr := .syncRel 5 .dev, cap := {}, k := 0 }

/-- A thread that has been stopped with that entry in its queue. -/
def stoppedThread : Thread :=
  { uid := 1, launch := 64, ctx := 0, flat := 0, idx := [0], weight := 1, area := 0x400000, pc := 0x10000, vq := [queuedRelease],
    stopped := true }

/-- The device with that thread alone. -/
def stoppedState : State := setThread State.reset 0 stoppedThread

/-- Nothing of the thread's queue holds its strong accesses back, for its queue starts again after the restore (R238, R291). -/
theorem strongBusy_stopped : strongBusy stoppedState stoppedThread = false := by decide

/-- Refutes O10: its second part says that a strong access waits for the atomics and releases of its thread's queue whenever no trap
is deferred; of a thread that has been stopped it waits for none of them. -/
theorem not_loadsReadAtTheirHome : ¬ Obligations.LoadsReadAtTheirHome := by
  unfold Obligations.LoadsReadAtTheirHome
  rintro ⟨-, hwaits⟩
  have hbusy := (hwaits stoppedState stoppedThread 0 1).1.mpr
    (.inr (.inr (.inr ⟨rfl, queuedRelease, List.mem_singleton_self _, rfl, by decide⟩)))
  rw [strongBusy_stopped] at hbusy
  exact absurd hbusy Bool.false_ne_true

end Sys2Proof.Machine
end

section
/-! PROOFS. Snapshots of the event counters (R128, R310, R322, R325, R326). -/

namespace Sys2Proof.Machine

variable {s : State} {t : Thread} {station die page p k : Nat} {seq : IWord} {todo : List Nat}

/-! ## The instructions as the model dispatches them -/

theorem exec_sysSnap (s : State) : exec .sysSnap s = execSysSnap s := rfl
theorem exec_snaptrigWrite (s : State) : exec .snaptrigWrite s = execSnaptrigWrite s := rfl
theorem exec_snapshotTriggerArrive (s : State) : exec .snapshotTriggerArrive s = execSnapshotTriggerArrive s := rfl
theorem exec_snapshotRoundEnd (s : State) : exec .snapshotRoundEnd s = execSnapshotRoundEnd s := rfl
theorem exec_snapshotApply (station : Nat) (s : State) : exec (.snapshotApply station) s = execSnapshotApply station s := rfl

/-! ## Triggers and rounds (R325) -/

theorem snapshotTriggerArrive_counts (h : s.trigPosted ≠ 0) (hr : hostReach s = true) :
    execSnapshotTriggerArrive s = .next { s with trigPosted := s.trigPosted - 1, trigRound := s.trigRound + 1 } := by
  rw [execSnapshotTriggerArrive, if_neg h, hr]
  rfl

/-- The snapshots that end a round: one for each die, for its stations to apply. -/
def roundSnapshots (seq : IWord) : List Bcast := (List.range 4).map fun d => .snapshot d seq (tilesOfDie d)

/-- The snapshots of a round stand behind the broadcasts that were there, one for each die. -/
theorem foldl_post_snapshots {tile : Nat} (l : List Nat) (s : State) (hb : ¬ tile ∈ s.bypassed) :
    l.foldl (fun s d => post s tile (.snapshot d s.snapSeq (tilesOfDie d))) s =
      { s with bcasts := s.bcasts ++ l.map fun d => .snapshot d s.snapSeq (tilesOfDie d) } := by
  induction l generalizing s with
  | nil => rw [List.foldl_nil, List.map_nil, List.append_nil]
  | cons d l ih =>
    rw [List.foldl_cons, post, if_neg hb, ih { s with bcasts := s.bcasts ++ [.snapshot d s.snapSeq (tilesOfDie d)] } hb,
      List.map_cons, List.append_assoc]
    rfl

theorem snapshotRoundEnd_broadcasts (h : s.trigRound ≠ 0) (hr : hostReach s = true) (hb : ¬ tileOfPort 0 ∈ s.bypassed) :
    execSnapshotRoundEnd s =
      .next { s with trigRound := 0, snapSeq := s.snapSeq + 1, bcasts := s.bcasts ++ roundSnapshots (s.snapSeq + 1) } := by
  rw [execSnapshotRoundEnd, if_neg h, hr, if_neg (by simp)]
  exact congrArg _ (foldl_post_snapshots (List.range 4) { s with trigRound := 0, snapSeq := s.snapSeq + 1 } hb)

/-! ## The latch of a counter page (R322, R326) -/

/-- A number that one of some writes sets, all that set it to the same value. -/
theorem tabGet_foldl_tabSet_self {α β : Type} [DecidableEq α] {z v : α} {j : Nat} {key : β → Nat} {f : β → α} {l : List β}
    (hv : ∀ b ∈ l, key b = j → f b = v) (m : Tab α) (h : tabGet z m j = v ∨ ∃ b ∈ l, key b = j) :
    tabGet z (l.foldl (fun m b => tabSet z m (key b) (f b)) m) j = v := by
  induction l generalizing m with
  | nil => simpa using h
  | cons b l ih =>
    refine ih (fun b hb => hv b (List.mem_cons_of_mem _ hb)) _ ?_
    rw [tabGet_tabSet]
    split
    · next hj => exact .inl (hv b List.mem_cons_self hj.symm)
    · next hj =>
      refine h.imp_right fun ⟨c, hc, hcj⟩ => ?_
      rcases List.mem_cons.mp hc with rfl | hc
      · exact absurd hcj.symm hj
      · exact ⟨c, hc, hcj⟩

/-- A number that none of some writes sets. -/
theorem tabGet_foldl_tabSet_ne {α β : Type} [DecidableEq α] {z : α} {j : Nat} {key : β → Nat} {f : β → α} {l : List β}
    (h : ∀ b ∈ l, key b ≠ j) (m : Tab α) : tabGet z (l.foldl (fun m b => tabSet z m (key b) (f b)) m) j = tabGet z m j :=
  tabGet_foldl_tabSet_self (fun b hb hj => absurd hj (h b hb)) m (.inl rfl)

/-- What word `k` of a page's snapshot copy holds once the page has been latched. -/
def latchedWord (s : State) (seq : IWord) (page k : Nat) : Word :=
  if k < 254 then tabGet 0 s.counters (256 * page + k)
  else if k = 254 then BitVec.ofNat 64 (tabGet 0 s.cycles (dieOfTile (tileOfPage page)))
  else seq.zeroExtend 64

/-- A latch of a page changes the snapshot copies alone. -/
theorem latchPage_frame (s : State) (seq : IWord) (p : Nat) : latchPage s seq p = { s with snaps := (latchPage s seq p).snaps } := rfl

theorem latchPage_snaps (s : State) (seq : IWord) (hk : k < 256) : tabGet 0 (latchPage s seq p).snaps (256 * page + k) =
    if page = p then latchedWord s seq page k else tabGet 0 s.snaps (256 * page + k) := by
  simp only [latchPage, tabGet_tabSet, latchedWord]
  by_cases hp : page = p
  · subst hp
    rw [if_pos rfl]
    by_cases h255 : k = 255
    · rw [if_pos (by omega), if_neg (by omega), if_neg (by omega)]
    by_cases h254 : k = 254
    · rw [if_neg (by omega), if_pos (by omega), if_neg (by omega), if_pos h254]
    rw [if_neg (by omega), if_neg (by omega), if_pos (by omega)]
    refine tabGet_foldl_tabSet_self (fun i _ hi => ?_) _ (.inr ⟨k, List.mem_range.mpr (by omega), rfl⟩)
    rw [hi]
  · rw [if_neg (by omega), if_neg (by omega), if_neg hp]
    refine tabGet_foldl_tabSet_ne (fun i hi => ?_) _
    have := List.mem_range.mp hi
    omega

/-- The pages of some list latched one after the other. -/
theorem latchPages_snaps (seq : IWord) (l : List Nat) (s : State) (hk : k < 256) :
    tabGet 0 (l.foldl (fun s p => latchPage s seq p) s).snaps (256 * page + k) =
      if page ∈ l then latchedWord s seq page k else tabGet 0 s.snaps (256 * page + k) := by
  induction l generalizing s with
  | nil => simp
  | cons p l ih =>
    have hsame : latchedWord (latchPage s seq p) seq page k = latchedWord s seq page k := rfl
    rw [List.foldl_cons, ih, hsame, latchPage_snaps s seq hk]
    by_cases hl : page ∈ l
    · rw [if_pos hl, if_pos (List.mem_cons_of_mem p hl)]
    · rw [if_neg hl]
      simp [hl]

theorem latchPages_frame (seq : IWord) (l : List Nat) (s : State) : l.foldl (fun s p => latchPage s seq p) s =
    { s with snaps := (l.foldl (fun s p => latchPage s seq p) s).snaps } := by
  induction l generalizing s with
  | nil => rfl
  | cons p l ih => rw [List.foldl_cons, ih, latchPage_frame]

theorem mem_pagesOn {tile : Nat} : page ∈ pagesOn tile ↔ page < 669 ∧ tileOfPage page = tile := by simp [pagesOn]

/-! ## A station's turn -/

/-- The stations that have still to apply a snapshot once one has. -/
def stationsLeft (station : Nat) (todo : List Nat) : List Nat := todo.filter fun x => x ≠ station

section
variable (hn : nextBcast s (dieOfTile station) = some (.snapshot die seq todo))
include hn

theorem snapshotApply_other (h : ¬ station ∈ todo) : execSnapshotApply station s = .next s := by
  rw [execSnapshotApply, hn]
  exact congrArg _ (if_pos h)

theorem snapshotApply_own (h : station ∈ todo) : execSnapshotApply station s = .next (
    let s1 := setTodo s die seq todo (stationsLeft station todo)
    if inService s station && (decide (die ≠ 0) || decide (tabGet 0 s.fence (tileOfPort 0) ≠ 1)) then
      (pagesOn station).foldl (fun s p => latchPage s seq p) s1
    else s1) := by
  rw [execSnapshotApply, hn]
  exact congrArg _ (if_neg (not_not.mpr h))

end

/-- Settles O17: a trigger is counted at the sequencer, a round that has one broadcasts, and a station in service latches its pages. -/
theorem snapshotTriggersReachStations : Obligations.SnapshotTriggersReachStations := by
  unfold Obligations.SnapshotTriggersReachStations
  intro s t station die seq todo seqTile sent
  refine ⟨fun h => ?snap, fun hq => ?write, fun h hr => ?arrive, fun h hr hb => ?round, fun hn => ⟨fun h => ?other, fun h hout => ?ignored,
    fun h hin hopen => ?latched⟩⟩
  case snap => rw [exec_sysSnap, execSysSnap, onCur_eq h]; rfl
  case write => rw [exec_snaptrigWrite, execSnaptrigWrite, driverArrives_quiet hq, hostFlits_frame]
  case arrive => rw [exec_snapshotTriggerArrive, snapshotTriggerArrive_counts h hr]
  case round => exact (exec_snapshotRoundEnd s).trans (snapshotRoundEnd_broadcasts h hr hb)
  case other => rw [exec_snapshotApply, snapshotApply_other hn h]
  case ignored =>
    have hc : (inService s station && (decide (die ≠ 0) || decide (tabGet 0 s.fence (tileOfPort 0) ≠ 1))) = false := by
      obtain hs | ⟨hd, hf⟩ := hout
      · rw [hs, Bool.false_and]
      · rw [fenceOf] at hf
        simp [hd, show tabGet 0 s.fence (tileOfPort 0) = 1 from hf]
    rw [exec_snapshotApply, snapshotApply_own hn h, hc]
    rfl
  case latched =>
    have hc : (inService s station && (decide (die ≠ 0) || decide (tabGet 0 s.fence (tileOfPort 0) ≠ 1))) = true := by
      rw [hin, Bool.true_and, Bool.or_eq_true, decide_eq_true_iff, decide_eq_true_iff]
      exact hopen
    let s1 := setTodo s die seq todo (stationsLeft station todo)
    refine ⟨(pagesOn station).foldl (fun s p => latchPage s seq p) s1, ?_, latchPages_frame seq _ s1, fun page hpage => ?_⟩
    · rw [exec_snapshotApply, snapshotApply_own hn h, hc]; rfl
    have hread {k : Nat} (hk : k < 256) := latchPages_snaps (page := page) seq (pagesOn station) s1 hk
    simp only [mem_pagesOn, hpage, true_and] at hread
    split
    · next hst =>
      simp only [hst, if_true] at hread
      refine ⟨fun k hk => ?_, ?_, ?_⟩
      · rw [hread (by omega), latchedWord, if_pos hk]; rfl
      · rw [hread (by omega), latchedWord, if_neg (by omega), if_pos rfl, hst]; rfl
      · rw [hread (by omega), latchedWord, if_neg (by omega), if_neg (by omega)]
    · next hst =>
      simp only [hst, if_false] at hread
      exact fun k hk => hread hk

end Sys2Proof.Machine
end

section
/-! PROOFS. The return from a trap (R30, R126, R289, R290). -/

namespace Sys2Proof.Machine

variable {s : State} {t u : Thread} {tid : Nat} {e : Entry} {l : List Entry}

/-! ## Entries whose push changes nothing but the queue -/

/-- A thread set twice. -/
theorem setThread_setThread (s : State) (tid : Nat) (t u : Thread) : setThread (setThread s tid t) tid u = setThread s tid u := by
  have h (m : Tab Thread) : tabPut (tabPut m tid t) tid u = tabPut m tid u := by
    induction m with
    | nil => simp [tabPut]
    | cons x m ih =>
      obtain ⟨a, w⟩ := x
      simp only [tabPut]
      split
      · simp [tabPut]
      · split
        · simp [tabPut]
        · next h1 h2 => simp [tabPut, h1, h2, ih]
  exact congrArg (fun m => { s with threads := m }) (h s.threads)

/-- An instruction that no push copy has to do with: no marker, no HRES form with push copies, and not kcnt.link (R174, R186). -/
def leavesCopies (i : Instr) : Prop := isMarker i true = false ∧ hresReg i = none ∧ ∀ x y, i ≠ .kcntLink x y

theorem kcntEffect_leavesCopies {i : Instr} (h : leavesCopies i) (cap : Cap) (ks : Tab KReg) : kcntEffect i cap ks = (ks, []) := by
  obtain ⟨hm, -, hl⟩ := h
  cases i
  case kcntLink x y => exact absurd rfl (hl x y)
  case kcntAdv | kcntSet | kcntRst | kcntExt => cases hm
  all_goals rfl

theorem hresMarker_leavesCopies {i : Instr} (h : leavesCopies i) : hresMarker i = none := by
  obtain ⟨hm, -, -⟩ := h
  cases i
  case hresAnch | hresLim => cases hm
  all_goals rfl

theorem pushCopies_leavesCopies {i : Instr} (h : leavesCopies i) (t : Thread) (cap : Cap) : pushCopies t i cap = (t, []) := by
  simp [pushCopies, kcntEffect_leavesCopies h, h.2.1, hresMarker_leavesCopies h]

/-- Such an entry joins the queue as the last one where it finds room (R25). -/
theorem enqueue_leavesCopies (h : leavesCopies e.instr) (hr : t.vq.length < 64) (hcount : ∀ k, k < 5 → classCount s t k < 65535) :
    enqueue s tid t e = some (setThread s tid { t with vq := t.vq ++ [{ e with boxes := [], changed := false }] }) := by
  rw [enqueue, pushCopies_leavesCopies h, kcntEffect_leavesCopies h]
  dsimp only
  rw [decide_eq_false (fun hn => hn rfl), pushBlocked_room hr hcount]
  simp [recomputeAll]

/-! ## Outstanding operations while entries are pushed again -/

/-- The counts read the requests on their way, the releases, and of the thread its number, queues and recomputations. -/
theorem classCount_congr {s' : State} (hi : s'.inflight = s.inflight) (hr : s'.releases = s.releases) (hu : u.uid = t.uid)
    (hc : u.recomps = t.recomps) (hq : u.vq = t.vq) (htq : u.tq = t.tq) (hlq : u.lq = t.lq) (k : Nat) :
    classCount s' u k = classCount s t k := by
  unfold classCount storesCount
  rw [hi, hr, hu, hc, hq, htq, hlq]

/-- Each entry of a queue adds at most one to a count. -/
theorem classCount_le (s : State) (t : Thread) (k : Nat) : classCount s t k ≤ classCount s { t with vq := [] } k + t.vq.length := by
  have hf (p : Entry → Bool) : (t.vq.filter p).length ≤ t.vq.length := List.length_filter_le p t.vq
  unfold classCount
  split
  · exact (hf _).trans (Nat.le_add_left _ _)
  · unfold storesCount
    simp only [List.length_map, List.filter_nil, List.map_nil, List.length_nil, List.not_mem_nil, not_false_eq_true, decide_true,
      List.filter_true]
    have h1 := hf fun e => countsL1 e.instr
    have h2 (m : List Nat) (p : Nat → Bool) : (m.filter p).length ≤ m.length := List.length_filter_le p m
    have h3 := h2 (((s.inflight.filter fun r => r.owner = t.uid).filter fun r => r.part).map fun r => r.seq).dedup
      fun n => !decide (n ∈ (t.vq.filter fun e => countsL1 e.instr).map fun e => e.uid)
    simp only [decide_not]
    omega
  · simp only [List.filter_nil, List.length_nil, Nat.add_zero]
    exact Nat.add_le_add_left (hf _) _
  · exact Nat.le_add_right _ _
  · simp only [List.filter_nil, List.length_nil, Nat.zero_add]
    have := hf fun e => countsL4 e.instr
    omega

/-! ## Held entries pushed again (R290) -/

/-- An entry as sys.tret pushes it again, under the number `n` (log 20). -/
def pushedAgain (n : Nat) (e : Entry) : Entry := { e with boxes := [], changed := false, uid := n, again := true }

/-- Entries that leave the push copies join the queue again in their order, each under the next number. -/
theorem repush_joins (hl : ∀ e ∈ l, leavesCopies e.instr) (s : State) (u : Thread) (hroom : u.vq.length + l.length ≤ 64)
    (hcount : ∀ k, k < 5 → classCount s { u with vq := [] } k + 64 < 65535) :
    repush (setThread s tid u) tid l = setThread { s with uid := s.uid + l.length } tid
      { u with vq := u.vq ++ l.zipIdx.map fun x => pushedAgain (s.uid + x.2) x.1 } := by
  induction l generalizing s u with
  | nil => simp [repush]
  | cons e l ih =>
    rw [List.length_cons] at hroom
    have hnow (k : Nat) (hk : k < 5) : classCount { setThread s tid u with uid := s.uid + 1 } u k < 65535 := by
      have h1 := classCount_le s u k
      have h2 := hcount k hk
      have h3 : classCount { setThread s tid u with uid := s.uid + 1 } u k = classCount s u k :=
        classCount_congr rfl rfl rfl rfl rfl rfl rfl k
      omega
    have he := enqueue_leavesCopies (s := { setThread s tid u with uid := s.uid + 1 }) (tid := tid) (t := u)
      (e := { e with uid := s.uid, again := true }) (hl e List.mem_cons_self) (by omega) hnow
    have hset : setThread { setThread s tid u with uid := s.uid + 1 } tid { u with vq := u.vq ++ [pushedAgain s.uid e] } =
        setThread { s with uid := s.uid + 1 } tid { u with vq := u.vq ++ [pushedAgain s.uid e] } :=
      setThread_setThread { s with uid := s.uid + 1 } tid u _
    rw [repush, threadAt_setThread_self]
    dsimp only
    rw [setThread_uid, he]
    dsimp only
    refine ((congrArg (fun s => repush s tid l) hset).trans (ih (fun e he => hl e (List.mem_cons_of_mem _ he)) { s with uid := s.uid + 1 }
      { u with vq := u.vq ++ [pushedAgain s.uid e] } ?_ fun k hk => ?_)).trans ?_
    · rw [List.length_append, List.length_singleton]
      omega
    · exact (congrArg (· + 64) (classCount_congr rfl rfl rfl rfl rfl rfl rfl k)).trans_lt (hcount k hk)
    simp [List.zipIdx_cons, List.zipIdx_succ, Function.comp_def, Nat.add_assoc, Nat.add_comm 1]

/-- Nothing is fetched again where no slot has failed (R181). -/
theorem reissuePoisoned_none (h : threadAt s tid = some t) (hf : ∀ x ∈ t.h, x.2.failed = []) : reissuePoisoned s tid = s := by
  unfold reissuePoisoned
  rw [h]
  dsimp only
  refine List.foldl_fixed' (fun x => ?_) t.h
  rw [h]
  dsimp only
  split
  · rfl
  · next r hr =>
    have hnone : r.failed = [] := hf _ (mem_of_tabFind hr)
    simp [hnone]

theorem heldNow_length (s : State) (t : Thread) : (heldNow s t).length ≤ t.held.length := by
  rw [← List.length_zipIdx (l := t.held) (i := 0)]
  exact List.length_filterMap_le _ _

/-- An entry comes back from its record with its own instruction (R290). -/
theorem entryOfRecord_instr {e' : Entry} {r : List Byte} (h : entryOfRecord e r = some e') : e'.instr = e.instr := by
  unfold entryOfRecord at h
  split at h
  · cases h
  · cases h; rfl

theorem heldNow_forall {p : Instr → Prop} (hp : ∀ e ∈ t.held, p e.instr) (s : State) : ∀ e ∈ heldNow s t, p e.instr := by
  intro e he
  obtain ⟨x, hx, hr⟩ := List.mem_filterMap.mp he
  rw [entryOfRecord_instr hr]
  exact hp _ (List.fst_mem_of_mem_zipIdx hx)

/-! ## sys.tret -/

/-- A thread that has left its handler, but for entries still to be pushed again. -/
def returned (t : Thread) : Thread := { t with held := [], pc := t.csr.tepc, csr := { t.csr with tstat := 0 } }

theorem storesOut_iff (s : State) (owner : Nat) :
    storesOut s owner = true ↔ ∃ r ∈ s.inflight, r.owner = owner ∧ ∃ q l, r.kind = .store q l := by
  have hk (k : ReqKind) : (reqBytes k).isSome = true ↔ ∃ q l, k = .store q l := by cases k <;> simp [reqBytes]
  simp only [storesOut, List.any_eq_true, Bool.and_eq_true, decide_eq_true_eq, hk]

section
variable (h : threadAt s tid = some t) (hi : inh t = true)
include h hi

/-- Without held entries the thread goes on at once, unless a trap of its queue waits for it (R289). -/
theorem trapReturn_plain (hh : t.csr.tstat.getLsbD 1 = false) (hd : t.deferred = none) : trapReturn s tid = setThread s tid (returned t) := by
  have hr : takeDeferred (setThread s tid (returned t)) tid = setThread s tid (returned t) := by
    rw [takeDeferred, threadAt_setThread_self]
    dsimp only
    rw [show (returned t).deferred = none from hd]
  rw [trapReturn, h]
  dsimp only
  rw [hi, hh]
  exact hr

variable (hh : t.csr.tstat.getLsbD 1 = true)
include hh

/-- With held entries it waits for its queue and its stores (R290). -/
theorem trapReturn_waits (hw : t.vq ≠ [] ∨ storesOut s t.uid = true) : trapReturn s tid = s := by
  rw [trapReturn, h]
  dsimp only
  rw [hi, hh]
  exact if_pos hw

theorem trapReturn_again (hq : t.vq = []) (hs : storesOut s t.uid = false) :
    trapReturn s tid = repush (reissuePoisoned (setThread s tid (returned t)) tid) tid (heldNow s t) := by
  have hgo : ¬ (t.vq ≠ [] ∨ storesOut s t.uid = true) := by simp [hq, hs]
  rw [trapReturn, h]
  dsimp only
  rw [hi, hh]
  exact if_neg hgo

end

/-- Settles O15: sys.tret goes on, waits, or pushes the held entries again, each of which finds room. -/
theorem trapReturnResumesThread : Obligations.TrapReturnResumesThread := by
  unfold Obligations.TrapReturnResumesThread
  refine ⟨fun s t h hi => ⟨fun hh hd => ?plain, fun hh hw => ?waits⟩, fun s t h hi hh hq hs hf hlen hc he => ?again⟩
  case plain => rw [exec_sysTret, trapReturn_plain h hi hh hd]; rfl
  case waits => rw [exec_sysTret, trapReturn_waits h hi hh (hw.imp_right (storesOut_iff s t.uid).mpr)]
  case again =>
    have hout : storesOut s t.uid = false := by
      rw [Bool.eq_false_iff, Ne, storesOut_iff]
      rintro ⟨r, hr, ho, q, l, hk⟩
      exact hs r hr ho q l hk
    have hcount (k : Nat) (hk : k < 5) : classCount s { returned t with vq := [] } k + 64 < 65535 := by
      rw [classCount_congr (s := s) (t := t) (u := { returned t with vq := [] }) rfl rfl rfl rfl hq.symm rfl rfl k]
      exact hc k hk
    have hroom : (returned t).vq.length + (heldNow s t).length ≤ 64 := by
      rw [show (returned t).vq = [] from hq]
      simpa using (heldNow_length s t).trans hlen
    intro again
    rw [exec_sysTret, trapReturn_again h hi hh hq hout, reissuePoisoned_none (t := returned t) (threadAt_setThread_self s _ _) hf,
      repush_joins (heldNow_forall he s) s _ hroom hcount, show (returned t).vq = [] from hq]
    rfl

end Sys2Proof.Machine
end

section
/-! PROOFS. Traps that end a launch (R43, R126, R244, R266, R270, R348). -/

namespace Sys2Proof.Machine

variable {s s' s'' : State} {t : Thread} {id tid : Nat}

/-! ## What the end of a launch leaves alone -/

/-- `s'` has the queues of `s` and, of the threads that `P` holds for, all but keys of the reuse table; a release, waiter or collective of
`s'` stood in `s`. -/
structure Spares (P : Nat → Prop) (s s' : State) : Prop where
  threads : ∀ j, P j → (threadAt s' j).map unkeyed = (threadAt s j).map unkeyed
  releases : s'.releases ⊆ s.releases
  waiters : s'.waiters ⊆ s.waiters
  colls : s'.colls ⊆ s.colls
  queues : s'.queues = s.queues

namespace Spares

variable {P : Nat → Prop}

theorem refl (P : Nat → Prop) (s : State) : Spares P s s :=
  ⟨fun _ _ => rfl, List.Subset.refl _, List.Subset.refl _, List.Subset.refl _, rfl⟩

theorem trans (h : Spares P s s') (h' : Spares P s' s'') : Spares P s s'' where
  threads := fun j hj => (h'.threads j hj).trans (h.threads j hj)
  releases := List.Subset.trans h'.releases h.releases
  waiters := List.Subset.trans h'.waiters h.waiters
  colls := List.Subset.trans h'.colls h.colls
  queues := h'.queues.trans h.queues

/-- For fewer threads. -/
theorem mono {Q : Nat → Prop} (h : Spares P s s') (hq : ∀ j, Q j → P j) : Spares Q s s' :=
  ⟨fun j hj => h.threads j (hq j hj), h.releases, h.waiters, h.colls, h.queues⟩

theorem foldl {α : Type} {f : State → α → State} (hf : ∀ s a, Spares P s (f s a)) (l : List α) (s : State) : Spares P s (l.foldl f s) := by
  induction l generalizing s with
  | nil => exact refl P s
  | cons a l ih => exact (hf s a).trans (ih (f s a))

/-- What changes none of these fields. -/
theorem of_same (P : Nat → Prop) (ht : s'.threads = s.threads) (hr : s'.releases = s.releases) (hw : s'.waiters = s.waiters)
    (hc : s'.colls = s.colls) (hq : s'.queues = s.queues) : Spares P s s' where
  threads := fun j _ => by rw [threadAt, ht]; rfl
  releases := by rw [hr]; exact List.Subset.refl _
  waiters := by rw [hw]; exact List.Subset.refl _
  colls := by rw [hc]; exact List.Subset.refl _
  queues := hq

theorem of_storesOnly (P : Nat → Prop) (h : StoresOnly s s') : Spares P s s' :=
  of_same P (by rw [h]) (by rw [h]) (by rw [h]) (by rw [h]) (by rw [h])

theorem of_rsOnly (P : Nat → Prop) (h : RsOnly s s') : Spares P s s' where
  threads := fun j _ => h.threads j
  releases := by rw [h.rest]; exact List.Subset.refl _
  waiters := by rw [h.rest]; exact List.Subset.refl _
  colls := by rw [h.rest]; exact List.Subset.refl _
  queues := by rw [h.rest]

end Spares

/-! ## Latches, link commands and packets -/

/-- What a long-haul port sends changes the port, what has left it and the counters. -/
theorem pumpPort_frame (s : State) (p : Nat) (l : List (Packet × Nat)) : pumpPort s p l = { s with
    ports := (pumpPort s p l).ports, portOut := (pumpPort s p l).portOut, counters := (pumpPort s p l).counters } := by
  unfold pumpPort
  dsimp only
  rw [bump_frame]

/-- A packet that is sent changes its port, what has left it, the counters and the next number. -/
theorem sendFrom_frame (s : State) (p d : Nat) (x : Packet) (src : Option Source) : sendFrom s p d x src = { s with
    uid := (sendFrom s p d x src).uid, ports := (sendFrom s p d x src).ports, portOut := (sendFrom s p d x src).portOut,
    counters := (sendFrom s p d x src).counters } := by
  unfold sendFrom
  split
  · rfl
  · dsimp only
    split
    · rw [bump_frame]
    · rw [pumpPort_frame]

variable (P : Nat → Prop)

theorem spares_sendFrom (s : State) (p d : Nat) (x : Packet) (src : Option Source) : Spares P s (sendFrom s p d x src) := by
  rw [sendFrom_frame]
  exact .of_same P rfl rfl rfl rfl rfl

theorem spares_sendLost (code : Nat) (s : State) (c : Coll) : Spares P s (sendLost code s c) := by
  refine .foldl (fun s o => ?_) _ s
  unfold sendColl
  split
  · exact .refl P s
  · split
    · exact .refl P s
    · exact spares_sendFrom P s _ _ _ _

theorem spares_breakLatch (s : State) (ctx : Nat) (tag : BitVec 56) (a : Word) : Spares P s (breakLatch s ctx tag a) := by
  have hw : StoresOnly s (countOwnWalk s (localOrigin s 0) ctx a.toNat) := storesOnly_countOwnWalk s _ _ _
  have hb (s : State) (pa : Nat) : StoresOnly s (breakLatchAt s pa) := by
    unfold breakLatchAt
    split
    · have hp (l : List Byte) : StoresOnly s (performWrite s pa l) := rfl
      exact (hp _).trans (storesOnly_countAccess _ pa)
    · exact StoresOnly.refl s
  refine .of_storesOnly P ?_
  unfold breakLatch
  dsimp only
  split
  · split
    · exact hw.trans (hb _ _)
    · exact hw
  · exact hw

theorem spares_breakRemotes (s : State) (tag : BitVec 56) (l : List RemoteLatch) : Spares P s (breakRemotes s tag l) := by
  refine .foldl (fun s r => ?_) l s
  split
  · exact spares_breakLatch P s _ _ _
  · exact spares_sendFrom P s _ _ _ _

theorem spares_quitLacqs (s : State) (tag : BitVec 56) (l : List LCmd) : Spares P s (quitLacqs s tag l) := by
  have hw (p : Waiter → Bool) : Spares P s { s with waiters := s.waiters.filter p } :=
    ⟨fun _ _ => rfl, List.Subset.refl _, List.filter_subset_self _, List.Subset.refl _, rfl⟩
  refine (hw _).trans (.foldl (fun s c => ?_) l _)
  split
  · split
    · exact spares_sendFrom P s _ _ _ _
    · exact .refl P s
  · exact .refl P s

/-! ## The end of one thread -/

theorem spares_freeUnits (s : State) (tid : Nat) (u : Thread) : Spares (· ≠ tid) s (freeUnits s tid u) := by
  obtain ⟨c, he⟩ : ∃ c, freeUnits s tid u = rsForget (setCluster s (tid / 4) c) (tid / 4) (tid % 4) := ⟨_, rfl⟩
  have hid : 4 * (tid / 4) + tid % 4 = tid := by omega
  rw [he]
  have hc : Spares (· ≠ tid) s (setCluster s (tid / 4) c) := .of_same _ rfl rfl rfl rfl rfl
  have hm (s : State) (f : Thread → Thread) : Spares (· ≠ tid) s (modThread s tid f) := by
    unfold modThread
    split
    · exact .refl _ s
    · exact ⟨fun j hj => by rw [threadAt_setThread_ne s _ hj], List.Subset.refl _, List.Subset.refl _, List.Subset.refl _, rfl⟩
  refine hc.trans (Spares.trans ?_ (.of_rsOnly _ (rsOnly_rsDropLoads _ _ _)))
  have hmap := rsOnly_rsMapAll (setCluster s (tid / 4) c) (tid / 4) (tid % 4) ((List.range 32).map fun v => (v, 0))
  rw [hid] at hmap
  exact (hm _ _).trans (.of_rsOnly _ hmap)

/-- A thread has ended: others stand as they stood, and no release or waiter of it is left. -/
structure Killed (s s' : State) (tid : Nat) : Prop where
  spares : Spares (· ≠ tid) s s'
  gone : threadAt s' tid = none
  releases : ∀ t, threadAt s tid = some t → ∀ r ∈ s'.releases, r.owner ≠ t.uid
  waiters : ∀ t, threadAt s tid = some t → ∀ w ∈ s'.waiters, w.thread ≠ some tid

/-- What a thread that ends gives up: its latches, link commands, units and misses. -/
def giveUp (s : State) (tid : Nat) (t : Thread) : State :=
  let tag := tagOf t.launch t.flat
  let s := t.latches.foldl (fun s a => breakLatch s t.ctx tag a) s
  dropMisses (freeUnits (quitLacqs (breakRemotes s tag t.remote) tag t.lq) tid t) (tid / 4) t.uid

theorem spares_giveUp (s : State) (tid : Nat) (t : Thread) : Spares (· ≠ tid) s (giveUp s tid t) := by
  have hm (s : State) : Spares (· ≠ tid) s (dropMisses s (tid / 4) t.uid) := by
    rw [dropMisses, modMisses_frame]
    exact .of_same _ rfl rfl rfl rfl rfl
  have hl : Spares (· ≠ tid) s (t.latches.foldl (fun s a => breakLatch s t.ctx (tagOf t.launch t.flat) a) s) :=
    .foldl (fun s a => spares_breakLatch _ s _ _ _) _ s
  exact (((hl.trans (spares_breakRemotes _ _ _ _)).trans (spares_quitLacqs _ _ _ _)).trans (spares_freeUnits _ tid t)).trans (hm _)

theorem killThread_eq (h : threadAt s tid = some t) : killThread s tid = dropThread { giveUp s tid t with
    waiters := (giveUp s tid t).waiters.filter (fun w => w.thread ≠ some tid),
    releases := (giveUp s tid t).releases.filter (fun r => r.owner ≠ t.uid) } tid := by
  rw [killThread, h]
  rfl

/-- A thread that has given up what it had leaves its slot, its waiters and its releases. -/
theorem killed_dropThread {g : State} (hg : Spares (· ≠ tid) s g) (h : threadAt s tid = some t) :
    Killed s (dropThread { g with waiters := g.waiters.filter (fun w => w.thread ≠ some tid),
                                  releases := g.releases.filter (fun r => r.owner ≠ t.uid) } tid) tid where
  spares :=
    { threads := fun j hj => by rw [threadAt_dropThread_ne _ hj]; exact hg.threads j hj
      releases := List.Subset.trans (List.filter_subset_self _) hg.releases
      waiters := List.Subset.trans (List.filter_subset_self _) hg.waiters
      colls := hg.colls
      queues := hg.queues }
  gone := threadAt_dropThread_self _ tid
  releases := fun u hu r hr => by
    obtain rfl : t = u := Option.some.inj (h.symm.trans hu)
    simpa using (List.mem_filter.mp hr).2
  waiters := fun u _ w hw => by simpa using (List.mem_filter.mp hw).2

theorem killThread_killed (s : State) (tid : Nat) : Killed s (killThread s tid) tid := by
  cases h : threadAt s tid with
  | none =>
    have hs : killThread s tid = s := by rw [killThread, h]
    rw [hs]
    exact ⟨.refl _ s, h, by simp [h], by simp [h]⟩
  | some t =>
    rw [killThread_eq h]
    exact killed_dropThread (spares_giveUp s tid t) h

/-! ## The end of some threads -/

/-- Some threads ended one after the other. -/
def killAll (s : State) (l : List (Nat × Thread)) : State := l.foldl (fun s e => killThread s e.1) s

theorem threadAt_of_unkeyed {j : Nat} (h : (threadAt s' j).map unkeyed = (threadAt s j).map unkeyed) (ht : threadAt s j = some t) :
    ∃ u, threadAt s' j = some u ∧ u.uid = t.uid ∧ u.launch = t.launch := by
  rw [ht] at h
  obtain ⟨u, hu, hk⟩ := Option.map_eq_some_iff.mp h
  exact ⟨u, hu, (congrArg Thread.uid hk : _), (congrArg Thread.launch hk : _)⟩

/-- What is left once some threads have ended. -/
structure KilledAll (s s' : State) (l : List (Nat × Thread)) : Prop where
  spares : Spares (fun j => ∀ e ∈ l, e.1 ≠ j) s s'
  gone : ∀ j, (threadAt s j = none ∨ ∃ e ∈ l, e.1 = j) → threadAt s' j = none
  releases : ∀ e ∈ l, ∀ t, threadAt s e.1 = some t → ∀ r ∈ s'.releases, r.owner ≠ t.uid
  waiters : ∀ e ∈ l, ∀ t, threadAt s e.1 = some t → ∀ w ∈ s'.waiters, w.thread ≠ some e.1

theorem killAll_killedAll (l : List (Nat × Thread)) (s : State) : KilledAll s (killAll s l) l := by
  induction l generalizing s with
  | nil =>
    refine ⟨.refl _ s, fun j h => h.resolve_right ?_, fun e he => absurd he List.not_mem_nil, fun e he => absurd he List.not_mem_nil⟩
    rintro ⟨e, he, -⟩
    exact absurd he List.not_mem_nil
  | cons x l ih =>
    have h1 := killThread_killed s x.1
    have h2 := ih (killThread s x.1)
    have hsp : Spares (fun j => ∀ e ∈ x :: l, e.1 ≠ j) s (killAll s (x :: l)) :=
      (h1.spares.mono fun j hj => (hj x List.mem_cons_self).symm).trans (h2.spares.mono fun j hj e he => hj e (List.mem_cons_of_mem _ he))
    have hstill {j : Nat} {t : Thread} (hj : j ≠ x.1) (ht : threadAt s j = some t) :
        ∃ u, threadAt (killThread s x.1) j = some u ∧ u.uid = t.uid := by
      obtain ⟨u, hu, hid, -⟩ := threadAt_of_unkeyed (h1.spares.threads j hj) ht
      exact ⟨u, hu, hid⟩
    refine ⟨hsp, fun j hj => ?_, fun e he t ht r hr => ?_, fun e he t ht w hw => ?_⟩
    · by_cases hx : j = x.1
      · exact h2.gone j (.inl (hx ▸ h1.gone))
      · refine h2.gone j (hj.imp (fun hn => ?_) fun ⟨e, he, hej⟩ => ?_)
        · simpa [hn] using h1.spares.threads j hx
        · rcases List.mem_cons.mp he with rfl | he
          · exact absurd hej.symm hx
          · exact ⟨e, he, hej⟩
    · by_cases hx : e.1 = x.1
      · exact h1.releases t (hx ▸ ht) r (h2.spares.releases hr)
      · obtain ⟨u, hu, hid⟩ := hstill hx ht
        rw [← hid]
        exact h2.releases e ((List.mem_cons.mp he).resolve_left fun h => hx (h ▸ rfl)) u hu r hr
    · by_cases hx : e.1 = x.1
      · rw [hx] at ht ⊢
        exact h1.waiters t ht w (h2.spares.waiters hw)
      · obtain ⟨u, hu, -⟩ := hstill hx ht
        exact h2.waiters e ((List.mem_cons.mp he).resolve_left fun h => hx (h ▸ rfl)) u hu w hw

/-! ## The end of a launch -/

/-- What a launch has left besides its threads goes (R43, R244, R245, R348): `mine` are the collectives it has a part in. -/
def dropLaunch (s : State) (id : Nat) (mine : List Coll) : State :=
  { s with
    pubs := s.pubs.filter (fun p => p.launch ≠ id),
    clusters := s.clusters.map (fun (e : Nat × Cluster) =>
      (e.1, { e.2 with tracker := e.2.tracker.filter (fun (r : Retired) => r.launch ≠ id) })),
    inflight := s.inflight.filter (fun r => r.launch ≠ id),
    bindings := s.bindings.filter (fun b => b.launch ≠ some id),
    barriers := s.barriers.filter (fun b => b.launch ≠ id),
    releases := s.releases.filter (fun r => ¬ (launchOf s id).any (fun l => l.saved.any (fun v => v.uid = r.owner))),
    colls := s.colls.filter (fun c => ¬ mine.any (fun x => x.gid = c.gid ∧ x.seq = c.seq)),
    collUses := mine.foldl (fun u c => countUse u c.gid c.seq) s.collUses,
    lostTables := s.lostTables ++ ((launchOf s id).map (fun l => l.groups.map (fun g => g.2))).getD [],
    launches := s.launches.filter (fun l => l.id ≠ id) }

/-- A launch stops by the end of its threads; then what it has left goes. -/
theorem stopLaunch_eq (s : State) (id : Nat) : ∃ s1 s2, Spares (fun _ => True) s s1 ∧
    Spares (fun _ => True) (killAll s1 (s1.threads.filter fun e => e.2.launch = id)) s2 ∧
    stopLaunch s id = dropLaunch s2 id (collsOf s id) := by
  refine ⟨(collsOf s id).foldl (sendLost 9) s, _, .foldl (fun s c => spares_sendLost _ 9 s c) _ s, ?_, rfl⟩
  refine Spares.trans ?_ (.foldl (fun s r => (spares_breakRemotes _ s _ _).trans (spares_quitLacqs _ _ _ _)) _ _)
  split
  · exact .refl _ _
  · exact .foldl (fun s v => (Spares.foldl (fun s a => spares_breakLatch _ s _ _ _) _ s).trans (spares_breakRemotes _ _ _ _)) _ _

/-- A collective that a launch's threads have joined is one that it has a part in. -/
theorem mem_collsOf {c : Coll} (hc : c ∈ s.colls) (hl : c.launch = id) : c ∈ collsOf s id := by
  have hk (l a : List Coll) (h : c ∈ a) :
      c ∈ l.foldl (fun a c => if a.any (fun x => x.gid = c.gid ∧ x.seq = c.seq) then a else a ++ [c]) a := by
    induction l generalizing a with
    | nil => exact h
    | cons x l ih =>
      refine ih _ ?_
      dsimp only
      split
      · exact h
      · exact List.mem_append_left _ h
  exact hk _ _ (List.mem_filter.mpr ⟨hc, by simpa using hl⟩)

/-- A table whose every entry is changed. -/
theorem tabFind_mapped {α β : Type} (f : α → β) (l : Tab α) (k : Nat) : tabFind (l.map fun e => (e.1, f e.2)) k = (tabFind l k).map f := by
  induction l with
  | nil => rfl
  | cons e l ih =>
    obtain ⟨a, w⟩ := e
    simp only [List.map_cons, tabFind, ih]
    split <;> rfl

theorem tracker_dropLaunch (s : State) (id : Nat) (mine : List Coll) (cl : Nat) :
    (clusterOf (dropLaunch s id mine) cl).tracker = (clusterOf s cl).tracker.filter fun r => r.launch ≠ id := by
  let f (c : Cluster) : Cluster := { c with tracker := c.tracker.filter (fun (r : Retired) => r.launch ≠ id) }
  have hf : tabFind (dropLaunch s id mine).clusters cl = (tabFind s.clusters cl).map f := tabFind_mapped f s.clusters cl
  rw [clusterOf, clusterOf, tabGet, tabGet, hf]
  cases tabFind s.clusters cl <;> rfl

/-- Nothing of a launch is left once it has stopped. -/
theorem stopLaunch_gone (s : State) (id : Nat) : LaunchGone s (stopLaunch s id) id := by
  obtain ⟨s1, s2, h1, h2, he⟩ := stopLaunch_eq s id
  let l := s1.threads.filter fun e => e.2.launch = id
  have hk : KilledAll s1 (killAll s1 l) l := killAll_killedAll l s1
  have hdead {j : Nat} {t : Thread} (ht : threadAt s j = some t) (hl : t.launch = id) :
      ∃ u, (j, u) ∈ l ∧ threadAt s1 j = some u ∧ u.uid = t.uid := by
    obtain ⟨u, hu, hid, hla⟩ := threadAt_of_unkeyed (h1.threads j trivial) ht
    exact ⟨u, List.mem_filter.mpr ⟨mem_of_tabFind hu, by simpa using hla.trans hl⟩, hu, hid⟩
  rw [he]
  refine ⟨fun j t ht hl => ?threads, fun r hr => ?requests, fun j t ht hl r hr => ?releases, fun p hp => ?pubs, fun j t ht hl w hw => ?waiters,
    fun cl r hr => ?trackers, fun b hb => ?bindings, fun b hb => ?barriers, fun c hc => ?colls, ?launch⟩
  case threads =>
    obtain ⟨u, hu, -, hul⟩ := threadAt_of_unkeyed (h2.threads j trivial).symm ht
    by_cases hj : ∃ e ∈ l, e.1 = j
    · rw [hk.gone j (.inr hj)] at hu
      cases hu
    · push Not at hj
      obtain ⟨w, hw, -, hwl⟩ := threadAt_of_unkeyed (hk.spares.threads j hj).symm hu
      exact hj (j, w) (List.mem_filter.mpr ⟨mem_of_tabFind hw, by simpa using hwl.trans (hul.trans hl)⟩) rfl
  case requests => simpa using (List.mem_filter.mp hr).2
  case releases =>
    obtain ⟨u, hul, hu, hid⟩ := hdead ht hl
    rw [← hid]
    exact hk.releases _ hul u hu r (h2.releases (List.mem_filter.mp hr).1)
  case pubs => simpa using (List.mem_filter.mp hp).2
  case waiters =>
    obtain ⟨u, hul, hu, -⟩ := hdead ht hl
    exact hk.waiters _ hul u hu w (h2.waiters hw)
  case trackers =>
    rw [tracker_dropLaunch] at hr
    simpa using (List.mem_filter.mp hr).2
  case bindings => simpa using (List.mem_filter.mp hb).2
  case barriers => simpa using (List.mem_filter.mp hb).2
  case colls =>
    intro hl
    obtain ⟨hc, hn⟩ := List.mem_filter.mp hc
    have hin : c ∈ collsOf s id := mem_collsOf (h1.colls (hk.spares.colls (h2.colls hc))) hl
    exact of_decide_eq_true hn (List.any_eq_true.mpr ⟨c, hin, decide_eq_true ⟨rfl, rfl⟩⟩)
  case launch =>
    rw [launchOf, List.find?_eq_none]
    intro x hx
    simpa using (List.mem_filter.mp hx).2

theorem stopLaunch_queues (s : State) (id : Nat) : (stopLaunch s id).queues = s.queues := by
  obtain ⟨s1, s2, h1, h2, he⟩ := stopLaunch_eq s id
  rw [he]
  exact h2.queues.trans ((killAll_killedAll _ s1).spares.queues.trans h1.queues)

/-! ## Its status and outcome (R266, R270) -/

theorem LaunchGone.storesOnly (h : LaunchGone s s' id) (he : StoresOnly s' s'') : LaunchGone s s'' id := by
  rw [he]
  exact ⟨h.threads, h.requests, h.releases, h.pubs, h.waiters, h.trackers, h.bindings, h.barriers, h.colls, h.launch⟩

theorem setOutcome_frame (s : State) (id : Nat) (o : LOut) : setOutcome s id o = { s with queues := (setOutcome s id o).queues } := by
  unfold setOutcome
  dsimp only
  split <;> rfl

theorem LaunchGone.setOutcome (h : LaunchGone s s' id) (n : Nat) (o : LOut) : LaunchGone s (setOutcome s' n o) id := by
  rw [setOutcome_frame]
  exact ⟨h.threads, h.requests, h.releases, h.pubs, h.waiters, h.trackers, h.bindings, h.barriers, h.colls, h.launch⟩

/-- A launch that ends with STATE 5 is gone, and its outcome is TRAPPED where no later launch has the place. -/
theorem endStatus_trapped (h : LaunchGone s s' id) (ctx tile flat : Nat) (raw : List Byte) (tcause tval tepc : Word) :
    LaunchGone s (endStatus s' id ctx raw 5 tile flat tcause tval tepc) id ∧ (placeFree s' id →
      tabFind (queueAt (endStatus s' id ctx raw 5 tile flat tcause tval tepc) (id % 64)).outcomes (id / 64 % 1024) =
        some (id / 64, .trapped)) := by
  obtain ⟨s1, h1, he⟩ : ∃ s1, StoresOnly s' s1 ∧ endStatus s' id ctx raw 5 tile flat tcause tval tepc = setOutcome s1 id .trapped :=
    ⟨_, storesOnly_writeStatus s' ctx raw 5 0 tile flat id tcause tval tepc, by simp only [endStatus, Nat.reduceEqDiff, if_false]⟩
  have hq := SameQueues.of_storesOnly h1
  rw [he]
  refine ⟨(h.storesOnly h1).setOutcome id .trapped, fun hp => setOutcome_outcomes ?_ _⟩
  rwa [placeFree, hq.queueAt]

/-- A launch of which something has been placed stops, and its end is reported (R43, R126). -/
theorem endLaunch_placed {l : Launch} (h : launchOf s id = some l) (state tile flat : Nat) (tcause tval tepc : Word) :
    endLaunch s id state tile flat tcause tval tepc = endStatus (stopLaunch s id) id l.ctx l.raw state tile flat tcause tval tepc := by
  rw [endLaunch, h]

/-- A scalar trap without a handler, or inside one, leaves nothing of the thread's launch. -/
theorem scalarTrap_launchGone {l : Launch} (h : threadAt s tid = some t) (hl : launchOf s t.launch = some l)
    (hn : inh t = true ∨ t.csr.thand = 0) (cause : BitVec 8) (tval tepc : Word) :
    LaunchGone s (scalarTrap s tid cause tval tepc) t.launch ∧ (placeFree s t.launch →
      tabFind (queueAt (scalarTrap s tid cause tval tepc) (t.launch % 64)).outcomes (t.launch / 64 % 1024) = some (t.launch / 64, .trapped)) := by
  obtain ⟨c, e, he⟩ := scalarTrap_ends h hn cause tval tepc
  obtain ⟨hgone, hout⟩ := endStatus_trapped (stopLaunch_gone s t.launch) l.ctx 0 t.flat l.raw c tval e
  rw [he, endLaunch_placed hl]
  refine ⟨hgone, fun hp => hout ?_⟩
  rwa [placeFree, queueAt, stopLaunch_queues]

/-- Settles O14: each instruction ends in a scalar trap, which stops the launch; every part of `stopLaunch` spares what is not the
launch's own, and its end filters the rest. -/
theorem unhandledTrapEndsLaunch : Obligations.UnhandledTrapEndsLaunch := by
  unfold Obligations.UnhandledTrapEndsLaunch
  intro s t l i h hl hn hi
  obtain ⟨cause, tval, tepc, he⟩ : ∃ cause tval tepc, exec i s = .next (scalarTrap s s.cur cause tval tepc) := by
    obtain rfl | ⟨code, rfl⟩ | rfl | ⟨w, rfl⟩ | ⟨va, rfl⟩ := hi
    · exact ⟨_, _, _, exec_sysCall.trans (onCur_eq h _)⟩
    · exact ⟨_, _, _, exec_sysTrap.trans (onCur_eq h _)⟩
    · exact ⟨_, _, _, exec_sysBrk.trans (onCur_eq h _)⟩
    · exact ⟨_, _, _, exec_illegalWord.trans (onCur_eq h _)⟩
    · exact ⟨_, _, _, exec_instructionPageFault.trans (onCur_eq h _)⟩
  exact ⟨_, he, scalarTrap_launchGone h hl hn cause tval tepc⟩

end Sys2Proof.Machine
end

section
/-! PROOFS. The layouts of control and status registers, and VSET at push (R97, R111, R112, R130, R131, R136, R142, R199, R288). -/

namespace Sys2Proof.Machine

variable {s : State} {t : Thread}

/-! ## Fields put together -/

/-- The value of two fields put together. -/
theorem toNat_append_mul {m n : Nat} (x : BitVec m) (y : BitVec n) : (x ++ y).toNat = x.toNat * 2 ^ n + y.toNat := by
  rw [BitVec.toNat_append, ← Nat.shiftLeft_add_eq_or_of_lt y.isLt, Nat.shiftLeft_eq]

/-- A word from the value of its fields. -/
theorem ofNat_eq_of_toNat {n v : Nat} {x : BitVec n} (h : x.toNat = v) : BitVec.ofNat n v = x := by
  rw [← h, BitVec.ofNat_toNat, BitVec.setWidth_eq]

/-- A word with all but its n low bits undefined. -/
theorem and_lowMask {k n : Nat} (v : BitVec (k + n)) : v &&& BitVec.ofNat (k + n) (2 ^ n - 1) = 0#k ++ v.extractLsb' 0 n := by
  ext i hi
  simp only [← BitVec.getLsbD_eq_getElem, BitVec.getLsbD_and, BitVec.getLsbD_ofNat, Nat.testBit_two_pow_sub_one, BitVec.getLsbD_append,
    BitVec.getLsbD_extractLsb', Nat.zero_add]
  by_cases h : i < n <;> simp [h, hi]

/-- A word with its n low bits zero. -/
theorem and_not_lowMask {k n : Nat} (v : BitVec (k + n)) :
    v &&& ~~~(BitVec.ofNat (k + n) (2 ^ n - 1)) = v.extractLsb' n k ++ 0#n := by
  ext i hi
  simp only [← BitVec.getLsbD_eq_getElem, BitVec.getLsbD_and, BitVec.getLsbD_not, BitVec.getLsbD_ofNat, Nat.testBit_two_pow_sub_one,
    BitVec.getLsbD_append, BitVec.getLsbD_extractLsb']
  by_cases h : i < n
  · simp [h]
  · simp [h, hi, show i - n < k by omega, show n + (i - n) = i by omega]

/-! ## The layouts -/

/-- vfmt holds GM and TYPE, a reserved TYPE as 0 (R130). -/
theorem vfmtOf_eq (v : Word) : vfmtOf v =
    0#58 ++ v.extractLsb' 4 2 ++ (if 14 ≤ (v.extractLsb' 0 4).toNat then 0#4 else v.extractLsb' 0 4) := by
  refine ofNat_eq_of_toNat ?_
  simp only [toNat_append_mul, fieldOf_eq, apply_ite BitVec.toNat, BitVec.toNat_ofNat, Nat.zero_mod]
  omega

/-- vmode holds LAM and RM, a reserved RM as 0 (R97, R136). -/
theorem vmodeOf_eq (v : Word) : vmodeOf v =
    0#60 ++ v.extractLsb' 3 1 ++ (if 5 ≤ (v.extractLsb' 0 3).toNat then 0#3 else v.extractLsb' 0 3) := by
  refine ofNat_eq_of_toNat ?_
  simp only [toNat_append_mul, fieldOf_eq, apply_ite BitVec.toNat, BitVec.toNat_ofNat, Nat.zero_mod]
  omega

/-- stctl holds its four fields, a reserved TERMS as 4 and a reserved NEM as 2 (R199). -/
theorem stctlOf_eq (v : Word) : stctlOf v = 0#56 ++ v.extractLsb' 7 1 ++
    (if v.extractLsb' 4 3 = 0 ∨ 5 ≤ (v.extractLsb' 4 3).toNat then 4#3 else v.extractLsb' 4 3) ++
    (if v.extractLsb' 2 2 = 3 then 2#2 else v.extractLsb' 2 2) ++ v.extractLsb' 0 2 := by
  have h0 : v.extractLsb' 4 3 = 0 ↔ (v.extractLsb' 4 3).toNat = 0 := BitVec.toNat_inj.symm
  have h3 : v.extractLsb' 2 2 = 3 ↔ (v.extractLsb' 2 2).toNat = 3 := BitVec.toNat_inj.symm
  refine ofNat_eq_of_toNat ?_
  simp only [toNat_append_mul, fieldOf_eq, h0, h3, apply_ite BitVec.toNat, BitVec.toNat_ofNat, Nat.zero_mod, Nat.reducePow, Nat.reduceMod]
  omega

/-- A type code that is not reserved stays as written (R130). -/
theorem vfmtOf_code (g : GMul) (ty : ElemTy) : vfmtOf (0#58 ++ g.code ++ ty.code) = 0#58 ++ g.code ++ ty.code := by
  have hty : ¬ 14 ≤ ty.code.toNat := by cases ty <;> decide
  simp (disch := decide) only [vfmtOf_eq, extractLsb'_append, BitVec.extractLsb'_eq_self, Nat.reduceSub, if_neg hty]

/-- The fields of vfmt (R130): what a type and a multiplier put there. -/
theorem vfmt_fields (g : GMul) (ty : ElemTy) : vfmtTy (0#58 ++ g.code ++ ty.code) = ty ∧
    (0#58 ++ g.code ++ ty.code).extractLsb' 4 2 = g.code ∧ (0#58 ++ g.code ++ ty.code).extractLsb' 6 58 = 0 := by
  unfold vfmtTy
  simp (disch := decide) only [extractLsb'_append, BitVec.extractLsb'_eq_self, Nat.reduceSub, ElemTy.ofCode_code, Option.getD_some,
    BitVec.ofNat_eq_ofNat, and_self]

/-- The group multiplier that a code of GM stands for (R130). -/
def gmulOf (g : GMul) : Nat := match g with | .m1 => 1 | .m2 => 2 | .m4 => 4 | .m8 => 8

theorem gmulOf_code (g : GMul) : 2 ^ g.code.toNat = gmulOf g := by cases g <;> rfl

theorem vfmtGm_code (g : GMul) (ty : ElemTy) : vfmtGm (0#58 ++ g.code ++ ty.code) = gmulOf g := by
  obtain ⟨-, hg, -⟩ := vfmt_fields g ty
  rw [vfmtGm_eq, hg, gmulOf_code]

/-- Settles O8: the layouts of vfmt, vmode and stctl are those of their fields, and the other registers keep their defined bits. -/
theorem csrHoldsItsLayout : Obligations.CsrHoldsItsLayout := by
  unfold Obligations.CsrHoldsItsLayout
  intro r v ty rm nem terms
  refine ⟨?vfmt, fun ty g => ?format, fun s tid t h => h ▸ rfl, rfl, rfl, ?vmode, rfl, rfl, rfl, ?stctl, ?stloss, ?rsctl, ?tcause, rfl,
    ?tepc, ?thand, rfl⟩
  case vfmt => exact congrArg (fun x => { r with vfmt := x }) (vfmtOf_eq v)
  case vmode => exact congrArg (fun x => { r with vmode := x }) (vmodeOf_eq v)
  case stctl => exact congrArg (fun x => { r with stctl := x }) (stctlOf_eq v)
  case stloss => exact congrArg (fun x => { r with stloss := x }) (and_lowMask (k := 48) (n := 16) v)
  case rsctl => exact congrArg (fun x => { r with rsctl := x }) (and_lowMask (k := 61) (n := 3) v)
  case tcause => exact congrArg (fun x => { r with tcause := x }) (and_lowMask (k := 56) (n := 8) v)
  case tepc => exact congrArg (fun x => { r with tepc := x }) (and_not_lowMask (k := 62) (n := 2) v)
  case thand => exact congrArg (fun x => { r with thand := x }) (and_not_lowMask (k := 62) (n := 2) v)
  case format =>
    obtain ⟨hty, -, -⟩ := vfmt_fields g ty
    intro f
    rw [show f = 0#58 ++ g.code ++ ty.code from vfmtOf_code g ty]
    exact ⟨hty, congrArg _ hty, vfmtGm_code g ty⟩

/-! ## VSET (R142) -/

theorem vlmax_eq (f : Word) : vlmax f = 16384 * vfmtGm f / (vfmtTy f).bits := rfl

/-- What VSET makes of its thread under the format f: the columns and rows that its operands ask for, limited by VLMAX. -/
def vsetThread (t : Thread) (f : Word) (a b : Reg) : Thread :=
  let cols := min (rx t a).toNat (vlmax f)
  let rows := if cols = 0 then 0 else min (rx t b).toNat (vlmax f / cols)
  { t with csr := { t.csr with vesr := 0, vfmt := f, vcols := BitVec.ofNat 64 cols, vrows := BitVec.ofNat 64 rows },
           pc := t.pc + 4, hold := .run }

/-- A legal VSET that finds room acts on its thread and joins the queue. -/
theorem exec_vset {f : Word} {a b : Reg} {i : Instr} (hi : pushesOnly i) (ht : threadAt s s.cur = some t) (hok : PushOk s t i)
    (hv : pushedBy t i = { vsetThread t f a b with vrelPushed := false }) :
    exec i s = .next (setThread { s with uid := s.uid + 1 } s.cur
      { vsetThread t f a b with vq := t.vq ++ [entryFor s t i] }) := by
  rw [exec_pushesOnly hi]
  refine congrArg _ (push_eq ht hok.legal hok.unreleased ?_)
  show enqueue _ _ (pushedBy t i) _ = _
  rw [hv, ← hok.unreleased]
  exact enqueue_pushesOnly hi rfl rfl hok.room hok.counts

/-- Settles O19: both forms are `exec_vset`, len under the format of vfmt and lenf under its own. -/
theorem vsetActsAtPush : Obligations.VsetActsAtPush := by
  unfold Obligations.VsetActsAtPush
  intro s t a b g ty ht after gmOf
  refine ⟨fun hok => ?len, fun hok => ⟨0#58 ++ g.code ++ ty.code, ?lenf, ?fields⟩⟩
  case len =>
    have h := exec_vset (.inr (.inr (.inl ⟨a, b, rfl⟩))) ht hok rfl (f := t.csr.vfmt)
    rw [vsetThread, vlmax_eq, vfmtGm_eq] at h
    exact h
  case lenf =>
    obtain ⟨hty, -, -⟩ := vfmt_fields g ty
    have h := exec_vset (.inr (.inr (.inr ⟨a, b, g, ty, rfl⟩))) ht hok rfl (f := 0#58 ++ g.code ++ ty.code)
    rw [vsetThread, vlmax_eq, vfmtGm_code, hty] at h
    exact h
  case fields =>
    obtain ⟨hty, hg, hz⟩ := vfmt_fields g ty
    exact ⟨hty, by rw [hg]; exact gmulOf_code g, hz⟩

end Sys2Proof.Machine
end

section
/-! PROOFS. The values of integer lanes: VALU and VALUI of an integer type, VFMA for s32 and z32, and VBPL (R91, R143 to R145, R161, R162). -/

namespace Sys2Proof.Machine

variable {t : Thread} {e : Entry} {d a b : Reg} {p : PReg} {ty : ElemTy} {n w : Nat}

/-! ## Patterns and their values (R91) -/

/-- Integers that agree in their low n bits have one pattern. -/
theorem patternOf_congr {i j : Int} (h : i ≡ j [ZMOD 2 ^ n]) : patternOf n i = patternOf n j := congrArg Int.toNat h

theorem patternOf_natCast (n v : Nat) : patternOf n (v : Int) = v % 2 ^ n := by
  rw [patternOf, show ((v : Int) % 2 ^ n) = ((v % 2 ^ n : Nat) : Int) by push_cast; rfl, Int.toNat_natCast]

theorem patternOf_of_lt {v : Nat} (h : v < 2 ^ n) : patternOf n (v : Int) = v := by rw [patternOf_natCast, Nat.mod_eq_of_lt h]

theorem patternOf_lt (n : Nat) (i : Int) : patternOf n i < 2 ^ n := by
  have hp : (0 : Int) < 2 ^ n := by positivity
  have h0 := Int.emod_nonneg i hp.ne'
  have h1 := Int.emod_lt_of_pos i hp
  zify
  rwa [patternOf, Int.toNat_of_nonneg h0]

/-- A two's-complement value agrees with its pattern. -/
theorem signedOf_modEq (n v : Nat) : signedOf n v ≡ v [ZMOD 2 ^ n] := by
  have hv : ((v : Int) % 2 ^ n) ≡ v [ZMOD 2 ^ n] := Int.mod_modEq _ _
  unfold signedOf
  split
  · exact hv
  · exact (Int.sub_modulus_modEq_iff.mpr hv)

/-- It lies between the bounds of its width. -/
theorem signedOf_bounds (n v : Nat) : -2 ^ n ≤ signedOf n v ∧ signedOf n v < 2 ^ n := by
  have hlt : (v : Int) % 2 ^ n < 2 ^ n := Int.emod_lt_of_pos _ (by positivity)
  have hge : 0 ≤ (v : Int) % 2 ^ n := Int.emod_nonneg _ (by positivity)
  unfold signedOf
  split <;> constructor <;> linarith

theorem signedOf_mod (n v : Nat) : signedOf n (v % 2 ^ n) = signedOf n v := by
  unfold signedOf
  rw [Nat.mod_mod, Int.natCast_mod]
  simp

theorem intOf_modEq (ty : ElemTy) (x : Nat) : intOf ty x ≡ x [ZMOD 2 ^ ty.bits] := by
  unfold intOf
  split
  · exact signedOf_modEq _ _
  · push_cast
    exact Int.mod_modEq _ _

/-- The pattern of an element's value is the element. -/
theorem patternOf_intOf {x : Nat} (h : x < 2 ^ ty.bits) : patternOf ty.bits (intOf ty x) = x :=
  (patternOf_congr (intOf_modEq ty x)).trans (patternOf_of_lt h)

theorem elem_lt (t : Thread) (n w i : Nat) : elem t n w i < 2 ^ w := BitVec.isLt _

theorem bOperand_lt (t : Thread) (e : Entry) (isE : Bool) (b : Reg) (w i : Nat) : bOperand t e isE b w i < 2 ^ w := by
  unfold bOperand
  split
  · exact Nat.mod_lt _ (by positivity)
  · exact elem_lt ..

/-! ## Exact results, narrowed once -/

section

variable (ty : ElemTy) (x y z : Nat)

theorem add_mod_eq : (x + y) % 2 ^ ty.bits = patternOf ty.bits (intOf ty x + intOf ty y) := by
  rw [← patternOf_natCast]
  push_cast
  exact patternOf_congr ((intOf_modEq ty x).add (intOf_modEq ty y)).symm

theorem patternOf_sub_eq : patternOf ty.bits ((x : Int) - (y : Int)) = patternOf ty.bits (intOf ty x - intOf ty y) :=
  patternOf_congr ((intOf_modEq ty x).sub (intOf_modEq ty y)).symm

theorem mul_mod_eq : x * y % 2 ^ ty.bits = patternOf ty.bits (intOf ty x * intOf ty y) := by
  rw [← patternOf_natCast]
  push_cast
  exact patternOf_congr ((intOf_modEq ty x).mul (intOf_modEq ty y)).symm

/-- A left shift by k multiplies by 2^k. -/
theorem shiftLeft_mod_eq (k : Nat) : x * 2 ^ k % 2 ^ ty.bits = patternOf ty.bits (intOf ty x * 2 ^ k) := by
  rw [← patternOf_natCast]
  push_cast
  exact patternOf_congr ((intOf_modEq ty x).mul_right _).symm

end

/-! ## VALU and VFMA of an integer type (R143, R145) -/

section

variable (h : ty.isInt = true) (rm : RMode) (x y z : Nat)
include h

theorem not_isFloat3_of_isInt : ¬ ty.isFloat3 = true := by cases ty <;> simp [ElemTy.isInt, ElemTy.isFloat3] at h ⊢

theorem vAdd_int : vAdd ty rm x y = patternOf ty.bits (intOf ty x + intOf ty y) :=
  (if_neg (not_isFloat3_of_isInt h)).trans (add_mod_eq ty x y)
theorem vSub_int : vSub ty rm x y = patternOf ty.bits (intOf ty x - intOf ty y) :=
  (if_neg (not_isFloat3_of_isInt h)).trans (patternOf_sub_eq ty x y)
theorem vMul_int : vMul ty rm x y = patternOf ty.bits (intOf ty x * intOf ty y) :=
  (if_neg (not_isFloat3_of_isInt h)).trans (mul_mod_eq ty x y)
theorem vAbsd_int : vAbsd ty rm x y = patternOf ty.bits ((intOf ty x - intOf ty y).natAbs : Int) :=
  (if_neg (not_isFloat3_of_isInt h)).trans (patternOf_natCast _ _).symm
theorem vSadd_int : vSadd ty x y = patternOf ty.bits (max (intLo ty) (min (intHi ty) (intOf ty x + intOf ty y))) := by
  rw [vSadd, clampTo_int h]
theorem vSsub_int : vSsub ty x y = patternOf ty.bits (max (intLo ty) (min (intHi ty) (intOf ty x - intOf ty y))) := by
  rw [vSsub, clampTo_int h]

/-- The smaller of two elements is the one with the smaller value. -/
theorem intOf_vMin (x y : Nat) (hx : x < 2 ^ ty.bits) (hy : y < 2 ^ ty.bits) :
    vMin ty x y < 2 ^ ty.bits ∧ intOf ty (vMin ty x y) = min (intOf ty x) (intOf ty y) := by
  rw [vMin, if_neg (not_isFloat3_of_isInt h)]
  split
  · next hle => exact ⟨hx, (min_eq_left hle).symm⟩
  · next hle => exact ⟨hy, (min_eq_right (not_le.mp hle).le).symm⟩

theorem intOf_vMax (x y : Nat) (hx : x < 2 ^ ty.bits) (hy : y < 2 ^ ty.bits) :
    vMax ty x y < 2 ^ ty.bits ∧ intOf ty (vMax ty x y) = max (intOf ty x) (intOf ty y) := by
  rw [vMax, if_neg (not_isFloat3_of_isInt h)]
  split
  · next hle => exact ⟨hy, (max_eq_right hle).symm⟩
  · next hle => exact ⟨hx, (max_eq_left (not_le.mp hle).le).symm⟩

theorem vMin_int {x y : Nat} (hx : x < 2 ^ ty.bits) (hy : y < 2 ^ ty.bits) :
    vMin ty x y = patternOf ty.bits (min (intOf ty x) (intOf ty y)) := by
  obtain ⟨hlt, hv⟩ := intOf_vMin h x y hx hy
  rw [← hv, patternOf_intOf hlt]

theorem vMax_int {x y : Nat} (hx : x < 2 ^ ty.bits) (hy : y < 2 ^ ty.bits) :
    vMax ty x y = patternOf ty.bits (max (intOf ty x) (intOf ty y)) := by
  obtain ⟨hlt, hv⟩ := intOf_vMax h x y hx hy
  rw [← hv, patternOf_intOf hlt]

/-- Product and addend. -/
theorem vFma_int : vFma ty rm false false x y z = patternOf ty.bits (intOf ty x * intOf ty y + intOf ty z) := by
  rw [vFma, if_neg (not_isFloat3_of_isInt h)]
  refine patternOf_congr ?_
  simpa using (((intOf_modEq ty x).mul (intOf_modEq ty y)).add (intOf_modEq ty z)).symm

/-- Product less addend. -/
theorem vFms_int : vFma ty rm false true x y z = patternOf ty.bits (intOf ty x * intOf ty y - intOf ty z) := by
  rw [vFma, if_neg (not_isFloat3_of_isInt h)]
  refine patternOf_congr ?_
  simpa [sub_eq_add_neg] using (((intOf_modEq ty x).mul (intOf_modEq ty y)).add (intOf_modEq ty z).neg).symm

end

/-! ## Shifts and bit operations (R144, R161) -/

theorem shiftRight_eq {x : Nat} (k : Nat) (h : x < 2 ^ w) : x / 2 ^ k = patternOf w ((x / 2 ^ k : Nat) : Int) :=
  (patternOf_of_lt (lt_of_le_of_lt (Nat.div_le_self _ _) h)).symm

/-- An arithmetic shift by the width leaves copies of the top bit. -/
theorem signedOf_div_width (w x : Nat) : signedOf w x / 2 ^ w = if signedOf w x < 0 then -1 else 0 := by
  obtain ⟨hlo, hhi⟩ := signedOf_bounds w x
  split
  · next hneg => exact Int.ediv_eq_neg_one_of_neg_of_le hneg (by linarith)
  · next hneg => exact Int.ediv_eq_zero_of_lt (not_lt.mp hneg) hhi

/-- A shift of VBPL by less than the width, or by the width or more (R161). -/
theorem sraBits_eq (w x y : Nat) : sraBits w x (min y w) =
    patternOf w (if w ≤ y then (if signedOf w x < 0 then -1 else 0) else signedOf w x / 2 ^ y) := by
  unfold sraBits
  split
  · next h => rw [min_eq_right h, signedOf_div_width]
  · next h => rw [min_eq_left (not_le.mp h).le]

theorem shiftLeft_bits_eq (ty : ElemTy) (x y : Nat) : (if ty.bits ≤ y then 0 else x * 2 ^ y % 2 ^ ty.bits) =
    patternOf ty.bits (if ty.bits ≤ y then 0 else intOf ty x * 2 ^ y) := by
  split
  · exact (patternOf_of_lt (v := 0) (by positivity)).symm
  · exact shiftLeft_mod_eq ty x y

theorem shiftRight_bits_eq {x : Nat} (h : x < 2 ^ w) (y : Nat) : (if w ≤ y then 0 else x / 2 ^ y) =
    patternOf w (if w ≤ y then 0 else ((x / 2 ^ y : Nat) : Int)) := by
  split
  · exact (patternOf_of_lt (v := 0) (by positivity)).symm
  · exact shiftRight_eq y h

/-- A pattern has at most w one bits. -/
theorem popcBits_eq (w x : Nat) : popcBits w x = patternOf w (((List.range w).countP (fun i => x.testBit i) : Nat) : Int) := by
  have hle : (List.range w).countP (fun i => x.testBit i) ≤ w := List.countP_le_length.trans_eq List.length_range
  rw [patternOf_of_lt (lt_of_le_of_lt hle Nat.lt_two_pow_self), List.countP_eq_length_filter, popcBits]

/-! ## Bit planes (R162) -/

/-- The planes that the low byte of eB gives. -/
theorem planeCount_mod (v : Nat) : planeCount (v % 256) = (min (max (signedOf 8 v) 0) 8).toNat := by
  rw [planeCount, show 256 = 2 ^ 8 from rfl, signedOf_mod]

theorem planeCount_le (v : Nat) : planeCount v ≤ 8 := by
  rw [planeCount, Int.toNat_le]
  exact min_le_right _ _

/-- Two parts of c and 8 − c bits fill a byte. -/
theorem bplPins_eq {c : Nat} (hc : c ≤ 8) (x z : Nat) :
    bplPins c x z = patternOf 8 ((x % 2 ^ c * 2 ^ (8 - c) + z % 2 ^ (8 - c) : Nat) : Int) := by
  have hx : x % 2 ^ c + 1 ≤ 2 ^ c := Nat.mod_lt x (by positivity)
  have hz : z % 2 ^ (8 - c) < 2 ^ (8 - c) := Nat.mod_lt z (by positivity)
  refine (patternOf_of_lt ?_).symm
  calc x % 2 ^ c * 2 ^ (8 - c) + z % 2 ^ (8 - c)
      < (x % 2 ^ c + 1) * 2 ^ (8 - c) := by rw [Nat.add_one_mul]; exact Nat.add_lt_add_left hz _
    _ ≤ 2 ^ c * 2 ^ (8 - c) := Nat.mul_le_mul_right _ hx
    _ = 2 ^ 8 := by rw [← Nat.pow_add, Nat.add_sub_cancel' hc]

/-! ## The obligation -/

/-- Settles O24: each instruction's work on element n is its value in the tables of R143 to R145, R161 and R162; results that are already
narrow are their own patterns. -/
theorem integerLanesGiveTableResult : Obligations.IntegerLanesGiveTableResult := by
  unfold Obligations.IntegerLanesGiveTableResult
  intro t e d a b p sOp ty imm n
  refine ⟨fun h => ?lanes, ?planes⟩
  case lanes =>
    intro w xb x y z jb j lo hi gives
    have hx : xb < 2 ^ w := elem_lt ..
    have hy : bOperand t e sOp b w n < 2 ^ w := bOperand_lt ..
    have hj : jb < 2 ^ w := patternOf_lt ..
    refine ⟨⟨_, rfl, vAdd_int h ..⟩, ⟨_, rfl, vSub_int h ..⟩, ⟨_, rfl, vMul_int h ..⟩, ⟨_, rfl, vMin_int h hx hy⟩,
      ⟨_, rfl, vMax_int h hx hy⟩, ⟨_, rfl, vSadd_int h ..⟩, ⟨_, rfl, vSsub_int h ..⟩, ⟨_, rfl, vAbsd_int h ..⟩,
      ⟨_, rfl, add_mod_eq ..⟩, ⟨_, rfl, patternOf_sub_eq ..⟩, ⟨_, rfl, vMin_int h hx hj⟩, ⟨_, rfl, vMax_int h hx hj⟩,
      ⟨_, rfl, vSadd_int h ..⟩, ⟨_, rfl, shiftLeft_mod_eq ..⟩, ⟨_, rfl, shiftRight_eq _ hx⟩, ⟨_, rfl, rfl⟩,
      ⟨_, rfl, (patternOf_of_lt (Nat.and_lt_two_pow _ hj)).symm⟩, ⟨_, rfl, (patternOf_of_lt (Nat.or_lt_two_pow hx hj)).symm⟩,
      ⟨_, rfl, (patternOf_of_lt (Nat.xor_lt_two_pow hx hj)).symm⟩, ⟨_, rfl, (patternOf_intOf hj).symm⟩, fun _ => ?fma, ?bits⟩
    case fma => exact ⟨⟨_, rfl, vFma_int h ..⟩, ⟨_, rfl, vFms_int h ..⟩⟩
    case bits =>
      intro bb
      have hb : bb < 2 ^ w := elem_lt ..
      have hnot : 2 ^ w - 1 - xb < 2 ^ w := by omega
      exact ⟨⟨_, rfl, (patternOf_of_lt (Nat.and_lt_two_pow _ hb)).symm⟩, ⟨_, rfl, (patternOf_of_lt (Nat.or_lt_two_pow hx hb)).symm⟩,
        ⟨_, rfl, (patternOf_of_lt (Nat.xor_lt_two_pow hx hb)).symm⟩, ⟨_, rfl, (patternOf_of_lt (lt_of_le_of_lt Nat.and_le_left hx)).symm⟩,
        ⟨_, rfl, (patternOf_of_lt hnot).symm⟩, ⟨_, rfl, shiftLeft_bits_eq ..⟩, ⟨_, rfl, shiftRight_bits_eq hx _⟩,
        ⟨_, rfl, sraBits_eq ..⟩, ⟨_, rfl, popcBits_eq ..⟩⟩
  case planes =>
    intro xb zb c gives
    have hc : planeCount ((e.eb.getD 0).toNat % 256) = c := planeCount_mod _
    have hle : c ≤ 8 := hc ▸ planeCount_le _
    exact ⟨⟨_, rfl, congrArg (bplPext · xb) hc⟩, ⟨_, rfl, (congrArg (bplPins · xb zb) hc).trans (bplPins_eq hle xb zb)⟩,
      ⟨_, rfl, congrArg (bplPmac · xb zb) hc⟩⟩

end Sys2Proof.Machine
end

section
/-! PROOFS. VCMP of integer types and VMSK (R131, R137, R138, R140, R147, R148). -/

namespace Sys2Proof.Machine

variable {t : Thread} {e : Entry} {ty : ElemTy} {n : Nat}

/-! ## VCMP (R147) -/

/-- The conditions on the order of two integers. -/
theorem condMeans_compare (x y : Int) :
    (CondMeans .eq (some (compare x y)) ↔ x = y) ∧ (CondMeans .ne (some (compare x y)) ↔ x ≠ y) ∧
    (CondMeans .lt (some (compare x y)) ↔ x < y) ∧ (CondMeans .le (some (compare x y)) ↔ x ≤ y) ∧
    (CondMeans .gt (some (compare x y)) ↔ y < x) ∧ (CondMeans .ge (some (compare x y)) ↔ y ≤ x) := by
  simp only [CondMeans, Option.some.injEq, ne_eq, compare_lt_iff_lt, compare_gt_iff_gt, compare_eq_iff_eq, le_iff_lt_or_eq, iff_self,
    true_and]
  exact or_congr_right eq_comm

/-- VCMP of an integer type compares values. -/
theorem vcmp_int (h : ty.isInt = true) (cc : VCond) (x y : Nat) :
    vcondHolds cc (cmpOf ty x y) = true ↔ CondMeans cc (some (compare (intOf ty x) (intOf ty y))) := by
  rw [cmpOf, if_neg (not_isFloat3_of_isInt h), vcondHolds_iff]

/-! ## VMSK on masks (R148) -/

/-- A mask operation writes its register alone: bits below n its function where P governs, and 0 from n on. -/
theorem maskBit_vmsk {d i : Nat} (hd : d ≠ 0) (hi : i < 16384) (t : Thread) (p n : Nat) (f : Nat → Bool) :
    maskBit (clearFrom (writeBits t p d 0 n f) d n) d i = (decide (i < n) && maskBit t p i && f i) := by
  rw [maskBit_clearFrom hd hi, maskBit_writeBits hd hi]
  by_cases h : i < n
  · simp [h, Nat.not_le.mpr h]
  · simp [h, Nat.not_lt.mp h]

theorem rp_vmsk {d r : Nat} (h : r ≠ d) (t : Thread) (p n : Nat) (f : Nat → Bool) :
    rp (clearFrom (writeBits t p d 0 n f) d n) r = rp t r := (rp_wp_ne h _ _).trans (rp_wp_ne h t _)

theorem pOnly_vmsk (t : Thread) (p d n : Nat) (f : Nat → Bool) : POnly t (clearFrom (writeBits t p d 0 n f) d n) :=
  (pOnly_writeBits t p d 0 n f).trans (pOnly_clearFrom _ d n)

/-! ## frst and popc (R140, R148) -/

/-- A result of 64 bits: element (0,0) holds its low bits, every other element of the group is as it was (R140). -/
theorem elem_writeE (t : Thread) (c : Cap) (d : Reg) (v : Nat) {j : Nat} (hj : j * vfmtW c.vfmt < 131072) :
    elem (writeE t c d v) d.toNat (vfmtW c.vfmt) j = if j = 0 then v % 2 ^ vfmtW c.vfmt else elem t d.toNat (vfmtW c.vfmt) j := by
  rw [writeE, elem_setElem (w := vfmtW c.vfmt) (elemWidth_bits _) (by omega) hj, Nat.mod_mod]

/-- Work that gives a result of 64 bits when n is above 0. -/
theorem laneWork_writeE {c : Cap} {d : Reg} {v : Nat}
    (h : laneWork t e = some (.whole (if n = 0 then t else writeE t c d v))) : ∃ u, laneWork t e = some (.whole u) ∧
      elem u d.toNat (vfmtW c.vfmt) 0 = (if n = 0 then elem t d.toNat (vfmtW c.vfmt) 0 else v % 2 ^ vfmtW c.vfmt) ∧
      (∀ j, 0 < j → j * vfmtW c.vfmt < 131072 → elem u d.toNat (vfmtW c.vfmt) j = elem t d.toNat (vfmtW c.vfmt) j) ∧
      u = { t with v := u.v, vext := u.vext } := by
  refine ⟨_, h, ?_, fun j h0 hj => ?_, ?_⟩
  · split
    · rfl
    · rw [elem_writeE t c d v (by omega), if_pos rfl]
  · split
    · rfl
    · rw [elem_writeE t c d v hj, if_neg (by omega)]
  · split <;> rfl

/-- frst finds the first index that both masks hold. -/
theorem firstBoth_some {a p m : Nat} (hn : n < m) (hb : (maskBit t a n && maskBit t p n) = true)
    (hf : ∀ j, j < n → (maskBit t a j && maskBit t p j) = false) : firstBoth t a p m = some n := by
  rw [firstBoth, leastBelow, List.find?_range_eq_some]
  exact ⟨hb, List.mem_range.mpr hn, fun j hj => by simp [hf j hj]⟩

theorem firstBoth_none {a p m : Nat} (hf : ∀ j, j < m → (maskBit t a j && maskBit t p j) = false) : firstBoth t a p m = none := by
  rw [firstBoth, leastBelow, List.find?_range_eq_none]
  exact fun j hj => by simp [hf j hj]

theorem countBoth_eq (t : Thread) (a p m : Nat) :
    countBoth t a p m = (List.range m).countP (fun i => maskBit t a i && maskBit t p i) := List.countP_eq_length_filter.symm

end Sys2Proof.Machine
end

section
/-! PROOFS. Work that commits whole (R151), the lines of the two-dimensional view (R154), and VPRM (R155, R156). -/

namespace Sys2Proof.Machine

variable {t : Thread} {e : Entry} {c : Cap} {dim : Dim} {l : Line} {d w m n j v : Nat}

/-! ## Lists of writes (R151) -/

/-- Elements of the group of vD written one after the other: each pair is an index and a value. -/
def writeList (t : Thread) (d w : Nat) (l : List (Nat × Nat)) : Thread := l.foldl (fun u x => setElem u d w x.1 x.2) t

theorem vOnly_writeList (t : Thread) (d w : Nat) (l : List (Nat × Nat)) : VOnly t (writeList t d w l) :=
  VOnly.foldl (fun u _ => vOnly_setElem u d w _ _) l t

/-- An element is as it was where no pair names it, and holds what some pair gives it otherwise. -/
theorem elem_writeList_cases (hw : elemWidth w) (hj : j * w < 131072) (l : List (Nat × Nat)) (hl : ∀ x ∈ l, x.1 * w < 131072)
    (t : Thread) : (∀ x ∈ l, x.1 ≠ j) ∧ elem (writeList t d w l) d w j = elem t d w j ∨
      ∃ v, (j, v) ∈ l ∧ elem (writeList t d w l) d w j = v % 2 ^ w := by
  induction l generalizing t with
  | nil => exact .inl ⟨by simp, rfl⟩
  | cons x l ih =>
    obtain ⟨i, v⟩ := x
    have hstep := elem_setElem (val := v) (d := d) hw (hl _ List.mem_cons_self) hj t
    rcases ih (fun x hx => hl x (List.mem_cons_of_mem _ hx)) (setElem t d w i v) with ⟨hn, he⟩ | ⟨v', hv, he⟩
    · by_cases hij : j = i
      · subst hij
        exact .inr ⟨v, List.mem_cons_self, he.trans (hstep.trans (if_pos rfl))⟩
      · refine .inl ⟨fun x hx => ?_, he.trans (hstep.trans (if_neg hij))⟩
        rcases List.mem_cons.mp hx with rfl | hx
        · exact Ne.symm hij
        · exact hn x hx
    · exact .inr ⟨v', List.mem_cons_of_mem _ hv, he⟩

/-- Pairs that are the graph of a function: each element of its domain holds its value. -/
theorem elem_writeList {f : Nat → Option Nat} {l : List (Nat × Nat)} (hw : elemWidth w) (hl : ∀ i v, (i, v) ∈ l ↔ f i = some v)
    (hr : ∀ x ∈ l, x.1 * w < 131072) (hj : j * w < 131072) (t : Thread) :
    elem (writeList t d w l) d w j = ((f j).map (· % 2 ^ w)).getD (elem t d w j) := by
  rcases elem_writeList_cases (d := d) hw hj l hr t with ⟨hn, he⟩ | ⟨v, hv, he⟩
  · have hf : f j = none := Option.eq_none_iff_forall_ne_some.mpr fun v hv => hn _ ((hl j v).mpr hv) rfl
    rw [he, hf]
    rfl
  · rw [he, (hl j v).mp hv]
    rfl

/-- The work of an entry commits whole and changes v registers alone; of the m elements in play it writes those to which `f` gives a
value, and every other element of the group is as it was. -/
def WritesWhole (t : Thread) (e : Entry) (d w m : Nat) (f : Nat → Option Nat) : Prop :=
  ∃ u, laneWork t e = some (.whole u) ∧ u = { t with v := u.v, vext := u.vext } ∧
    ∀ j, j * w < 131072 → elem u d w j = if j < m then (f j).getD (elem t d w j) else elem t d w j

theorem writesWhole_of_list {f : Nat → Option Nat} {l : List (Nat × Nat)} (h : laneWork t e = some (.whole (writeList t d w l)))
    (hw : elemWidth w) (hm : m * w ≤ 131072) (hl : ∀ j v, (j, v) ∈ l ↔ j < m ∧ f j = some v) :
    WritesWhole t e d w m (fun j => (f j).map (· % 2 ^ w)) := by
  have hpos : 0 < w := by rcases hw with rfl | rfl | rfl | rfl <;> decide
  refine ⟨_, h, vOnly_writeList t d w l, fun j hj => ?_⟩
  rw [elem_writeList (f := fun j => if j < m then f j else none) hw ?graph ?inside hj]
  · split <;> rfl
  case graph =>
    intro i v
    rw [hl, ← Option.ite_none_right_eq_some]
  case inside =>
    rintro ⟨i, v⟩ hx
    exact lt_of_lt_of_le (Nat.mul_lt_mul_of_pos_right ((hl i v).mp hx).1 hpos) hm

theorem WritesWhole.congr {f g : Nat → Option Nat} (h : WritesWhole t e d w m f) (hfg : ∀ j, j < m → f j = g j) :
    WritesWhole t e d w m g := by
  obtain ⟨u, hu, hv, he⟩ := h
  refine ⟨u, hu, hv, fun j hj => (he j hj).trans ?_⟩
  split
  · next hm => rw [hfg j hm]
  · rfl

/-- Values that an element holds unchanged. -/
def Fits (w : Nat) (f : Nat → Option Nat) : Prop := ∀ j v, f j = some v → v < 2 ^ w

theorem Fits.map_mod {f : Nat → Option Nat} (h : Fits w f) : (fun j => (f j).map (· % 2 ^ w)) = f := by
  funext j
  cases hf : f j with
  | none => rfl
  | some v => exact congrArg some (Nat.mod_eq_of_lt (h j v hf))

theorem fits_some {g : Nat → Nat} (h : ∀ j, g j < 2 ^ w) : Fits w (fun j => some (g j)) := by
  rintro j v ⟨⟩
  exact h j

theorem Fits.guard {f : Nat → Option Nat} (h : Fits w f) (g : Nat → Prop) [DecidablePred g] : Fits w (fun j => if g j then f j else none) :=
  fun j v hv => h j v (Option.ite_none_right_eq_some.mp hv).2

theorem fits_map_elem {f : Nat → Option Nat} (t : Thread) (a : Nat) : Fits w (fun j => (f j).map (elem t a w)) := by
  intro j v hv
  obtain ⟨i, -, rfl⟩ := Option.map_eq_some_iff.mp hv
  exact elem_lt ..

theorem ite_elem_lt (t : Thread) (a i : Nat) (g : Prop) [Decidable g] : (if g then elem t a w i else 0) < 2 ^ w := by
  split
  · exact elem_lt ..
  · positivity

/-- Whole writes by index (R151) are a list of writes. -/
theorem writeWhole_eq (t : Thread) (p d w start n : Nat) (f : Nat → Option Nat) : writeWhole t p d w start n f =
    writeList t d w ((span start n).filterMap fun i => if maskBit t p i then (f i).map (i, ·) else none) := by
  rw [writeList, List.foldl_filterMap, writeWhole]
  congr 1
  funext u i
  by_cases hp : maskBit t p i = true
  · rw [if_pos hp, if_pos hp]
    cases f i <;> rfl
  · rw [if_neg hp, if_neg hp]

/-- They reach the active, governed elements (R134). -/
theorem writesWhole_writeWhole {p start : Nat} {f : Nat → Option Nat} (h : laneWork t e = some (.whole (writeWhole t p d w start m f)))
    (hf : Fits w f) (hw : elemWidth w) (hm : m * w ≤ 131072) :
    WritesWhole t e d w m (fun j => if start ≤ j ∧ maskBit t p j = true then f j else none) := by
  rw [writeWhole_eq] at h
  rw [← (hf.guard fun j => start ≤ j ∧ maskBit t p j = true).map_mod]
  refine writesWhole_of_list h hw hm fun j v => ?_
  simp only [List.mem_filterMap, mem_span, Option.ite_none_right_eq_some, Option.map_eq_some_iff, Prod.mk.injEq]
  constructor
  · rintro ⟨i, ⟨hs, hi⟩, hp, v, hv, rfl, rfl⟩
    exact ⟨hi, ⟨hs, hp⟩, hv⟩
  · rintro ⟨hj, ⟨hs, hp⟩, hv⟩
    exact ⟨j, ⟨hs, hj⟩, hp, v, hv, rfl, rfl⟩

/-! ## Lines (R154) -/

/-- The line of an index in play is one of the lines, and holds the index at its position. -/
theorem lineOf_spec (dim : Dim) (h : j < nElems c) : (lineOf c dim j).1 ∈ linesOf c dim ∧
    (lineOf c dim j).2 < (lineOf c dim j).1.len ∧ (lineOf c dim j).1.at (lineOf c dim j).2 = j := by
  have hcols : 0 < ncols c := Nat.pos_of_ne_zero fun h0 => by simp [nElems, h0] at h
  have hrow : j / ncols c < nrows c := Nat.div_lt_of_lt_mul (by rwa [Nat.mul_comm])
  have hcol : j % ncols c < ncols c := Nat.mod_lt _ hcols
  cases dim with
  | lin => exact ⟨List.mem_singleton_self _, h, by simp [lineOf, Line.at]⟩
  | row => exact ⟨List.mem_map_of_mem (List.mem_range.mpr hrow), hcol, by simp [lineOf, Line.at, Nat.div_add_mod']⟩
  | col => exact ⟨List.mem_map_of_mem (List.mem_range.mpr hcol), hrow, by simp [lineOf, Line.at, Nat.mod_add_div]⟩

/-- A position of a line is an index in play, on that line and no other. -/
theorem lineOf_at (hl : l ∈ linesOf c dim) {q : Nat} (hq : q < l.len) : l.at q < nElems c ∧ lineOf c dim (l.at q) = (l, q) := by
  cases dim with
  | lin =>
    obtain rfl := List.mem_singleton.mp hl
    exact ⟨by simpa [Line.at] using hq, by simp [lineOf, Line.at]⟩
  | row =>
    obtain ⟨r, hr, rfl⟩ := List.mem_map.mp hl
    have hr : r < nrows c := List.mem_range.mp hr
    replace hq : q < ncols c := hq
    have hd : (r * ncols c + q) / ncols c = r := by
      rw [Nat.mul_comm, Nat.mul_add_div (Nat.zero_lt_of_lt hq), Nat.div_eq_of_lt hq, Nat.add_zero]
    have hm : (r * ncols c + q) % ncols c = q := by rw [Nat.mul_comm, Nat.mul_add_mod, Nat.mod_eq_of_lt hq]
    refine ⟨?_, by simp [lineOf, Line.at, hd, hm]⟩
    calc r * ncols c + 1 * q < r * ncols c + ncols c := by omega
      _ = (r + 1) * ncols c := (Nat.add_one_mul _ _).symm
      _ ≤ nElems c := Nat.mul_le_mul_right _ hr
  | col =>
    obtain ⟨k, hk, rfl⟩ := List.mem_map.mp hl
    have hk : k < ncols c := List.mem_range.mp hk
    replace hq : q < nrows c := hq
    have hd : (k + ncols c * q) / ncols c = q := by
      rw [Nat.add_mul_div_left _ _ (Nat.zero_lt_of_lt hk), Nat.div_eq_of_lt hk, Nat.zero_add]
    have hm : (k + ncols c * q) % ncols c = k := by rw [Nat.add_mul_mod_self_left, Nat.mod_eq_of_lt hk]
    refine ⟨?_, by simp [lineOf, Line.at, hd, hm]⟩
    calc k + ncols c * q < ncols c + ncols c * q := by omega
      _ = (q + 1) * ncols c := by ring
      _ ≤ nElems c := Nat.mul_le_mul_right _ hq

/-- The indices of a line, in order; the active ones of them; and those of them that a mask governs. -/
def Line.idx (l : Line) : List Nat := (List.range l.len).map l.at
def Line.active (l : Line) (k : Nat) : List Nat := l.idx.filter fun i => decide (k ≤ i)
def Line.selected (l : Line) (t : Thread) (p k : Nat) : List Nat := (l.active k).filter fun i => maskBit t p i

theorem Line.mem_idx {i : Nat} : i ∈ l.idx ↔ ∃ q, q < l.len ∧ l.at q = i := by simp [Line.idx]

theorem Line.mem_active {k i : Nat} : i ∈ l.active k ↔ i ∈ l.idx ∧ k ≤ i := by simp [Line.active]

theorem Line.mem_selected {p k i : Nat} : i ∈ l.selected t p k ↔ i ∈ l.active k ∧ maskBit t p i = true := by simp [Line.selected]

/-- An index stands on a line when the line is its own. -/
theorem mem_idx_iff (hl : l ∈ linesOf c dim) : j ∈ l.idx ↔ j < nElems c ∧ (lineOf c dim j).1 = l := by
  rw [Line.mem_idx]
  constructor
  · rintro ⟨q, hq, rfl⟩
    obtain ⟨hn, hat⟩ := lineOf_at hl hq
    exact ⟨hn, by rw [hat]⟩
  · rintro ⟨hn, rfl⟩
    obtain ⟨-, hq, hat⟩ := lineOf_spec dim hn
    exact ⟨_, hq, hat⟩

/-- A line holds no index twice. -/
theorem nodup_idx (hl : l ∈ linesOf c dim) : l.idx.Nodup := by
  refine List.Nodup.map_on (fun q hq r hr h => ?_) List.nodup_range
  have hq := (lineOf_at hl (List.mem_range.mp hq)).2
  have hr := (lineOf_at hl (List.mem_range.mp hr)).2
  exact congrArg Prod.snd (hq.symm.trans (h ▸ hr))

/-! ## cmpr and expd (R156) -/

/-- Each item of a list without repeats is paired with the item at its place in another list. -/
theorem mem_zip_iff {xs ys : List Nat} (h : xs.Nodup) {x y : Nat} : (x, y) ∈ xs.zip ys ↔ x ∈ xs ∧ ys[xs.idxOf x]? = some y := by
  rw [List.mem_iff_getElem?]
  simp only [List.getElem?_zip_eq_some]
  constructor
  · rintro ⟨i, hx, hy⟩
    obtain ⟨hi, rfl⟩ := List.getElem?_eq_some_iff.mp hx
    exact ⟨List.getElem_mem hi, by rwa [h.idxOf_getElem i hi]⟩
  · rintro ⟨hx, hy⟩
    exact ⟨_, List.getElem?_idxOf hx, hy⟩

/-- Where an index of a line takes its value from: destinations and sources of the line are paired in order. -/
def packSource (dst src : Line → List Nat) (c : Cap) (dim : Dim) (j : Nat) : Option Nat :=
  let l := (lineOf c dim j).1
  if j ∈ dst l then (src l)[(dst l).idxOf j]? else none

/-- The moves of every line, destinations among its indices, are the graph of `packSource`. -/
theorem mem_moves_iff {dst src : Line → List Nat} (hd : ∀ l, (dst l).Sublist l.idx) {q : Nat} :
    (j, q) ∈ (linesOf c dim).flatMap (fun l => (dst l).zip (src l)) ↔ j < nElems c ∧ packSource dst src c dim j = some q := by
  rw [List.mem_flatMap, packSource, Option.ite_none_right_eq_some]
  constructor
  · rintro ⟨l, hl, hz⟩
    obtain ⟨hj, hq⟩ := (mem_zip_iff ((nodup_idx hl).sublist (hd l))).mp hz
    obtain ⟨hn, rfl⟩ := (mem_idx_iff hl).mp ((hd l).subset hj)
    exact ⟨hn, hj, hq⟩
  · rintro ⟨hn, hj, hq⟩
    have hl := (lineOf_spec dim hn).1
    exact ⟨_, hl, (mem_zip_iff ((nodup_idx hl).sublist (hd _))).mpr ⟨hj, hq⟩⟩

/-- Work that moves elements within lines, destinations and sources of each line paired in order. -/
theorem writesWhole_moves {a : Nat} {dst src : Line → List Nat}
    (h : laneWork t e = some (.whole (((linesOf c dim).flatMap fun l => (dst l).zip (src l)).foldl
      (fun u x => setElem u d w x.1 (elem t a w x.2)) t)))
    (hd : ∀ l, (dst l).Sublist l.idx) (hw : elemWidth w) (hm : nElems c * w ≤ 131072) :
    WritesWhole t e d w (nElems c) (fun j => (packSource dst src c dim j).map (elem t a w)) := by
  let l := ((linesOf c dim).flatMap fun l => (dst l).zip (src l)).map fun x => (x.1, elem t a w x.2)
  rw [← (fits_map_elem t a).map_mod]
  refine writesWhole_of_list (l := l) (h.trans (by rw [writeList, List.foldl_map])) hw hm fun j v => ?_
  simp only [l, List.mem_map, Prod.exists, Prod.mk.injEq, Option.map_eq_some_iff]
  constructor
  · rintro ⟨i, q, hx, rfl, rfl⟩
    obtain ⟨hn, hq⟩ := (mem_moves_iff hd).mp hx
    exact ⟨hn, q, hq, rfl⟩
  · rintro ⟨hn, q, hq, rfl⟩
    exact ⟨j, q, (mem_moves_iff hd).mpr ⟨hn, hq⟩, rfl, rfl⟩

/-- An index in play is an active one of its own line when it is not below the start. -/
theorem mem_active_iff {k : Nat} (dim : Dim) (hn : j < nElems c) : j ∈ (lineOf c dim j).1.active k ↔ k ≤ j := by
  have hl := (lineOf_spec dim hn).1
  rw [Line.mem_active, mem_idx_iff hl]
  simp [hn]

end Sys2Proof.Machine
end

section
/-! PROOFS. VRED (R103, R104, R157, R158). -/

namespace Sys2Proof.Machine

variable {t : Thread} {e : Entry} {c : Cap} {dim : Dim} {l : Line} {ty : ElemTy} {d w k : Nat}

/-! ## Floating sums (R103, R104) -/

/-- Position i of a sequence; beyond its end there is none. -/
def posOf (l : List (Option Nat)) (i : Nat) : Option Nat := l[i]?.join

@[simp] theorem addOpt_none (x : Option Nat) : addOpt x none = x := by cases x <;> rfl

theorem posOf_pairUp (l : List (Option Nat)) (i : Nat) : posOf (pairUp l) i = addOpt (posOf l (2 * i)) (posOf l (2 * i + 1)) := by
  induction l using pairUp.induct generalizing i with
  | case1 => rfl
  | case2 a => cases i <;> simp [pairUp, posOf, Nat.mul_add]
  | case3 a b r ih =>
    cases i with
    | zero => rfl
    | succ i => simpa [pairUp, posOf, Nat.mul_add, Nat.add_right_comm] using ih i

/-- A tree of m + n levels is one of m levels over trees of n levels. -/
theorem treeOf_add (f : Nat → Option Nat) (n m i : Nat) : treeOf f (m + n) (2 ^ n * i) = treeOf (fun b => treeOf f n (2 ^ n * b)) m i := by
  induction m generalizing i with
  | zero => rw [Nat.zero_add]; rfl
  | succ m ih =>
    rw [Nat.succ_add, treeOf, treeOf, ih, show 2 ^ n * i + 2 ^ (m + n) = 2 ^ n * (i + 2 ^ m) by ring, ih]

/-- A tree reads the positions below it alone. -/
theorem treeOf_congr {f g : Nat → Option Nat} {n i j : Nat} (h : ∀ x, x < 2 ^ n → f (i + x) = g (j + x)) :
    treeOf f n i = treeOf g n j := by
  induction n generalizing i j with
  | zero => exact h 0 (by decide)
  | succ n ih =>
    have hp : 2 ^ (n + 1) = 2 ^ n + 2 ^ n := by ring
    rw [treeOf, treeOf, ih fun x hx => h x (by omega), ih fun x hx => ?_]
    rw [Nat.add_assoc, Nat.add_assoc]
    exact h _ (by omega)

theorem treeOf_none (n i : Nat) : treeOf (fun _ => none) n i = none := by
  induction n generalizing i with
  | zero => rfl
  | succ n ih => rw [treeOf, ih, ih]; rfl

/-- The levels of the model, pairs from below, form the tree of R103. -/
theorem posOf_treeLevels (n : Nat) (l : List (Option Nat)) (i : Nat) : posOf (treeLevels n l) i = treeOf (posOf l) n (2 ^ n * i) := by
  induction n generalizing l with
  | zero => simp [treeLevels, treeOf]
  | succ n ih =>
    have hpair : posOf (pairUp l) = fun b => treeOf (posOf l) 1 (2 ^ 1 * b) := funext (posOf_pairUp l)
    rw [treeLevels, ih, hpair, ← treeOf_add]
    congr 1
    ring

theorem treeSum_eq (n : Nat) (l : List (Option Nat)) : treeSum n l = treeOf (posOf l) n 0 := by
  have hhead (x : List (Option Nat)) : x.headD none = posOf x 0 := by cases x <;> rfl
  rw [treeSum, hhead, posOf_treeLevels, Nat.mul_zero]

/-- A sequence is cut into its blocks, the last of them short. -/
theorem blocksOf_eq {k : Nat} (hk : 0 < k) (f : Nat) (l : List (Option Nat)) (hf : l.length ≤ f) :
    blocksOf k f l = (List.range ((l.length + (k - 1)) / k)).map fun b => (l.drop (k * b)).take k := by
  induction f generalizing l with
  | zero =>
    obtain rfl := List.length_eq_zero_iff.mp (Nat.le_zero.mp hf)
    simp [blocksOf, Nat.div_eq_of_lt (show k - 1 < k by omega)]
  | succ f ih =>
    by_cases hl : l = []
    · subst hl
      simp [blocksOf, Nat.div_eq_of_lt (show k - 1 < k by omega)]
    · have hpos := List.length_pos_iff.mpr hl
      have hcount : (l.length + (k - 1)) / k = ((l.drop k).length + (k - 1)) / k + 1 := by
        rw [List.length_drop, ← Nat.add_div_right _ hk]
        by_cases hle : k ≤ l.length
        · congr 1
          omega
        · have hone : (l.length + (k - 1)) / k = 1 := Nat.div_eq_of_lt_le (by omega) (by omega)
          have hone' : (l.length - k + (k - 1) + k) / k = 1 := Nat.div_eq_of_lt_le (by omega) (by omega)
          rw [hone, hone']
      rw [blocksOf, if_neg hl, ih _ (by rw [List.length_drop]; omega), hcount, List.range_succ_eq_map, List.map_cons, List.map_map]
      refine congrArg₂ _ (by simp) (List.map_congr_left fun b _ => ?_)
      simp [Nat.mul_succ, Nat.add_comm]

/-- A block of 2^n positions sums to the tree over them. -/
theorem treeSum_block (n b : Nat) (l : List (Option Nat)) :
    treeSum n ((l.drop (2 ^ n * b)).take (2 ^ n)) = treeOf (posOf l) n (2 ^ n * b) := by
  rw [treeSum_eq]
  refine treeOf_congr fun x hx => ?_
  rw [posOf, posOf, Nat.zero_add, List.getElem?_take_of_lt hx, List.getElem?_drop]

/-- The sum of this part (R104): blocks of 32 positions, each a tree, added to the carry-in in order. -/
theorem sumSeq_lam (carry : Nat) (l : List (Option Nat)) : sumSeq true carry l =
    (List.range ((l.length + 31) / 32)).foldl (fun s b => match treeOf (posOf l) 5 (32 * b) with | some v => f32Add s v | none => s) carry := by
  rw [sumSeq, if_pos rfl, blocksOf_eq (by decide) _ _ le_rfl, List.foldl_map]
  congr 1
  funext s b
  rw [show treeSum 5 ((l.drop (32 * b)).take 32) = treeOf (posOf l) 5 (2 ^ 5 * b) from treeSum_block 5 b l]
  show _ = match treeOf (posOf l) 5 (2 ^ 5 * b) with | some v => f32Add s v | none => s
  cases treeOf (posOf l) 5 (2 ^ 5 * b) <;> rfl

/-- The canonical sum (R103): one tree over all positions, then the carry-in. -/
theorem sumSeq_canonical (carry : Nat) (l : List (Option Nat)) : sumSeq false carry l =
    match treeOf (posOf l) 22 0 with | some v => f32Add v carry | none => carry := by
  have hblock : posOf ((blocksOf 64 l.length l).map (treeSum 6)) = fun b => treeOf (posOf l) 6 (2 ^ 6 * b) := by
    funext b
    rw [blocksOf_eq (by decide) _ _ le_rfl, List.map_map, posOf, List.getElem?_map]
    by_cases hb : b < (l.length + 63) / 64
    · rw [List.getElem?_range hb]
      exact treeSum_block 6 b l
    · rw [List.getElem?_eq_none (by simpa using hb)]
      refine ((treeOf_congr fun x hx => ?_).trans (treeOf_none 6 0)).symm
      have hb : (l.length + 63) / 64 ≤ b := not_lt.mp hb
      rw [posOf, List.getElem?_eq_none (by omega)]
      rfl
  have htree : treeOf (posOf l) 22 0 = treeOf (fun b => treeOf (posOf l) 6 (2 ^ 6 * b)) 16 0 := treeOf_add (posOf l) 6 16 0
  rw [sumSeq, if_neg Bool.false_ne_true]
  dsimp only
  rw [treeSum_eq, hblock, ← htree]
  cases treeOf (posOf l) 22 0 <;> rfl

/-! ## What a line reduces (R157) -/

/-- The positions of a line: those active and governed hold their element. -/
def redInputs (t : Thread) (a p k w : Nat) (l : Line) : List (Option Nat) :=
  (List.range l.len).map fun q => if k ≤ l.at q ∧ maskBit t p (l.at q) = true then some (elem t a w (l.at q)) else none

/-- The inputs without the absent positions are the elements of the selected indices. -/
theorem redInputs_values (t : Thread) (a p k w : Nat) (l : Line) :
    (redInputs t a p k w l).filterMap id = (l.selected t p k).map (elem t a w) := by
  rw [redInputs, Line.selected, Line.active, Line.idx, List.filter_filter, List.filterMap_map, List.filter_map, List.map_map]
  induction List.range l.len with
  | nil => rfl
  | cons q qs ih =>
    by_cases h : k ≤ l.at q ∧ maskBit t p (l.at q) = true
    · simpa [List.filterMap_cons, List.filter_cons, h] using ih
    · have h' : ¬ (maskBit t p (l.at q) = true ∧ k ≤ l.at q) := fun x => h x.symm
      simpa [List.filterMap_cons, List.filter_cons, h, h'] using ih

/-- Position q of the widened inputs. -/
theorem posOf_redInputs (t : Thread) (a p k w : Nat) (l : Line) (f : Nat → Nat) (q : Nat) :
    posOf ((redInputs t a p k w l).map fun x => x.map f) q =
      if q < l.len ∧ l.at q ∈ l.selected t p k then some (f (elem t a w (l.at q))) else none := by
  rw [posOf, redInputs, List.map_map, List.getElem?_map]
  by_cases hq : q < l.len
  · have hs : l.at q ∈ l.selected t p k ↔ k ≤ l.at q ∧ maskBit t p (l.at q) = true := by
      rw [Line.mem_selected, Line.mem_active, Line.mem_idx]
      exact and_congr_left fun _ => and_iff_right ⟨q, hq, rfl⟩
    rw [List.getElem?_range hq, if_congr (and_iff_right hq) rfl rfl, if_congr hs rfl rfl, Option.map_some, Option.join_some, Function.comp_apply]
    split <;> rfl
  · simp [hq]

@[simp] theorem redInputs_length (t : Thread) (a p k w : Nat) (l : Line) : (redInputs t a p k w l).length = l.len := by simp [redInputs]

/-- The value of the first position of a line. -/
def reduced (t : Thread) (e : Entry) (op : Nat) (d a p : Nat) (dim : Dim) (ty : ElemTy) (j : Nat) : Nat :=
  redLine op ty (e.cap.vmode.getLsbD 3) (modeOf e.cap j) (elem t d ty.bits j) (redInputs t a p e.k ty.bits (lineOf e.cap dim j).1)

/-- VRED writes the first position of each line, when there are elements in play. -/
theorem writesWhole_redWork {op : Nat} {i : Instr} {dr a : Reg} {p : PReg}
    (h : laneWork t { e with instr := i } = redWork t { e with instr := i } op dr a p dim ty) (hm : nElems e.cap * ty.bits ≤ 131072) :
    WritesWhole t { e with instr := i } dr.toNat ty.bits (nElems e.cap) (fun j =>
      if (lineOf e.cap dim j).2 = 0 then some (reduced t e op dr.toNat a.toNat p.toNat dim ty j % 2 ^ ty.bits) else none) := by
  let value (l : Line) : Nat := redLine op ty (e.cap.vmode.getLsbD 3) (modeOf e.cap l.base) (elem t dr.toNat ty.bits l.base)
    (redInputs t a.toNat p.toNat e.k ty.bits l)
  let f (j : Nat) : Option Nat := if (lineOf e.cap dim j).2 = 0 then some (reduced t e op dr.toNat a.toNat p.toNat dim ty j) else none
  have hat (l : Line) : l.at 0 = l.base := by simp [Line.at]
  have hwork : laneWork t { e with instr := i } = some (.whole (writeList t dr.toNat ty.bits
      (if nElems e.cap = 0 then [] else (linesOf e.cap dim).map fun l => (l.base, value l)))) := by
    rw [h, redWork]
    refine congrArg (fun u => some (Work.whole u)) ?_
    dsimp only
    split
    · rfl
    · rw [writeList, List.foldl_map]
      rfl
  refine (writesWhole_of_list (f := f) hwork (elemWidth_bits ty) hm fun j v => ?_).congr fun j _ => ?_
  · have hf : f j = some v ↔ (lineOf e.cap dim j).2 = 0 ∧ reduced t e op dr.toNat a.toNat p.toNat dim ty j = v := by
      simp only [f, Option.ite_none_right_eq_some, Option.some.injEq]
    rw [hf]
    by_cases h0 : nElems e.cap = 0
    · simp [h0]
    · rw [if_neg h0, List.mem_map]
      constructor
      · rintro ⟨l, hl, ⟨⟩⟩
        have hlen : 0 < l.len := by
          have hr : nrows e.cap ≠ 0 := fun hz => h0 (by simp [nElems, hz])
          have hc : ncols e.cap ≠ 0 := fun hz => h0 (by simp [nElems, hz])
          cases dim with
          | lin => rw [List.mem_singleton.mp hl]; exact Nat.pos_of_ne_zero h0
          | row => obtain ⟨r, -, rfl⟩ := List.mem_map.mp hl; exact Nat.pos_of_ne_zero hc
          | col => obtain ⟨r, -, rfl⟩ := List.mem_map.mp hl; exact Nat.pos_of_ne_zero hr
        obtain ⟨hn, hline⟩ := lineOf_at hl hlen
        rw [hat] at hn hline
        exact ⟨hn, by rw [hline], by rw [reduced, hline]⟩
      · rintro ⟨hn, hp, rfl⟩
        obtain ⟨hl, -, hj⟩ := lineOf_spec dim hn
        rw [hp, hat] at hj
        refine ⟨_, hl, Prod.ext hj ?_⟩
        show value _ = _
        simp only [value, hj, reduced]
  · simp only [f]
    split <;> rfl

/-! ## Integer reductions (R158) -/

/-- A sum that wraps at every step wraps at its end. -/
theorem foldl_add_mod (m : Nat) (l : List Nat) (x : Nat) (hx : x < 2 ^ m) :
    l.foldl (fun s v => (s + v) % 2 ^ m) x = (x + l.sum) % 2 ^ m := by
  induction l generalizing x with
  | nil => simpa using (Nat.mod_eq_of_lt hx).symm
  | cons y l ih => rw [List.foldl_cons, ih _ (Nat.mod_lt _ (by positivity)), Nat.mod_add_mod, List.sum_cons, Nat.add_assoc]

/-- An operation on patterns that follows one on values does so along a list. -/
theorem foldl_patterns {f : Nat → Nat → Nat} {g : Int → Int → Int}
    (hf : ∀ x y, x < 2 ^ ty.bits → y < 2 ^ ty.bits → f x y < 2 ^ ty.bits ∧ intOf ty (f x y) = g (intOf ty x) (intOf ty y))
    (l : List Nat) (hl : ∀ x ∈ l, x < 2 ^ ty.bits) (x : Nat) (hx : x < 2 ^ ty.bits) :
    l.foldl f x = patternOf ty.bits ((l.map (intOf ty)).foldl g (intOf ty x)) := by
  induction l generalizing x with
  | nil => exact (patternOf_intOf hx).symm
  | cons y l ih =>
    obtain ⟨hlt, hval⟩ := hf x y hx (hl y List.mem_cons_self)
    rw [List.foldl_cons, ih (fun z hz => hl z (List.mem_cons_of_mem _ hz)) _ hlt, hval]
    rfl

/-- Such an operation over the inputs of a line, from the carry-in on. -/
theorem redInputs_foldl {f : Nat → Nat → Nat} {g : Int → Int → Int}
    (hf : ∀ x y, x < 2 ^ ty.bits → y < 2 ^ ty.bits → f x y < 2 ^ ty.bits ∧ intOf ty (f x y) = g (intOf ty x) (intOf ty y))
    (t : Thread) (d a p k j : Nat) (l : Line) :
    ((redInputs t a p k ty.bits l).filterMap id).foldl f (elem t d ty.bits j) = patternOf ty.bits
      ((((l.selected t p k).map (elem t a ty.bits)).map (intOf ty)).foldl g (intOf ty (elem t d ty.bits j))) := by
  rw [redInputs_values]
  refine foldl_patterns hf _ (fun x hx => ?_) _ (elem_lt ..)
  obtain ⟨i, -, rfl⟩ := List.mem_map.mp hx
  exact elem_lt ..

section

variable (h : ty.isInt = true) (t : Thread) (e : Entry) (d a p : Nat) (dim : Dim) (j : Nat)
include h

theorem reduced_sum_int : reduced t e 0 d a p dim ty j = (elem t d ty.bits j +
    (((lineOf e.cap dim j).1.selected t p e.k).map (elem t a ty.bits)).sum) % 2 ^ ty.bits := by
  rw [← redInputs_values]
  exact (if_neg (not_isFloat3_of_isInt h)).trans (foldl_add_mod _ _ _ (elem_lt ..))

theorem reduced_max_int : reduced t e 1 d a p dim ty j = patternOf ty.bits
    (((((lineOf e.cap dim j).1.selected t p e.k).map (elem t a ty.bits)).map (intOf ty)).foldl (fun x y => max x y)
      (intOf ty (elem t d ty.bits j))) :=
  (if_neg (not_isFloat3_of_isInt h)).trans (redInputs_foldl (intOf_vMax h) ..)

theorem reduced_min_int : reduced t e 2 d a p dim ty j = patternOf ty.bits
    (((((lineOf e.cap dim j).1.selected t p e.k).map (elem t a ty.bits)).map (intOf ty)).foldl (fun x y => min x y)
      (intOf ty (elem t d ty.bits j))) :=
  (if_neg (not_isFloat3_of_isInt h)).trans (redInputs_foldl (intOf_vMin h) ..)

theorem reduced_amax_int : reduced t e 3 d a p dim ty j = patternOf ty.bits
    (((elem t d ty.bits j :: ((lineOf e.cap dim j).1.selected t p e.k).map (elem t a ty.bits)).map fun x =>
      min ((intOf ty x).natAbs : Int) (2 ^ (ty.bits - 1) - 1)).foldl (fun x y => max x y) 0) := by
  refine (if_neg (not_isFloat3_of_isInt h)).trans ?_
  simp only [redInputs_values, List.map_cons, List.foldl_cons, List.foldl_map]
  rfl

end

/-! ## Floating reductions (R103, R104, R158) -/

section

variable (h : ty.isFloat3 = true) (t : Thread) (e : Entry) (d a p : Nat) (dim : Dim) (j : Nat)
include h

/-- The sum of a line is rounded once, whichever order it takes. -/
theorem reduced_sum_float : reduced t e 0 d a p dim ty j = roundTo ty (modeOf e.cap j) (fvalOf .f32
    (let l := (lineOf e.cap dim j).1
     let f (q : Nat) : Option Nat := if q < l.len ∧ l.at q ∈ l.selected t p e.k then some (widen ty (elem t a ty.bits (l.at q))) else none
     let carry := widen ty (elem t d ty.bits j)
     if e.cap.vmode.getLsbD 3 then (List.range ((l.len + 31) / 32)).foldl
       (fun s b => match treeOf f 5 (32 * b) with | some v => f32Add s v | none => s) carry
     else match treeOf f 22 0 with | some v => f32Add v carry | none => carry)) := by
  refine (if_pos h).trans (congrArg (fun x => roundTo ty (modeOf e.cap j) (fvalOf .f32 x)) ?_)
  have hf := funext (posOf_redInputs t a p e.k ty.bits (lineOf e.cap dim j).1 (widen ty))
  dsimp only
  rw [← hf]
  split
  · next hb => rw [hb, sumSeq_lam, List.length_map, redInputs_length]
  · next hb => rw [Bool.eq_false_of_not_eq_true hb, sumSeq_canonical]

theorem reduced_max_float : reduced t e 1 d a p dim ty j = roundTo ty .rne
    ((((lineOf e.cap dim j).1.selected t p e.k).map (elem t a ty.bits)).foldl (fun x y => fmax x (fvalOf ty y))
      (fvalOf ty (elem t d ty.bits j))) := by
  rw [← redInputs_values]
  exact if_pos h

theorem reduced_min_float : reduced t e 2 d a p dim ty j = roundTo ty .rne
    ((((lineOf e.cap dim j).1.selected t p e.k).map (elem t a ty.bits)).foldl (fun x y => fmin x (fvalOf ty y))
      (fvalOf ty (elem t d ty.bits j))) := by
  rw [← redInputs_values]
  exact if_pos h

theorem reduced_amax_float : reduced t e 3 d a p dim ty j = roundTo ty .rne
    ((((lineOf e.cap dim j).1.selected t p e.k).map (elem t a ty.bits)).foldl (fun x y => fmax x (fabs (fvalOf ty y)))
      (fabs (fvalOf ty (elem t d ty.bits j)))) := by
  rw [← redInputs_values]
  exact if_pos h

end

end Sys2Proof.Machine
end

section
/-! PROOFS. VSX: what the walk over two sorted streams gives (R164, R165). -/

namespace Sys2Proof.Machine

variable {t : Thread} {e : Entry} {ty : ElemTy} {o : Keep} {f w : Nat} {la lb : List Nat}

/-! ## The walk (R164) -/

/-- What the walk gives, by induction on its steps: one stream is at its end, or the lower of two heads is passed, or both are when
they match. -/
theorem walkLists_induction {P : List Nat → List Nat → List Nat → Nat → Prop}
    (left : ∀ la, P la [] (if o.left then la else []) 0) (right : ∀ lb, P [] lb (if o.right then lb else []) 0)
    (lower : ∀ x la y lb l n, intOf ty x < intOf ty y → P la (y :: lb) l n → P (x :: la) (y :: lb) (if o.left then x :: l else l) n)
    (higher : ∀ x la y lb l n, intOf ty y < intOf ty x → P (x :: la) lb l n → P (x :: la) (y :: lb) (if o.right then y :: l else l) n)
    (same : ∀ x la y lb l n, intOf ty x = intOf ty y → P la lb l n →
      P (x :: la) (y :: lb) (if o.one then x :: l else if o.both then x :: y :: l else l) (n + 1))
    (f : Nat) (la lb : List Nat) (hf : la.length + lb.length < f) : P la lb (walkLists ty o f la lb).1 (walkLists ty o f la lb).2 := by
  induction f generalizing la lb with
  | zero => omega
  | succ f ih =>
    rcases la with _ | ⟨x, la⟩
    · exact right lb
    rcases lb with _ | ⟨y, lb⟩
    · exact left (x :: la)
    simp only [List.length_cons] at hf
    unfold walkLists
    dsimp only
    split
    · next h => exact lower x la y lb _ _ h (ih la (y :: lb) (by simp only [List.length_cons]; omega))
    · next h =>
      split
      · next h' => exact higher x la y lb _ _ h' (ih (x :: la) lb (by simp only [List.length_cons]; omega))
      · next h' => exact same x la y lb _ _ (le_antisymm (not_lt.mp h') (not_lt.mp h)) (ih la lb (by omega))

/-- A strictly ascending stream of elements. -/
structure Ascending (ty : ElemTy) (l : List Nat) : Prop where
  sorted : l.Pairwise fun x y => intOf ty x < intOf ty y
  inside : ∀ x ∈ l, x < 2 ^ ty.bits

theorem Ascending.tail {x : Nat} (h : Ascending ty (x :: la)) : Ascending ty la :=
  ⟨h.sorted.of_cons, fun y hy => h.inside y (List.mem_cons_of_mem _ hy)⟩

theorem Ascending.head_lt {x z : Nat} (h : Ascending ty (x :: la)) (hz : z ∈ la) : intOf ty x < intOf ty z :=
  List.rel_of_pairwise_cons h.sorted hz

/-- What is below the head is below the whole stream. -/
theorem Ascending.below {x y z : Nat} (h : Ascending ty (y :: lb)) (hx : intOf ty x < intOf ty y) (hz : z ∈ y :: lb) :
    intOf ty x < intOf ty z := by
  rcases List.mem_cons.mp hz with rfl | hz
  · exact hx
  · exact hx.trans (h.head_lt hz)

/-- Heads that match are equal. -/
theorem Ascending.head_eq {x y : Nat} (ha : Ascending ty (x :: la)) (hb : Ascending ty (y :: lb)) (h : intOf ty x = intOf ty y) : x = y := by
  rw [← patternOf_intOf (ha.inside x List.mem_cons_self), h, patternOf_intOf (hb.inside y List.mem_cons_self)]

/-- Of a list, what another list holds, or what it does not hold, or both. -/
def sift (held other : Bool) (la lb : List Nat) : List Nat := la.filter fun x => if x ∈ lb then held else other

theorem sift_nil_right (held other : Bool) (la : List Nat) : sift held other la [] = if other then la else [] := by
  cases other <;> simp [sift]

theorem sift_cons_mem {x : Nat} (h : x ∈ lb) (held other : Bool) (la : List Nat) :
    sift held other (x :: la) lb = if held then x :: sift held other la lb else sift held other la lb := by
  rw [sift, List.filter_cons, if_pos h]
  rfl

theorem sift_cons_not_mem {x : Nat} (h : x ∉ lb) (held other : Bool) (la : List Nat) :
    sift held other (x :: la) lb = if other then x :: sift held other la lb else sift held other la lb := by
  rw [sift, List.filter_cons, if_neg h]
  rfl

/-- A head below the whole of a list holds nothing of it. -/
theorem sift_cons_right {y : Nat} (h : ∀ z ∈ la, intOf ty y < intOf ty z) (held other : Bool) (lb : List Nat) :
    sift held other la (y :: lb) = sift held other la lb := by
  refine List.filter_congr fun z hz => ?_
  have hne : z ≠ y := by
    rintro rfl
    exact lt_irrefl _ (h z hz)
  simp [hne]

theorem sift_held (la lb : List Nat) : sift true false la lb = la.filter fun x => x ∈ lb := by simp [sift]
theorem sift_other (la lb : List Nat) : sift false true la lb = la.filter fun x => ¬ x ∈ lb := by simp [sift]

/-- A walk that appends nothing of the right stream alone sifts the left one, and counts what both hold. -/
theorem walkLists_sift (hr : o.right = false) (hb : o.both = false) (f : Nat) (la lb : List Nat) (hf : la.length + lb.length < f) :
    Ascending ty la → Ascending ty lb →
      (walkLists ty o f la lb).1 = sift o.one o.left la lb ∧ (walkLists ty o f la lb).2 = (sift true false la lb).length := by
  refine walkLists_induction (P := fun la lb l n => Ascending ty la → Ascending ty lb →
    l = sift o.one o.left la lb ∧ n = (sift true false la lb).length) ?left ?right ?lower ?higher ?same f la lb hf
  case left => intro la _ _; simp [sift_nil_right]
  case right => intro lb _ _; simp [sift, hr]
  case lower =>
    intro x la y lb l n hxy ih ha hb
    obtain ⟨rfl, rfl⟩ := ih ha.tail hb
    have hn : x ∉ y :: lb := fun hm => lt_irrefl _ (hb.below hxy hm)
    rw [sift_cons_not_mem hn, sift_cons_not_mem hn]
    exact ⟨rfl, rfl⟩
  case higher =>
    intro x la y lb l n hyx ih ha hb
    obtain ⟨rfl, rfl⟩ := ih ha hb.tail
    have hlt : ∀ z ∈ x :: la, intOf ty y < intOf ty z := fun z hz => ha.below hyx hz
    rw [sift_cons_right hlt, sift_cons_right hlt, hr]
    exact ⟨rfl, rfl⟩
  case same =>
    intro x la y lb l n hxy ih ha hb'
    obtain ⟨rfl, rfl⟩ := ih ha.tail hb'.tail
    obtain rfl := ha.head_eq hb' hxy
    have hlt : ∀ z ∈ la, intOf ty x < intOf ty z := fun z hz => ha.head_lt hz
    rw [sift_cons_mem List.mem_cons_self, sift_cons_mem List.mem_cons_self, sift_cons_right hlt, sift_cons_right hlt, hb]
    exact ⟨rfl, rfl⟩

/-- What the walk appends comes from the streams, in their order: `R` holds of values in rising order, and of a match that is kept twice. -/
theorem walkLists_ordered {R : Nat → Nat → Prop} (hR : ∀ x y, intOf ty x < intOf ty y → R x y)
    (hboth : o.both = true → ∀ x y, intOf ty x = intOf ty y → R x y) (f : Nat) (la lb : List Nat) (hf : la.length + lb.length < f) :
    Ascending ty la → Ascending ty lb →
      (∀ x ∈ (walkLists ty o f la lb).1, x ∈ la ∨ x ∈ lb) ∧ (walkLists ty o f la lb).1.Pairwise R := by
  refine walkLists_induction (P := fun la lb l _ => Ascending ty la → Ascending ty lb → (∀ x ∈ l, x ∈ la ∨ x ∈ lb) ∧ l.Pairwise R)
    ?left ?right ?lower ?higher ?same f la lb hf
  case left =>
    intro la ha _
    split
    · exact ⟨fun x => .inl, ha.sorted.imp (hR _ _)⟩
    · exact ⟨by simp, .nil⟩
  case right =>
    intro lb _ hb
    split
    · exact ⟨fun x => .inr, hb.sorted.imp (hR _ _)⟩
    · exact ⟨by simp, .nil⟩
  case lower =>
    intro x la y lb l n hxy ih ha hb
    obtain ⟨hin, hp⟩ := ih ha.tail hb
    have hin' : ∀ z ∈ l, z ∈ x :: la ∨ z ∈ y :: lb := fun z hz => (hin z hz).imp_left (List.mem_cons_of_mem _)
    split
    · refine ⟨List.forall_mem_cons.mpr ⟨.inl List.mem_cons_self, hin'⟩, hp.cons fun z hz => hR _ _ ?_⟩
      exact (hin z hz).elim ha.head_lt (hb.below hxy)
    · exact ⟨hin', hp⟩
  case higher =>
    intro x la y lb l n hyx ih ha hb
    obtain ⟨hin, hp⟩ := ih ha hb.tail
    have hin' : ∀ z ∈ l, z ∈ x :: la ∨ z ∈ y :: lb := fun z hz => (hin z hz).imp_right (List.mem_cons_of_mem _)
    split
    · refine ⟨List.forall_mem_cons.mpr ⟨.inr List.mem_cons_self, hin'⟩, hp.cons fun z hz => hR _ _ ?_⟩
      exact (hin z hz).elim (ha.below hyx) hb.head_lt
    · exact ⟨hin', hp⟩
  case same =>
    intro x la y lb l n hxy ih ha hb
    obtain ⟨hin, hp⟩ := ih ha.tail hb.tail
    have hin' : ∀ z ∈ l, z ∈ x :: la ∨ z ∈ y :: lb := fun z hz => (hin z hz).imp (List.mem_cons_of_mem _) (List.mem_cons_of_mem _)
    have hlt (z : Nat) (hz : z ∈ l) : intOf ty x < intOf ty z := (hin z hz).elim ha.head_lt fun h => hxy ▸ hb.head_lt h
    have hx : ∀ z ∈ l, R x z := fun z hz => hR _ _ (hlt z hz)
    have hy : ∀ z ∈ l, R y z := fun z hz => hR _ _ (hxy ▸ hlt z hz)
    split
    · exact ⟨List.forall_mem_cons.mpr ⟨.inl List.mem_cons_self, hin'⟩, hp.cons hx⟩
    · split
      · next h2 =>
        refine ⟨List.forall_mem_cons.mpr ⟨.inl List.mem_cons_self, List.forall_mem_cons.mpr ⟨.inr List.mem_cons_self, hin'⟩⟩, ?_⟩
        exact (hp.cons hy).cons (List.forall_mem_cons.mpr ⟨hboth h2 x y hxy, hx⟩)
      · exact ⟨hin', hp⟩

/-- A walk that keeps everything, a match once, holds what either stream holds. -/
theorem walkLists_union (f : Nat) (la lb : List Nat) (hf : la.length + lb.length < f) : Ascending ty la → Ascending ty lb →
    ∀ x, x ∈ la ∨ x ∈ lb → x ∈ (walkLists ty ⟨true, true, true, false⟩ f la lb).1 := by
  refine walkLists_induction (P := fun la lb l _ => Ascending ty la → Ascending ty lb → ∀ x, x ∈ la ∨ x ∈ lb → x ∈ l)
    ?left ?right ?lower ?higher ?same f la lb hf
  case left => intro la _ _ x hx; simpa using hx
  case right => intro lb _ _ x hx; simpa using hx
  case lower =>
    intro x la y lb l n _ ih ha hb z hz
    have := ih ha.tail hb z
    simp only [List.mem_cons, if_true] at hz this ⊢
    tauto
  case higher =>
    intro x la y lb l n _ ih ha hb z hz
    have := ih ha hb.tail z
    simp only [List.mem_cons, if_true] at hz this ⊢
    tauto
  case same =>
    intro x la y lb l n hxy ih ha hb z hz
    obtain rfl := ha.head_eq hb hxy
    have := ih ha.tail hb.tail z
    simp only [List.mem_cons, if_true] at hz this ⊢
    tauto

/-- A walk that keeps everything, a match twice, holds the streams together. -/
theorem walkLists_merge (f : Nat) (la lb : List Nat) (hf : la.length + lb.length < f) :
    (walkLists ty ⟨true, true, false, true⟩ f la lb).1.Perm (la ++ lb) := by
  refine walkLists_induction (P := fun la lb l _ => l.Perm (la ++ lb)) ?left ?right ?lower ?higher ?same f la lb hf
  case left => intro la; simp
  case right => intro lb; simp
  case lower => intro x la y lb l n _ ih; exact ih.cons x
  case higher => intro x la y lb l n _ ih; exact (ih.cons y).trans List.perm_middle.symm
  case same => intro x la y lb l n _ ih; exact ((ih.cons y).trans List.perm_middle.symm).cons x

/-! ## What VSX writes (R165) -/

theorem topOf_lt (ty : ElemTy) : topOf ty < 2 ^ ty.bits := by
  have hle : 2 ^ (ty.bits - 1) ≤ 2 ^ ty.bits := Nat.pow_le_pow_right (by decide) (Nat.sub_le _ _)
  have hpos : 0 < 2 ^ (ty.bits - 1) := by positivity
  unfold topOf
  split <;> omega

theorem streamOf_lt {v : Reg} {p : PReg} {x : Nat} (h : x ∈ streamOf t e v p ty) : x < 2 ^ ty.bits := by
  obtain ⟨i, -, rfl⟩ := List.mem_map.mp (List.mem_filter.mp h).1
  exact elem_lt ..

/-- The active elements in play receive the list, and the end marker after it. -/
theorem laneWork_vsxWrite {d : Reg} {out : List Nat} (h : laneWork t e = some (.whole (vsxWrite t e d ty out)))
    (hout : ∀ x ∈ out, x < 2 ^ ty.bits) (hm : nElems e.cap * ty.bits ≤ 131072) :
    ∃ u, laneWork t e = some (.whole u) ∧ u = { t with v := u.v, vext := u.vext } ∧ ∀ j, j * ty.bits < 131072 →
      elem u d.toNat ty.bits j =
        if e.k ≤ j ∧ j < nElems e.cap then out.getD (j - e.k) (topOf ty) else elem t d.toNat ty.bits j := by
  have hfits : Fits ty.bits (fun j => some (out.getD (j - e.k) (topOf ty))) := by
    refine fits_some fun j => ?_
    rw [List.getD_eq_getElem?_getD]
    cases hx : out[j - e.k]? with
    | none => exact topOf_lt ty
    | some x => exact hout x (List.mem_of_getElem? hx)
  have hlist : vsxWrite t e d ty out = writeList t d.toNat ty.bits
      ((span e.k (nElems e.cap)).map fun i => (i, out.getD (i - e.k) (topOf ty))) := by
    rw [writeList, List.foldl_map]
    rfl
  have hw := writesWhole_of_list (f := fun j => if e.k ≤ j then some (out.getD (j - e.k) (topOf ty)) else none) (hlist ▸ h)
    (elemWidth_bits ty) hm fun j v => by
      simp only [List.mem_map, mem_span, Prod.mk.injEq, Option.ite_none_right_eq_some, Option.some.injEq]
      constructor
      · rintro ⟨i, ⟨hk, hi⟩, rfl, rfl⟩
        exact ⟨hi, hk, rfl⟩
      · rintro ⟨hj, hk, rfl⟩
        exact ⟨j, ⟨hk, hj⟩, rfl, rfl⟩
  rw [(hfits.guard (e.k ≤ ·)).map_mod] at hw
  obtain ⟨u, hu, hv, he⟩ := hw
  refine ⟨u, hu, hv, fun j hj => (he j hj).trans ?_⟩
  by_cases hk : e.k ≤ j <;> simp [hk]

end Sys2Proof.Machine
end

section
/-! PROOFS. The instructions whose step is the whole of them, and VCMP (R103, R104, R138, R147, R148, R154 to R158, R164, R165). -/

namespace Sys2Proof.Machine

variable {t : Thread} {e : Entry} {d a b : Reg} {p : PReg} {ty : ElemTy} {dim : Dim}

/-! ## The work of each family, as the laws of its writes read it -/

/-- The line of an index and its place there, by the direction (R154). -/
theorem lineOf_eq (c : Cap) (dim : Dim) (j : Nat) : lineOf c dim j =
    (⟨match dim with | .lin => 0 | .row => j / ncols c * ncols c | .col => j % ncols c,
      match dim with | .lin | .row => 1 | .col => ncols c,
      match dim with | .lin => nElems c | .row => ncols c | .col => nrows c⟩,
     match dim with | .lin => j | .row => j % ncols c | .col => j / ncols c) := by cases dim <;> rfl

theorem laneWork_vmskFrst : laneWork t { e with instr := .vmskFrst d a p } = some (.whole (if nElems e.cap = 0 then t else
    writeE t e.cap d ((firstBoth t a.toNat p.toNat (nElems e.cap)).getD (2 ^ 64 - 1)))) := by
  have hv : (match firstBoth t a.toNat p.toNat (nElems e.cap) with | some i => i | none => 2 ^ 64 - 1) =
      (firstBoth t a.toNat p.toNat (nElems e.cap)).getD (2 ^ 64 - 1) := by cases firstBoth t a.toNat p.toNat (nElems e.cap) <;> rfl
  rw [← hv]
  rfl

theorem laneWork_vmskPopc : laneWork t { e with instr := .vmskPopc d a p } = some (.whole (if nElems e.cap = 0 then t else
    writeE t e.cap d ((List.range (nElems e.cap)).countP (fun i => maskBit t a.toNat i && maskBit t p.toNat i)))) := by
  rw [← countBoth_eq]
  rfl

/-- An active index takes the selected one at its place among the active, an active, governed one the active one at its place among the
selected (R156). -/
theorem writesWhole_vprmCmpr (pw : PWidth) (hm : nElems e.cap * vfmtW e.cap.vfmt ≤ 131072) :
    let l (j : Nat) := (lineOf e.cap dim j).1
    WritesWhole t { e with instr := .vprmCmpr d a p dim pw } d.toNat (vfmtW e.cap.vfmt) (nElems e.cap) (fun j =>
      if e.k ≤ j then (((l j).selected t p.toNat e.k)[((l j).active e.k).idxOf j]?).map (elem t a.toNat (vfmtW e.cap.vfmt)) else none) := by
  refine (writesWhole_moves (dst := fun l => l.active e.k) (src := fun l => l.selected t p.toNat e.k) rfl
    (fun l => List.filter_sublist) (elemWidth_bits _) hm).congr fun j hj => ?_
  rw [packSource, if_congr (mem_active_iff dim hj) rfl rfl]
  split <;> rfl

theorem writesWhole_vprmExpd (pw : PWidth) (hm : nElems e.cap * vfmtW e.cap.vfmt ≤ 131072) :
    let l (j : Nat) := (lineOf e.cap dim j).1
    WritesWhole t { e with instr := .vprmExpd d a p dim pw } d.toNat (vfmtW e.cap.vfmt) (nElems e.cap) (fun j =>
      if e.k ≤ j ∧ maskBit t p.toNat j = true then
        (((l j).active e.k)[((l j).selected t p.toNat e.k).idxOf j]?).map (elem t a.toNat (vfmtW e.cap.vfmt)) else none) := by
  refine (writesWhole_moves (dst := fun l => l.selected t p.toNat e.k) (src := fun l => l.active e.k) rfl
    (fun l => List.filter_sublist.trans List.filter_sublist) (elemWidth_bits _) hm).congr fun j hj => ?_
  rw [packSource, if_congr (Line.mem_selected.trans (and_congr_left' (mem_active_iff dim hj))) rfl rfl]
  split <;> rfl

/-! ## VSX (R165) -/

section

variable (ha : Ascending ty (streamOf t e a p ty)) (hb : Ascending ty (streamOf t e b p ty))
include ha hb

/-- What the walk of an instruction gives, with fuel enough. -/
theorem vsxWalk_sift {o : Keep} (hr : o.right = false) (hbo : o.both = false) :
    (vsxWalk t e a b p ty o).1 = sift o.one o.left (streamOf t e a p ty) (streamOf t e b p ty) ∧
    (vsxWalk t e a b p ty o).2 = (sift true false (streamOf t e a p ty) (streamOf t e b p ty)).length :=
  walkLists_sift hr hbo _ _ _ (Nat.lt_succ_self _) ha hb

theorem vsxWalk_union : let l := (vsxWalk t e a b p ty ⟨true, true, true, false⟩).1
    l.Pairwise (fun x y => intOf ty x < intOf ty y) ∧ ∀ x, x ∈ l ↔ x ∈ streamOf t e a p ty ∨ x ∈ streamOf t e b p ty := by
  obtain ⟨hin, hp⟩ := walkLists_ordered (o := ⟨true, true, true, false⟩) (R := fun x y => intOf ty x < intOf ty y) (fun _ _ h => h)
    (fun h => absurd h Bool.false_ne_true) _ _ _ (Nat.lt_succ_self _) ha hb
  exact ⟨hp, fun x => ⟨hin x, walkLists_union _ _ _ (Nat.lt_succ_self _) ha hb x⟩⟩

theorem vsxWalk_merge : let l := (vsxWalk t e a b p ty ⟨true, true, false, true⟩).1
    l.Pairwise (fun x y => intOf ty x ≤ intOf ty y) ∧ l.Perm (streamOf t e a p ty ++ streamOf t e b p ty) := by
  obtain ⟨-, hp⟩ := walkLists_ordered (o := ⟨true, true, false, true⟩) (R := fun x y => intOf ty x ≤ intOf ty y) (fun _ _ h => h.le)
    (fun _ _ _ h => h.le) _ _ _ (Nat.lt_succ_self _) ha hb
  exact ⟨hp, walkLists_merge _ _ _ (Nat.lt_succ_self _)⟩

end

/-! ## The obligation -/

/-- Settles O26: VCMP is decided by the order of values, and every other form is a list of writes: to a mask, to element (0,0), or to the
elements that the form names. -/
theorem wholeStepInstructionsGiveResult : Obligations.WholeStepInstructionsGiveResult := by
  unfold Obligations.WholeStepInstructionsGiveResult
  intro t e d a b p sOp ty n dim pw m cols
  refine ⟨fun hint => ?vcmp, fun hd1 hd8 hn => ?vmsk, ?counts, ?lines⟩
  case vcmp =>
    intro x y tests
    have test {cc : VCond} {v : Prop} (hv : CondMeans cc (some (compare x y)) ↔ v) : tests cc v := ⟨_, rfl, (vcmp_int hint cc _ _).trans hv⟩
    obtain ⟨heq, hne, hlt, hle, hgt, hge⟩ := condMeans_compare x y
    exact ⟨test heq, test hne, test hlt, test hle, test hgt, test hge⟩
  case vmsk =>
    intro x y gives
    have hd : d.toNat ≠ 0 := by omega
    have give {i : Instr} {f : Nat → Bool} {v : Bool}
        (h : laneWork t { e with instr := i } = some (.whole (clearFrom (writeBits t p.toNat d.toNat 0 m f) d.toNat m)))
        (hv : f n = v) : gives i v :=
      ⟨_, h, pOnly_vmsk .., hv ▸ maskBit_vmsk hd hn .., fun r hr => rp_vmsk hr ..⟩
    exact ⟨give rfl rfl, give rfl rfl, give rfl rfl, give rfl rfl, give rfl rfl, give rfl rfl, give rfl rfl⟩
  case counts =>
    intro w both gives
    have hfrst := laneWork_writeE (laneWork_vmskFrst (t := t) (e := e) (d := d) (a := a) (p := p))
    refine ⟨fun hn hb hf => ?first, fun hf => ?none, laneWork_writeE laneWork_vmskPopc⟩
    case first => rwa [firstBoth_some hn hb hf] at hfrst
    case none => rwa [firstBoth_none hf] at hfrst
  case lines =>
    intro w src amt base stride len pos line act sel hm writes moves
    have hline (j : Nat) : lineOf e.cap dim j = (⟨base j, stride, len⟩, pos j) := lineOf_eq e.cap dim j
    have hact (j : Nat) : (lineOf e.cap dim j).1.active e.k = act j := by rw [hline]; rfl
    have hsel (j : Nat) : (lineOf e.cap dim j).1.selected t p.toNat e.k = sel j := by rw [hline]; rfl
    have move {i : Instr} {f : Nat → Option Nat}
        (h : laneWork t { e with instr := i } = some (.whole (writeWhole t p.toNat d.toNat w e.k m f))) (hf : Fits w f) : moves i f :=
      writesWhole_writeWhole h hf (elemWidth_bits _) hm
    have hsrc (i : Nat) : src i < 2 ^ w := elem_lt ..
    refine ⟨move rfl (fits_some fun j => hsrc j), move (by cases dim <;> rfl) (fits_some fun j => hsrc _),
      move (by cases dim <;> rfl) (fits_some fun j => ite_elem_lt ..), move (by cases dim <;> rfl) (fits_some fun j => ite_elem_lt ..),
      move (by cases dim <;> rfl) ((fits_some fun j => hsrc _).guard fun j => amt ≤ pos j), move rfl (fits_some fun j => hsrc _), ?cmpr, ?expd,
      fun hw => ?typed⟩
    case cmpr =>
      have h := writesWhole_vprmCmpr (t := t) (e := e) (d := d) (a := a) (p := p) (dim := dim) pw hm
      simp only [hact, hsel] at h
      exact h
    case expd =>
      have h := writesWhole_vprmExpd (t := t) (e := e) (d := d) (a := a) (p := p) (dim := dim) pw hm
      simp only [hact, hsel] at h
      exact h
    case typed =>
      have hvw : vfmtW e.cap.vfmt = w := rfl
      clear_value w
      subst hw
      intro ins old reduces
      have reduce {op : Nat} {i : Instr} {f : Nat → Nat}
          (h : laneWork t { e with instr := i } = redWork t { e with instr := i } op d a p dim ty)
          (hf : ∀ j, reduced t e op d.toNat a.toNat p.toNat dim ty j % 2 ^ ty.bits = f j % 2 ^ ty.bits) : reduces i f := by
        have hr := writesWhole_redWork h hm
        simp only [hf, hline] at hr
        exact hr
      refine ⟨fun hint => ?integers, fun hfl => ?floats, fun hint => ?streams⟩
      case integers =>
        refine ⟨reduce rfl fun j => ?sum, reduce rfl fun j => congrArg (· % 2 ^ ty.bits) ?max,
          reduce rfl fun j => congrArg (· % 2 ^ ty.bits) ?min, reduce rfl fun j => congrArg (· % 2 ^ ty.bits) ?amax⟩
        case sum => rw [reduced_sum_int hint, hsel, Nat.mod_mod]
        case max => rw [reduced_max_int hint, hsel]
        case min => rw [reduced_min_int hint, hsel]
        case amax => rw [reduced_amax_int hint, hsel]
      case floats =>
        have hfl : ty.isFloat3 = true := by rcases hfl with rfl | rfl | rfl <;> rfl
        intro wide at' blocks
        refine ⟨reduce rfl fun j => congrArg (· % 2 ^ ty.bits) ?sum, reduce rfl fun j => congrArg (· % 2 ^ ty.bits) ?max,
          reduce rfl fun j => congrArg (· % 2 ^ ty.bits) ?min, reduce rfl fun j => congrArg (· % 2 ^ ty.bits) ?amax⟩
        case sum =>
          have h := reduced_sum_float hfl t e d.toNat a.toNat p.toNat dim j
          rw [hline] at h
          exact h
        case max => rw [reduced_max_float hfl, hsel]
        case min => rw [reduced_min_float hfl, hsel]
        case amax => rw [reduced_amax_float hfl, hsel]
      case streams =>
        intro la lb common lt lists hla hlb
        have ha : Ascending ty la := ⟨hla, fun x => streamOf_lt⟩
        have hb : Ascending ty lb := ⟨hlb, fun x => streamOf_lt⟩
        have list {i : Instr} {out l : List Nat} (h : laneWork t { e with instr := i } = some (.whole (vsxWrite t e d ty out)))
            (ho : out = l) (hl : ∀ x ∈ l, x ∈ la ∨ x ∈ lb) : lists i l := by
          subst ho
          exact laneWork_vsxWrite h (fun x hx => (hl x hx).elim streamOf_lt streamOf_lt) hm
        have hcommon : sift true false la lb = common := sift_held la lb
        obtain ⟨hup, hum⟩ := vsxWalk_union ha hb
        obtain ⟨hmp, hmm⟩ := vsxWalk_merge ha hb
        refine ⟨list rfl ?isec fun x hx => .inl (List.mem_of_mem_filter hx), list rfl ?diff fun x hx => .inl (List.mem_of_mem_filter hx),
          ⟨_, list rfl rfl fun x => (hum x).mp, hup, hum⟩,
          ⟨_, list rfl rfl fun x hx => List.mem_append.mp (hmm.mem_iff.mp hx), hmp, hmm⟩, fun h0 => ?icnt⟩
        case isec => exact (vsxWalk_sift ha hb rfl rfl).1.trans hcommon
        case diff => exact (vsxWalk_sift ha hb rfl rfl).1.trans (sift_other la lb)
        case icnt =>
          obtain ⟨u, hu, hz, ho, -⟩ := laneWork_writeE (t := t) (e := { e with instr := .vsxIcnt d a b p ty }) (n := m) (c := e.cap) (d := d) rfl
          rw [if_neg h0.ne', hvw] at hz
          rw [hvw] at ho
          have hcount := (vsxWalk_sift ha hb (o := ⟨false, false, false, false⟩) rfl rfl).2
          exact ⟨u, hu, hz.trans (congrArg (· % 2 ^ ty.bits) (hcount.trans (congrArg List.length hcommon))), ho⟩

end Sys2Proof.Machine
end

section
/-! PROOFS. Latches: a broken latch granted to a thread without a handler (R126, R243). -/

namespace Sys2Proof.Machine

/-- An acquire at vcp that waits for the latch at virtual address 0. -/
def waitingAcquire : Entry := { uid := 50, instr := .syncAcq 5 .dev, cap := {}, k := 0, begun := true }

/-- A thread without a handler whose entry at vcp is that acquire. -/
def unhandledAcquirer : Thread :=
  { uid := 1, launch := 64, ctx := 0, flat := 0, idx := [0], weight := 1, area := 0x400000, pc := 0x10000, vq := [waitingAcquire] }

/-- It waits for the latch word at physical address 0. -/
def acquireWaiter : Waiter := { pa := 0, uid := 50, tag := 0, sc := .dev, thread := some 0, ctx := 0 }

/-- The device with that thread and its launch alone; the latch word has HELD 0 and BROKEN 1. -/
def brokenLatchState : State :=
  { State.reset with
    mem := [(0, 2)], threads := [(0, unhandledAcquirer)], waiters := [acquireWaiter],
    launches := [{ id := 64, queue := 0, ctx := 0, raw := [], placed := 1, order := 0 }] }

/-- The latch-broken trap of a thread without a handler ends its launch, and the thread with it (R126). -/
theorem latchGrant_broken_unhandled : ∃ s', exec (.latchGrant 0) brokenLatchState = .next s' ∧ threadAt s' 0 = none :=
  ⟨_, rfl, by decide +kernel⟩

/-- Refutes O36: of a grant of a broken latch it says that the thread is still there, whether or not a handler is installed; without one
the latch-broken trap ends the launch. -/
theorem not_latchesAreGrantedAndReleased : ¬ Obligations.LatchesAreGrantedAndReleased := by
  unfold Obligations.LatchesAreGrantedAndReleased
  intro h
  have hvcp : AtVcp brokenLatchState 0 unhandledAcquirer waitingAcquire [] := ⟨rfl, rfl, rfl, List.not_mem_nil⟩
  obtain ⟨-, -, -, hgrant, -, -⟩ := h brokenLatchState 0 unhandledAcquirer waitingAcquire [] 5 .dev 0 acquireWaiter
    { uid := 0, owner := 0, thread := 0, addr := 0, pa := 0, sc := .dev, tag := 0, ctx := 0 } 0
    { blk := [], td := [] } (fun _ => 0) hvcp
  obtain ⟨-, hfree, -⟩ := hgrant rfl rfl (by decide) (by decide)
  obtain ⟨s1, u, hs1, hu, -⟩ := hfree (by decide) (by decide)
  obtain ⟨s2, hs2, hgone⟩ := latchGrant_broken_unhandled
  obtain rfl : s1 = s2 := Host.Outcome.next.inj (hs1.symm.trans hs2)
  rw [hgone] at hu
  cases hu

end Sys2Proof.Machine
end

section
/-! PROOFS. Pushes of KCNT and HRES: what they do to the push copies (R172, R174, R175, R186, R187). -/

namespace Sys2Proof.Machine

variable {s s' s'' : State} {t : Thread} {i : Instr} {tid : Nat}

/-! ## The fetches of a recomputation -/

/-- `s'` is `s` but for the next number, the walks started and the event counters. -/
def FetchesOnly (s s' : State) : Prop := s' = { s with uid := s'.uid, walks := s'.walks, counters := s'.counters }

namespace FetchesOnly

theorem refl (s : State) : FetchesOnly s s := rfl

theorem trans (h : FetchesOnly s s') (h' : FetchesOnly s' s'') : FetchesOnly s s'' := by
  unfold FetchesOnly at *
  rw [h', h]

theorem onlyThread (h : FetchesOnly s s') (tid : Nat) : OnlyThread s s' tid :=
  ⟨fun _ _ => by rw [h]; rfl, by rw [h]⟩

end FetchesOnly

theorem fetchesOnly_bump (s : State) (p k n : Nat) : FetchesOnly s (bump s p k n) := by
  unfold bump
  split <;> rfl

/-- Walks that fetches start change nothing else but a counter (R285, R323). -/
theorem fetchesOnly_walkStart (s : State) (cl ctx : Nat) (fs : List Fetch) : FetchesOnly s (walkStart s cl ctx fs) := by
  have hstart (s : State) (p : Nat) : FetchesOnly s (startWalk s cl ctx (65536 * p) needR) := by
    unfold startWalk
    split <;> rfl
  have hfold (l : List Nat) (s : State) : FetchesOnly s (l.foldl (fun s p => startWalk s cl ctx (65536 * p) needR) s) := by
    induction l generalizing s with
    | nil => exact FetchesOnly.refl s
    | cons p l ih => exact (hstart s p).trans (ih _)
  unfold walkStart
  dsimp only
  exact (hfold _ s).trans (fetchesOnly_bump _ _ _ _)

theorem fetchesOnly_recompute (s : State) (tid : Nat) (t : Thread) (n : Nat) (old : Option (List Int)) (sofar : List (Nat × List Fetch)) :
    FetchesOnly s (recompute s tid t n old sofar).1 := by
  have hstep (k : Nat) (fs : List Fetch) : FetchesOnly s (walkStart { s with uid := k } (tid / 4) t.ctx fs) :=
    FetchesOnly.trans (s' := { s with uid := k }) rfl (fetchesOnly_walkStart _ _ _ _)
  unfold recompute
  split
  · exact FetchesOnly.refl s
  · dsimp only
    split
    · exact FetchesOnly.refl s
    · exact hstep _ _

theorem fetchesOnly_recomputeAll (s : State) (tid : Nat) (t : Thread) (marker : Nat) (olds : List (Nat × Option (List Int))) :
    FetchesOnly s (recomputeAll s tid t marker olds).1 := by
  have hfold (l : List (Nat × Option (List Int))) (acc : State × List (Nat × List Fetch)) : FetchesOnly acc.1 (l.foldl (fun acc e =>
      let (s, fs) := recompute acc.1 tid t e.1 e.2 acc.2
      (s, acc.2 ++ [(e.1, fs)])) acc).1 := by
    induction l generalizing acc with
    | nil => exact FetchesOnly.refl _
    | cons e l ih => exact (fetchesOnly_recompute acc.1 tid t e.1 e.2 acc.2).trans (ih _)
  exact hfold olds (s, [])

/-! ## The push copies -/

theorem kreg_tabSet (ks : Tab KReg) (k j : Nat) (r : KReg) : kreg (tabSet {} ks k r) j = if j = k then r else kreg ks j := by
  unfold kreg
  exact tabGet_tabSet _ _ _ _ _

/-- A table whose entries are changed each by its number. -/
theorem tabFind_mapKeyed {α β : Type} (f : Nat → α → β) (l : Tab α) (k : Nat) :
    tabFind (l.map fun e => (e.1, f e.1 e.2)) k = (tabFind l k).map (f k) := by
  induction l with
  | nil => rfl
  | cons e l ih =>
    obtain ⟨a, w⟩ := e
    simp only [List.map_cons, tabFind, ih]
    split
    · next h => rw [h]; rfl
    · rfl

/-- What an HRES form makes of a register's push copy: the item it sets, and for a marker the box under the counters (R172, R186). -/
def hresPush (i : Instr) (cap : Cap) (ks : Tab KReg) (x : HReg) : HCopy :=
  let c := hresEffect i cap x.push
  if (hresMarker i).isSome then { c with lo := boxLo x.blk c.anchor ks } else c

/-- An HRES form changes the push copy of its register alone (R186). -/
theorem tabFind_pushCopies_hres {r : Nat} {cap : Cap} {x : HReg} (hr : hresReg i = some r) (hk : kcntEffect i cap t.kpush = (t.kpush, []))
    (hm : ∀ m, hresMarker i = some m → m = r) (hx : tabFind t.h r = some x) :
    tabFind (pushCopies t i cap).1.h r = some { x with push := hresPush i cap t.kpush x } ∧
    ∀ j, j ≠ r → tabFind (pushCopies t i cap).1.h j = tabFind t.h j := by
  let l := tabPut t.h r { x with push := hresEffect i cap x.push }
  let regs := l.filterMap fun e => if hresMarker i = some e.1 then some e.1 else none
  let move (k : Nat) (v : HReg) : HReg :=
    if k ∈ regs then { v with push := { v.push with lo := boxLo v.blk v.push.anchor t.kpush } } else v
  have hl : (pushCopies t i cap).1.h = l.map fun e => (e.1, move e.1 e.2) := by
    have he (e : Nat × HReg) : (e.1, move e.1 e.2) = if e.1 ∈ regs then
        (e.1, { e.2 with push := { e.2.push with lo := boxLo e.2.blk e.2.push.anchor t.kpush } }) else e := by
      dsimp only [move]
      split <;> rfl
    simp only [he, regs, l]
    unfold pushCopies
    simp only [hk, hr, hx, List.any_nil, Bool.false_eq_true, false_or]
  have hregs (m : Nat) : m ∈ regs → hresMarker i = some m := by
    intro h
    obtain ⟨e, -, he⟩ := List.mem_filterMap.mp h
    obtain ⟨h1, h2⟩ := Option.ite_none_right_eq_some.mp he
    exact h1.trans h2
  have hin : r ∈ regs ↔ (hresMarker i).isSome = true := by
    refine ⟨fun h => by rw [hregs r h]; rfl, fun h => ?_⟩
    obtain ⟨m, hm'⟩ := Option.isSome_iff_exists.mp h
    exact List.mem_filterMap.mpr ⟨(r, _), mem_keys_tabPut _ _ _, if_pos (by rw [hm', hm m hm'])⟩
  rw [hl]
  refine ⟨?_, fun j hj => ?_⟩
  · rw [tabFind_mapKeyed, tabFind_tabPut_self, Option.map_some]
    dsimp only [move, hresPush]
    simp only [hin]
    split <;> rfl
  · rw [tabFind_mapKeyed, tabFind_tabPut_ne _ _ hj]
    have hid : move j = id := by
      funext v
      exact if_neg fun h => hj (hm j (hregs j h))
    rw [hid, Option.map_id, id]

/-! ## The push -/

/-- The thread that pushes, at its next instruction (R22, R137). -/
def pushing (t : Thread) : Thread := { t with csr := { t.csr with vesr := 0 }, pc := t.pc + 4, hold := .run }

/-- The instructions of KCNT and of HRES that change push copies (R174, R186). -/
def changesCopies : Instr → Prop
  | .kcntExt _ _ | .kcntLink _ _ | .kcntAdv _ | .kcntSet _ _ | .kcntRst _ | .hresAnch _ _ _ | .hresLim _ _ _ | .hresBind _ _
  | .hresWmk _ _ => True
  | _ => False

theorem exec_changesCopies (h : changesCopies i) (s : State) : exec i s = .next (push s s.cur i) := by
  cases i
  case kcntExt | kcntLink | kcntAdv | kcntSet | kcntRst | hresAnch | hresLim | hresBind | hresWmk => rfl
  all_goals exact h.elim

theorem pushedBy_changesCopies (h : changesCopies i) (hr : t.vrelPushed = false) : pushedBy t i = pushing t := by
  have he : pushedBy t i = { pushing t with vrelPushed := false } := by
    cases i
    case kcntExt | kcntLink | kcntAdv | kcntSet | kcntRst | hresAnch | hresLim | hresBind | hresWmk => rfl
    all_goals exact h.elim
  rw [he, ← hr]
  rfl

/-- A push that finds room, with at most one recomputation of each register in delivery, is not blocked (R25, R177, R318). -/
theorem pushBlocked_false (hr : t.vq.length < 64) (hc : ∀ k, k < 5 → classCount s t k < 65535) (hd : ∀ n, inDelivery t n < 2)
    (i : Instr) (changed : Bool) (regs : List Nat) : pushBlocked s t i changed regs = false := by
  have h (k : Nat) (hk : k < 5) : decide (classMax ≤ classCount s t k) = false := decide_eq_false (Nat.not_le.mpr (hc k hk))
  have h2 : regs.any (fun n => decide (2 ≤ inDelivery t n)) = false := by
    rw [List.any_eq_false]
    intro n _
    simpa using hd n
  simp [pushBlocked, h, h2, hr]

/-- A push that finds room: the push copies are those of `pushCopies`, and the entry is behind the queue (R22, R175). -/
theorem enqueue_room {e : Entry} (h : ∀ c regs, pushBlocked s t e.instr c regs = false) :
    ∃ e' olds, (let c := (pushCopies t e.instr e.cap).1
      let r := recomputeAll s tid c e.uid olds
      enqueue s tid t e = some (setThread r.1 tid { c with vq := c.vq ++ [e'], recomps := c.recomps ++ r.2 })) ∧
      e'.instr = e.instr ∧ e'.cap = e.cap ∧ e'.uid = e.uid := by
  let c := pushCopies t e.instr e.cap
  refine ⟨{ e with boxes := c.2.filterMap fun n => (tabFind c.1.h n).map fun h => (n, h.push.lo),
                   changed := decide ((kcntEffect e.instr e.cap t.kpush).2 ≠ []) },
    c.2.map fun n => (n, (tabFind t.h n).map fun h => h.push.lo), ?_, rfl, rfl, rfl⟩
  rw [enqueue]
  dsimp only
  rw [h, if_neg Bool.false_ne_true]

/-- A push of KCNT or HRES that finds room: its entry is in the queue, and the push copies are those of `pushCopies` (R22, R23, R174). -/
theorem push_changesCopies (hi : changesCopies i) (ht : threadAt s s.cur = some t) (hd : ∀ n, inDelivery t n < 2) (hok : PushOk s t i) :
    ∃ s' u e, exec i s = .next s' ∧ OnlyThread s s' s.cur ∧ threadAt s' s.cur = some u ∧
      u = { (pushCopies (pushing t) i (captureOf t i)).1 with vq := t.vq ++ [e], recomps := u.recomps } ∧
      e.instr = i ∧ e.cap = captureOf t i ∧ e.uid = s.uid := by
  let s1 : State := { s with uid := s.uid + 1 }
  have hb (c : Bool) (regs : List Nat) : pushBlocked s1 (pushing t) i c regs = false :=
    pushBlocked_false (t := pushing t) hok.room hok.counts hd i c regs
  have hl := push_legal ht hok.legal hok.unreleased
  rw [pushedBy_changesCopies hi hok.unreleased] at hl
  obtain ⟨e, olds, he, hx⟩ := enqueue_room (s := s1) (tid := s.cur) (t := pushing t) (e := entryFor s t i) hb
  have hf := fetchesOnly_recomputeAll s1 s.cur (pushCopies (pushing t) i (captureOf t i)).1 s.uid olds
  rw [exec_changesCopies hi, hl, he]
  refine ⟨_, _, e, rfl, ?_, threadAt_setThread_self _ _ _, rfl, hx⟩
  have h1 : OnlyThread s s1 s.cur := ⟨fun _ _ => rfl, rfl⟩
  exact (h1.trans (hf.onlyThread s.cur)).trans (onlyThread_setThread _ _ _)

/-! ## The counters -/

/-- An odometer step below the extent (R187). -/
theorem advanceFrom_below {f : Nat} {ks : Tab KReg} {l : List Nat} {j : Nat} (h : (kreg ks j).value + 1 < (kreg ks j).extent) :
    (advanceFrom (f + 1) ks l j).1 = tabSet {} ks j { kreg ks j with value := (kreg ks j).value + 1 } := by
  rw [advanceFrom, if_pos h]

/-- One that reaches the extent where nothing is linked. -/
theorem advanceFrom_wraps {f : Nat} {ks : Tab KReg} {l : List Nat} {j : Nat} (h : (kreg ks j).extent ≤ (kreg ks j).value + 1)
    (hl : (kreg ks j).link = none ∨ (kreg ks j).link = some j) :
    (advanceFrom (f + 1) ks l j).1 = tabSet {} ks j { kreg ks j with value := 0 } := by
  rw [advanceFrom, if_neg (Nat.not_lt.mpr h)]
  rcases hl with hl | hl <;> simp [hl]

/-- One that reaches the extent carries into the linked counter. -/
theorem advanceFrom_carries {f : Nat} {ks : Tab KReg} {j m : Nat} (h : (kreg ks j).extent ≤ (kreg ks j).value + 1)
    (hl : (kreg ks j).link = some m) (hm : m ≠ j) :
    advanceFrom (f + 1) ks [] j = advanceFrom f (tabSet {} ks j { kreg ks j with value := 0 }) [j] m := by
  rw [advanceFrom, if_neg (Nat.not_lt.mpr h)]
  simp [hl, hm]

/-- An advance that reaches the extent of its counter and not of the next carries once (R187). -/
theorem advanceFrom_carries_once {f : Nat} {ks : Tab KReg} {j m : Nat} (h : (kreg ks j).extent ≤ (kreg ks j).value + 1)
    (hl : (kreg ks j).link = some m) (hm : m ≠ j) (hn : (kreg ks m).value + 1 < (kreg ks m).extent) (k : Nat) :
    kreg (advanceFrom (f + 2) ks [] j).1 k = if k = m then { kreg ks m with value := (kreg ks m).value + 1 }
      else if k = j then { kreg ks j with value := 0 } else kreg ks k := by
  have hkm : kreg (tabSet {} ks j { kreg ks j with value := 0 }) m = kreg ks m := by rw [kreg_tabSet, if_neg hm]
  rw [advanceFrom_carries h hl hm, advanceFrom_below (by rw [hkm]; exact hn), hkm, kreg_tabSet, kreg_tabSet]

/-- Settles O21: a push of KCNT or HRES that finds room leaves the push copies that `pushCopies` gives, read by the laws of the
odometer and of the copies of a register. -/
theorem pushActsOnPushCopies : Obligations.PushActsOnPushCopies := by
  unfold Obligations.PushActsOnPushCopies
  refine ⟨fun s t d a b ht hd => ?counters, fun s t d a n h ht hd hh => ?registers⟩
  case counters =>
    intro old x does only
    have push {i : Instr} {ks : Nat → KReg} (hi : changesCopies i)
        (hk : ∀ j, kreg (kcntEffect i (captureOf t i) t.kpush).1 j = ks j) : does i ks := by
      intro hok
      obtain ⟨s', u, e, he, ho, hu, hux, hx⟩ := push_changesCopies hi ht hd hok
      refine ⟨s', u, he, ho, hu, fun j => ?_, ?_, ?_, ?_, ?_, ?_, e, ?_, hx⟩
      · rw [hux]; exact hk j
      all_goals rw [hux]
      all_goals rfl
    have sets {i : Instr} {r : KReg} (hi : changesCopies i)
        (hk : (kcntEffect i (captureOf t i) t.kpush).1 = tabSet {} t.kpush d.toNat r) : does i (only r) :=
      push hi fun j => by rw [hk, kreg_tabSet]
    refine ⟨sets trivial rfl, sets trivial ?link, sets trivial rfl, sets trivial rfl, fun h => sets trivial (advanceFrom_below h),
      fun h hl => sets trivial (advanceFrom_wraps h (.inl hl)), fun m h hl hm hn => push trivial (advanceFrom_carries_once h hl hm hn)⟩
    case link =>
      have hb : b = 31 ↔ b.toNat = 31 := ⟨fun h => by rw [h]; rfl, fun h => BitVec.eq_of_toNat_eq h⟩
      simp only [kcntEffect, hb, old]
  case registers =>
    intro x does
    have push {i : Instr} {c : HCopy} (hi : changesCopies i) (hr : hresReg i = some d.toNat)
        (hk : kcntEffect i (captureOf t i) t.kpush = (t.kpush, [])) (hm : ∀ m, hresMarker i = some m → m = d.toNat)
        (hc : hresPush i (captureOf t i) t.kpush h = c) : does i c := by
      intro hok
      obtain ⟨s', u, e, he, ho, hu, hux, hx⟩ := push_changesCopies hi ht hd hok
      obtain ⟨hself, hothers⟩ := tabFind_pushCopies_hres (t := pushing t) hr hk hm hh
      have hkp : (pushCopies (pushing t) i (captureOf t i)).1.kpush = t.kpush := congrArg Prod.fst hk
      refine ⟨s', u, he, ho, hu, ?_, fun j hj => ?_, ?_, ?_, ?_, e, ?_, hx⟩
      · rw [hux, ← hc]; exact hself
      · rw [hux]; exact hothers j hj
      · rw [hux]; exact hkp
      all_goals rw [hux]
      all_goals rfl
    exact ⟨push trivial rfl rfl (fun m hm => (Option.some.inj hm).symm) rfl, push trivial rfl rfl (fun m hm => (Option.some.inj hm).symm) rfl,
      push trivial rfl rfl (fun m hm => nomatch hm) rfl, push trivial rfl rfl (fun m hm => nomatch hm) rfl⟩

end Sys2Proof.Machine
end

section
/-! PROOFS. The scratchpad: what a read returns after a write (R36, R169), and what leaves it as it is. -/

namespace Sys2Proof.Machine

variable {s s' s'' : State} {tid : Nat} {sp sp' : Tab Byte} {a b n : Nat}

/-! ## Reads and writes -/

theorem tabGet_spWrite (l : List Byte) (sp : Tab Byte) (a x : Nat) :
    tabGet 0 (spWrite sp a l) x = if a ≤ x ∧ x < a + l.length then l.getD (x - a) 0 else tabGet 0 sp x := by
  induction l generalizing sp a with
  | nil => rw [if_neg (by simp only [List.length_nil]; omega)]; rfl
  | cons v l ih =>
    rw [spWrite, ih, tabGet_tabSet, List.length_cons]
    by_cases hx : x = a
    · subst hx
      rw [if_neg (by omega), if_pos rfl, if_pos (by omega), Nat.sub_self, List.getD_cons_zero]
    · by_cases h : a + 1 ≤ x ∧ x < a + 1 + l.length
      · rw [if_pos h, if_pos (by omega), show x - a = x - (a + 1) + 1 by omega, List.getD_cons_succ]
      · rw [if_neg h, if_neg hx, if_neg (by omega)]

theorem tabGet_spWrite_outside {l : List Byte} {x : Nat} (h : x < a ∨ a + l.length ≤ x) :
    tabGet 0 (spWrite sp a l) x = tabGet 0 sp x := by
  rw [tabGet_spWrite, if_neg (by omega)]

theorem spRead_congr (h : ∀ x, a ≤ x → x < a + n → tabGet 0 sp x = tabGet 0 sp' x) : spRead sp a n = spRead sp' a n := by
  rw [spRead, spRead]
  congr 1
  refine List.map_congr_left fun i hi => h _ (Nat.le_add_right _ _) ?_
  exact Nat.add_lt_add_left (List.mem_range.mp hi) a

/-- A read of bytes just written gives what was written. -/
theorem spRead_spWrite_self (sp : Tab Byte) (a n v : Nat) : spRead (spWrite sp a (bytesOfNat n v)) a n = v % 256 ^ n := by
  rw [← natOfBytes_bytesOfNat, spRead]
  congr 1
  refine List.ext_getElem (by simp) fun i hi _ => ?_
  have h : i < n := by simpa using hi
  rw [List.getElem_map, List.getElem_range, tabGet_spWrite, length_bytesOfNat, if_pos (by omega), Nat.add_sub_cancel_left,
    List.getD_eq_getElem _ _ (by rwa [length_bytesOfNat])]

theorem spRead_lt (sp : Tab Byte) (a n : Nat) : spRead sp a n < 256 ^ n := by
  have h := natOfBytes_lt ((List.range n).map fun i => tabGet 0 sp (a + i))
  rwa [List.length_map, List.length_range] at h

/-! ## What leaves it as it is -/

theorem RsOnly.scratch (h : RsOnly s s') (c : Nat) : (clusterOf s' c).scratch = (clusterOf s c).scratch := by rw [h.clusters c]

theorem clusterOf_bump (s : State) (p k m c : Nat) : clusterOf (bump s p k m) c = clusterOf s c := by
  rw [clusterOf, bump_clusters]
  rfl

/-- The table of the re-steep forgets what it loaded from a register: no thread changes. -/
theorem rsDropReg_threads (s : State) (cl slot h : Nat) : (rsDropReg s cl slot h).threads = s.threads := rsInvalidate_threads s cl _

theorem rsOnly_rsDropReg (s : State) (cl slot h : Nat) : RsOnly s (rsDropReg s cl slot h) := rsOnly_rsInvalidate s cl _

end Sys2Proof.Machine
end

section
/-! PROOFS. The residency engine: a fetch that returns, lands, or has waited for a walk (R178, R181, R185, R285). -/

namespace Sys2Proof.Machine

variable {s s' : State} {t u : Thread} {tid n : Nat} {h : HReg} {rc : Recomp} {f : Fetch}

/-- The fetch of a thread that has one in delivery, for a configured register. -/
structure OneFetch (t : Thread) (n : Nat) (h : HReg) (rc : Recomp) (f : Fetch) : Prop where
  reg : tabFind t.h n = some h
  recomps : t.recomps = [rc]
  of : rc.h = n
  fetches : rc.fetches = [f]

/-- The thread with its one fetch in a new state. -/
def fetchNow (t : Thread) (rc : Recomp) (f : Fetch) (x : FetchState) : Thread :=
  { t with recomps := [{ rc with fetches := [{ f with state := x }] }] }

/-- The thread whose one fetch is gone. -/
def fetchLeft (t : Thread) : Thread := { t with recomps := [] }

/-- The thread whose one fetch is gone, with what stands in its register of failed slots. -/
def fetchAfter (t : Thread) (n : Nat) (h : HReg) (l : List FailedSlot) : Thread :=
  { t with recomps := [], h := tabPut t.h n { h with failed := l } }

namespace OneFetch

theorem findFetch (o : OneFetch t n h rc f) : findFetch t n f.id = some (rc, f) := by
  simp [Machine.findFetch, o.recomps, o.of, o.fetches]

theorem threadFetches (o : OneFetch t n h rc f) : threadFetches t = [(rc, h, f)] := by
  simp [Machine.threadFetches, o.recomps, o.of, o.reg, o.fetches]

theorem dropFetch (o : OneFetch t n h rc f) : dropFetch t n f.id = fetchLeft t := by
  simp [Machine.dropFetch, keepRecomps, o.recomps, o.of, o.fetches, fetchLeft]

/-- Nothing of the thread stands before its one fetch. -/
theorem fetchBehind (o : OneFetch t n h rc f) (s : State) (pa : Nat) : fetchBehind s t rc h f pa = false := by
  simp [Machine.fetchBehind, o.threadFetches]

/-! ## The return -/

/-- The read returns once no watermark, no full buffer and no stopped router holds it; a dropped one does not (R178, R185, R309). -/
theorem exec_fetchReturn (o : OneFetch t n h rc f) {pa : Nat} (ht : threadAt s tid = some t) (hf : f.state = .sent pa) (hs : f.share = none) :
    exec (.fetchReturn tid n f.id) s = .next (
      if gated s h f || !bufferRoom s (tid / 4) f (fetchBytes h) || cutOff s (tid / 4) pa || decide (f.id ∈ s.dropped) then s
      else setThread (if reaches s (tid / 4) pa then countAccess s pa else s) tid
        (fetchNow t rc f (fetchData s (tid / 4) h f.coord pa))) := by
  show execFetchReturn _ _ _ _ = _
  have hr : readsAlone t f = true := by simp [readsAlone, hs]
  have hg : (Machine.threadFetches t).filter (fun x => x.2.2.id = f.id ∨ x.2.2.share = some f.id) = [(rc, h, f)] := by
    rw [o.threadFetches]
    simp
  unfold execFetchReturn
  simp only [ht, o.findFetch, o.reg, hf, hg, hr, List.any_cons, List.any_nil, o.fetchBehind, o.recomps, o.fetches, List.map_cons, List.map_nil,
    Bool.or_false, Bool.not_true, true_or, if_true, fetchNow]

/-! ## The landing -/

/-- Nothing lands before its marker has completed (R175). -/
theorem exec_deliveryLanding_waits (o : OneFetch t n h rc f) (ht : threadAt s tid = some t) (hl : rc.landing = false) :
    exec (.deliveryLanding tid n f.id) s = .next s := by
  show execDeliveryLanding _ _ _ _ = _
  unfold execDeliveryLanding
  simp only [ht, o.findFetch, o.reg, hl, Bool.not_false, Bool.true_or, if_true]

/-- What a landing does once its marker has completed: the data enters the slot, or a failure marks it while the element is in the box
(R175, R181). -/
theorem exec_deliveryLanding (o : OneFetch t n h rc f) (ht : threadAt s tid = some t) (hl : rc.landing = true) :
    exec (.deliveryLanding tid n f.id) s = .next (
      let others := h.failed.filter (fun x => x.slot ≠ f.slot)
      let fail (bad : Bool) : State := if inBox h.comm.lo (boxW h.blk) f.coord then
          rsDropReg (setThread s tid (fetchAfter t n h (others ++ [{ slot := f.slot, va := BitVec.ofInt 64 f.va, poisoned := bad }])))
            (tid / 4) (tid % 4) n
        else setThread s tid (fetchLeft t)
      match f.state with
      | .walk | .sent _ => s
      | .noPage => fail false
      | .bad => fail true
      | .data bits =>
        let c := clusterOf s (tid / 4)
        let size := tySize (tdType h.td)
        let sp := spWrite c.scratch (slotByte h f.slot) (bytesOfNat size bits.toNat)
        rsDropReg (setThread (bump (setCluster s (tid / 4) { c with scratch := sp }) (tid / 4) 3 size) tid (fetchAfter t n h others))
          (tid / 4) (tid % 4) n) := by
  show execDeliveryLanding _ _ _ _ = _
  unfold execDeliveryLanding
  have hold : (t.recomps.any fun x => x.h = n && x.fetches.any fun g => g.id < f.id && g.slot = f.slot) = false := by
    simp [o.recomps, o.fetches]
  simp only [ht, o.findFetch, o.reg, hl, hold, o.dropFetch, Bool.not_true, Bool.false_or, Bool.false_eq_true, if_false, fetchLeft, fetchAfter]
  cases f.state <;> cases inBox h.comm.lo (boxW h.blk) f.coord <;> rfl

end OneFetch

/-! ## The end of a walk -/

/-- What a walk leaves in the cache serves its page (R285). -/
theorem tlbFind_tlbAdd_self {l : List Tlb} {c page : Nat} (k : Nat) (e : Word) (big : Bool) (hn : tlbFind l c (65536 * page) = none) :
    tlbFind (tlbAdd k l c (65536 * page) e big) c (65536 * page) = some (e, big) := by
  have hnone {l' : List Tlb} (hsub : l' ⊆ l) : tlbFind l' c (65536 * page) = none := by
    rw [tlbFind, Option.map_eq_none_iff, List.find?_eq_none] at hn ⊢
    exact fun x hx => hn x (hsub hx)
  have happ {l' : List Tlb} (h' : tlbFind l' c (65536 * page) = none) (x : Tlb) :
      tlbFind (l' ++ [x]) c (65536 * page) = tlbFind [x] c (65536 * page) := by
    rw [tlbFind, Option.map_eq_none_iff] at h'
    rw [tlbFind, List.find?_append, h', Option.none_or]
    rfl
  have hsub (p : Prop) [Decidable p] (x : Tlb) : (if p then l.erase x else l) ⊆ l := by
    split
    · exact List.erase_subset
    · exact List.Subset.refl l
  unfold tlbAdd
  dsimp only
  rw [happ (hnone (hsub _ _))]
  cases big <;> simp [tlbFind]

/-- `s'` is `s` with what further accesses of cluster `cl` find of a walk of a page: no thread, no walk and no memory changes, a miss
that has its result keeps it, and what the cache holds of the page stays. -/
structure WalkGoesOn (s s' : State) (cl c page : Nat) : Prop where
  threads : s'.threads = s.threads
  mem : s'.mem = s.mem
  walks : s'.walks = s.walks
  missed : ∀ m ∈ (clusterOf s cl).missed, m.leaf.isSome = true → m ∈ (clusterOf s' cl).missed
  tlb : ∀ x, tlbFind (clusterOf s cl).tlb c (65536 * page) = some x → tlbFind (clusterOf s' cl).tlb c (65536 * page) = some x

namespace WalkGoesOn

variable {s'' : State} {cl c page : Nat}

theorem refl (s : State) (cl c page : Nat) : WalkGoesOn s s cl c page := ⟨rfl, rfl, rfl, fun _ h _ => h, fun _ h => h⟩

theorem trans (h : WalkGoesOn s s' cl c page) (h' : WalkGoesOn s' s'' cl c page) : WalkGoesOn s s'' cl c page where
  threads := h'.threads.trans h.threads
  mem := h'.mem.trans h.mem
  walks := h'.walks.trans h.walks
  missed := fun m hm hl => h'.missed m (h.missed m hm hl) hl
  tlb := fun x hx => h'.tlb x (h.tlb x hx)

theorem foldl {α : Type} {f : State → α → State} (hf : ∀ s a, WalkGoesOn s (f s a) cl c page) (l : List α) (s : State) :
    WalkGoesOn s (l.foldl f s) cl c page := by
  induction l generalizing s with
  | nil => exact refl s cl c page
  | cons a l ih => exact (hf s a).trans (ih (f s a))

theorem endMisses (s : State) (cl c owner page page' : Nat) (l : Option (Word × Bool)) :
    WalkGoesOn s (endMisses s cl owner page' l) cl c page := by
  unfold Machine.endMisses modMisses
  split
  · exact refl s cl c page
  · refine ⟨rfl, rfl, rfl, fun m hm hl => ?_, fun x hx => ?_⟩
    · rw [clusterOf_setCluster_self]
      refine List.mem_map.mpr ⟨m, hm, if_neg fun h => ?_⟩
      rw [Option.isNone_iff_eq_none] at h
      simp [h.2.2] at hl
    · rwa [clusterOf_setCluster_self]

theorem cacheLeaf (s : State) (w : Walk) (owner : Nat) : WalkGoesOn s (cacheLeaf s w owner) w.cl w.ctx w.page := by
  unfold Machine.cacheLeaf
  dsimp only
  split
  · next l big _ hn =>
    split
    · refine ⟨rfl, rfl, rfl, fun m hm _ => ?_, fun x hx => ?_⟩
      · rwa [clusterOf_setCluster_self]
      · cases hn.symm.trans hx
    · exact refl s _ _ _
  · exact refl s _ _ _

theorem endWalkRetired (w : Walk) (s : State) (r : Retired) : WalkGoesOn s (endWalkRetired w s r) w.cl w.ctx w.page := by
  unfold Machine.endWalkRetired
  split
  · exact refl s _ _ _
  · exact (cacheLeaf s w r.uid).trans (endMisses _ w.cl w.ctx _ _ _ _)

end WalkGoesOn

/-- Misses of a thread on the page have what the walk found. -/
theorem mem_endMisses {cl owner page : Nat} {l : Option (Word × Bool)} {m : Miss} (hm : m ∈ (clusterOf s cl).missed) (ho : m.owner = owner)
    (hp : m.page = page) (hl : m.leaf = none) : { m with leaf := some l } ∈ (clusterOf (endMisses s cl owner page l) cl).missed := by
  unfold endMisses modMisses
  rw [if_neg (List.ne_nil_of_mem hm), clusterOf_setCluster_self]
  exact List.mem_map.mpr ⟨m, hm, if_pos ⟨ho, hp, by rw [hl]; rfl⟩⟩

/-- The cache holds what the walk found, where the access that started the walk may use it. -/
theorem tlbFind_cacheLeaf {w : Walk} {owner : Nat} {leaf : Word} {big : Bool}
    (hw : walkLeaf s (some (tileOfCluster w.cl)) owner w.ctx (65536 * w.page) = some (leaf, big)) (ha : leafAllows leaf w.need = true)
    (hn : tlbFind (clusterOf s w.cl).tlb w.ctx (65536 * w.page) = none) :
    tlbFind (clusterOf (cacheLeaf s w owner) w.cl).tlb w.ctx (65536 * w.page) = some (leaf, big) := by
  have hc : cacheLeaf s w owner = setCluster s w.cl { clusterOf s w.cl with
      tlb := tlbAdd s.tick (clusterOf s w.cl).tlb w.ctx (65536 * w.page) leaf big } := by
    simp only [cacheLeaf, hw, hn, ha, if_true]
  rw [hc, clusterOf_setCluster_self]
  exact tlbFind_tlbAdd_self _ _ _ hn

theorem cacheLeaf_missed (s : State) (w : Walk) (owner : Nat) : (clusterOf (cacheLeaf s w owner) w.cl).missed = (clusterOf s w.cl).missed := by
  unfold cacheLeaf
  dsimp only
  split
  · split
    · rw [clusterOf_setCluster_self]
    · rfl
  · rfl

/-- `s'` is `s` but for the event counters. -/
def CountsOnly (s s' : State) : Prop := s' = { s with counters := s'.counters }

theorem CountsOnly.trans {s'' : State} (h : CountsOnly s s') (h' : CountsOnly s' s'') : CountsOnly s s'' := by
  unfold CountsOnly at *
  rw [h', h]

theorem countsOnly_countWalk (s : State) (tile : Option Nat) (owner c va : Nat) : CountsOnly s (countWalk s tile owner c va) := by
  have hf (l : List (Option Nat × Nat)) (s : State) : CountsOnly s (l.foldl (fun s x => countPa s x.2) s) := by
    induction l generalizing s with
    | nil => rfl
    | cons x l ih => exact CountsOnly.trans (countPa_frame s x.2) (ih _)
  unfold countWalk
  dsimp only
  split
  · exact CountsOnly.trans (bump_frame _ _ _ _) (hf _ _)
  · exact hf _ _

/-! ## The walk -/

/-- A thread alone in its cluster. -/
theorem threadsOf_alone {cl : Nat} (ht : threadAt s tid = some t) (hc : cl = tid / 4)
    (ho : ∀ j, j < 4 → 4 * cl + j ≠ tid → threadAt s (4 * cl + j) = none) : threadsOf s cl = [(tid, t)] := by
  have hk (k : Nat) (hk : k < 4) : (threadAt s (4 * cl + k)).map (fun t => (4 * cl + k, t)) = if k = tid % 4 then some (tid, t) else none := by
    split
    · next h => rw [show 4 * cl + k = tid by omega, ht]; rfl
    · next h => rw [ho k hk (by omega)]; rfl
  have hm : tid % 4 < 4 := Nat.mod_lt _ (by decide)
  unfold threadsOf
  generalize tid % 4 = m at hk hm
  rw [show [0, 1, 2, 3].filterMap (fun k => (threadAt s (4 * cl + k)).map (fun t => (4 * cl + k, t))) =
    [0, 1, 2, 3].filterMap (fun k => if k = m then some (tid, t) else none) from
    List.filterMap_congr fun k h => hk k (by fin_cases h <;> decide)]
  interval_cases m <;> rfl

/-- A walk that does not end yet. -/
theorem exec_pageWalkComplete_held {cl c : Nat} {va : Word} {w : Walk} (hw : s.walks = [w]) (hcl : w.cl = cl) (hc : w.ctx = c)
    (hp : w.page = va.toNat / 65536) (hh : walkHeld s w = true) : exec (.pageWalkComplete cl c va) s = .next s := by
  show execPageWalkComplete _ _ _ _ = _
  simp [execPageWalkComplete, hw, hcl, hc, hp, hh]

/-- The state in which the only walk has ended and been counted. -/
def walkCounted (s : State) (w : Walk) : State :=
  countWalk { s with walks := [] } (some (tileOfCluster w.cl)) 0 w.ctx (65536 * w.page)

/-- A walk that ends: the threads of its cluster go on, then those that have left it (R285). -/
theorem exec_pageWalkComplete {va : Word} {w : Walk} (hw : s.walks = [w]) (hp : w.page = va.toNat / 65536) (hh : walkHeld s w = false) :
    exec (.pageWalkComplete w.cl w.ctx va) s = .next ((clusterOf (walkCounted s w) w.cl).tracker.foldl (endWalkRetired w)
      ((threadsOf (walkCounted s w) w.cl).foldl (endWalk w) (walkCounted s w))) := by
  show execPageWalkComplete _ _ _ _ = _
  simp [execPageWalkComplete, hw, hp, hh, walkCounted]

/-- A fetch that waited for the page, and the other accesses of its thread, go on (R285). -/
theorem OneFetch.endWalk {w : Walk} (o : OneFetch t n h rc f) (hc : t.ctx = w.ctx) (hf : f.state = .walk) (hp : f.va.toNat / 65536 = w.page) :
    endWalk w s (tid, t) = (
      let found := walkLeaf s (some (tileOfCluster w.cl)) t.uid w.ctx (65536 * w.page)
      setThread (endMisses (cacheLeaf s w t.uid) w.cl t.uid w.page found) tid (fetchNow t rc f (walkedFetch s found f))) := by
  simp [Machine.endWalk, o.recomps, o.fetches, hc, hf, hp, fetchNow]

theorem walkCounted_eq (s : State) (w : Walk) : walkCounted s w = { s with walks := [], counters := (walkCounted s w).counters } :=
  countsOnly_countWalk { s with walks := [] } _ _ _ _

/-- A walk reads nothing of the walks and the counters. -/
theorem walkLeaf_walkCounted (s : State) (w : Walk) (tile : Option Nat) (o c va : Nat) :
    walkLeaf (walkCounted s w) tile o c va = walkLeaf s tile o c va := by
  rw [walkCounted_eq]
  generalize hs' : { s with walks := [], counters := (walkCounted s w).counters } = s'
  have hown (n a : Nat) : ownBytes s' o a n = ownBytes s o a n := by
    induction n generalizing a with
    | zero => rfl
    | succ n ih => rw [ownBytes, ownBytes, ih, ← hs']; rfl
  have hup (tile : Option Nat) (a : Nat) : upFrom s' tile a = upFrom s tile a := by
    simp only [upFrom, wayTo, homeUp_congr (s := s) (s' := s') (by rw [← hs']) (by rw [← hs']), routeUp_congr (s := s) (s' := s') (by rw [← hs'])]
  have hex (a : Nat) : paExists s' a = paExists s a := by rw [← hs']; rfl
  have hpo (a : Nat) : poisoned s' a 8 = poisoned s a 8 := by rw [← hs']; rfl
  have hpte (tile : Option Nat) (a : Nat) : pteRead s' tile o a = pteRead s tile o a := by
    simp only [pteRead, hown, hup, forwardedPa_congr (s := s) (s' := s') (by rw [← hs']), hex, hpo]
  have hroot : ctxRoot s' c = ctxRoot s c := by rw [← hs']; rfl
  have hbig (e : Word) : bigOk s' e = bigOk s e := by rw [← hs']; rfl
  have hsmall (e : Word) : smallOk s' e = smallOk s e := by rw [← hs']; rfl
  simp only [walkLeaf, hpte, hroot, hbig, hsmall]

/-- The end of the walk that the one fetch of a thread alone in its cluster waits for (R285). -/
theorem OneFetch.pageWalkComplete {va : Word} {w : Walk} (o : OneFetch t n h rc f) (ht : threadAt s tid = some t) (hw : s.walks = [w])
    (hcl : w.cl = tid / 4) (hc : w.ctx = t.ctx) (hp : w.page = va.toNat / 65536) (hh : walkHeld s w = false) (hf : f.state = .walk)
    (hfp : f.va.toNat / 65536 = w.page) (ho : ∀ j, j < 4 → 4 * w.cl + j ≠ tid → threadAt s (4 * w.cl + j) = none)
    {found : Option (Word × Bool)} (hfd : walkLeaf s (some (tileOfCluster w.cl)) t.uid w.ctx (65536 * w.page) = found) :
    ∃ s', exec (.pageWalkComplete w.cl w.ctx va) s = .next s' ∧ OnlyThread s s' tid ∧ s'.walks = [] ∧
      threadAt s' tid = some (fetchNow t rc f (walkedFetch s found f)) ∧
      (∀ m ∈ (clusterOf s w.cl).missed, m.owner = t.uid → m.page = w.page → m.leaf = none →
        { m with leaf := some found } ∈ (clusterOf s' w.cl).missed) ∧
      ∀ leaf big, found = some (leaf, big) → leafAllows leaf w.need = true →
        tlbFind (clusterOf s w.cl).tlb w.ctx (65536 * w.page) = none →
        tlbFind (clusterOf s' w.cl).tlb w.ctx (65536 * w.page) = some (leaf, big) := by
  have hs1 := walkCounted_eq s w
  have hleaf := walkLeaf_walkCounted s w (some (tileOfCluster w.cl)) t.uid w.ctx (65536 * w.page)
  rw [hfd] at hleaf
  have hts : threadsOf (walkCounted s w) w.cl = [(tid, t)] := by
    rw [hs1]
    exact threadsOf_alone ht hcl ho
  have hx := exec_pageWalkComplete (va := va) hw hp hh
  rw [hts, List.foldl_cons, List.foldl_nil, o.endWalk hc.symm hf hfp, hleaf] at hx
  dsimp only at hx
  have hcl1 : clusterOf (walkCounted s w) w.cl = clusterOf s w.cl := by rw [hs1]; rfl
  have hu : walkedFetch (walkCounted s w) found f = walkedFetch s found f := by rw [hs1]; rfl
  rw [hu] at hx
  let s2 := endMisses (cacheLeaf (walkCounted s w) w t.uid) w.cl t.uid w.page found
  have hg2 : WalkGoesOn (walkCounted s w) s2 w.cl w.ctx w.page :=
    (WalkGoesOn.cacheLeaf _ w t.uid).trans (WalkGoesOn.endMisses _ w.cl w.ctx _ _ _ _)
  have hg : WalkGoesOn (setThread s2 tid (fetchNow t rc f (walkedFetch s found f)))
      ((clusterOf (walkCounted s w) w.cl).tracker.foldl (endWalkRetired w) (setThread s2 tid (fetchNow t rc f (walkedFetch s found f))))
      w.cl w.ctx w.page := WalkGoesOn.foldl (fun s r => WalkGoesOn.endWalkRetired w s r) _ _
  refine ⟨_, hx, ⟨fun j hj => ?_, ?_⟩, ?_, ?_, fun m hm hmo hmp hml => ?_, fun leaf big hl ha hn => ?_⟩
  · rw [threadAt, hg.threads]
    refine (threadAt_setThread_ne s2 _ hj).trans ?_
    rw [threadAt, hg2.threads, hs1]
    rfl
  · rw [hg.mem, setThread_mem, hg2.mem, hs1]
  · rw [hg.walks, setThread_walks, hg2.walks, hs1]
  · rw [threadAt, hg.threads]
    exact threadAt_setThread_self _ _ _
  · refine hg.missed _ (mem_endMisses ?_ hmo hmp hml) rfl
    rw [cacheLeaf_missed, hcl1]
    exact hm
  · refine hg.tlb _ ((WalkGoesOn.endMisses _ w.cl w.ctx _ _ _ _).tlb _ (tlbFind_cacheLeaf (hleaf.trans hl) ha ?_))
    rw [hcl1]
    exact hn

/-! ## The obligation -/

/-- What a fetch that reads `span` bytes brings (R169, R181). -/
theorem fetchData_eq (s : State) (cl : Nat) (h : HReg) (c : List Int) (pa : Nat) : fetchData s cl h c pa =
    if reaches s cl pa && !poisoned s pa (if tdType h.td = .bpi then 32 * tdPlanes h.td else tySize (tdType h.td)) then
      .data (BitVec.ofNat 64 (if tdType h.td = .bpi then planesRead s.mem pa (bpiPos h.td c) (tdPlanes h.td)
        else natOfBytes (readBytes s.mem pa (tySize (tdType h.td)))))
    else .bad := by
  unfold fetchData
  dsimp only
  split <;> rfl

/-- Settles O41: each event with one fetch in delivery, by the laws of the return, of the landing and of the walk. -/
theorem fetchesReturnAndLand : Obligations.FetchesReturnAndLand := by
  unfold Obligations.FetchesReturnAndLand
  intro s tid n t h rc f ht hreg hrec hof hfs cl left size span bits others after now lands
  have o : OneFetch t n h rc f := ⟨hreg, hrec, hof, hfs⟩
  have hdrop (s1 : State) (u : Thread) (h1 : OnlyThread s s1 tid) :
      OnlyThread s (rsDropReg (setThread s1 tid u) (tid / 4) (tid % 4) n) tid ∧
      threadAt (rsDropReg (setThread s1 tid u) (tid / 4) (tid % 4) n) tid = some u := by
    have hts := rsDropReg_threads (setThread s1 tid u) (tid / 4) (tid % 4) n
    have hrs := rsOnly_rsDropReg (setThread s1 tid u) (tid / 4) (tid % 4) n
    refine ⟨h1.trans ((onlyThread_setThread s1 tid u).trans ⟨fun j _ => ?_, hrs.mem⟩), ?_⟩
    · rw [threadAt, hts]; rfl
    · rw [threadAt, hts]; exact threadAt_setThread_self _ _ _
  refine ⟨fun pa hf hs => ⟨fun hg => ?gated, fun hg hb hc hd => ?returns⟩, fun x hf hl hx => ?data, fun hl => ?waits, fun hf hl => ?failed,
    fun va w hw hcl hc hp => ⟨fun hh => ?held, fun hh hf hfp ho => ?walked⟩⟩
  case gated =>
    rw [o.exec_fetchReturn ht hf hs]
    rcases hg with hg | hg <;> simp [hg]
  case returns =>
    rw [o.exec_fetchReturn ht hf hs]
    have hb : bufferRoom s (tid / 4) f (fetchBytes h) = true := hb
    have hc : cutOff s (tid / 4) pa = false := hc
    rw [hg, hb, hc, decide_eq_false hd, fetchData_eq]
    refine ⟨_, rfl, ?_, threadAt_setThread_self _ _ _⟩
    refine OnlyThread.trans ⟨fun j _ => ?_, ?_⟩ (onlyThread_setThread _ tid _)
    · split
      · rw [countAccess_frame]; rfl
      · rfl
    · split
      · exact countAccess_mem s pa
      · rfl
  case waits => exact o.exec_deliveryLanding_waits ht hl
  case data =>
    have he := o.exec_deliveryLanding ht hl
    rw [hf] at he
    let sp := spWrite (clusterOf s cl).scratch (slotByte h f.slot) (bytesOfNat size x.toNat)
    let s1 := bump (setCluster s cl { clusterOf s cl with scratch := sp }) cl 3 size
    obtain ⟨ho, hu⟩ := hdrop s1 (after others) ⟨fun j _ => by rw [threadAt, bump_threads]; rfl, by rw [bump_mem]; rfl⟩
    have hsp : (clusterOf (rsDropReg (setThread s1 tid (after others)) (tid / 4) (tid % 4) n) cl).scratch = sp := by
      rw [(rsOnly_rsDropReg _ _ _ _).scratch]
      show (clusterOf s1 cl).scratch = sp
      rw [clusterOf_bump, clusterOf_setCluster_self]
    refine ⟨rsDropReg (setThread s1 tid (after others)) (tid / 4) (tid % 4) n, ⟨he, ho, hu⟩, ?_, fun y hy => ?_⟩
    · rw [hsp, spRead_spWrite_self, Nat.mod_eq_of_lt]
      rwa [show (256 : Nat) = 2 ^ 8 from rfl, ← Nat.pow_mul]
    · rw [hsp]
      exact tabGet_spWrite_outside (by rwa [length_bytesOfNat])
  case failed =>
    have he := o.exec_deliveryLanding ht hl
    refine ⟨fun hin => ?_, fun hout => ?_⟩
    · rcases hf with hf | hf
      · rw [hf, hin] at he
        exact ⟨_, he, by rw [hf]; exact hdrop s _ ⟨fun _ _ => rfl, rfl⟩⟩
      · rw [hf, hin] at he
        exact ⟨_, he, by rw [hf]; exact hdrop s _ ⟨fun _ _ => rfl, rfl⟩⟩
    · have he : exec (.deliveryLanding tid n f.id) s = .next (setThread s tid left) := by
        rw [he, hout]
        rcases hf with hf | hf <;> rw [hf] <;> rfl
      exact ⟨_, he, onlyThread_setThread _ _ _, threadAt_setThread_self _ _ _⟩
  case held => exact exec_pageWalkComplete_held hw hcl hc hp hh
  case walked =>
    intro found
    have hend := o.pageWalkComplete ht hw hcl hc hp hh hf hfp (by rw [hcl]; exact ho) rfl
    rw [hcl, hc] at hend
    exact hend

end Sys2Proof.Machine
end

section
/-! PROOFS. What a turn of one thread leaves: the thread, its cluster's scratchpad and the requests on their way, step by step. -/

namespace Sys2Proof.Machine

variable {s s' s'' : State} {tid : Nat} {t u v : Thread} {l : List Req} {sp : Tab Byte}

/-- From `s` to `s'` thread `tid` has become `u`, its cluster's scratchpad `sp`, and the requests `l` have been issued; no other thread
and no memory changes. -/
structure Leads (s s' : State) (tid : Nat) (u : Thread) (l : List Req) (sp : Tab Byte) : Prop where
  here : threadAt s' tid = some u
  only : OnlyThread s s' tid
  inflight : s'.inflight = s.inflight ++ l
  scratch : (clusterOf s' (tid / 4)).scratch = sp

namespace Leads

theorem start (ht : threadAt s tid = some t) : Leads s s tid t [] (clusterOf s (tid / 4)).scratch :=
  ⟨ht, ⟨fun _ _ => rfl, rfl⟩, (List.append_nil _).symm, rfl⟩

theorem trans {u' : Thread} {l' : List Req} {sp' : Tab Byte} (h : Leads s s' tid u l sp) (h' : Leads s' s'' tid u' l' sp') :
    Leads s s'' tid u' (l ++ l') sp' :=
  ⟨h'.here, h.only.trans h'.only, by rw [h'.inflight, h.inflight, List.append_assoc], h'.scratch⟩

/-- A step that changes neither threads nor memory, requests or scratchpads. -/
theorem quiet (h : Leads s s' tid u l sp) (ht : s''.threads = s'.threads) (hm : s''.mem = s'.mem) (hi : s''.inflight = s'.inflight)
    (hs : (clusterOf s'' (tid / 4)).scratch = (clusterOf s' (tid / 4)).scratch) : Leads s s'' tid u l sp :=
  ⟨by rw [threadAt, ht]; exact h.here, ⟨fun j hj => by rw [threadAt, ht]; exact h.only.threads j hj, hm.trans h.only.mem⟩,
    hi.trans h.inflight, hs.trans h.scratch⟩

/-- Bookkeeping of the re-steep that touches no key. -/
theorem rsOnly (h : Leads s s' tid u l sp) (hr : RsOnly s' s'') (ht : s''.threads = s'.threads) : Leads s s'' tid u l sp :=
  h.quiet ht hr.mem hr.inflight (hr.scratch _)

theorem onlyCaches (h : Leads s s' tid u l sp) (hc : OnlyCaches s' s'' (tid / 4)) : Leads s s'' tid u l sp :=
  h.quiet (by rw [hc.rest]) (by rw [hc.rest]) (by rw [hc.rest]) (by rw [hc.here])

theorem fetchesOnly (h : Leads s s' tid u l sp) (hf : FetchesOnly s' s'') : Leads s s'' tid u l sp :=
  h.quiet (by rw [hf]) (by rw [hf]) (by rw [hf]) (by rw [hf]; rfl)

theorem bump (h : Leads s s' tid u l sp) (p k n : Nat) : Leads s (bump s' p k n) tid u l sp :=
  h.quiet (bump_threads _ _ _ _) (bump_mem _ _ _ _) (bump_inflight _ _ _ _) (by rw [clusterOf_bump])

theorem rsDropReg (h : Leads s s' tid u l sp) (cl slot n : Nat) : Leads s (rsDropReg s' cl slot n) tid u l sp :=
  h.rsOnly (rsOnly_rsDropReg _ _ _ _) (rsDropReg_threads _ _ _ _)

theorem rsDropLoads (h : Leads s s' tid u l sp) (cl slot : Nat) : Leads s (rsDropLoads s' cl slot) tid u l sp :=
  h.rsOnly (rsOnly_rsDropLoads _ _ _) (rsDropLoads_threads _ _ _)

theorem rsInsert (h : Leads s s' tid u l sp) (j : Nat) (e : Entry) : Leads s (rsInsert s' j e) tid u l sp :=
  h.rsOnly (rsOnly_rsInsert _ _ _) (rsInsert_threads _ _ _)

theorem setThread (h : Leads s s' tid u l sp) (v : Thread) : Leads s (setThread s' tid v) tid v l sp :=
  ⟨threadAt_setThread_self _ _ _, h.only.trans (onlyThread_setThread _ _ _), h.inflight, h.scratch⟩

theorem modThread (h : Leads s s' tid u l sp) (f : Thread → Thread) : Leads s (modThread s' tid f) tid (f u) l sp := by
  rw [modThread_eq h.here]
  exact h.setThread _

theorem modHead (h : Leads s s' tid u l sp) {e : Entry} {r : List Entry} (hq : u.vq = e :: r) (f : Entry → Entry) :
    Leads s (modHead s' tid f) tid { u with vq := f e :: r } l sp := by
  have hm : Machine.modHead s' tid f = Machine.setThread s' tid { u with vq := f e :: r } := by
    rw [Machine.modHead, h.here]
    dsimp only
    rw [hq]
  rw [hm]
  exact h.setThread _

theorem setScratch (h : Leads s s' tid u l sp) (sp' : Tab Byte) :
    Leads s (setCluster s' (tid / 4) { clusterOf s' (tid / 4) with scratch := sp' }) tid u l sp' :=
  ⟨h.here, h.only.trans ⟨fun _ _ => rfl, rfl⟩, h.inflight, by rw [clusterOf_setCluster_self]⟩

theorem issue (h : Leads s s' tid u l sp) (r : Req) : Leads s (issue s' r) tid u (l ++ [{ r with uid := s'.uid }]) sp :=
  ⟨h.here, h.only.trans ⟨fun _ _ => rfl, rfl⟩, by rw [Machine.issue, h.inflight, List.append_assoc], h.scratch⟩

/-- The misses of a cluster are not in its scratchpad. -/
theorem endEntry (h : Leads s s' tid u l sp) (w : Thread) : Leads s (endEntry s' tid w) tid u l sp := by
  refine h.quiet (endEntry_threads _ _) (endEntry_mem _ _) (by rw [endEntry_frame]) ?_
  unfold Machine.endEntry
  split
  · rfl
  · rw [endMiss, clusterOf_modMisses]

theorem completeHead (h : Leads s s' tid u l sp) : Leads s (completeHead s' tid) tid { u with vq := u.vq.drop 1 } l sp := by
  rw [Machine.completeHead, h.here]
  exact ((h.endEntry u).setThread _).bump _ _ _

/-- A grant whose step completes the entry, whether or not it enters the reuse table. -/
theorem grant_done (h : Leads s s' tid u l sp) : Leads s (grant s tid (.done s')) tid { u with vq := u.vq.drop 1 } l sp := by
  unfold grant
  dsimp only
  split
  · exact ((h.bump _ _ _).rsInsert _ _).completeHead
  · exact (h.bump _ _ _).completeHead

theorem grant_more (h : Leads s s' tid u l sp) : Leads s (grant s tid (.more s')) tid u l sp := h.bump _ _ _

end Leads

/-- One grant of a cluster whose only thread has a step that completes its entry, or leaves it further on. -/
theorem SoleHolder.grant_leads {cl k g hi : Nat} {e : Entry} {rest r : List Entry} {e1 : Entry} {s1 : State} (h : SoleHolder s cl k g t e rest)
    (hs : laneStep s (4 * cl + k) t e = if nElems e.cap ≤ hi then .done s1 else .more (modHead s1 (4 * cl + k) (fun x => { x with k := hi })))
    (hl : Leads s s1 (4 * cl + k) u l sp) (hq : u.vq = e1 :: r) (hg : u.lgrp = t.lgrp) :
    ∃ s', exec (.issueGrant cl) s = .next s' ∧
      Leads s s' (4 * cl + k) { u with vq := if nElems e.cap ≤ hi then r else { e1 with k := hi } :: r } l sp := by
  by_cases hn : nElems e.cap ≤ hi
  · rw [if_pos hn] at hs ⊢
    have hd := hl.grant_done
    rw [hq] at hd
    exact ⟨_, h.issueGrant_eq hs (done_ne_wait _) hd.only hd.here hg, hd⟩
  · rw [if_neg hn] at hs ⊢
    have hd := (hl.modHead hq fun x => { x with k := hi }).grant_more
    exact ⟨_, h.issueGrant_eq hs (more_ne_wait _) hd.only hd.here hg, hd⟩

/-- A tag of a mask register touches no other thread where there is none in the cluster, and of its own thread only keys (R296). -/
theorem SoleHolder.leads_tag {cl k g : Nat} {e : Entry} {rest : List Entry} {s1 : State} (h : SoleHolder s cl k g t e rest)
    (hl : Leads s s1 (4 * cl + k) u l sp) (slot p : Nat) :
    ∃ v, unkeyed v = unkeyed u ∧ Leads s (rsTagMask s1 cl slot p) (4 * cl + k) v l sp := by
  have hk := h.slot
  have hr := rsOnly_rsTagMask s1 cl slot p
  obtain ⟨v, hv, hvu⟩ := hr.threadAt hl.here
  refine ⟨v, hvu, hv, ⟨fun j hj => ?_, hr.mem.trans hl.only.mem⟩, hr.inflight.trans hl.inflight, (hr.scratch _).trans hl.scratch⟩
  by_cases hc : j / 4 = cl
  · have hn : threadAt s j = none := by
      have := h.alone (j % 4) (Nat.mod_lt _ (by decide)) (by omega)
      rwa [show 4 * cl + j % 4 = j by omega] at this
    rw [hn]
    exact hr.threadAt_none ((hl.only.threads j hj).trans hn)
  · rw [rsTagMask_others slot p hc, hl.only.threads j hj]

end Sys2Proof.Machine
end

section
/-! PROOFS. Window accesses: an element group of a load and of a store (R188 to R194). -/

namespace Sys2Proof.Machine

variable {s s' : State} {t t0 u : Thread} {tid n : Nat} {e : Entry} {rest : List Entry} {h : HReg} {a : Access} {sp : Tab Byte}

/-! ## Elements in play -/

theorem vfmtGm_le (f : Word) : vfmtGm f ≤ 8 := by
  have h : fieldOf f 4 2 < 4 := by
    unfold fieldOf bitsOf
    exact Nat.mod_lt _ (by decide)
  unfold vfmtGm
  interval_cases fieldOf f 4 2 <;> decide

/-- The elements in play lie within a group of eight registers (R130, R131). -/
theorem nElems_mul_le (c : Cap) : nElems c * vfmtW c.vfmt ≤ 131072 := by
  have hn : nElems c ≤ vlmax c.vfmt := by
    unfold nElems nrows
    split
    · rw [Nat.zero_mul]; exact Nat.zero_le _
    · exact (Nat.mul_le_mul_right _ (Nat.min_le_right _ _)).trans (Nat.div_mul_le_self _ _)
  calc nElems c * vfmtW c.vfmt ≤ vlmax c.vfmt * vfmtW c.vfmt := Nat.mul_le_mul_right _ hn
    _ ≤ Config.vlen * vfmtGm c.vfmt := Nat.div_mul_le_self _ _
    _ ≤ 16384 * 8 := Nat.mul_le_mul_left _ (vfmtGm_le _)

/-! ## Slots -/

theorem tySize_pos (ty : ElemTy) : 0 < tySize ty := by cases ty <;> decide

/-- Slots of a register do not meet. -/
theorem slotByte_apart (h : HReg) {k j : Nat} (hkj : k ≠ j) :
    slotByte h k + tySize (tdType h.td) ≤ slotByte h j ∨ slotByte h j + tySize (tdType h.td) ≤ slotByte h k := by
  have hmul {k j : Nat} (hlt : k < j) : slotByte h k + tySize (tdType h.td) ≤ slotByte h j := by
    have := Nat.mul_le_mul_right (tySize (tdType h.td)) (Nat.succ_le_of_lt hlt)
    rw [Nat.succ_mul] at this
    unfold slotByte
    omega
  exact (Nat.lt_or_gt_of_ne hkj).imp hmul hmul

/-- The slot of the element at coordinates, if it is not clipped. -/
def openSlot (h : HReg) (c : List Int) : Option Nat := if isClipped h.td h.comm.limit c then none else some (slotOf (boxW h.blk) c)

/-- The slot that element i of an access meets: it is governed, in the box and not clipped (R190). -/
def elemSlot (t : Thread) (p : Nat) (h : HReg) (coord : Nat → Option (List Int)) (i : Nat) : Option Nat :=
  if maskBit t p i then (coord i).bind (openSlot h) else none

theorem openSlot_eq_some {c : List Int} {k : Nat} : openSlot h c = some k ↔ isClipped h.td h.comm.limit c = false ∧ slotOf (boxW h.blk) c = k := by
  rw [openSlot]
  split
  · next hc => simp [hc]
  · next hc => simp [hc]

theorem elemSlot_eq_some {p i k : Nat} {coord : Nat → Option (List Int)} : elemSlot t p h coord i = some k ↔
    maskBit t p i = true ∧ ∃ c, coord i = some c ∧ isClipped h.td h.comm.limit c = false ∧ slotOf (boxW h.blk) c = k := by
  rw [elemSlot]
  split
  · next hm => simp only [hm, Option.bind_eq_some_iff, openSlot_eq_some, true_and]
  · next hm => simp [hm]

/-- Lines of a register with no failed slot and nothing in delivery are full (R181). -/
theorem lineState_full (hf : h.failed = []) (hr : t.recomps = []) (n line : Nat) : lineState t n h line = .full := by
  simp [lineState, landingFetches, hf, hr]

theorem meet_slot (hf : h.failed = []) (hr : t0.recomps = []) {i k : Nat} (hk : elemSlot t0 a.p h (a.coord h) i = some k) : meet t0 a h i = .slot k := by
  obtain ⟨-, c, hc, hclip, rfl⟩ := elemSlot_eq_some.mp hk
  simp [meet, hc, hclip, lineState_full hf hr]

theorem meet_clipped {i : Nat} (hm : maskBit t0 a.p i = true) (hk : elemSlot t0 a.p h (a.coord h) i = none) (hs : (a.coord h i).isSome = true) :
    meet t0 a h i = .clipped := by
  obtain ⟨c, hc⟩ := Option.isSome_iff_exists.mp hs
  have hclip : isClipped h.td h.comm.limit c = true := by
    rw [elemSlot, if_pos hm, hc, Option.bind_some, openSlot] at hk
    by_contra hn
    rw [if_neg hn] at hk
    cases hk
  simp [meet, hc, hclip]

/-! ## A load -/

/-- What element i of a load holds, given what it held: nothing meets it where it is not governed, zero where it is clipped (R190, R194). -/
def loadValue (t0 : Thread) (a : Access) (h : HReg) (sp : Tab Byte) (i old : Nat) : Nat :=
  if maskBit t0 a.p i = false then (if a.keep then old else 0)
  else ((elemSlot t0 a.p h (a.coord h) i).map fun k => spRead sp (slotByte h k) (tySize (tdType h.td))).getD 0

/-- Elements `l` of a load have been done from `acc` on: nothing has stopped. -/
structure Loaded (t0 : Thread) (a : Access) (h : HReg) (acc acc' : WinAcc) (l : List Nat) : Prop where
  going : acc'.waits = acc.waits ∧ acc'.stop = acc.stop
  sp : acc'.sp = acc.sp
  regs : RegsOnly acc.t acc'.t
  elems : ∀ j, j * (8 * tySize (tdType h.td)) < 131072 → elem acc'.t a.d (8 * tySize (tdType h.td)) j =
    if j ∈ l then loadValue t0 a h acc.sp j (elem acc.t a.d (8 * tySize (tdType h.td)) j) else elem acc.t a.d (8 * tySize (tdType h.td)) j
  mask : a.p ≠ 0 → ∀ j, j < 16384 → maskBit acc'.t a.p j =
    (maskBit acc.t a.p j && !(decide (j ∈ l) && maskBit t0 a.p j && (elemSlot t0 a.p h (a.coord h) j).isNone))

namespace Loaded

variable {acc acc1 acc2 : WinAcc} {l : List Nat} {i : Nat}

theorem nil (t0 : Thread) (a : Access) (h : HReg) (acc : WinAcc) : Loaded t0 a h acc acc [] :=
  ⟨⟨rfl, rfl⟩, rfl, rfl, fun j _ => by simp, fun _ j _ => by simp⟩

/-- A value loaded twice is the value loaded. -/
theorem loadValue_loadValue (t0 : Thread) (a : Access) (h : HReg) (sp : Tab Byte) (i old : Nat) :
    loadValue t0 a h sp i (loadValue t0 a h sp i old) = loadValue t0 a h sp i old := by
  unfold loadValue
  split
  · split <;> rfl
  · rfl

theorem cons (h1 : Loaded t0 a h acc acc1 [i]) (h2 : Loaded t0 a h acc1 acc2 l) : Loaded t0 a h acc acc2 (i :: l) where
  going := ⟨h2.going.1.trans h1.going.1, h2.going.2.trans h1.going.2⟩
  sp := h2.sp.trans h1.sp
  regs := h1.regs.trans h2.regs
  elems := fun j hj => by
    rw [h2.elems j hj, h1.elems j hj, h1.sp]
    by_cases hji : j = i
    · subst hji
      by_cases hl : j ∈ l <;> simp [hl, loadValue_loadValue]
    · simp [hji]
  mask := fun hp j hj => by
    rw [h2.mask hp j hj, h1.mask hp j hj]
    by_cases hji : j = i
    · subst hji
      by_cases hl : j ∈ l <;> simp [hl]
    · simp [hji]

end Loaded

theorem spRead_lt_width (sp : Tab Byte) (x m : Nat) : spRead sp x m < 2 ^ (8 * m) := by
  rw [Nat.pow_mul]
  exact spRead_lt sp x m

theorem elemWidth_slot (ty : ElemTy) : elemWidth (8 * tySize ty) := by cases ty <;> simp [elemWidth, tySize, ElemTy.bits]

theorem elem_wp (t : Thread) (p : Nat) (v : VReg) (d w j : Nat) : elem (wp t p v) d w j = elem t d w j := by
  unfold wp
  split <;> rfl

/-- One element of a load, by what the thread becomes. -/
theorem Loaded.one {acc : WinAcc} {i : Nat} {c : Bool} (hregs : RegsOnly acc.t u)
    (helem : ∀ j, j * (8 * tySize (tdType h.td)) < 131072 → elem u a.d (8 * tySize (tdType h.td)) j =
      if j = i then loadValue t0 a h acc.sp i (elem acc.t a.d (8 * tySize (tdType h.td)) i) else elem acc.t a.d (8 * tySize (tdType h.td)) j)
    (hmask : a.p ≠ 0 → ∀ j, j < 16384 → maskBit u a.p j =
      (maskBit acc.t a.p j && !(decide (j = i) && maskBit t0 a.p i && (elemSlot t0 a.p h (a.coord h) i).isNone))) :
    Loaded t0 a h acc { acc with t := u, cleared := c } [i] := by
  refine ⟨⟨rfl, rfl⟩, rfl, hregs, fun j hj => ?_, fun hp j hj => ?_⟩
  · rw [helem j hj]
    by_cases hji : j = i
    · subst hji; simp
    · simp [hji]
  · rw [hmask hp j hj]
    by_cases hji : j = i
    · subst hji; simp
    · simp [hji]

/-! ## An element -/

section
variable {acc : WinAcc} {i : Nat} (hw : acc.waits = false) (hstop : acc.stop = none)
include hw hstop

theorem winElement_ungoverned (hm : maskBit t0 a.p i = false) : winElement t0 a h acc i =
    if a.store || a.keep then acc else { acc with t := setElem acc.t a.d (8 * tySize (tdType h.td)) i 0 } := by
  simp [winElement, hw, hstop, hm]

theorem winElement_clipped (hm : maskBit t0 a.p i = true) (hk : elemSlot t0 a.p h (a.coord h) i = none) (hc : (a.coord h i).isSome = true) :
    winElement t0 a h acc i = if a.store then acc else
      let u := setElem acc.t a.d (8 * tySize (tdType h.td)) i 0
      { acc with t := if a.p = 0 then u else wp u a.p (setBitAt (rp u a.p) i false), cleared := acc.cleared || decide (a.p ≠ 0) } := by
  simp [winElement, hw, hstop, hm, meet_clipped hm hk hc]

theorem winElement_slot (hf : h.failed = []) (hr : t0.recomps = []) {k : Nat} (hk : elemSlot t0 a.p h (a.coord h) i = some k) :
    winElement t0 a h acc i = if a.store then
        { acc with sp := spWrite acc.sp (slotByte h k) (bytesOfNat (tySize (tdType h.td)) (elem t0 a.d (8 * tySize (tdType h.td)) i)),
                   dirty := setAdd acc.dirty k }
      else { acc with t := setElem acc.t a.d (8 * tySize (tdType h.td)) i (spRead acc.sp (slotByte h k) (tySize (tdType h.td))) } := by
  have hm := (elemSlot_eq_some.mp hk).1
  simp [winElement, hw, hstop, hm, meet_slot hf hr hk]

end

/-- One element of a load that meets no fault and no empty line (R190). -/
theorem winElement_load (hs : a.store = false) (hf : h.failed = []) (hr : t0.recomps = []) {acc : WinAcc} (hw : acc.waits = false)
    (hstop : acc.stop = none) {i : Nat} (hi : i * (8 * tySize (tdType h.td)) < 131072)
    (hc : maskBit t0 a.p i = true → (a.coord h i).isSome = true) : Loaded t0 a h acc (winElement t0 a h acc i) [i] := by
  have hset {v : Nat} (hv : v < 2 ^ (8 * tySize (tdType h.td))) (j : Nat) (hj : j * (8 * tySize (tdType h.td)) < 131072) :
      elem (setElem acc.t a.d (8 * tySize (tdType h.td)) i v) a.d (8 * tySize (tdType h.td)) j =
        if j = i then v else elem acc.t a.d (8 * tySize (tdType h.td)) j := by
    rw [elem_setElem (elemWidth_slot _) hi hj, Nat.mod_eq_of_lt hv]
  have hzero := hset (Nat.two_pow_pos (8 * tySize (tdType h.td)))
  have hvalue (hm : maskBit t0 a.p i = true) (old : Nat) : loadValue t0 a h acc.sp i old =
      ((elemSlot t0 a.p h (a.coord h) i).map fun k => spRead acc.sp (slotByte h k) (tySize (tdType h.td))).getD 0 := by
    simp [loadValue, hm]
  have hkeep (v j : Nat) : maskBit (setElem acc.t a.d (8 * tySize (tdType h.td)) i v) a.p j = maskBit acc.t a.p j := rfl
  cases hm : maskBit t0 a.p i with
  | false =>
    rw [winElement_ungoverned hw hstop hm, hs, Bool.false_or]
    cases hk : a.keep with
    | true =>
      refine Loaded.one (u := acc.t) (c := acc.cleared) (RegsOnly.refl _) (fun j _ => ?_) (fun _ j _ => by simp [hm])
      by_cases hji : j = i
      · simp [loadValue, hm, hk, hji]
      · rw [if_neg hji]
    | false =>
      refine Loaded.one (c := acc.cleared) (regsOnly_setElem _ _ _ _ _) (fun j hj => ?_) (fun _ j _ => by simp [hm, hkeep])
      rw [hzero j hj]
      simp [loadValue, hm, hk]
  | true =>
    cases hk : elemSlot t0 a.p h (a.coord h) i with
    | none =>
      rw [winElement_clipped hw hstop hm hk (hc hm), hs]
      refine Loaded.one ?_ (fun j hj => ?_) (fun hp j hj => ?_)
      · split
        · exact regsOnly_setElem _ _ _ _ _
        · exact (regsOnly_setElem _ _ _ _ _).trans (pOnly_wp _ _ _).regs
      · rw [apply_ite (elem · _ _ _), elem_wp, ite_self, hzero j hj, hvalue hm, hk]
        rfl
      · have hb := getLsbD_foldl_setBitAt (fun _ => false) [i] (rp (setElem acc.t a.d (8 * tySize (tdType h.td)) i 0) a.p) j hj
        rw [List.foldl_cons, List.foldl_nil, getLsbD_rp hp] at hb
        rw [if_neg hp, maskBit_wp_self hp, hb, hkeep]
        by_cases hji : j = i <;> simp [hji, hm, hk]
    | some k =>
      rw [winElement_slot hw hstop hf hr hk, hs]
      refine Loaded.one (c := acc.cleared) (regsOnly_setElem _ _ _ _ _) (fun j hj => ?_) (fun _ j _ => by simp [hk, hkeep])
      rw [hset (spRead_lt_width _ _ _) j hj, hvalue hm, hk]
      rfl

/-- The elements of a load (R190). -/
theorem foldl_winElement_load (hs : a.store = false) (hf : h.failed = []) (hr : t0.recomps = []) {acc : WinAcc} (hw : acc.waits = false)
    (hstop : acc.stop = none) {l : List Nat} (hl : ∀ i ∈ l, i * (8 * tySize (tdType h.td)) < 131072)
    (hc : ∀ i ∈ l, maskBit t0 a.p i = true → (a.coord h i).isSome = true) : Loaded t0 a h acc (l.foldl (winElement t0 a h) acc) l := by
  induction l generalizing acc with
  | nil => exact Loaded.nil t0 a h acc
  | cons i l ih =>
    have h1 := winElement_load hs hf hr hw hstop (hl i List.mem_cons_self) (hc i List.mem_cons_self)
    exact h1.cons (ih (h1.going.1.trans hw) (h1.going.2.trans hstop) (fun j hj => hl j (List.mem_cons_of_mem i hj))
      fun j hj => hc j (List.mem_cons_of_mem i hj))

/-! ## Writes to slots one by one -/

/-- A write of `size` bytes where `at_` puts index i, from what stands there. -/
def spPut (size : Nat) (at_ : Nat → Option Nat) (val : Nat → Nat → Nat) (sp : Tab Byte) (i : Nat) : Tab Byte :=
  match at_ i with
  | none => sp
  | some x => spWrite sp x (bytesOfNat size (val i (spRead sp x size)))

/-- The slot of index i, if it has one, among the dirty ones. -/
def markSlot (slot : Nat → Option Nat) (d : List Nat) (i : Nat) : List Nat :=
  match slot i with
  | none => d
  | some k => setAdd d k

theorem mem_setAdd {l : List Nat} {x y : Nat} : y ∈ setAdd l x ↔ y ∈ l ∨ y = x := by
  induction l with
  | nil => simp [setAdd]
  | cons z l ih =>
    rw [setAdd]
    split
    · simp only [List.mem_cons]; tauto
    · split
      · next h => subst h; simp only [List.mem_cons]; tauto
      · simp only [List.mem_cons, ih]; tauto

theorem mem_foldl_markSlot {slot : Nat → Option Nat} {l d : List Nat} {k : Nat} :
    k ∈ l.foldl (markSlot slot) d ↔ k ∈ d ∨ ∃ i ∈ l, slot i = some k := by
  induction l generalizing d with
  | nil => simp
  | cons i l ih =>
    have h1 : k ∈ markSlot slot d i ↔ k ∈ d ∨ slot i = some k := by
      rw [markSlot]
      cases slot i with
      | none => simp
      | some x => rw [mem_setAdd, Option.some.injEq, eq_comm]
    rw [List.foldl_cons, ih, h1]
    simp only [List.mem_cons, exists_eq_or_imp, or_assoc]

section
variable {size : Nat} {at_ : Nat → Option Nat} {val : Nat → Nat → Nat} {l : List Nat}

/-- Bytes that no index writes stay. -/
theorem tabGet_foldl_spPut {y : Nat} (hy : ∀ i ∈ l, ∀ x, at_ i = some x → y < x ∨ x + size ≤ y) (sp : Tab Byte) :
    tabGet 0 (l.foldl (spPut size at_ val) sp) y = tabGet 0 sp y := by
  induction l generalizing sp with
  | nil => rfl
  | cons i l ih =>
    rw [List.foldl_cons, ih fun j hj => hy j (List.mem_cons_of_mem i hj), spPut]
    split
    · rfl
    · next x hx => exact tabGet_spWrite_outside (by rw [length_bytesOfNat]; exact hy i List.mem_cons_self x hx)

/-- A place that no index writes reads as it did, where places of different indices are equal or apart. -/
theorem spRead_foldl_spPut_none {x : Nat} (hx : ∀ i ∈ l, ∀ y, at_ i = some y → x + size ≤ y ∨ y + size ≤ x) (sp : Tab Byte) :
    spRead (l.foldl (spPut size at_ val) sp) x size = spRead sp x size :=
  spRead_congr fun z hz hz' => tabGet_foldl_spPut (fun i hi y hy => by have := hx i hi y hy; omega) sp

/-- The last index that writes a place leaves its value there, from what stood there before it. -/
theorem spRead_foldl_spPut {i x : Nat} (hl : l.Pairwise (· < ·)) (hi : i ∈ l) (hx : at_ i = some x)
    (ha : ∀ j ∈ l, ∀ y, at_ j = some y → y = x ∨ x + size ≤ y ∨ y + size ≤ x) (hlast : ∀ j ∈ l, i < j → at_ j ≠ some x)
    (hv : ∀ j old, val j old < 256 ^ size) (sp : Tab Byte) :
    ∃ old, spRead (l.foldl (spPut size at_ val) sp) x size = val i old ∧
      ((∀ j ∈ l, j ≠ i → at_ j ≠ some x) → old = spRead sp x size) := by
  induction l generalizing sp with
  | nil => cases hi
  | cons k l ih =>
    obtain ⟨hk, hl'⟩ := List.pairwise_cons.mp hl
    have hapart (j : Nat) (hj : j ∈ l) (y : Nat) (hy : at_ j = some y) (hne : at_ j ≠ some x) : x + size ≤ y ∨ y + size ≤ x :=
      (ha j (List.mem_cons_of_mem k hj) y hy).resolve_left fun h => hne (hy.trans (congrArg some h))
    rw [List.foldl_cons]
    rcases List.mem_cons.mp hi with rfl | hi'
    · refine ⟨spRead sp x size, ?_, fun _ => rfl⟩
      have hput : spPut size at_ val sp i = spWrite sp x (bytesOfNat size (val i (spRead sp x size))) := by rw [spPut, hx]
      rw [spRead_foldl_spPut_none (fun j hj y hy => hapart j hj y hy (hlast j (List.mem_cons_of_mem i hj) (hk j hj))), hput,
        spRead_spWrite_self, Nat.mod_eq_of_lt (hv _ _)]
    · obtain ⟨old, hold, hfirst⟩ := ih hl' hi' (fun j hj => ha j (List.mem_cons_of_mem k hj)) (fun j hj => hlast j (List.mem_cons_of_mem k hj))
        (spPut size at_ val sp k)
      refine ⟨old, hold, fun h => ?_⟩
      have hki : k ≠ i := (hk i hi').ne
      rw [hfirst fun j hj => h j (List.mem_cons_of_mem k hj)]
      refine spRead_foldl_spPut_none (l := [k]) (fun j hj y hy => ?_) sp
      rw [List.mem_singleton] at hj
      subst hj
      exact (ha j List.mem_cons_self y hy).resolve_left fun h' => h j List.mem_cons_self hki (hy.trans (congrArg some h'))

end

/-- The last index whose slot is `slot` leaves its value there. -/
theorem spRead_foldl_spPut_slot {size : Nat} {val : Nat → Nat → Nat} {l : List Nat} {slots : Nat → Option Nat} {byte : Nat → Nat → Nat}
    {i slot : Nat} (hl : l.Pairwise (· < ·)) (hi : i ∈ l) (hs : slots i = some slot)
    (hb : ∀ j ∈ l, ∀ k, slots j = some k →
      (byte j k = byte i slot ∧ k = slot) ∨ byte i slot + size ≤ byte j k ∨ byte j k + size ≤ byte i slot)
    (hlast : ∀ j ∈ l, i < j → slots j = some slot → byte j slot ≠ byte i slot) (hv : ∀ j old, val j old < 256 ^ size) (hpos : 0 < size) (sp : Tab Byte) :
    ∃ old, spRead (l.foldl (spPut size (fun i => (slots i).map (byte i)) val) sp) (byte i slot) size = val i old ∧
      ((∀ j ∈ l, j ≠ i → slots j ≠ some slot ∨ byte j slot ≠ byte i slot) → old = spRead sp (byte i slot) size) := by
  have hsame (j : Nat) (hj : j ∈ l) (h : (slots j).map (byte j) = some (byte i slot)) : slots j = some slot ∧ byte j slot = byte i slot := by
    obtain ⟨k, hk, hkb⟩ := Option.map_eq_some_iff.mp h
    rcases hb j hj k hk with ⟨-, rfl⟩ | h' | h'
    · exact ⟨hk, hkb⟩
    · omega
    · omega
  obtain ⟨old, hold, hfirst⟩ := spRead_foldl_spPut (at_ := fun i => (slots i).map (byte i)) (x := byte i slot) hl hi (by simp only [hs, Option.map_some])
    (fun j hj y hy => by
      obtain ⟨k, hk, rfl⟩ := Option.map_eq_some_iff.mp hy
      exact (hb j hj k hk).imp_left And.left)
    (fun j hj hij h => hlast j hj hij (hsame j hj h).1 (hsame j hj h).2) hv sp
  exact ⟨old, hold, fun h => hfirst fun j hj hji hjx => (h j hj hji).elim (· (hsame j hj hjx).1) (· (hsame j hj hjx).2)⟩

theorem pairwise_span (a b : Nat) : (span a b).Pairwise (· < ·) := by
  rw [span, List.pairwise_map]
  exact List.pairwise_lt_range.imp fun h => Nat.add_lt_add_left h a

/-! ## A store -/

/-- The elements of a store: each writes its slot and marks it (R193). -/
theorem foldl_winElement_store (hs : a.store = true) (hf : h.failed = []) (hr : t0.recomps = []) {acc : WinAcc} (hw : acc.waits = false)
    (hstop : acc.stop = none) {l : List Nat} (hc : ∀ i ∈ l, maskBit t0 a.p i = true → (a.coord h i).isSome = true) :
    l.foldl (winElement t0 a h) acc = { acc with
      sp := l.foldl (spPut (tySize (tdType h.td)) (fun i => (elemSlot t0 a.p h (a.coord h) i).map (slotByte h))
        fun i _ => elem t0 a.d (8 * tySize (tdType h.td)) i) acc.sp
      dirty := l.foldl (markSlot (elemSlot t0 a.p h (a.coord h))) acc.dirty } := by
  induction l generalizing acc with
  | nil => rfl
  | cons i l ih =>
    have hone : winElement t0 a h acc i = { acc with
        sp := spPut (tySize (tdType h.td)) (fun i => (elemSlot t0 a.p h (a.coord h) i).map (slotByte h))
          (fun i _ => elem t0 a.d (8 * tySize (tdType h.td)) i) acc.sp i
        dirty := markSlot (elemSlot t0 a.p h (a.coord h)) acc.dirty i } := by
      cases hk : elemSlot t0 a.p h (a.coord h) i with
      | none =>
        simp only [spPut, markSlot, hk, Option.map_none]
        cases hm : maskBit t0 a.p i with
        | false => rw [winElement_ungoverned hw hstop hm, hs]; rfl
        | true => rw [winElement_clipped hw hstop hm hk (hc i List.mem_cons_self hm), hs]; rfl
      | some k =>
        simp only [spPut, markSlot, hk, Option.map_some]
        rw [winElement_slot hw hstop hf hr hk, hs]
        rfl
    rw [List.foldl_cons, hone]
    refine ih ?_ ?_ fun j hj => hc j (List.mem_cons_of_mem i hj)
    · exact hw
    · exact hstop

/-! ## A grant -/

theorem accessCheck_ok (hh : tabFind t.h a.h = some h) (hm : modeAllows (blkMode h.blk) a.store = true)
    (hw : vfmtW e.cap.vfmt = 8 * tySize (tdType h.td)) : accessCheck t e.cap a = .ok h := by
  simp [accessCheck, hh, hm, hw]

/-- The elements of one grant of a window access. -/
def winAcc (s : State) (tid : Nat) (t : Thread) (e : Entry) (a : Access) (h : HReg) : WinAcc :=
  (span e.k (min (nElems e.cap) (groupEnd (vfmtW e.cap.vfmt) e.k))).foldl (winElement t a h)
    { t := t, sp := (clusterOf s (tid / 4)).scratch, dirty := h.dirty }

/-- A group that nothing stops is committed; the entry goes on with the next group, or completes (R190, R238). -/
theorem laneStep_window (ha : accessOf t e = some a) (hok : accessCheck t e.cap a = .ok h) (hw : (winAcc s tid t e a h).waits = false)
    (hs : (winAcc s tid t e a h).stop = none) :
    let hi := min (nElems e.cap) (groupEnd (vfmtW e.cap.vfmt) e.k)
    let s1 := winCommit s tid a h (winAcc s tid t e a h)
    laneStep s tid t e = if nElems e.cap ≤ hi then .done s1 else .more (modHead s1 tid fun x => { x with k := hi }) := by
  intro hi s1
  rw [laneStep, ha]
  dsimp only
  rw [winStep, hok]
  dsimp only
  rw [← winAcc, hw, hs]
  rfl

theorem RegsOnly.with_vq (h : RegsOnly t u) (q : List Entry) : { u with vq := q } = { t with v := u.v, vext := u.vext, p := u.p, vq := q } :=
  congrArg (fun z : Thread => { z with vq := q }) h

/-- What the commit of a load leaves: the thread as the elements left it, up to keys of its queue. -/
theorem SoleHolder.leads_winCommit_load {cl k g : Nat} {acc : WinAcc} (H : SoleHolder s cl k g t e rest) (hs : a.store = false)
    (hq : acc.t.vq = e :: rest) : ∃ v e1 r, Leads s (winCommit s (4 * cl + k) a h acc) (4 * cl + k) v [] acc.sp ∧
      v = { acc.t with vq := e1 :: r } ∧ r.length = rest.length := by
  let s1 := setThread (setCluster s ((4 * cl + k) / 4) { clusterOf s ((4 * cl + k) / 4) with scratch := acc.sp }) (4 * cl + k) acc.t
  have h1 : Leads s s1 (4 * cl + k) acc.t [] acc.sp := ((Leads.start H.vcp.here).setScratch acc.sp).setThread acc.t
  have hcl : (4 * cl + k) / 4 = cl := by have := H.slot; omega
  obtain ⟨v, hv, h2⟩ : ∃ v, unkeyed v = unkeyed acc.t ∧
      Leads s (if acc.cleared then rsTagMask s1 ((4 * cl + k) / 4) ((4 * cl + k) % 4) a.p else s1) (4 * cl + k) v [] acc.sp := by
    split
    · rw [hcl]
      exact H.leads_tag h1 _ _
    · exact ⟨_, rfl, h1⟩
  obtain ⟨hvt, hvq⟩ := unkeyed_eq_iff.mp hv
  rw [hq, List.map_cons] at hvq
  obtain ⟨e1, r, hq1, -, hr⟩ := List.map_eq_cons_iff.mp hvq
  let e2 : Entry := { e1 with cleared := e1.cleared || acc.cleared }
  refine ⟨{ v with vq := e2 :: r }, e2, r, ?_, ?_, by simpa using congrArg List.length hr⟩
  · have hc : winCommit s (4 * cl + k) a h acc = modHead (if acc.cleared then rsTagMask s1 ((4 * cl + k) / 4) ((4 * cl + k) % 4) a.p else s1)
        (4 * cl + k) (fun x => { x with cleared := x.cleared || acc.cleared }) := by
      simp only [winCommit, hs, Bool.false_eq_true, if_false, s1]
    rw [hc]
    exact h2.modHead hq1 _
  · rw [hvt]

/-- What the commit of a store leaves: its register with the slots that are dirty now. -/
theorem leads_winCommit_store {acc : WinAcc} (H : AtVcp s tid t e rest) (hs : a.store = true) (ht : acc.t = t) (hc : acc.cleared = false) :
    Leads s (winCommit s tid a h acc) tid { t with h := tabPut t.h a.h { h with dirty := acc.dirty } } [] acc.sp := by
  let u : Thread := { t with h := tabPut t.h a.h { h with dirty := acc.dirty } }
  let s1 := setThread (setCluster s (tid / 4) { clusterOf s (tid / 4) with scratch := acc.sp }) tid u
  have h1 : Leads s (rsDropReg s1 (tid / 4) (tid % 4) a.h) tid u [] acc.sp :=
    (((Leads.start H.here).setScratch acc.sp).setThread u).rsDropReg _ _ _
  have h2 := h1.modHead (e := e) (r := rest) H.queue fun x => { x with cleared := x.cleared || false }
  have hu : ({ u with vq := { e with cleared := e.cleared || false } :: rest } : Thread) = u := by
    rw [Bool.or_false, show e :: rest = u.vq from H.queue.symm]
  have hw : winCommit s tid a h acc = modHead (rsDropReg s1 (tid / 4) (tid % 4) a.h) tid (fun x => { x with cleared := x.cleared || false }) := by
    simp only [winCommit, hs, ht, hc, if_true, Bool.false_eq_true, if_false, s1, u]
  rw [hu] at h2
  rw [hw]
  exact h2

section
variable {cl k g : Nat} (H : SoleHolder s cl k g t e rest) (ha : accessOf t e = some a) (hh : tabFind t.h a.h = some h)
  (hm : modeAllows (blkMode h.blk) a.store = true) (hf : h.failed = []) (hr : t.recomps = [])
  (hwd : vfmtW e.cap.vfmt = 8 * tySize (tdType h.td))
include H ha hh hm hf hr hwd

/-- A grant of a load (R190, R194). -/
theorem SoleHolder.grant_load (hs : a.store = false) :
    let n := nElems e.cap
    let w := vfmtW e.cap.vfmt
    let hi := min n (groupEnd w e.k)
    (∀ i, e.k ≤ i → i < hi → maskBit t a.p i = true → (a.coord h i).isSome = true) →
    ∃ s' u, exec (.issueGrant cl) s = .next s' ∧ OnlyThread s s' (4 * cl + k) ∧ threadAt s' (4 * cl + k) = some u ∧
      (clusterOf s' cl).scratch = (clusterOf s cl).scratch ∧ u.vq.length = (if n ≤ hi then rest.length else rest.length + 1) ∧
      u = { t with v := u.v, vext := u.vext, p := u.p, vq := u.vq } ∧
      (∀ i, i * w < 131072 → elem u a.d w i = if e.k ≤ i ∧ i < hi then loadValue t a h (clusterOf s cl).scratch i (elem t a.d w i)
        else elem t a.d w i) ∧
      (a.p ≠ 0 → ∀ i, i < 16384 → maskBit u a.p i = (maskBit t a.p i &&
        !(decide (e.k ≤ i ∧ i < hi) && maskBit t a.p i && (elemSlot t a.p h (a.coord h) i).isNone))) := by
  intro n w hi hc
  have hcl : (4 * cl + k) / 4 = cl := by have := H.slot; omega
  have hspan (i : Nat) (hi' : i ∈ span e.k hi) : i * (8 * tySize (tdType h.td)) < 131072 := by
    have hn := nElems_mul_le e.cap
    rw [← hwd]
    have hlt : i < nElems e.cap := (mem_span.mp hi').2.trans_le (Nat.min_le_left _ _)
    have hpos : 0 < vfmtW e.cap.vfmt := by
      rcases elemWidth_bits (vfmtTy e.cap.vfmt) with h | h | h | h <;> rw [vfmtW, h] <;> decide
    exact (Nat.mul_lt_mul_of_pos_right hlt hpos).trans_le hn
  have hld : Loaded t a h { t := t, sp := (clusterOf s ((4 * cl + k) / 4)).scratch, dirty := h.dirty } (winAcc s (4 * cl + k) t e a h) (span e.k hi) :=
    foldl_winElement_load hs hf hr rfl rfl hspan fun i hi' hmi => hc i (mem_span.mp hi').1 (mem_span.mp hi').2 hmi
  have hstep := laneStep_window (tid := 4 * cl + k) ha (accessCheck_ok hh hm hwd) hld.going.1 hld.going.2
  generalize winAcc s (4 * cl + k) t e a h = acc at hld hstep
  rw [hcl] at hld
  have hq : acc.t.vq = e :: rest := by rw [hld.regs]; exact H.vcp.queue
  obtain ⟨v, e1, r, hv, hvt, hrl⟩ := H.leads_winCommit_load (h := h) hs hq
  obtain ⟨s', hx, hl⟩ := H.grant_leads hstep hv (by rw [hvt]) (by rw [hvt, hld.regs])
  have hpos : vfmtW e.cap.vfmt = w := rfl
  refine ⟨s', _, hx, hl.only, hl.here, ?_, ?_, ?_, fun i hi' => ?_, fun hp i hi' => ?_⟩
  · have := hl.scratch
    rw [hcl] at this
    rw [this, hld.sp]
  · rw [apply_ite List.length, List.length_cons, hrl]
  · rw [hvt]
    exact hld.regs.with_vq _
  · have he := hld.elems i (by rw [← hwd]; exact hi')
    rw [← hwd] at he
    simp only [mem_span] at he
    rw [hvt]
    exact he
  · have he := hld.mask hp i hi'
    simp only [mem_span] at he
    rw [hvt]
    exact he

/-- A grant of a store (R190, R193). -/
theorem SoleHolder.grant_store (hs : a.store = true) :
    let n := nElems e.cap
    let w := vfmtW e.cap.vfmt
    let hi := min n (groupEnd w e.k)
    let stores (i slot : Nat) : Prop := (e.k ≤ i ∧ i < hi) ∧ elemSlot t a.p h (a.coord h) i = some slot
    (∀ i, e.k ≤ i → i < hi → maskBit t a.p i = true → (a.coord h i).isSome = true) →
    ∃ s' x, exec (.issueGrant cl) s = .next s' ∧ OnlyThread s s' (4 * cl + k) ∧ threadAt s' (4 * cl + k) = some { t with
        h := tabPut t.h a.h { h with dirty := x }, vq := if n ≤ hi then rest else { e with k := hi } :: rest } ∧
      (∀ i slot, stores i slot → (∀ j, i < j → ¬ stores j slot) →
        spRead (clusterOf s' cl).scratch (slotByte h slot) (w / 8) = elem t a.d w i) ∧
      (∀ y, (∀ i slot, stores i slot → y < slotByte h slot ∨ slotByte h slot + w / 8 ≤ y) →
        tabGet 0 (clusterOf s' cl).scratch y = tabGet 0 (clusterOf s cl).scratch y) ∧
      (∀ slot, slot ∈ x ↔ slot ∈ h.dirty ∨ ∃ i, stores i slot) := by
  intro n w hi stores hc
  have hcl : (4 * cl + k) / 4 = cl := by have := H.slot; omega
  have hw8 : w / 8 = tySize (tdType h.td) := by rw [show w = 8 * tySize (tdType h.td) from hwd, Nat.mul_div_cancel_left _ (by decide)]
  have hfold := foldl_winElement_store (acc := { t := t, sp := (clusterOf s ((4 * cl + k) / 4)).scratch, dirty := h.dirty }) hs hf hr rfl rfl
    (l := span e.k hi) fun i hi' hmi => hc i (mem_span.mp hi').1 (mem_span.mp hi').2 hmi
  have hacc : winAcc s (4 * cl + k) t e a h = _ := hfold
  have hstep := laneStep_window (s := s) (tid := 4 * cl + k) ha (accessCheck_ok hh hm hwd) (by rw [hacc]) (by rw [hacc])
  have hv := leads_winCommit_store (acc := winAcc s (4 * cl + k) t e a h) (h := h) H.vcp hs (by rw [hacc]) (by rw [hacc])
  obtain ⟨s', hx, hl⟩ := H.grant_leads hstep hv H.vcp.queue rfl
  have hsp := hl.scratch
  rw [hcl, hacc] at hsp
  dsimp only at hsp
  rw [hcl] at hsp
  refine ⟨s', (winAcc s (4 * cl + k) t e a h).dirty, hx, hl.only, hl.here, fun i slot hst hlast => ?_, fun y hy => ?_, fun slot => ?_⟩
  · obtain ⟨old, hold, -⟩ := spRead_foldl_spPut_slot (byte := fun _ => slotByte h) (i := i) (slot := slot)
      (val := fun i _ => elem t a.d (8 * tySize (tdType h.td)) i) (pairwise_span e.k hi)
      (mem_span.mpr hst.1) hst.2 (fun j _ k' _ => (eq_or_ne k' slot).imp (fun hk => ⟨congrArg _ hk, hk⟩) fun hk => slotByte_apart h hk.symm) (fun j hj hij hk _ => hlast j hij ⟨mem_span.mp hj, hk⟩)
      (fun j _ => by rw [show (256 : Nat) = 2 ^ 8 from rfl, ← Nat.pow_mul]; exact elem_lt _ _ _ _) (tySize_pos _) (clusterOf s cl).scratch
    rw [hsp, hw8, show w = 8 * tySize (tdType h.td) from hwd]
    exact hold
  · rw [hsp]
    refine tabGet_foldl_spPut (fun i hi' x hx' => ?_) _
    obtain ⟨slot, hslot, rfl⟩ := Option.map_eq_some_iff.mp hx'
    rw [← hw8]
    exact hy i slot ⟨mem_span.mp hi', hslot⟩
  · rw [hacc, mem_foldl_markSlot]
    simp only [mem_span, stores]

end

/-! ## The obligations -/

/-- What a load gives an ungoverned element. -/
theorem loadValue_ungoverned {i old : Nat} (hm : maskBit t a.p i = false) : loadValue t a h sp i old = if a.keep then old else 0 := if_pos hm

/-- What a load gives a governed element inside the box. -/
theorem loadValue_governed {i old : Nat} {c : List Int} (hm : maskBit t a.p i = true) (hc : a.coord h i = some c) : loadValue t a h sp i old =
    if isClipped h.td h.comm.limit c then 0 else spRead sp (slotByte h (slotOf (boxW h.blk) c)) (tySize (tdType h.td)) := by
  rw [loadValue, if_neg (by rw [hm]; decide), elemSlot, if_pos hm, hc, Option.bind_some, openSlot]
  split <;> rfl

theorem elemSlot_isNone {i : Nat} {c : List Int} (hm : maskBit t a.p i = true) (hc : a.coord h i = some c) :
    (elemSlot t a.p h (a.coord h) i).isNone = isClipped h.td h.comm.limit c := by
  rw [elemSlot, if_pos hm, hc, Option.bind_some, openSlot]
  cases isClipped h.td h.comm.limit c <;> rfl

/-- Settles O27: one grant of a load of either form, element by element. -/
theorem windowLoadReadsScratchpad : Obligations.WindowLoadReadsScratchpad := by
  unfold Obligations.WindowLoadReadsScratchpad
  intro s cl k g t e rest h d a b p rd cd str iw keep H hi hh hmode hf hr hwd n w hiEnd place hc
  obtain ⟨A, hA, hAh, hAd, hAp, hAs, hAk, hAc⟩ : ∃ A, accessOf t e = some A ∧ A.h = a.toNat ∧ A.d = d.toNat ∧ A.p = p.toNat ∧
      A.store = false ∧ A.keep = keep ∧ ∀ i, A.coord h i = place i := by
    rcases hi with hi | hi
    · exact ⟨_, by rw [accessOf, hi], rfl, rfl, rfl, rfl, rfl, fun i => (if_pos hi).symm⟩
    · refine ⟨_, by rw [accessOf, hi], rfl, rfl, rfl, rfl, rfl, fun i => ?_⟩
      rw [show place i = indexCoord h (elem t b.toNat _ i) from if_neg (by rw [hi]; exact Instr.noConfusion)]
      cases iw <;> rfl
  rw [← hAh] at hh
  have hmode' : modeAllows (blkMode h.blk) A.store = true := by
    rw [hAs]
    rcases hmode with h | h <;> rw [h] <;> rfl
  rw [← hAp, ← hAd, ← hAk]
  rw [← hAp] at hc
  simp only [← hAc] at hc ⊢
  obtain ⟨s', u, hx, ho, hu, hsp, hlen, hut, helem, hmask⟩ := H.grant_load hA hh hmode' hf hr hwd hAs hc
  have hw8 : w / 8 = tySize (tdType h.td) := by rw [show w = 8 * tySize (tdType h.td) from hwd, Nat.mul_div_cancel_left _ (by decide)]
  have helem' (i : Nat) (hi : i * w < 131072) : elem u A.d w i =
      if e.k ≤ i ∧ i < hiEnd then loadValue t A h (clusterOf s cl).scratch i (elem t A.d w i) else elem t A.d w i := helem i hi
  have hmask' (hp : A.p ≠ 0) (i : Nat) (hi : i < 16384) : maskBit u A.p i = (maskBit t A.p i &&
      !(decide (e.k ≤ i ∧ i < hiEnd) && maskBit t A.p i && (elemSlot t A.p h (A.coord h) i).isNone)) := hmask hp i hi
  refine ⟨s', u, hx, ho, hu, hsp, hlen, hut, fun i hi => ?_, fun i hp hi => ?_⟩
  · rw [helem' i hi]
    by_cases hin : e.k ≤ i ∧ i < hiEnd
    · rw [if_pos hin, if_neg (not_not.mpr hin)]
      cases hm : maskBit t A.p i with
      | false => rw [loadValue_ungoverned hm, if_pos rfl]
      | true =>
        obtain ⟨c, hcc⟩ := Option.isSome_iff_exists.mp (hc i hin.1 hin.2 hm)
        rw [loadValue_governed hm hcc, hcc, hw8, if_neg (c := true = false) Bool.noConfusion]
    · rw [if_neg hin, if_pos hin]
  · rw [hmask' (by omega) i hi]
    cases hm : maskBit t A.p i with
    | false => rfl
    | true =>
      by_cases hin : e.k ≤ i ∧ i < hiEnd
      · obtain ⟨c, hcc⟩ := Option.isSome_iff_exists.mp (hc i hin.1 hin.2 hm)
        rw [elemSlot_isNone hm hcc, hcc]
        simp [hin]
      · simp [hin]

/-- Settles O28: one grant of a store of either form; the last store of a slot wins. -/
theorem windowStoreWritesScratchpad : Obligations.WindowStoreWritesScratchpad := by
  unfold Obligations.WindowStoreWritesScratchpad
  intro s cl k g t e rest h d a b p rd cd str iw H hi hh hmode hf hr hwd n w hiEnd place stores hc
  obtain ⟨A, hA, hAh, hAd, hAp, hAs, hAc⟩ : ∃ A, accessOf t e = some A ∧ A.h = a.toNat ∧ A.d = d.toNat ∧ A.p = p.toNat ∧
      A.store = true ∧ A.coord h = place := by
    rcases hi with hi | hi
    · exact ⟨_, by rw [accessOf, hi], rfl, rfl, rfl, rfl, funext fun i => (if_pos hi).symm⟩
    · refine ⟨_, by rw [accessOf, hi], rfl, rfl, rfl, rfl, funext fun i => ?_⟩
      rw [show place i = indexCoord h (elem t b.toNat _ i) from if_neg (by rw [hi]; exact Instr.noConfusion)]
      cases iw <;> rfl
  rw [← hAh] at hh
  have hmode' : modeAllows (blkMode h.blk) A.store = true := by
    rw [hAs]
    rcases hmode with h | h <;> rw [h] <;> rfl
  have hst (i slot : Nat) : stores i slot ↔ (e.k ≤ i ∧ i < hiEnd) ∧ elemSlot t A.p h (A.coord h) i = some slot := by
    rw [elemSlot_eq_some, hAp, hAc, and_assoc]
  obtain ⟨s', x, hx, ho, hu, hlast, hout, hdirty⟩ := H.grant_store hA hh hmode' hf hr hwd hAs
    (fun i h1 h2 hm => by rw [hAc]; rw [hAp] at hm; exact hc i h1 h2 hm)
  refine ⟨s', _, x, hx, ho, hu, rfl, fun i slot hs hl => ?_, fun y hy => hout y fun i slot hs => hy i slot ((hst i slot).mpr hs), ?_, fun slot => ?_,
    fun j hj => ?_⟩
  · rw [← hAd]
    exact hlast i slot ((hst i slot).mp hs) fun j hj hs' => hl j hj ((hst j slot).mpr hs')
  · rw [← hAh]
    exact tabFind_tabPut_self _ _ _
  · simp only [hdirty, hst]
    rfl
  · exact tabFind_tabPut_ne _ _ (by rw [hAh]; exact hj)

end Sys2Proof.Machine
end

section
/-! PROOFS. Write-back: what hands dirty elements to their homes (R182, R236, R260). -/

namespace Sys2Proof.Machine

variable {s s' : State} {t u : Thread} {tid n seq : Nat} {h : HReg} {part : Bool} {pa : Nat → Nat}

/-! ## Translations that hit -/

theorem stopped_congr (hf : s'.fence = s.fence) (hs : s'.silent = s.silent) : stopped s' = stopped s := by
  funext x
  simp only [stopped, hs, inService_congr hf]

theorem cutOff_congr (hf : s'.fence = s.fence) (hs : s'.silent = s.silent) (cl a : Nat) : cutOff s' cl a = cutOff s cl a := by
  simp only [cutOff, stuckFrom, stuckTo, wayStopped, stopped_congr hf hs, way, wayFrom_congr hf]

/-- An access that its cluster's cache serves and its home can perform translates at once and changes nothing (R284, R285). -/
theorem Reaches.xlate {cl p m : Nat} {va : Word} {need : Need} (r : Reaches s cl t va m need p) (o id : Nat) :
    xlate s cl o id t.ctx t.area va.toNat need = (.ok p, s) := by
  obtain ⟨leaf, big, hl, ha, hp⟩ := r.cached
  rw [Machine.xlate, if_neg (Nat.not_le.mpr r.inside), hl]
  dsimp only
  rw [xlateLeaf, ha, hp, r.open_]
  rfl

theorem reaches_congr (hf : s'.fence = s.fence) (hp : s'.ports = s.ports) (cl a : Nat) : reaches s' cl a = reaches s cl a := by
  simp only [reaches, reachesFrom, homeUp_congr hf hp, routeUp_congr hf]

/-- Requests on their way, numbered from the next number on. -/
def issued (s : State) (l : List Req) : State := { s with uid := s.uid + l.length, inflight := s.inflight ++ l }

theorem issued_nil (s : State) : issued s [] = s := by simp [issued]

theorem issued_issued (s : State) (l l' : List Req) : issued (issued s l) l' = issued s (l ++ l') := by
  simp [issued, Nat.add_assoc]

/-- Requests on their way are nothing to a translation. -/
theorem Reaches.issued {cl p m : Nat} {va : Word} {need : Need} (r : Reaches s cl t va m need p) (l : List Req) :
    Reaches (issued s l) cl t va m need p where
  inside := r.inside
  cached := r.cached
  open_ := (cutOff_congr (s := s) rfl rfl cl p).trans r.open_
  up := (reaches_congr (s := s) rfl rfl cl p).trans r.up
  clean := r.clean

theorem Leads.issued {v : Thread} {l l' : List Req} {sp : Tab Byte} (h : Leads s s' tid v l sp) : Leads s (issued s' l') tid v (l ++ l') sp :=
  ⟨h.here, h.only.trans ⟨fun _ _ => rfl, rfl⟩, by rw [Machine.issued, h.inflight, List.append_assoc], h.scratch⟩

/-! ## Elements handed back -/

/-- The element in a slot of a register travels: it is not clipped, and its home can be reached (R182, R287). -/
structure Travels (s : State) (cl : Nat) (t : Thread) (h : HReg) (pa : Nat → Nat) (k : Nat) : Prop where
  open_ : isClipped h.td h.comm.limit (coordOfSlot h.comm.lo (boxW h.blk) k) = false
  nonneg : 0 ≤ elemVa h.td (coordOfSlot h.comm.lo (boxW h.blk) k)
  inside : elemVa h.td (coordOfSlot h.comm.lo (boxW h.blk) k) < 2 ^ 52
  home : Reaches s cl t (BitVec.ofInt 64 (elemVa h.td (coordOfSlot h.comm.lo (boxW h.blk) k))) (tySize (tdType h.td)) needW (pa k)

theorem toNat_ofInt_52 {va : Int} (h0 : 0 ≤ va) (h1 : va < 2 ^ 52) : (BitVec.ofInt 64 va).toNat = va.toNat := by
  rw [BitVec.toNat_ofInt]
  congr 1
  exact Int.emod_eq_of_lt h0 (by norm_num at h1 ⊢; omega)

theorem Travels.issued {cl k : Nat} (g : Travels s cl t h pa k) (l : List Req) : Travels (issued s l) cl t h pa k :=
  ⟨g.open_, g.nonneg, g.inside, g.home.issued l⟩

/-- The request that writes a slot back for an entry (R182, R236). -/
def backReq (sp : Tab Byte) (t : Thread) (cl seq : Nat) (part : Bool) (h : HReg) (pa : Nat → Nat) (uid k : Nat) : Req :=
  { uid := uid, seq := seq, part := part, owner := t.uid, launch := t.launch, cluster := cl, strong := decide (blkMode h.blk = modeAcc),
    kind := backKind sp h k (coordOfSlot h.comm.lo (boxW h.blk) k) (pa k) }

/-- The requests of some slots, numbered from `uid` on. -/
def backReqs (sp : Tab Byte) (t : Thread) (cl seq : Nat) (part : Bool) (h : HReg) (pa : Nat → Nat) (uid : Nat) (l : List Nat) : List Req :=
  (l.zipIdx).map fun x => backReq sp t cl seq part h pa (uid + x.2) x.1

theorem backReqs_cons (sp : Tab Byte) (cl uid k : Nat) (l : List Nat) : backReqs sp t cl seq part h pa uid (k :: l) =
    backReq sp t cl seq part h pa uid k :: backReqs sp t cl seq part h pa (uid + 1) l := by
  unfold backReqs
  rw [List.zipIdx_cons, List.map_cons, List.zipIdx_succ, List.map_map]
  congr 1
  refine List.map_congr_left fun x _ => ?_
  rw [Function.comp_apply, Nat.add_assoc, Nat.add_comm 1]

/-- A request of the thread that counts by itself is one operation more in the stores class (R272). -/
theorem storesCount_issued (s : State) (t : Thread) {r : Req} (ho : r.owner = t.uid) (hp : r.part = false) :
    storesCount (issued s [r]) t = storesCount s t + 1 := by
  simp [storesCount, issued, ho, hp, List.filter_append]
  omega

/-- Elements that all travel, with room in the stores class, are issued one by one (R182, R318). -/
theorem handBack_travels {l : List Nat} (hl : ∀ k ∈ l, Travels s (tid / 4) t h pa k)
    (hc : part = false → storesCount s t + l.length ≤ 65535) (low : Option Int) : handBack s tid t h seq part l low =
      (issued s (backReqs (clusterOf s (tid / 4)).scratch t (tid / 4) seq part h pa s.uid l), low, []) := by
  induction l generalizing s with
  | nil => rw [handBack, backReqs, List.zipIdx_nil, List.map_nil, issued_nil]
  | cons k l ih =>
    have g := hl k List.mem_cons_self
    have hx := g.home.xlate t.uid (if t.vq.any (fun e => e.uid = seq) then seq else t.uid)
    rw [toNat_ofInt_52 g.nonneg g.inside] at hx
    have hroom : (!part && decide (classMax ≤ storesCount s t)) = false := by
      cases hp : part with
      | true => rfl
      | false =>
        have := hc hp
        rw [List.length_cons] at this
        rw [decide_eq_false (by unfold classMax; omega)]
        rfl
    let r := backReq (clusterOf s (tid / 4)).scratch t (tid / 4) seq part h pa s.uid k
    have hissue : backRequest s tid t h seq part k (pa k) = issued s [r] := by
      rw [backRequest, if_pos g.home.up]
      rfl
    have hnext := ih (s := issued s [r]) (fun j hj => (hl j (List.mem_cons_of_mem k hj)).issued _) fun hp => by
      have := hc hp
      rw [List.length_cons] at this
      rw [storesCount_issued s t rfl hp]
      omega
    have hinside := g.inside
    have hnonneg := g.nonneg
    rw [handBack, g.open_, if_neg Bool.false_ne_true, if_neg (by omega), hx]
    dsimp only
    rw [hroom, if_neg Bool.false_ne_true, hissue, hnext, issued_issued, backReqs_cons]
    rfl

/-! ## Zeroes -/

/-- Places of `m` bytes become zero. -/
def zeroPlaces (m : Nat) (l : List Nat) (sp : Tab Byte) : Tab Byte := l.foldl (fun sp a => spWrite sp a (bytesOfNat m 0)) sp

theorem zeroPlaces_append (m : Nat) (l l' : List Nat) (sp : Tab Byte) : zeroPlaces m (l ++ l') sp = zeroPlaces m l' (zeroPlaces m l sp) := List.foldl_append

theorem getD_bytesOfNat_zero (m i : Nat) : (bytesOfNat m 0).getD i 0 = 0 := by
  induction m generalizing i with
  | zero => rfl
  | succ m ih =>
    cases i with
    | zero => rfl
    | succ i => rw [bytesOfNat, List.getD_cons_succ]; exact ih i

/-- A byte of a place that becomes zero is zero; every other is as it was. -/
theorem tabGet_zeroPlaces (m : Nat) (l : List Nat) (sp : Tab Byte) (x : Nat) :
    tabGet 0 (zeroPlaces m l sp) x = if ∃ a ∈ l, a ≤ x ∧ x < a + m then 0 else tabGet 0 sp x := by
  induction l generalizing sp with
  | nil => rw [if_neg (by simp)]; rfl
  | cons a l ih =>
    have h1 : zeroPlaces m (a :: l) sp = zeroPlaces m l (spWrite sp a (bytesOfNat m 0)) := rfl
    rw [h1, ih, tabGet_spWrite, length_bytesOfNat, getD_bytesOfNat_zero]
    by_cases h : ∃ b ∈ l, b ≤ x ∧ x < b + m
    · obtain ⟨b, hb, hx⟩ := h
      rw [if_pos ⟨b, hb, hx⟩, if_pos ⟨b, List.mem_cons_of_mem a hb, hx⟩]
    · rw [if_neg h]
      simp only [List.mem_cons, exists_eq_or_imp, h, or_false]

theorem natOfBytes_zeros (l : List Byte) (h : ∀ b ∈ l, b = 0) : natOfBytes l = 0 := by
  induction l with
  | nil => rfl
  | cons b l ih =>
    rw [natOfBytes, h b List.mem_cons_self, ih fun c hc => h c (List.mem_cons_of_mem b hc)]
    rfl

theorem spRead_zeroPlaces {m a : Nat} {l : List Nat} (h : a ∈ l) (sp : Tab Byte) : spRead (zeroPlaces m l sp) a m = 0 := by
  refine natOfBytes_zeros _ fun b hb => ?_
  obtain ⟨i, hi, rfl⟩ := List.mem_map.mp hb
  rw [List.mem_range] at hi
  rw [tabGet_zeroPlaces, if_pos ⟨a, h, by omega⟩]

/-- The places of the 64 copies of some slots of an accumulation window (R257). -/
def copies (h : HReg) (slots : List Nat) : List Nat := slots.flatMap fun k => (List.range 64).map fun l => copyByte h l k

theorem copyByte_mem_copies {l k : Nat} {slots : List Nat} (hk : k ∈ slots) (hl : l < 64) : copyByte h l k ∈ copies h slots :=
  List.mem_flatMap.mpr ⟨k, hk, List.mem_map.mpr ⟨l, List.mem_range.mpr hl, rfl⟩⟩

theorem zeroCopies_eq (s : State) (cl : Nat) (h : HReg) (slots : List Nat) : zeroCopies s cl h slots =
    setCluster s cl { clusterOf s cl with scratch := zeroPlaces (tySize (tdType h.td)) (copies h slots) (clusterOf s cl).scratch } := by
  simp only [zeroCopies, zeroPlaces, copies, List.foldl_flatMap, List.foldl_map]

theorem zeroSlots_eq (s : State) (cl : Nat) (h : HReg) (slots : List Nat) : zeroSlots s cl h slots =
    setCluster s cl { clusterOf s cl with scratch := zeroPlaces (tySize (tdType h.td)) (slots.map (slotByte h)) (clusterOf s cl).scratch } := by
  simp only [zeroSlots, zeroPlaces, List.foldl_map]

namespace Leads

variable {l : List Req} {sp : Tab Byte}

theorem zeroCopies (L : Leads s s' tid u l sp) (h : HReg) (slots : List Nat) :
    Leads s (zeroCopies s' (tid / 4) h slots) tid u l (zeroPlaces (tySize (tdType h.td)) (copies h slots) sp) := by
  rw [zeroCopies_eq, L.scratch]
  exact L.setScratch _

theorem zeroSlots (L : Leads s s' tid u l sp) (h : HReg) (slots : List Nat) :
    Leads s (zeroSlots s' (tid / 4) h slots) tid u l (zeroPlaces (tySize (tdType h.td)) (slots.map (slotByte h)) sp) := by
  rw [zeroSlots_eq, L.scratch]
  exact L.setScratch _

/-- Nothing is posted where no element was lost (R378). -/
theorem postLost (L : Leads s s' tid u l sp) (hu : u.lost = none) : Leads s (postLost s' tid) tid u l sp := by
  have h : Machine.postLost s' tid = s' := by
    rw [Machine.postLost, L.here]
    dsimp only
    rw [hu]
  rw [h]
  exact L

end Leads

/-! ## Registers left clean -/

/-- The scratchpad once some slots of a register have been handed back: the copies of an accumulation window are zero (R260). -/
def backScratch (h : HReg) (out : List Nat) (sp : Tab Byte) : Tab Byte :=
  if blkMode h.blk = modeAcc then zeroPlaces (tySize (tdType h.td)) (copies h out) sp else sp

/-- Slots that all travel leave a register and are clean (R182). -/
theorem cleanSome_travels (ht : threadAt s tid = some t) (hh : tabFind t.h n = some h) {slots out : List Nat}
    (hout : h.dirty.filter (fun k => k ∈ slots) = out) (hl : ∀ k ∈ out, Travels s (tid / 4) t h pa k)
    (hc : part = false → out ≠ [] → storesCount s t + out.length ≤ 65535) :
    ∃ s' u, cleanSome s tid n seq part slots = (s', true) ∧
      Leads s s' tid u (backReqs (clusterOf s (tid / 4)).scratch t (tid / 4) seq part h pa s.uid out)
        (backScratch h out (clusterOf s (tid / 4)).scratch) ∧
      u = { t with h := if out = [] then t.h else tabPut t.h n { h with dirty := h.dirty.filter (fun k => k ∉ out) } } := by
  have L := Leads.start ht
  by_cases ho : out = []
  · refine ⟨s, t, ?_, ?_, by rw [if_pos ho]⟩
    · rw [cleanSome, ht]
      dsimp only
      rw [hh]
      dsimp only
      rw [hout, if_pos ho]
    · have hb : backScratch h out (clusterOf s (tid / 4)).scratch = (clusterOf s (tid / 4)).scratch := by
        rw [backScratch, ho]
        exact ite_self _
      rw [hb, ho]
      exact L
  · let reqs := backReqs (clusterOf s (tid / 4)).scratch t (tid / 4) seq part h pa s.uid out
    let v : Thread := { t with h := tabPut t.h n { h with dirty := h.dirty.filter (fun k => k ∉ out) } }
    let s1 := if blkMode h.blk = modeAcc then zeroCopies (issued s reqs) (tid / 4) h out else issued s reqs
    have L1 : Leads s s1 tid t reqs (backScratch h out (clusterOf s (tid / 4)).scratch) := by
      unfold backScratch s1
      split
      · exact (L.issued (l' := reqs)).zeroCopies h out
      · exact L.issued (l' := reqs)
    refine ⟨rsDropReg (setThread s1 tid v) (tid / 4) (tid % 4) n, v, ?_, (L1.setThread v).rsDropReg _ _ _, by rw [if_neg ho]⟩
    have hgone : out.filter (fun k => ¬ k ∈ ([] : List Nat)) = out := by simp
    rw [cleanSome, ht]
    dsimp only
    rw [hh]
    dsimp only
    rw [hout, if_neg ho, handBack_travels hl fun hp => hc hp ho]
    dsimp only
    rw [hgone, if_neg ho]
    rfl

/-- Every dirty slot of a register travels and is clean (R182). -/
theorem cleanReg_travels (ht : threadAt s tid = some t) (hh : tabFind t.h n = some h) (hl : ∀ k ∈ h.dirty, Travels s (tid / 4) t h pa k)
    (hc : part = false → h.dirty ≠ [] → storesCount s t + h.dirty.length ≤ 65535) :
    ∃ s' u, cleanReg s tid n seq part = (s', true) ∧
      Leads s s' tid u (backReqs (clusterOf s (tid / 4)).scratch t (tid / 4) seq part h pa s.uid h.dirty)
        (backScratch h h.dirty (clusterOf s (tid / 4)).scratch) ∧
      u = { t with h := if h.dirty = [] then t.h else tabPut t.h n { h with dirty := [] } } := by
  obtain ⟨s', u, hs, hu, hut⟩ := cleanSome_travels (seq := seq) (slots := h.dirty) ht hh (List.filter_eq_self.mpr fun k hk => by simpa using hk) hl hc
  refine ⟨s', u, ?_, hu, ?_⟩
  · rw [cleanReg, ht, Option.bind_some, hh]
    exact hs
  · rw [hut, List.filter_eq_nil_iff.mpr fun k hk => by simpa using hk]

/-- An entry whose engine completes it leaves what the engine left, with the entry gone (R27). -/
theorem AtVcp.completesTo {e : Entry} {rest : List Entry} {s1 : State} {l : List Req} {sp : Tab Byte} (H : AtVcp s tid t e rest)
    (hl : needsLanes e.instr = false) (he : engineAtVcp s tid t e = .done s1) (L : Leads s s1 tid u l sp) (hq : u.vq = t.vq) :
    CompletesTo s (completeHead s1 tid) tid u rest ∧ Leads s (completeHead s1 tid) tid { u with vq := rest } l sp := by
  have hd := L.completeHead
  rw [hq, H.queue, List.drop_one, List.tail_cons] at hd
  exact ⟨⟨by rw [exec_entryAtVcp_engine H hl, he, settle], hd.only, hd.here⟩, hd⟩

end Sys2Proof.Machine
end

section
/-! PROOFS. Accumulation windows: an element group of updates, and the merge and the clearing of a whole window (R257 to R260). -/

namespace Sys2Proof.Machine

variable {s s' : State} {t u : Thread} {tid n : Nat} {e : Entry} {rest : List Entry} {h : HReg} {d a b : Reg} {p : PReg} {ty : ElemTy}

/-! ## Copies -/

/-- The slot of an element lies in its register's box when no width is zero (R170, R173). -/
theorem slotOf_lt {blk : List Byte} {c : List Int} (hw : ∀ n, n < 4 → 0 < blkW blk n) : slotOf (boxW blk) c < boxV blk := by
  have digit (n : Nat) (hn : n < 4) (x : Int) : (x % ((blkW blk n : Nat) : Int)).toNat < blkW blk n := by
    have h0 := hw n hn
    have h1 := Int.emod_nonneg x (b := ((blkW blk n : Nat) : Int)) (by omega)
    have h2 := Int.emod_lt_of_pos x (b := ((blkW blk n : Nat) : Int)) (by omega)
    omega
  have step {x y v w : Nat} (hx : x < v) (hy : y < w) : x + y * v < v * w := by
    calc x + y * v < v + y * v := Nat.add_lt_add_right hx _
      _ = (y + 1) * v := by rw [Nat.succ_mul, Nat.add_comm]
      _ ≤ w * v := Nat.mul_le_mul_right _ hy
      _ = v * w := Nat.mul_comm _ _
  have h0 := digit 0 (by decide) (c.getD 0 0)
  have h1 := step h0 (digit 1 (by decide) (c.getD 1 0))
  have h2 := step h1 (digit 2 (by decide) (c.getD 2 0))
  have h3 := step h2 (digit 3 (by decide) (c.getD 3 0))
  simpa [slotOf, boxW, boxV] using h3

/-- Copies of a slot do not meet, nor do slots of a copy (R257). -/
theorem copyByte_apart (h : HReg) {l m k j : Nat} (hk : k < boxV h.blk) (hj : j < boxV h.blk) (hne : ¬ (l = m ∧ k = j)) :
    copyByte h l k + tySize (tdType h.td) ≤ copyByte h m j ∨ copyByte h m j + tySize (tdType h.td) ≤ copyByte h l k := by
  have hmul {x y : Nat} (hlt : x < y) : x * tySize (tdType h.td) + tySize (tdType h.td) ≤ y * tySize (tdType h.td) := by
    have := Nat.mul_le_mul_right (tySize (tdType h.td)) (Nat.succ_le_of_lt hlt)
    rwa [Nat.succ_mul] at this
  have hpair : l * boxV h.blk + k ≠ m * boxV h.blk + j := fun heq => by
    have hl : l = m := by
      have := congrArg (· / boxV h.blk) heq
      simpa [Nat.mul_comm _ (boxV h.blk), Nat.mul_add_div (Nat.zero_lt_of_lt hk), Nat.div_eq_of_lt hk, Nat.div_eq_of_lt hj] using this
    exact hne ⟨hl, by rw [hl] at heq; omega⟩
  unfold copyByte
  rcases Nat.lt_or_gt_of_ne hpair with hlt | hlt
  · left; have := hmul hlt; omega
  · right; have := hmul hlt; omega

/-- An element with coordinates lies in a box without a zero width (R188, R189). -/
theorem blkW_pos_of_indexCoord {j : Nat} {c : List Int} (hc : indexCoord h j = some c) : ∀ n, n < 4 → 0 < blkW h.blk n := by
  have ho : ∃ off : List Nat, offsetCoord h off = some c := by
    unfold indexCoord at hc
    dsimp only at hc
    split at hc
    · exact ⟨_, hc⟩
    · cases hc
  obtain ⟨off, ho⟩ := ho
  unfold offsetCoord at ho
  split at ho
  · next hall =>
    intro n hn
    have := List.all_eq_true.mp hall n (by interval_cases n <;> decide)
    exact Nat.zero_lt_of_lt (of_decide_eq_true this)
  · cases ho

/-! ## An update -/

/-- The slot that element i of an update meets. -/
def accSlot (t : Thread) (h : HReg) (a p : Nat) (ty : ElemTy) : Nat → Option Nat := elemSlot t p h fun i => indexCoord h (elem t a ty.bits i)

theorem accSlot_lt {t : Thread} {h : HReg} {a p i k : Nat} {ty : ElemTy} (hk : accSlot t h a p ty i = some k) : k < boxV h.blk := by
  obtain ⟨-, c, hc, -, rfl⟩ := elemSlot_eq_some.mp hk
  exact slotOf_lt (blkW_pos_of_indexCoord hc)

/-- The elements of an update, none of which leaves the box: each grows its copy and marks its slot (R259). -/
theorem foldl_accElement {a b p : Nat} {acc : AccAcc} (hs : acc.stop = none) {l : List Nat}
    (hc : ∀ i ∈ l, maskBit t p i = true → (indexCoord h (elem t a ty.bits i)).isSome = true) :
    l.foldl (accElement t h a b p ty) acc = { acc with
      sp := l.foldl (spPut (ty.bits / 8) (fun i => (accSlot t h a p ty i).map (copyByte h (i % 64))) fun i old => mergeAdd ty old (elem t b ty.bits i)) acc.sp
      dirty := l.foldl (markSlot (accSlot t h a p ty)) acc.dirty } := by
  induction l generalizing acc with
  | nil => rfl
  | cons i l ih =>
    have hgo (x : Bool) : (acc.stop.isSome || x) = x := by rw [hs]; rfl
    have hone : accElement t h a b p ty acc i = { acc with
        sp := spPut (ty.bits / 8) (fun i => (accSlot t h a p ty i).map (copyByte h (i % 64))) (fun i old => mergeAdd ty old (elem t b ty.bits i)) acc.sp i
        dirty := markSlot (accSlot t h a p ty) acc.dirty i } := by
      cases hm : maskBit t p i with
      | false =>
        have hk : accSlot t h a p ty i = none := by rw [accSlot, elemSlot, hm, if_neg Bool.false_ne_true]
        simp only [accElement, hgo, hm, spPut, markSlot, hk]
        rfl
      | true =>
        obtain ⟨c, hcc⟩ := Option.isSome_iff_exists.mp (hc i List.mem_cons_self hm)
        have hk : accSlot t h a p ty i = openSlot h c := by rw [accSlot, elemSlot, hm, if_pos rfl, hcc, Option.bind_some]
        simp only [accElement, hgo, hm, hcc, spPut, markSlot, hk, openSlot]
        cases isClipped h.td h.comm.limit c <;> rfl
    rw [List.foldl_cons, hone]
    refine ih ?_ fun j hj => hc j (List.mem_cons_of_mem i hj)
    exact hs

/-- Elements of one group whose copies have one number are one element (R133, R259). -/
theorem eq_of_mod_64 {k i j w hi : Nat} (hw : w = 32 ∨ w = 64) (hhi : hi ≤ groupEnd w k) (hi1 : k ≤ i) (hi2 : i < hi) (hj1 : k ≤ j) (hj2 : j < hi)
    (h : i % 64 = j % 64) : i = j := by
  unfold groupEnd at hhi
  rcases hw with rfl | rfl <;> omega

theorem mergeAdd_lt (hty : ty = .s32 ∨ ty = .s64 ∨ ty = .f32) (old v : Nat) : mergeAdd ty old v < 256 ^ (ty.bits / 8) := by
  unfold mergeAdd
  rcases hty with rfl | rfl | rfl
  · exact Nat.mod_lt _ (by decide)
  · exact Nat.mod_lt _ (by decide)
  · exact roundTo_f32_lt _ _

theorem accwCheck_ok (hh : tabFind t.h n = some h) (hm : blkMode h.blk = 3) (hty : tdType h.td = ty) : accwCheck t n ty = .ok h := by
  simp [accwCheck, hh, hm, hty, modeAcc]

/-- The elements of one grant of an update. -/
def accAcc (s : State) (tid : Nat) (t : Thread) (e : Entry) (h : HReg) (a b p : Nat) (ty : ElemTy) : AccAcc :=
  (span e.k (min (nElems e.cap) (groupEnd ty.bits e.k))).foldl (accElement t h a b p ty) { sp := (clusterOf s (tid / 4)).scratch, dirty := h.dirty }

/-- What a group of updates that nothing stops leaves. -/
def accCommit (s : State) (tid : Nat) (h : HReg) (n : Nat) (acc : AccAcc) : State :=
  modThread (setCluster s (tid / 4) { clusterOf s (tid / 4) with scratch := acc.sp }) tid
    fun t => { t with h := tabPut t.h n { h with dirty := acc.dirty } }

theorem leads_accCommit {acc : AccAcc} (ht : threadAt s tid = some t) :
    Leads s (accCommit s tid h n acc) tid { t with h := tabPut t.h n { h with dirty := acc.dirty } } [] acc.sp :=
  ((Leads.start ht).setScratch acc.sp).modThread _

theorem laneStep_accwUpd (hin : e.instr = .accwUpd d a b p ty) (hok : accwCheck t d.toNat ty = .ok h)
    (hs : (accAcc s tid t e h a.toNat b.toNat p.toNat ty).stop = none) :
    let hi := min (nElems e.cap) (groupEnd ty.bits e.k)
    let s1 := accCommit s tid h d.toNat (accAcc s tid t e h a.toNat b.toNat p.toNat ty)
    laneStep s tid t e = if nElems e.cap ≤ hi then .done s1 else .more (modHead s1 tid fun x => { x with k := hi }) := by
  intro hi s1
  have ha : accessOf t e = none := by rw [accessOf, hin]
  rw [laneStep, ha]
  dsimp only
  rw [hin]
  dsimp only
  rw [accwStep, hok]
  dsimp only
  rw [← accAcc, hs]
  rfl

/-- A grant of an update: each element that meets a slot grows its copy (R259). -/
theorem SoleHolder.grant_accwUpd {cl k g : Nat} (H : SoleHolder s cl k g t e rest) (hin : e.instr = .accwUpd d a b p ty)
    (hh : tabFind t.h d.toNat = some h) (hm : blkMode h.blk = 3) (hty : tdType h.td = ty) (hw : ty = .s32 ∨ ty = .s64 ∨ ty = .f32) :
    let hi := min (nElems e.cap) (groupEnd ty.bits e.k)
    let adds (i x : Nat) : Prop := (e.k ≤ i ∧ i < hi) ∧ accSlot t h a.toNat p.toNat ty i = some x
    let sp := (clusterOf s cl).scratch
    (∀ i, e.k ≤ i → i < hi → maskBit t p.toNat i = true → (indexCoord h (elem t a.toNat ty.bits i)).isSome = true) →
    ∃ s' l, exec (.issueGrant cl) s = .next s' ∧ OnlyThread s s' (4 * cl + k) ∧ threadAt s' (4 * cl + k) = some { t with
        h := tabPut t.h d.toNat { h with dirty := l }, vq := if nElems e.cap ≤ hi then rest else { e with k := hi } :: rest } ∧
      (∀ x, x ∈ l ↔ x ∈ h.dirty ∨ ∃ i, adds i x) ∧
      (∀ i x, adds i x → spRead (clusterOf s' cl).scratch (copyByte h (i % 64) x) (ty.bits / 8) =
        mergeAdd ty (spRead sp (copyByte h (i % 64) x) (ty.bits / 8)) (elem t b.toNat ty.bits i)) ∧
      ∀ y, (∀ i x, adds i x → y < copyByte h (i % 64) x ∨ copyByte h (i % 64) x + ty.bits / 8 ≤ y) →
        tabGet 0 (clusterOf s' cl).scratch y = tabGet 0 sp y := by
  intro hi adds sp hc
  have hcl : (4 * cl + k) / 4 = cl := by have := H.slot; omega
  have hsize : ty.bits / 8 = tySize (tdType h.td) := by rw [hty]; rcases hw with rfl | rfl | rfl <;> rfl
  have hbits : ty.bits = 32 ∨ ty.bits = 64 := by rcases hw with rfl | rfl | rfl <;> decide
  have hfold := foldl_accElement (h := h) (b := b.toNat) (acc := { sp := (clusterOf s ((4 * cl + k) / 4)).scratch, dirty := h.dirty }) rfl
    (l := span e.k hi) fun i hi' hmi => hc i (mem_span.mp hi').1 (mem_span.mp hi').2 hmi
  have hacc : accAcc s (4 * cl + k) t e h a.toNat b.toNat p.toNat ty = _ := hfold
  have hstep := laneStep_accwUpd (s := s) (tid := 4 * cl + k) hin (accwCheck_ok hh hm hty) (by rw [hacc])
  obtain ⟨s', hx, hl⟩ := H.grant_leads hstep (leads_accCommit H.vcp.here) H.vcp.queue rfl
  have hsp := hl.scratch
  rw [hcl, hacc] at hsp
  dsimp only at hsp
  rw [hcl] at hsp
  refine ⟨s', (accAcc s (4 * cl + k) t e h a.toNat b.toNat p.toNat ty).dirty, hx, hl.only, hl.here, fun x => ?_, fun i x hix => ?_, fun y hy => ?_⟩
  · rw [hacc, mem_foldl_markSlot]
    simp only [mem_span, adds]
  · have hone (j : Nat) (hj : j ∈ span e.k hi) (hji : j ≠ i) (hjx : accSlot t h a.toNat p.toNat ty j = some x) :
        copyByte h (j % 64) x ≠ copyByte h (i % 64) x := by
      have hj' := mem_span.mp hj
      have hmod : ¬ (j % 64 = i % 64 ∧ x = x) := fun h' =>
        hji (eq_of_mod_64 hbits (Nat.min_le_right _ _) hj'.1 hj'.2 hix.1.1 hix.1.2 h'.1)
      have := copyByte_apart h (accSlot_lt hjx) (accSlot_lt hix.2) hmod
      have := tySize_pos (tdType h.td)
      omega
    obtain ⟨old, hold, hfirst⟩ := spRead_foldl_spPut_slot (size := ty.bits / 8) (byte := fun i => copyByte h (i % 64)) (i := i) (slot := x)
      (val := fun i old => mergeAdd ty old (elem t b.toNat ty.bits i)) (pairwise_span e.k hi) (mem_span.mpr hix.1) hix.2
      (fun j _ k' hk' => (em (j % 64 = i % 64 ∧ k' = x)).imp (fun h' => ⟨by rw [h'.1, h'.2], h'.2⟩) fun hne => by
        rw [hsize]
        exact (copyByte_apart h (accSlot_lt hk') (accSlot_lt hix.2) hne).symm)
      (fun j hj hij hjx => hone j hj (Nat.ne_of_gt hij) hjx) (fun _ _ => mergeAdd_lt hw _ _) (by rw [hsize]; exact tySize_pos _) sp
    rw [hsp]
    refine hold.trans ?_
    rw [hfirst fun j hj hji => (em (accSlot t h a.toNat p.toNat ty j = some x)).symm.imp id (hone j hj hji)]
  · rw [hsp]
    refine tabGet_foldl_spPut (fun i hi' x hx' => ?_) _
    obtain ⟨slot, hslot, rfl⟩ := Option.map_eq_some_iff.mp hx'
    exact hy i slot ⟨mem_span.mp hi', hslot⟩

/-! ## Clear and merge -/

theorem engineAtVcp_accwClr (hin : e.instr = .accwClr d ty) : needsLanes e.instr = false ∧ engineAtVcp s tid t e = accwClrAtVcp s tid t e d ty := by
  unfold engineAtVcp
  rw [hin]
  exact ⟨rfl, rfl⟩

theorem engineAtVcp_accwMrge (hin : e.instr = .accwMrge d ty) :
    needsLanes e.instr = false ∧ engineAtVcp s tid t e = accwMrgeAtVcp s tid t e d ty := by
  unfold engineAtVcp
  rw [hin]
  exact ⟨rfl, rfl⟩

/-- A cleared window (R260). -/
theorem AtVcp.accwClr (H : AtVcp s tid t e rest) (hin : e.instr = .accwClr d ty) (hh : tabFind t.h d.toNat = some h) (hm : blkMode h.blk = 3)
    (hty : tdType h.td = ty) : ∃ s', CompletesTo s s' tid { t with h := tabPut t.h d.toNat { h with dirty := [] } } rest ∧
      s'.inflight = s.inflight ∧ (clusterOf s' (tid / 4)).scratch =
        zeroPlaces (tySize (tdType h.td)) (copies h (List.range (boxV h.blk))) (clusterOf s (tid / 4)).scratch := by
  obtain ⟨hl, he⟩ := engineAtVcp_accwClr (s := s) (tid := tid) (t := t) hin
  have L := ((Leads.start H.here).zeroCopies h (List.range (boxV h.blk))).modThread
    fun t => { t with h := tabPut t.h d.toNat { h with dirty := [] } }
  rw [accwClrAtVcp, accwCheck_ok hh hm hty] at he
  obtain ⟨hc, L'⟩ := H.completesTo hl he L rfl
  exact ⟨_, hc, L'.inflight.trans (List.append_nil _), L'.scratch⟩

/-- A merged window whose dirty elements all travel (R260). -/
theorem AtVcp.accwMrge {pa : Nat → Nat} (H : AtVcp s tid t e rest) (hin : e.instr = .accwMrge d ty) (hh : tabFind t.h d.toNat = some h)
    (hm : blkMode h.blk = 3) (hty : tdType h.td = ty) (hlost : t.lost = none) (hl : ∀ k ∈ h.dirty, Travels s (tid / 4) t h pa k) :
    ∃ s', CompletesTo s s' tid { t with h := if h.dirty = [] then t.h else tabPut t.h d.toNat { h with dirty := [] } } rest ∧
      s'.inflight = s.inflight ++ backReqs (clusterOf s (tid / 4)).scratch t (tid / 4) e.uid true h pa s.uid h.dirty ∧
      (clusterOf s' (tid / 4)).scratch = zeroPlaces (tySize (tdType h.td)) (copies h h.dirty) (clusterOf s (tid / 4)).scratch := by
  obtain ⟨hn, he⟩ := engineAtVcp_accwMrge (s := s) (tid := tid) (t := t) hin
  obtain ⟨s1, u, hs, L, hu⟩ := cleanReg_travels (seq := e.uid) (part := true) H.here hh hl (fun h => nomatch h)
  rw [accwMrgeAtVcp, accwCheck_ok hh hm hty] at he
  dsimp only at he
  rw [hs] at he
  obtain ⟨hc, L'⟩ := H.completesTo hn he (L.postLost (by rw [hu]; exact hlost)) (by rw [hu])
  rw [hu] at hc
  exact ⟨_, hc, L'.inflight, by rw [L'.scratch, backScratch, if_pos (show blkMode h.blk = modeAcc from hm)]⟩

/-! ## The obligation -/

/-- Settles O40: the clearing and the merge of a whole window, and one grant of an update. -/
theorem accumulationWindowsUpdateAndClear : Obligations.AccumulationWindowsUpdateAndClear := by
  unfold Obligations.AccumulationWindowsUpdateAndClear
  intro s tid t e rest d a b p h ty cl k g pa H hh hm hty hw sp w size clean
  have hsize : size = tySize (tdType h.td) := by rw [hty]; rcases hw with rfl | rfl | rfl <;> rfl
  refine ⟨fun hin => ?clear, fun hin hd hlost => ?cleanMerge, fun hin hd hlost => ?merge, fun S htid hin => ?update⟩
  case clear =>
    obtain ⟨s', hc, hi, hsp⟩ := H.accwClr hin hh hm hty
    refine ⟨s', hc, hi, fun l q hl hq => ?_⟩
    rw [hsp, hsize]
    exact spRead_zeroPlaces (copyByte_mem_copies (List.mem_range.mpr hq) hl) _
  case cleanMerge =>
    obtain ⟨s', hc, -, -⟩ := H.accwMrge (pa := pa) hin hh hm hty hlost (by rw [hd]; exact fun _ h => nomatch h)
    rw [if_pos hd] at hc
    exact ⟨s', hc⟩
  case merge =>
    intro coord hl
    obtain ⟨s', hc, hi, hsp⟩ := H.accwMrge (pa := pa) hin hh hm hty hlost fun x hx => by
      obtain ⟨h1, h2, h3, h4⟩ := hl x hx
      exact ⟨h1, h2, h3, by rw [← hsize]; exact h4⟩
    rw [if_neg hd] at hc
    refine ⟨s', hc, fun x hx l hl => ?_, ?_⟩
    · rw [hsp, hsize]
      exact spRead_zeroPlaces (copyByte_mem_copies hx hl) _
    · have hmode : blkMode h.blk = modeAcc := hm
      rw [hi, hsize]
      simp only [backReqs, backReq, backKind, hmode, if_true, decide_true, hty, sp]
  case update =>
    subst htid
    intro n hi act place adds sum hc
    have hcl : (4 * cl + k) / 4 = cl := by have := S.slot; omega
    have hadds (i x : Nat) : adds i x ↔ (e.k ≤ i ∧ i < hi) ∧ accSlot t h a.toNat p.toNat ty i = some x := by
      rw [accSlot, elemSlot_eq_some]
      constructor
      · rintro ⟨⟨h1, h2, h3⟩, h4⟩
        exact ⟨⟨h1, h2⟩, h3, h4⟩
      · rintro ⟨⟨h1, h2⟩, h3, h4⟩
        exact ⟨⟨h1, h2, h3⟩, h4⟩
    obtain ⟨s', l, hx, ho, hu, hdirty, hsum, hout⟩ := S.grant_accwUpd hin hh hm hty hw fun i h1 h2 h3 => hc i ⟨h1, h2, h3⟩
    have hsp : sp = (clusterOf s cl).scratch := by rw [← hcl]
    refine ⟨s', _, l, hx, ho, hu, rfl, tabFind_tabPut_self _ _ _, fun x => ?_, fun j hj => tabFind_tabPut_ne _ _ hj, fun i x hix => ?_, fun y hy => ?_⟩
    · rw [hdirty]
      simp only [hadds]
      rfl
    · rw [hsp]
      exact hsum i x ((hadds i x).mp hix)
    · rw [hsp]
      exact hout y fun i x hix => hy i x ((hadds i x).mpr hix)

end Sys2Proof.Machine
end

section
/-! PROOFS. KCNT and HRES at vcp: what commits, and what a box that moves hands back and takes in (R174, R175, R180, R186, R187). -/

namespace Sys2Proof.Machine

variable {s s' s1 : State} {t u : Thread} {tid n marker : Nat} {e : Entry} {rest : List Entry} {h : HReg} {i : Instr} {cap : Cap} {lo : List Int}
  {l : List Req} {sp : Tab Byte}

/-! ## Overlap -/

/-- The first entry of a table at a number, where it has a property. -/
theorem find?_of_tabFind {α : Type} {ks : Tab α} {v : α} {q : Nat × α → Bool} (hv : tabFind ks n = some v) (hq : q (n, v) = true) :
    ks.find? (fun x => q x && decide (x.1 = n)) = some (n, v) := by
  induction ks with
  | nil => cases hv
  | cons x ks ih =>
    obtain ⟨a, w⟩ := x
    rw [tabFind] at hv
    split at hv
    · next ha =>
      cases hv
      subst ha
      rw [List.find?_cons_of_pos (by simp [hq])]
    · next ha =>
      rw [List.find?_cons_of_neg (by simp [ha])]
      exact ih hv

/-- The other writable registers of the cluster are of other tensors, or of boxes apart from `lo` (R180). -/
def ApartFrom (s : State) (tid n : Nat) (h : HReg) (lo : List Int) : Prop :=
  ∀ w ∈ threadsOf s (tid / 4), ∀ r ∈ w.2.h, ¬ (w.1 = tid ∧ r.1 = n) → blkMode r.2.blk ≠ 0 →
    sameTensor r.2.td h.td = false ∨ boxesMeet lo (boxW h.blk) r.2.comm.lo (boxW r.2.blk) = false

/-- What a writable register of the cluster compares: its box, or the new one (R180). -/
def overlapItem (tid n : Nat) (lo : List Int) (w : Nat × Thread) (r : Nat × HReg) : Nat × Nat × HReg × List Int :=
  (w.1 % 4, r.1, r.2, if w.1 = tid then (match tabFind [(n, lo)] r.1 with | some lo => lo | none => r.2.comm.lo) else r.2.comm.lo)

theorem writableRegs_eq (s : State) (tid n : Nat) (lo : List Int) : writableRegs s tid [(n, lo)] =
    (threadsOf s (tid / 4)).flatMap fun w => (w.2.h.filter fun r => blkMode r.2.blk ≠ modeRd).map (overlapItem tid n lo w) := rfl

theorem mem_writableRegs {x : Nat × Nat × HReg × List Int} : x ∈ writableRegs s tid [(n, lo)] ↔
    ∃ w ∈ threadsOf s (tid / 4), ∃ r ∈ w.2.h, blkMode r.2.blk ≠ 0 ∧ overlapItem tid n lo w r = x := by
  simp only [writableRegs_eq, List.mem_flatMap, List.mem_map, List.mem_filter, decide_eq_true_eq, and_assoc]
  rfl

theorem overlapOf_single (s : State) (tid n : Nat) (lo : List Int) : overlapOf s tid [(n, lo)] =
    ((writableRegs s tid [(n, lo)]).find? (fun r => r.1 = tid % 4 ∧ r.2.1 = n)).bind fun me =>
      ((writableRegs s tid [(n, lo)]).find? (fun r => ¬ (r.1 = me.1 ∧ r.2.1 = me.2.1) ∧ sameTensor r.2.2.1.td me.2.2.1.td ∧
        boxesMeet me.2.2.2 (boxW me.2.2.1.blk) r.2.2.2 (boxW r.2.2.1.blk))).map
        (fun r => BitVec.ofNat 64 (n + 16 * (tid % 4) + 256 * r.2.1 + 4096 * r.1)) := by
  unfold overlapOf
  dsimp only
  rw [List.findSome?_cons]
  generalize (writableRegs s tid [(n, lo)]).find? (fun r => r.1 = tid % 4 ∧ r.2.1 = n) = o
  cases o with
  | none => rfl
  | some me =>
    rw [Option.bind_some]
    dsimp only
    generalize List.find? _ _ = x
    cases x <;> rfl

/-- A register without writable mode collides with nothing. -/
theorem overlapOf_readOnly (ht : threadAt s tid = some t) (hm : ∀ r ∈ t.h, r.1 = n → blkMode r.2.blk = 0) : overlapOf s tid [(n, lo)] = none := by
  rw [overlapOf_single]
  have hnone : (writableRegs s tid [(n, lo)]).find? (fun r => r.1 = tid % 4 ∧ r.2.1 = n) = none := by
    rw [List.find?_eq_none]
    intro x hx hc
    obtain ⟨w, hw, r, hr, hmode, rfl⟩ := mem_writableRegs.mp hx
    obtain ⟨h1, h2⟩ := of_decide_eq_true hc
    obtain ⟨hwt, hw4⟩ := mem_threadsOf hw
    have hwtid : w.1 = tid := by simp only [overlapItem] at h1; omega
    rw [hwtid, ht] at hwt
    cases hwt
    exact hmode (hm r hr h2)
  rw [hnone]
  rfl

/-- The register a marker moves is found first among those of its thread. -/
theorem find?_writableRegs (ht : threadAt s tid = some t) (hh : tabFind t.h n = some h) (hm : blkMode h.blk ≠ 0) {me : Nat × Nat × HReg × List Int}
    (hme : (writableRegs s tid [(n, lo)]).find? (fun r => r.1 = tid % 4 ∧ r.2.1 = n) = some me) : me = (tid % 4, n, h, lo) := by
  rw [writableRegs_eq, List.find?_flatMap] at hme
  obtain ⟨w, hw, hwf⟩ := List.exists_of_findSome?_eq_some hme
  have hp := List.find?_some hwf
  obtain ⟨hwt, hw4⟩ := mem_threadsOf hw
  obtain ⟨r, hr, hrx⟩ := List.mem_map.mp (List.mem_of_find?_eq_some hwf)
  have hwtid : w.1 = tid := by
    have h1 := (of_decide_eq_true hp).1
    rw [← hrx] at h1
    simp only [overlapItem] at h1
    omega
  rw [hwtid, ht] at hwt
  have hwt : w.2 = t := (Option.some.inj hwt).symm
  have hfind := find?_of_tabFind (q := fun x => decide (blkMode x.2.blk ≠ modeRd)) hh (decide_eq_true hm)
  rw [List.find?_map, List.find?_filter, hwt, Option.map_eq_some_iff] at hwf
  obtain ⟨r, hr, hrme⟩ := hwf
  have hrn : r = (n, h) := by
    refine Option.some.inj (hr.symm.trans (Eq.trans ?_ hfind))
    congr 1
    funext x
    simp only [Function.comp_apply, overlapItem, hwtid, true_and]
    simp only [decide_eq_true_eq, Bool.decide_and]
  rw [← hrme, hrn, overlapItem, hwtid]
  simp [tabFind]

/-- A writable register collides with nothing where every other one is apart from its box. -/
theorem overlapOf_apart (ht : threadAt s tid = some t) (hh : tabFind t.h n = some h) (hm : blkMode h.blk ≠ 0) (ha : ApartFrom s tid n h lo) :
    overlapOf s tid [(n, lo)] = none := by
  rw [overlapOf_single]
  cases hme : (writableRegs s tid [(n, lo)]).find? (fun r => r.1 = tid % 4 ∧ r.2.1 = n) with
  | none => rfl
  | some me =>
    rw [find?_writableRegs ht hh hm hme, Option.bind_some, Option.map_eq_none_iff, List.find?_eq_none]
    intro x hx hc
    obtain ⟨w, hw, r, hr, hmode, rfl⟩ := mem_writableRegs.mp hx
    obtain ⟨hne, hten, hbox⟩ := of_decide_eq_true hc
    obtain ⟨hwt, hw4⟩ := mem_threadsOf hw
    have hother : ¬ (w.1 = tid ∧ r.1 = n) := fun h' => hne ⟨by simp only [overlapItem]; rw [h'.1], h'.2⟩
    have hlo : (overlapItem tid n lo w r).2.2.2 = r.2.comm.lo := by
      simp only [overlapItem, tabFind]
      split
      · next hw' => rw [if_neg fun hn => hother ⟨hw', hn.symm⟩]
      · rfl
    rw [hlo] at hbox
    rcases ha w hw r hr hother hmode with h' | h'
    · exact absurd (h'.symm.trans hten) Bool.false_ne_true
    · exact absurd (h'.symm.trans hbox) Bool.false_ne_true

/-! ## A box that moves -/

/-- The scratchpad once elements have entered a box: they read zero in the modes wo and acc (R175). -/
def enterScratch (h : HReg) (enter : List Nat) (sp : Tab Byte) : Tab Byte :=
  if blkMode h.blk = modeAcc then zeroPlaces (tySize (tdType h.td)) (copies h enter) sp
  else if blkMode h.blk = modeWo then zeroPlaces (tySize (tdType h.td)) (enter.map (slotByte h)) sp else sp

/-- The register with its new box: what enters is no longer failed (R175). -/
def movedReg (h : HReg) (enter : List Nat) (new : HCopy) : HReg :=
  { h with comm := new, failed := h.failed.filter (fun f => f.slot ∉ enter) }

theorem Leads.moveBox (L : Leads s s' tid u l sp) (hh : tabFind u.h n = some h) (old : Option (List Int)) (new : HCopy) :
    let enter := slotsAt h (entering (tdRank h.td) (boxW h.blk) old new.lo)
    Leads s (moveBox s' tid n old new) tid { u with h := tabPut u.h n (movedReg h enter new) } l (enterScratch h enter sp) := by
  intro enter
  have hz : Leads s (if blkMode h.blk = modeAcc then Machine.zeroCopies s' (tid / 4) h enter
      else if blkMode h.blk = modeWo then Machine.zeroSlots s' (tid / 4) h enter else s') tid u l (enterScratch h enter sp) := by
    unfold enterScratch
    split
    · exact L.zeroCopies h enter
    · split
      · exact L.zeroSlots h enter
      · exact L
  have hm : Machine.moveBox s' tid n old new = Machine.rsDropReg (Machine.modThread (if blkMode h.blk = modeAcc then Machine.zeroCopies s' (tid / 4) h enter
      else if blkMode h.blk = modeWo then Machine.zeroSlots s' (tid / 4) h enter else s') tid
      fun t => { t with h := tabPut t.h n (movedReg h enter new) }) (tid / 4) (tid % 4) n := by
    rw [Machine.moveBox, L.here]
    dsimp only
    rw [hh]
    rfl
  rw [hm]
  exact (hz.modThread _).rsDropReg _ _ _

/-- The thread whose deliveries of a marker may land. -/
def landed (marker : Nat) (t : Thread) : Thread :=
  { t with recomps := t.recomps.map fun r => if r.marker = marker then { r with landing := true } else r }

theorem Leads.openLanding (L : Leads s s' tid u l sp) (marker : Nat) : Leads s (openLanding s' tid marker) tid (landed marker u) l sp :=
  L.modThread _

theorem landed_of_none (h : ∀ r ∈ t.recomps, r.marker ≠ marker) : landed marker t = t := by
  have hm : (t.recomps.map fun r => if r.marker = marker then { r with landing := true } else r) = t.recomps :=
    (List.map_congr_left fun r hr => if_neg (h r hr)).trans (List.map_id _)
  unfold landed
  rw [hm]

/-! ## An entry at vcp -/

/-- The committed copies after an instruction (R174, R186). -/
def committed (i : Instr) (cap : Cap) (t : Thread) : Thread :=
  let t := { t with kcomm := (kcntEffect i cap t.kcomm).1 }
  match hresReg i with
  | some n => { t with h := match tabFind t.h n with
      | some h => tabPut t.h n { h with comm := hresEffect i cap h.comm }
      | none => t.h }
  | none => t

/-- Nothing but committed copies changes. -/
theorem committed_frame (i : Instr) (cap : Cap) (t : Thread) :
    committed i cap t = { t with kcomm := (kcntEffect i cap t.kcomm).1, h := (committed i cap t).h } := by
  unfold committed
  dsimp only
  split <;> rfl

theorem committed_kcnt (h : hresReg i = none) : committed i cap t = { t with kcomm := (kcntEffect i cap t.kcomm).1 } := by
  unfold committed
  rw [h]

theorem committed_hres (hr : hresReg i = some n) (hk : kcntEffect i cap t.kcomm = (t.kcomm, [])) (hh : tabFind t.h n = some h) :
    committed i cap t = { t with h := tabPut t.h n { h with comm := hresEffect i cap h.comm } } := by
  unfold committed
  rw [hr]
  dsimp only
  rw [hh, hk]

theorem needsLanes_changesCopies (h : changesCopies i) : needsLanes i = false := by
  cases i
  case kcntExt | kcntLink | kcntAdv | kcntSet | kcntRst | hresAnch | hresLim | hresBind | hresWmk => rfl
  all_goals exact h.elim

theorem engineAtVcp_changesCopies (h : changesCopies e.instr) : engineAtVcp s tid t e = markerAtVcp s tid t e := by
  unfold engineAtVcp
  generalize e.instr = i at h
  cases i
  case kcntExt | kcntLink | kcntAdv | kcntSet | kcntRst | hresAnch | hresLim | hresBind | hresWmk => rfl
  all_goals exact h.elim

/-- An entry that names no unconfigured register is carried out. -/
theorem markerAtVcp_go (hr : ∀ n, hresReg e.instr = some n → (tabFind t.h n).isSome = true) :
    markerAtVcp s tid t e = markerAtVcp.go tid t e s := by
  unfold markerAtVcp
  cases hi : hresReg e.instr with
  | none => rfl
  | some n =>
    dsimp only
    rw [if_neg (by simpa using Option.isSome_iff_ne_none.mp (hr n hi))]

/-- The boxes of an entry become those that its push computed, one register after the other. -/
def moveBoxes (s : State) (tid : Nat) (boxes : List (Nat × List Int)) : State :=
  boxes.foldl (fun s b => match (threadAt s tid).bind (fun t => tabFind t.h b.1) with
    | none => s
    | some h => moveBox s tid b.1 (some h.comm.lo) { h.comm with lo := b.2 }) s

/-- The committed copies of a thread's counters and of the register an entry names. -/
def commitCopies (s : State) (tid : Nat) (i : Instr) (cap : Cap) (ks : Tab KReg) : State :=
  let s := modThread s tid (fun t => { t with kcomm := ks })
  match hresReg i with
  | some n => modThread s tid (fun t => { t with h := match tabFind t.h n with
      | some h => tabPut t.h n { h with comm := hresEffect i cap h.comm }
      | none => t.h })
  | none => s

theorem leads_commitCopies (L : Leads s s1 tid u l sp) (i : Instr) (cap : Cap) :
    Leads s (commitCopies s1 tid i cap (kcntEffect i cap u.kcomm).1) tid (committed i cap u) l sp := by
  have h1 := L.modThread fun t => { t with kcomm := (kcntEffect i cap u.kcomm).1 }
  unfold commitCopies committed
  dsimp only
  split
  · exact h1.modThread _
  · exact h1

/-- What an entry does once what leaves its boxes has been handed back: it commits its copies, moves its boxes and opens its landings
(R175). -/
theorem markerAtVcp_go_eq (hov : overlapOf s tid (e.boxes.filter (fun b => (tabFind t.h b.1).isSome)) = none)
    (hleave : leaveBoxes s tid e.uid e.boxes = (s1, true)) : markerAtVcp.go tid t e s =
      .done (postLost (openLanding (moveBoxes (commitCopies s1 tid e.instr e.cap (kcntEffect e.instr e.cap t.kcomm).1) tid e.boxes) tid e.uid) tid) := by
  rw [markerAtVcp.go, hov]
  dsimp only
  rw [hleave]
  rfl

/-- An entry of KCNT or HRES that recomputes no box (R174, R186). -/
theorem AtVcp.commits (H : AtVcp s tid t e rest) (hi : changesCopies e.instr) (hlost : t.lost = none)
    (hr : ∀ n, hresReg e.instr = some n → (tabFind t.h n).isSome = true) (hb : e.boxes = []) (hm : ∀ r ∈ t.recomps, r.marker ≠ e.uid) :
    Completes s tid (committed e.instr e.cap t) rest := by
  have hf := committed_frame e.instr e.cap t
  have he := (engineAtVcp_changesCopies (s := s) (tid := tid) (t := t) hi).trans (markerAtVcp_go hr)
  rw [markerAtVcp_go_eq (s1 := s) (by rw [hb]; rfl) (by rw [hb]; rfl), hb] at he
  have L := ((leads_commitCopies (Leads.start H.here) e.instr e.cap).openLanding e.uid)
  rw [landed_of_none (by rw [hf]; exact hm)] at L
  exact ⟨_, (H.completesTo (needsLanes_changesCopies hi) he (L.postLost (by rw [hf]; exact hlost)) (by rw [hf])).1⟩

/-- An entry of KCNT or HRES that moves one box (R175). -/
theorem AtVcp.moves {pa : Nat → Nat} {out : List Nat} (H : AtVcp s tid t e rest) (hi : changesCopies e.instr) (hlost : t.lost = none)
    (hh : tabFind t.h n = some h) (hr : ∀ m, hresReg e.instr = some m → m = n) (hb : e.boxes = [(n, lo)])
    (hov : overlapOf s tid [(n, lo)] = none)
    (hout : h.dirty.filter (fun k => k ∈ slotsAt h (leaving (boxW h.blk) h.comm.lo lo)) = out) (hl : ∀ k ∈ out, Travels s (tid / 4) t h pa k)
    (hc : storesCount s t + out.length ≤ 65535) (hlo : (hresEffect e.instr e.cap h.comm).lo = h.comm.lo)
    (hk : hresReg e.instr = none ∨ kcntEffect e.instr e.cap t.kcomm = (t.kcomm, [])) :
    let enter := slotsAt h (entering (tdRank h.td) (boxW h.blk) (some h.comm.lo) lo)
    ∃ s' u, CompletesTo s s' tid u rest ∧
      s'.inflight = s.inflight ++ backReqs (clusterOf s (tid / 4)).scratch t (tid / 4) e.uid false h pa s.uid out ∧
      u = { t with kcomm := (kcntEffect e.instr e.cap t.kcomm).1, h := u.h, recomps := (landed e.uid t).recomps } ∧
      (∀ j, j ≠ n → tabFind u.h j = tabFind t.h j) ∧
      tabFind u.h n = some (movedReg { h with dirty := h.dirty.filter (fun k => k ∉ out) } enter
        { (if (hresReg e.instr).isSome then hresEffect e.instr e.cap h.comm else h.comm) with lo := lo }) ∧
      (clusterOf s' (tid / 4)).scratch = enterScratch h enter (backScratch h out (clusterOf s (tid / 4)).scratch) := by
  intro enter
  obtain ⟨s1, v, hs1, L1, hv⟩ := cleanSome_travels (seq := e.uid) (part := false) H.here hh hout hl fun _ _ => hc
  let h1 : HReg := { h with dirty := h.dirty.filter (fun k => k ∉ out) }
  have hv1 : tabFind v.h n = some h1 ∧ ∀ j, j ≠ n → tabFind v.h j = tabFind t.h j := by
    rw [hv]
    dsimp only
    split
    · next ho =>
      refine ⟨?_, fun _ _ => rfl⟩
      rw [hh]
      simp [h1, ho]
    · exact ⟨tabFind_tabPut_self _ _ _, fun j hj => tabFind_tabPut_ne _ _ hj⟩
  have hvk : v.kcomm = t.kcomm := by rw [hv]
  let c := committed e.instr e.cap v
  have hcf : c = { v with kcomm := (kcntEffect e.instr e.cap v.kcomm).1, h := c.h } := committed_frame e.instr e.cap v
  have hct : c = { t with kcomm := (kcntEffect e.instr e.cap t.kcomm).1, h := c.h } := by
    rw [← hvk]
    exact hcf.trans (congrArg (fun z : Thread => { z with kcomm := (kcntEffect e.instr e.cap v.kcomm).1, h := c.h }) hv)
  let comm : HCopy := if (hresReg e.instr).isSome then hresEffect e.instr e.cap h.comm else h.comm
  have hcomm : comm.lo = h.comm.lo := by
    unfold comm
    split
    · exact hlo
    · rfl
  have hc1 : tabFind c.h n = some { h1 with comm := comm } ∧ ∀ j, j ≠ n → tabFind c.h j = tabFind v.h j := by
    unfold c comm
    rcases hk with hk | hk
    · rw [committed_kcnt hk, hk]
      exact ⟨hv1.1, fun _ _ => rfl⟩
    · cases hreg : hresReg e.instr with
      | none =>
        rw [committed_kcnt hreg]
        exact ⟨hv1.1, fun _ _ => rfl⟩
      | some m =>
        obtain rfl := hr m hreg
        rw [committed_hres hreg (by rw [hvk]; exact hk) hv1.1]
        exact ⟨tabFind_tabPut_self _ _ _, fun j hj => tabFind_tabPut_ne _ _ hj⟩
  have L2 := leads_commitCopies L1 e.instr e.cap
  have hmove : moveBoxes (commitCopies s1 tid e.instr e.cap (kcntEffect e.instr e.cap v.kcomm).1) tid e.boxes =
      moveBox (commitCopies s1 tid e.instr e.cap (kcntEffect e.instr e.cap v.kcomm).1) tid n (some h.comm.lo) { comm with lo := lo } := by
    rw [hb, moveBoxes, List.foldl_cons, List.foldl_nil, L2.here, Option.bind_some, hc1.1]
    exact congrArg (fun x => moveBox _ tid n (some x) { comm with lo := lo }) hcomm
  have hleave : leaveBoxes s tid e.uid e.boxes = (s1, true) := by
    rw [hb, leaveBoxes, H.here, Option.bind_some, hh]
    dsimp only
    rw [hs1]
    rfl
  have hov' : overlapOf s tid (e.boxes.filter (fun b => (tabFind t.h b.1).isSome)) = none := by
    rw [hb, List.filter_cons_of_pos (by simp [hh])]
    exact hov
  have he := ((engineAtVcp_changesCopies (s := s) (tid := tid) (t := t) hi).trans (markerAtVcp_go fun m hm => by rw [hr m hm, hh]; rfl)).trans
    (markerAtVcp_go_eq hov' hleave)
  rw [← hvk, hmove] at he
  have L4 := ((L2.moveBox hc1.1 (some h.comm.lo) { comm with lo := lo }).openLanding e.uid).postLost (by
    show c.lost = none
    rw [hct]
    exact hlost)
  obtain ⟨hcomp, L5⟩ := H.completesTo (needsLanes_changesCopies hi) he L4 (by
    show c.vq = t.vq
    rw [hct])
  refine ⟨_, _, hcomp, L5.inflight, ?_, fun j hj => ?_, ?_, L5.scratch⟩
  · exact congrArg (fun z : Thread => landed e.uid { z with h := tabPut c.h n (movedReg { h1 with comm := comm } enter { comm with lo := lo }) }) hct
  · exact (tabFind_tabPut_ne _ _ hj).trans ((hc1.2 j hj).trans (hv1.2 j hj))
  · exact tabFind_tabPut_self _ _ _

/-- In the modes rd and rw a move leaves the scratchpad as it is. -/
theorem enterScratch_backScratch_read (h : HReg) (enter out : List Nat) (sp : Tab Byte) (hm : blkMode h.blk = 0 ∨ blkMode h.blk = 1) :
    enterScratch h enter (backScratch h out sp) = sp := by
  have hacc : blkMode h.blk ≠ modeAcc := by rcases hm with hm | hm <;> rw [hm] <;> decide
  have hwo : blkMode h.blk ≠ modeWo := by rcases hm with hm | hm <;> rw [hm] <;> decide
  rw [enterScratch, backScratch, if_neg hacc, if_neg hacc, if_neg hwo]

/-! ## The obligation -/

/-- Settles O29: entries without a box commit their copies; a marker moves its box by the law of the moves. -/
theorem countersAndAnchorsCommitAtVcp : Obligations.CountersAndAnchorsCommitAtVcp := by
  unfold Obligations.CountersAndAnchorsCommitAtVcp
  intro s tid t e rest d a b n h lo m c pa H hlost x old next commits only
  refine ⟨fun hb hm => ?copies, fun hh hb => ?box⟩
  case copies =>
    have counts {i : Instr} {ks : Nat → KReg} (hin : e.instr = i) (hi : changesCopies i) (hr : hresReg i = none)
        (hk : ∀ j, kreg (kcntEffect i e.cap t.kcomm).1 j = ks j) : commits ks := by
      subst hin
      have hc := H.commits hi hlost (fun n hn => by rw [hr] at hn; cases hn) hb hm
      rw [committed_kcnt hr] at hc
      exact ⟨_, hc, hk, rfl⟩
    have sets {i : Instr} {r : KReg} (hin : e.instr = i) (hi : changesCopies i) (hr : hresReg i = none)
        (hk : (kcntEffect i e.cap t.kcomm).1 = tabSet {} t.kcomm d.toNat r) : commits (only r) :=
      counts hin hi hr fun j => by rw [hk, kreg_tabSet]
    refine ⟨fun hin => sets hin trivial rfl rfl, fun hin => sets hin trivial rfl ?link, fun hin => sets hin trivial rfl rfl,
      fun hin => sets hin trivial rfl rfl, fun hin hlt => sets hin trivial rfl (advanceFrom_below hlt),
      fun hin hle => ⟨fun hl => sets hin trivial rfl (advanceFrom_wraps hle hl),
        fun hl hm hn => counts hin trivial rfl (advanceFrom_carries_once hle hl hm hn)⟩, fun hh => ?items⟩
    case link =>
      have hb : b = 31 ↔ b.toNat = 31 := ⟨fun h => by rw [h]; rfl, fun h => BitVec.eq_of_toNat_eq h⟩
      simp only [kcntEffect, hb, old]
    case items =>
      intro with'
      have sets {i : Instr} (hin : e.instr = i) (hi : changesCopies i) (hr : hresReg i = some d.toNat)
          (hk : kcntEffect i e.cap t.kcomm = (t.kcomm, [])) : Completes s tid (with' (hresEffect i e.cap h.comm)) rest := by
        subst hin
        have hc := H.commits hi hlost (fun n hn => by rw [hr] at hn; cases hn; rw [hh]; rfl) hb hm
        rw [committed_hres hr hk hh] at hc
        exact hc
      exact ⟨fun hin => sets hin trivial rfl rfl, fun hin => sets hin trivial rfl rfl⟩
  case box =>
    intro cl mode size coord out enter sp kind hov hl hc moves counts
    have hno : overlapOf s tid [(d.toNat, lo)] = none := by
      rcases hov with hov | ⟨hmode, hov⟩
      · exact overlapOf_readOnly H.here hov
      · exact overlapOf_apart H.here hh hmode hov
    have hreqs : backReqs sp t cl e.uid false h pa s.uid out = (out.zipIdx).map (fun (x : Nat × Nat) => {
        uid := s.uid + x.2, seq := e.uid, owner := t.uid, launch := t.launch, cluster := cl, strong := decide (mode = 3), kind := kind x.1 }) := rfl
    have hmoved {i : Instr} {copy : HCopy} {ks : Nat → KReg} (hin : e.instr = i) (hi : changesCopies i)
        (hr : ∀ m, hresReg i = some m → m = d.toNat) (hlo : (hresEffect i e.cap h.comm).lo = h.comm.lo)
        (hk : hresReg i = none ∨ kcntEffect i e.cap t.kcomm = (t.kcomm, []))
        (hcopy : { (if (hresReg i).isSome then hresEffect i e.cap h.comm else h.comm) with lo := lo } = copy)
        (hks : ∀ j, kreg (kcntEffect i e.cap t.kcomm).1 j = ks j) : moves copy ks := by
      subst hin
      obtain ⟨s', u, hcomp, hinf, hu, hothers, hself, hsp⟩ := H.moves hi hlost hh hr hb hno rfl
        (fun k hk => ⟨(hl k hk).1, (hl k hk).2.1, (hl k hk).2.2.1, (hl k hk).2.2.2⟩) hc hlo hk
      refine ⟨s', u, hcomp, hinf, ?_, fun j => ?_, hothers, ?_, fun hm => ?_, fun hm k hk => ?_, fun hm k hk l hl => ?_⟩
      · rw [hu]; rfl
      · rw [hu]; exact hks j
      · rw [hself, hcopy]; rfl
      · rw [hsp]
        exact enterScratch_backScratch_read h enter out sp hm
      · rw [hsp, enterScratch, if_neg (show blkMode h.blk ≠ modeAcc from fun h' => absurd (hm.symm.trans h') (by decide)), if_pos (show blkMode h.blk = modeWo from hm)]
        exact spRead_zeroPlaces (List.mem_map.mpr ⟨k, hk, rfl⟩) _
      · rw [hsp, enterScratch, backScratch, if_pos (show blkMode h.blk = modeAcc from hm), if_pos (show blkMode h.blk = modeAcc from hm), ← zeroPlaces_append]
        exact spRead_zeroPlaces (List.mem_append.mpr (hk.symm.imp (copyByte_mem_copies · hl) (copyByte_mem_copies · hl))) _
    have counted {i : Instr} {v : Nat} (hin : e.instr = i) (hi : changesCopies i) (hr : hresReg i = none)
        (hlo : (hresEffect i e.cap h.comm).lo = h.comm.lo)
        (hk : (kcntEffect i e.cap t.kcomm).1 = tabSet {} t.kcomm c.toNat { kreg t.kcomm c.toNat with value := v }) :
        moves { h.comm with lo := lo } (counts v) :=
      hmoved hin hi (fun m hm => by rw [hr] at hm; cases hm) hlo (.inl hr) (by rw [hr]; rfl) fun j => by rw [hk, kreg_tabSet]
    exact ⟨fun hin => hmoved hin trivial (fun m hm => (Option.some.inj hm).symm) rfl (.inr rfl) rfl fun _ => rfl,
      fun hin => hmoved hin trivial (fun m hm => (Option.some.inj hm).symm) rfl (.inr rfl) rfl fun _ => rfl,
      fun hin => counted hin trivial rfl rfl rfl, fun hin => counted hin trivial rfl rfl rfl,
      fun hin hlt => counted hin trivial rfl rfl (advanceFrom_below hlt)⟩

end Sys2Proof.Machine
end

section
/-! PROOFS. hres.set and hres.clr (R171 to R176, R186). -/

namespace Sys2Proof.Machine

variable {s s' s1 s2 : State} {t u v : Thread} {tid n marker : Nat} {e : Entry} {rest : List Entry} {h : HReg} {blk td : List Byte}
  {lo : List Int} {l : List Req} {sp : Tab Byte} {pa : Nat → Nat} {d a : Reg}

/-! ## Tables -/

theorem tabErase_tabPut {α : Type} (ks : Tab α) (k : Nat) (x : α) : tabErase (tabPut ks k x) k = tabErase ks k := by
  induction ks with
  | nil => simp [tabPut, tabErase]
  | cons y ks ih =>
    obtain ⟨j, w⟩ := y
    unfold tabErase at ih ⊢
    rw [tabPut]
    split
    · simp
    · split
      · next hj => subst hj; simp
      · next hj => rw [List.filter_cons, List.filter_cons, ih]

theorem mem_of_mem_tabPut {α : Type} {ks : Tab α} {k : Nat} {x : α} {y : Nat × α} (h : y ∈ tabPut ks k x) : y = (k, x) ∨ y ∈ ks := by
  induction ks with
  | nil => exact .inl (List.mem_singleton.mp h)
  | cons z ks ih =>
    obtain ⟨j, w⟩ := z
    rw [tabPut] at h
    split at h
    · exact (List.mem_cons.mp h)
    · split at h
      · exact (List.mem_cons.mp h).imp id (List.mem_cons_of_mem _)
      · rcases List.mem_cons.mp h with h | h
        · exact .inr (h ▸ List.mem_cons_self)
        · exact (ih h).imp id (List.mem_cons_of_mem _)

/-! ## A register cleared -/

/-- The thread without a register: its deliveries are discarded, but for reads that other registers share (R179, R186). -/
def cleared (t : Thread) (n : Nat) : Thread :=
  { t with h := tabErase t.h n, recomps := (keepRecomps t (t.recomps.filter (fun r => r.h ≠ n))).recomps }

/-- A register whose dirty elements all travel is cleared (R186). -/
theorem clearReg_travels (ht : threadAt s tid = some t) (hh : tabFind t.h n = some h) (hl : ∀ k ∈ h.dirty, Travels s (tid / 4) t h pa k)
    (hc : h.dirty ≠ [] → storesCount s t + h.dirty.length ≤ 65535) (seq : Nat) : ∃ s', clearReg s tid n seq = (s', true) ∧
      Leads s s' tid (cleared t n) (backReqs (clusterOf s (tid / 4)).scratch t (tid / 4) seq false h pa s.uid h.dirty)
        (backScratch h h.dirty (clusterOf s (tid / 4)).scratch) := by
  obtain ⟨s1, u, hs, L, hu⟩ := cleanReg_travels (seq := seq) (part := false) ht hh hl fun _ => hc
  have hclear : cleared u n = cleared t n := by
    rw [hu, cleared]
    split
    · rfl
    · dsimp only
      rw [tabErase_tabPut]
      rfl
  have L1 := (L.modThread fun t => keepRecomps { t with h := tabErase t.h n } (t.recomps.filter (fun r => r.h ≠ n))).rsDropLoads (tid / 4) (tid % 4)
  rw [show keepRecomps { u with h := tabErase u.h n } (u.recomps.filter (fun r => r.h ≠ n)) = cleared u n from rfl, hclear] at L1
  refine ⟨_, ?_, L1⟩
  rw [clearReg, hs]

theorem engineAtVcp_hresClr (hin : e.instr = .hresClr d) :
    needsLanes e.instr = false ∧ engineAtVcp s tid t e = hresClrAtVcp s tid t e d.toNat := by
  unfold engineAtVcp
  rw [hin]
  exact ⟨rfl, rfl⟩

/-- hres.clr of a register whose dirty elements all travel (R186). -/
theorem AtVcp.hresClr (H : AtVcp s tid t e rest) (hin : e.instr = .hresClr d) (hlost : t.lost = none) (hh : tabFind t.h d.toNat = some h)
    (hl : ∀ k ∈ h.dirty, Travels s (tid / 4) t h pa k) (hc : h.dirty ≠ [] → storesCount s t + h.dirty.length ≤ 65535) :
    ∃ s', CompletesTo s s' tid (cleared t d.toNat) rest ∧ s'.inflight = s.inflight ++
      backReqs (clusterOf s (tid / 4)).scratch t (tid / 4) e.uid false h pa s.uid h.dirty := by
  obtain ⟨hn, he⟩ := engineAtVcp_hresClr (s := s) (tid := tid) (t := t) hin
  obtain ⟨s1, hs, L⟩ := clearReg_travels H.here hh hl hc e.uid
  rw [hresClrAtVcp, if_neg (by simp [hh]), hs] at he
  obtain ⟨hcomp, L1⟩ := H.completesTo hn he (L.postLost hlost) rfl
  exact ⟨_, hcomp, L1.inflight⟩

/-! ## Ranges touched -/

theorem onlyCaches_touchPages {cl o id c : Nat} {need : Need} (ps : List (Nat × Nat)) (h : touchPages s cl o id c need ps = (true, s1)) :
    OnlyCaches s s1 cl := by
  induction ps generalizing s with
  | nil =>
    cases h
    exact OnlyCaches.refl _ cl
  | cons p ps ih =>
    obtain ⟨va, m⟩ := p
    rw [touchPages] at h
    split at h
    · cases h
    · next hx =>
      split at h
      · cases h
      · exact (OnlyCaches.of_xlate hx (by simp)).trans (ih h)
    · next hx => exact (OnlyCaches.of_xlate hx (by simp)).trans (ih h)

/-- Ranges that need not wait leave the cluster's translations (R285). -/
theorem onlyCaches_touchRanges {cl o id : Nat} (xs : List Touch) (h : touchRanges s cl o id xs = (true, s1)) : OnlyCaches s s1 cl := by
  induction xs generalizing s with
  | nil =>
    cases h
    exact OnlyCaches.refl _ cl
  | cons x xs ih =>
    rw [touchRanges] at h
    split at h
    · cases h
    · next hx => exact (onlyCaches_touchPages _ hx).trans (ih h)

/-! ## Coordinates -/

/-- The coordinates of a box of four dimensions. -/
theorem mem_coordsOf {lo hi c : List Int} : c ∈ coordsOf lo hi ↔ c.length = 4 ∧ ∀ m, m < 4 → lo.getD m 0 ≤ c.getD m 0 ∧ c.getD m 0 < hi.getD m 0 := by
  have hr (m : Nat) (x : Int) : x ∈ (List.range (hi.getD m 0 - lo.getD m 0).toNat).map (fun (i : Nat) => lo.getD m 0 + (i : Int)) ↔
      lo.getD m 0 ≤ x ∧ x < hi.getD m 0 := by
    rw [List.mem_map]
    constructor
    · rintro ⟨i, hi, rfl⟩
      rw [List.mem_range] at hi
      omega
    · rintro ⟨h1, h2⟩
      exact ⟨(x - lo.getD m 0).toNat, List.mem_range.mpr (by omega), by omega⟩
  have hmem : c ∈ coordsOf lo hi ↔ ∃ c3, (lo.getD 3 0 ≤ c3 ∧ c3 < hi.getD 3 0) ∧ ∃ c2, (lo.getD 2 0 ≤ c2 ∧ c2 < hi.getD 2 0) ∧
      ∃ c1, (lo.getD 1 0 ≤ c1 ∧ c1 < hi.getD 1 0) ∧ ∃ c0, (lo.getD 0 0 ≤ c0 ∧ c0 < hi.getD 0 0) ∧ [c0, c1, c2, c3] = c := by
    simp only [← hr, coordsOf, List.mem_flatMap]
    simp only [List.mem_map (f := fun c0 => [c0, _, _, _])]
  rw [hmem]
  constructor
  · rintro ⟨c3, h3, c2, h2, c1, h1, c0, h0, rfl⟩
    refine ⟨rfl, fun m hm => ?_⟩
    interval_cases m
    · exact h0
    · exact h1
    · exact h2
    · exact h3
  · rintro ⟨hlen, hc⟩
    refine ⟨c.getD 3 0, hc 3 (by decide), c.getD 2 0, hc 2 (by decide), c.getD 1 0, hc 1 (by decide), c.getD 0 0, hc 0 (by decide), ?_⟩
    match c, hlen with
    | [_, _, _, _], _ => rfl

/-- Without an old box, the whole box enters (R176). -/
theorem mem_entering_none {rank : Nat} {w : List Nat} {c : List Int} : c ∈ entering rank w none lo ↔
    c.length = 4 ∧ ∀ m, m < 4 → lo.getD m 0 ≤ c.getD m 0 ∧ c.getD m 0 < lo.getD m 0 + (w.getD m 1 : Int) := by
  rw [entering, piecesOf, List.flatMap_singleton, mem_coordsOf]
  refine and_congr_right fun _ => forall_congr' fun m => forall_congr' fun hm => ?_
  interval_cases m <;> rfl

/-! ## The fetches of a fresh register -/

/-- A fetch starts as what it was, in some state (R285). -/
theorem fetchStart_frame (s : State) (cl ctx : Nat) (f : Fetch) : fetchStart s cl ctx f = { f with state := (fetchStart s cl ctx f).state } := by
  unfold fetchStart
  split
  · rfl
  · dsimp only
    split <;> rfl

/-- The fetch of a coordinate that nothing shares. -/
def fetchFor (h : HReg) (c : List Int) (f : Fetch) : Prop :=
  f.coord = c ∧ f.slot = slotOf (boxW h.blk) c ∧ f.va = elemVa h.td c ∧ f.wmk = h.push.wmk ∧ f.share = none

/-- The fetch numbered `uid` and on of a coordinate. -/
def freshFetch (h : HReg) (uid : Nat) (x : List Int × Nat) : Fetch :=
  { id := uid + x.2, coord := x.1, slot := slotOf (boxW h.blk) x.1, va := elemVa h.td x.1, wmk := h.push.wmk }

/-- Fetches of some coordinates, one each. -/
theorem fetchFor_fetchesOf (s : State) (cl ctx uid : Nat) (h : HReg) (cs : List (List Int)) :
    (∀ f ∈ (fetchesOf uid h cs []).map (fetchStart s cl ctx), ∃ c ∈ cs, fetchFor h c f) ∧
    ∀ c ∈ cs, ∃ f ∈ (fetchesOf uid h cs []).map (fetchStart s cl ctx), fetchFor h c f := by
  have hfor (x : List Int × Nat) : fetchFor h x.1 (fetchStart s cl ctx (freshFetch h uid x)) := by
    rw [fetchStart_frame]
    exact ⟨rfl, rfl, rfl, rfl, rfl⟩
  constructor
  · intro f hf
    obtain ⟨g, hg, rfl⟩ := List.mem_map.mp hf
    obtain ⟨x, hx, rfl⟩ := List.mem_map.mp hg
    exact ⟨x.1, List.fst_mem_of_mem_zipIdx hx, hfor x⟩
  · intro c hc
    rw [← List.zipIdx_map_fst 0 cs] at hc
    obtain ⟨x, hx, rfl⟩ := List.mem_map.mp hc
    exact ⟨_, List.mem_map.mpr ⟨_, List.mem_map.mpr ⟨x, hx, rfl⟩, rfl⟩, hfor x⟩

/-- The elements of a register's new box that travel (R172, R176). -/
def travelsIn (h : HReg) (lo : List Int) (c : List Int) : Prop :=
  c ∈ entering (tdRank h.td) (boxW h.blk) none lo ∧ isClipped h.td h.push.limit c = false

/-- What a marker of one register without an old box has recomputed: nothing in the modes wo and acc, else a fetch of every element of
the box that travels (R175, R176). -/
theorem recomputeAll_single (s : State) (marker : Nat) (hh : tabFind t.h n = some h) : ∃ s1 rs, recomputeAll s tid t marker [(n, none)] = (s1, rs) ∧
    FetchesOnly s s1 ∧
    (∀ r ∈ rs, r.h = n ∧ r.marker = marker ∧ r.landing = false ∧ r.counts = true ∧
      ∀ f ∈ r.fetches, ∃ c, travelsIn h h.push.lo c ∧ fetchFor h c f) ∧
    (blkMode h.blk = modeWo ∨ blkMode h.blk = modeAcc → rs = []) ∧
    (¬ (blkMode h.blk = modeWo ∨ blkMode h.blk = modeAcc) → ∀ c, travelsIn h h.push.lo c → ∃ r ∈ rs, ∃ f ∈ r.fetches, fetchFor h c f) := by
  let fs := (recompute s tid t n none []).2
  let rs : List Recomp := if fs = [] then [] else [{ h := n, marker := marker, fetches := fs }]
  have hrs : recomputeAll s tid t marker [(n, none)] = ((recompute s tid t n none []).1, rs) := by
    have hall : recomputeAll s tid t marker [(n, none)] = ((recompute s tid t n none []).1,
        ([(n, fs)].filter (fun e => e.2 ≠ [])).map (fun e => { h := e.1, marker := marker, fetches := e.2 })) := rfl
    rw [hall]
    by_cases hf : fs = []
    · simp [rs, hf]
    · simp [rs, hf]
  have hmem (r : Recomp) : r ∈ rs ↔ fs ≠ [] ∧ r = { h := n, marker := marker, fetches := fs } := by
    unfold rs
    split
    · next hf => simp [hf]
    · next hf => simp [hf]
  refine ⟨_, rs, hrs, fetchesOnly_recompute _ _ _ _ _ _, ?_⟩
  by_cases hmode : blkMode h.blk = modeWo ∨ blkMode h.blk = modeAcc
  · have hfs : fs = [] := by
      unfold fs
      rw [recompute, hh]
      dsimp only
      rw [if_pos hmode]
    have hnil : rs = [] := if_pos hfs
    exact ⟨by rw [hnil]; exact fun _ h => absurd h List.not_mem_nil, fun _ => hnil, fun h => absurd hmode h⟩
  · let cs := (entering (tdRank h.td) (boxW h.blk) none h.push.lo).filter (fun c => !isClipped h.td h.push.limit c)
    have hcs (c : List Int) : c ∈ cs ↔ travelsIn h h.push.lo c := by
      rw [List.mem_filter, travelsIn, Bool.not_eq_true']
    have hfs : fs = (fetchesOf s.uid h cs []).map (fetchStart s (tid / 4) t.ctx) := by
      unfold fs
      rw [recompute, hh]
      dsimp only
      rw [if_neg hmode]
      rfl
    obtain ⟨hall, hevery⟩ := fetchFor_fetchesOf s (tid / 4) t.ctx s.uid h cs
    rw [← hfs] at hall hevery
    refine ⟨fun r hr => ?_, fun h => absurd h hmode, fun _ c hc => ?_⟩
    · obtain ⟨-, rfl⟩ := (hmem r).mp hr
      refine ⟨rfl, rfl, rfl, rfl, fun f hf => ?_⟩
      obtain ⟨c, hc, hcf⟩ := hall f hf
      exact ⟨c, (hcs c).mp hc, hcf⟩
    · obtain ⟨f, hf, hcf⟩ := hevery c ((hcs c).mpr hc)
      exact ⟨_, (hmem _).mpr ⟨List.ne_nil_of_mem hf, rfl⟩, f, hf, hcf⟩

/-! ## A register set -/

/-- The checks of R171 read of the state which registers the cluster's threads have. -/
theorem configCheck_congr (ht : s'.threads = s.threads) (tid n : Nat) (blk td : List Byte) : configCheck s' tid n blk td = configCheck s tid n blk td := by
  have hts (cl : Nat) : threadsOf s' cl = threadsOf s cl := by simp only [threadsOf, threadAt, ht]
  have hreg : regionTaken s' tid n blk = regionTaken s tid n blk := by rw [regionTaken, hts, regionTaken]
  rw [configCheck, configCheck, hreg]

/-- A block that passes the checks has a mode (R171). -/
theorem blkMode_lt_of_configCheck (h : configCheck s tid n blk td = none) : blkMode blk < 4 := by
  have hb : blockCheck blk td = none := by
    unfold configCheck at h
    split at h
    · cases h
    · next hb => exact hb
  have hpass {c : Prop} [Decidable c] {k : Nat} {x : Option Nat} (hx : (if c then some k else x) = none) : ¬ c ∧ x = none := by
    split at hx
    · cases hx
    · next hc => exact ⟨hc, hx⟩
  obtain ⟨hmode, -⟩ := hpass (hpass (hpass (hpass (hpass hb).2).2).2).2
  exact Nat.lt_of_not_le fun h4 => hmode (.inl h4)

/-- The thread that a fresh register replaces one of, or adds to (R186). -/
def withoutReg (t : Thread) (n : Nat) : Thread := if (tabFind t.h n).isSome then cleared t n else t

/-- A clean register makes room for a fresh one. -/
theorem leads_withoutReg (L : Leads s s1 tid t [] sp) (hclean : ∀ r, tabFind t.h n = some r → r.dirty = []) (seq : Nat) :
    ∃ s', (if (tabFind t.h n).isSome then clearReg s1 tid n seq else (s1, true)) = (s', true) ∧ Leads s s' tid (withoutReg t n) [] sp := by
  unfold withoutReg
  cases hh : tabFind t.h n with
  | none => exact ⟨s1, rfl, L⟩
  | some r =>
    have hd := hclean r hh
    obtain ⟨s', hs, L1⟩ := clearReg_travels (pa := fun _ => 0) L.here hh (by rw [hd]; exact fun _ h => absurd h List.not_mem_nil)
      (fun h => absurd hd h) seq
    have hsp : backScratch r r.dirty (clusterOf s1 (tid / 4)).scratch = sp := by
      rw [hd, ← L.scratch, backScratch]
      exact ite_self _
    rw [hd] at L1
    rw [hd] at hsp
    rw [hsp] at L1
    exact ⟨s', hs, L.trans L1⟩

/-- The thread with a fresh register in place of the old one (R186). -/
def withFresh (t : Thread) (n : Nat) (blk td : List Byte) : Thread :=
  { withoutReg t n with h := tabPut (withoutReg t n).h n (freshReg blk td t.kcomm) }

theorem withoutReg_frame (t : Thread) (n : Nat) : withoutReg t n = { t with h := (withoutReg t n).h, recomps := (withoutReg t n).recomps } := by
  unfold withoutReg
  split <;> rfl

theorem mem_withoutReg {r : Nat × HReg} (hr : r ∈ (withoutReg t n).h) : r ∈ t.h := by
  unfold withoutReg at hr
  split at hr
  · exact List.mem_of_mem_filter hr
  · exact hr

theorem tabFind_withoutReg {j : Nat} (hj : j ≠ n) : tabFind (withoutReg t n).h j = tabFind t.h j := by
  unfold withoutReg
  split
  · exact tabFind_tabErase_ne _ hj
  · rfl

/-- A thread in a slot of a cluster is among its threads. -/
theorem mem_threadsOf_of_threadAt {w : Nat × Thread} (hw : threadAt s w.1 = some w.2) : w ∈ threadsOf s (w.1 / 4) := by
  refine List.mem_filterMap.mpr ⟨w.1 % 4, ?_, ?_⟩
  · have : w.1 % 4 < 4 := Nat.mod_lt _ (by decide)
    interval_cases w.1 % 4 <;> decide
  · rw [show 4 * (w.1 / 4) + w.1 % 4 = w.1 by omega, hw]
    rfl

/-- The registers beside a fresh one are those that were there. -/
theorem apartFrom_fresh (ht : threadAt s tid = some t) (L : Leads s s1 tid (withFresh t n blk td) l sp)
    (ha : ApartFrom s tid n (freshReg blk td t.kcomm) lo) : ApartFrom s1 tid n (freshReg blk td t.kcomm) lo := by
  intro w hw r hr hne hmode
  obtain ⟨hwt, hw4⟩ := mem_threadsOf hw
  by_cases hwtid : w.1 = tid
  · rw [hwtid, L.here] at hwt
    have hwu := (Option.some.inj hwt).symm
    rw [hwu] at hr
    have hrt : r ∈ t.h := by
      rcases mem_of_mem_tabPut hr with hr | hr
      · exact absurd ⟨hwtid, by rw [hr]⟩ hne
      · exact mem_withoutReg hr
    exact ha (tid, t) (mem_threadsOf_of_threadAt ht) r hrt (fun h => hne ⟨hwtid, h.2⟩) hmode
  · rw [L.only.threads w.1 hwtid] at hwt
    have hws := mem_threadsOf_of_threadAt hwt
    rw [hw4] at hws
    exact ha w hws r hr hne hmode

/-- The thread once its fresh register has been fetched for. -/
def withFetches (t : Thread) (n : Nat) (blk td : List Byte) (rs : List Recomp) : Thread :=
  let g := freshReg blk td t.kcomm
  { withFresh t n blk td with
    h := tabPut (withFresh t n blk td).h n (movedReg g (slotsAt g (entering (tdRank td) (boxW blk) none g.comm.lo)) g.comm)
    recomps := (withoutReg t n).recomps ++ rs }

/-- What hres.set does with a block and a descriptor that pass the checks (R171 to R176, R186). -/
theorem configure_leads (L : Leads s s1 tid t [] sp) (ht : threadAt s tid = some t) (hlost : t.lost = none)
    (hcfg : configCheck s1 tid n blk td = none) (hclean : ∀ r, tabFind t.h n = some r → r.dirty = [])
    (hov : blkMode blk = 0 ∨ ApartFrom s tid n (freshReg blk td t.kcomm) (freshReg blk td t.kcomm).comm.lo) :
    let g := freshReg blk td t.kcomm
    ∃ s2 rs, configure s1 tid t e n blk td = .done s2 ∧ Leads s s2 tid (landed e.uid (withFetches t n blk td rs)) []
        (enterScratch g (slotsAt g (entering (tdRank td) (boxW blk) none g.comm.lo)) sp) ∧
      (∀ r ∈ rs, r.h = n ∧ r.marker = e.uid ∧ r.landing = false ∧ r.counts = true ∧
        ∀ f ∈ r.fetches, ∃ c, travelsIn g g.push.lo c ∧ fetchFor g c f) ∧
      (blkMode blk = modeWo ∨ blkMode blk = modeAcc → rs = []) ∧
      (¬ (blkMode blk = modeWo ∨ blkMode blk = modeAcc) → ∀ c, travelsIn g g.push.lo c → ∃ r ∈ rs, ∃ f ∈ r.fetches, fetchFor g c f) := by
  intro g
  have hfr := withoutReg_frame t n
  obtain ⟨s3, hs3, L3⟩ := leads_withoutReg L hclean e.uid
  have L4 : Leads s (modThread (postLost s3 tid) tid fun t => { t with h := tabPut t.h n g }) tid (withFresh t n blk td) [] sp :=
    (L3.postLost (by rw [hfr]; exact hlost)).modThread _
  have hself : tabFind (withFresh t n blk td).h n = some g := tabFind_tabPut_self _ _ _
  have hover : (if blkMode blk = modeRd then none else overlapOf (modThread (postLost s3 tid) tid fun t => { t with h := tabPut t.h n g }) tid
      [(n, g.comm.lo)]) = none := by
    split
    · rfl
    · next hm => exact overlapOf_apart L4.here hself hm (apartFrom_fresh ht L4 (hov.resolve_left hm))
  obtain ⟨s5, rs, hrec, hf, hrs⟩ := recomputeAll_single (tid := tid) (modThread (postLost s3 tid) tid fun t => { t with h := tabPut t.h n g }) e.uid hself
  have L6 := (((L4.fetchesOnly hf).modThread fun t => { t with recomps := t.recomps ++ rs }).moveBox hself none g.comm).openLanding e.uid
  refine ⟨_, rs, ?_, L6, hrs⟩
  rw [configure, hcfg]
  dsimp only
  rw [hs3]
  dsimp only
  rw [hover]
  dsimp only
  rw [L4.here]
  dsimp only
  rw [hrec]

/-- The box of a fresh register under the counters (R172). -/
theorem freshReg_lo (blk td : List Byte) (ks : Tab KReg) : (freshReg blk td ks).comm.lo = [0, 1, 2, 3].map (fun n => blkC blk n +
    ((List.range 8).map (fun j => blkA blk n j * ((kreg ks j).value : Int))).sum) :=
  List.map_congr_left fun m hm => by
    have h0 : List.getD [(0 : Int), 0, 0, 0] m 0 = 0 := by fin_cases hm <;> rfl
    rw [h0, add_zero]

theorem tdExt_lt (td : List Byte) (m : Nat) : tdExt td m < 2 ^ 32 :=
  lt_of_lt_of_le (natOfBytes_lt _) (calc
    256 ^ ((td.drop (16 + 4 * m)).take 4).length ≤ 256 ^ 4 := Nat.pow_le_pow_right (by decide) (List.length_take_le _ _)
    _ = 2 ^ 32 := by norm_num)

/-- The limits of a fresh register clip nothing that its tensor holds (R172). -/
theorem isClipped_fresh {c : List Int} : isClipped td [2 ^ 64 - 1, 2 ^ 64 - 1, 2 ^ 64 - 1, 2 ^ 64 - 1] c = true ↔
    ∃ m, m < 4 ∧ (c.getD m 0 < 0 ∨ (tdExt td m : Int) ≤ c.getD m 0) := by
  have hmin (m : Nat) : m < 4 → min (tdExt td m) (List.getD [2 ^ 64 - 1, 2 ^ 64 - 1, 2 ^ 64 - 1, 2 ^ 64 - 1] m 0) = tdExt td m := fun hm => by
    have hext := tdExt_lt td m
    refine Nat.min_eq_left ?_
    interval_cases m <;> exact le_of_lt (hext.trans (by norm_num))
  have hdims (m : Nat) : m ∈ [0, 1, 2, 3] ↔ m < 4 := by simp only [List.mem_cons, List.not_mem_nil, or_false]; omega
  rw [isClipped, List.any_eq_true]
  refine exists_congr fun m => ?_
  rw [hdims, decide_eq_true_eq]
  exact and_congr_right fun hm => by rw [hmin m hm]

/-- What travels of a fresh register: the coordinates of its box that its tensor holds (R172, R176). -/
theorem travelsIn_fresh {ks : Tab KReg} {c : List Int} : travelsIn (freshReg blk td ks) lo c ↔
    (c.length = 4 ∧ ∀ m, m < 4 → lo.getD m 0 ≤ c.getD m 0 ∧ c.getD m 0 < lo.getD m 0 + (blkW blk m : Int)) ∧
      ¬ ∃ m, m < 4 ∧ (c.getD m 0 < 0 ∨ (tdExt td m : Int) ≤ c.getD m 0) := by
  have hw (m : Nat) (hm : m < 4) : (boxW blk).getD m 1 = blkW blk m := by interval_cases m <;> rfl
  rw [travelsIn, ← Bool.not_eq_true]
  refine and_congr (mem_entering_none.trans (and_congr_right fun _ => forall_congr' fun m => forall_congr' fun hm => ?_)) (not_congr isClipped_fresh)
  rw [show (boxW (freshReg blk td ks).blk).getD m 1 = blkW blk m from hw m hm]

/-- The slot of a coordinate of a box enters with it. -/
theorem slotOf_mem_slotsAt {rank : Nat} {c : List Int} (hc : c.length = 4 ∧ ∀ m, m < 4 → lo.getD m 0 ≤ c.getD m 0 ∧
    c.getD m 0 < lo.getD m 0 + (blkW h.blk m : Int)) : slotOf (boxW h.blk) c ∈ slotsAt h (entering rank (boxW h.blk) none lo) := by
  have hw (m : Nat) (hm : m < 4) : (boxW h.blk).getD m 1 = blkW h.blk m := by interval_cases m <;> rfl
  exact List.mem_map.mpr ⟨c, mem_entering_none.mpr ⟨hc.1, fun m hm => by rw [hw m hm]; exact hc.2 m hm⟩, rfl⟩

theorem engineAtVcp_hresSet (hin : e.instr = .hresSet d a) :
    needsLanes e.instr = false ∧ engineAtVcp s tid t e = hresSetAtVcp s tid t e d.toNat := by
  unfold engineAtVcp
  rw [hin]
  exact ⟨rfl, rfl⟩

/-- hres.set whose block and descriptor can be read configures with them (R171, R186). -/
theorem hresSetAtVcp_reads (h1 : touchRanges s (tid / 4) t.uid e.uid [⟨t.ctx, e.cap.xa.toNat, 160, needR⟩] = (true, s1))
    (hb : readVirt s1 t.uid t.ctx e.cap.xa.toNat 160 = .bytes blk)
    (h2 : touchRanges s1 (tid / 4) t.uid e.uid [⟨t.ctx, blkTdesc blk, 64, needR⟩] = (true, s2))
    (hd : readVirt s2 t.uid t.ctx (blkTdesc blk) 64 = .bytes td) : hresSetAtVcp s tid t e n = configure s2 tid t e n blk td := by
  rw [hresSetAtVcp, h1]
  dsimp only
  rw [configRead, hb]
  dsimp only
  rw [h2]
  dsimp only
  rw [configRead, hd]

/-- The recomputations of a thread whose fresh register's deliveries may land: those it had, of other registers, and the fresh ones. -/
theorem landed_withFetches {rs : List Recomp} (hm : ∀ r ∈ t.recomps, r.marker ≠ marker) (hrs : ∀ r ∈ rs, r.marker = marker) :
    (landed marker (withFetches t n blk td rs)).recomps = (withoutReg t n).recomps ++ rs.map fun r => { r with landing := true } := by
  have hold : ∀ r ∈ (withoutReg t n).recomps, r.marker ≠ marker := by
    unfold withoutReg
    split
    · intro r hr
      obtain ⟨r', hr', rfl⟩ := List.mem_map.mp hr
      exact hm r' (List.mem_of_mem_filter (List.mem_of_mem_filter hr'))
    · exact hm
  have hmap : (landed marker (withFetches t n blk td rs)).recomps =
      ((withoutReg t n).recomps ++ rs).map fun r => if r.marker = marker then { r with landing := true } else r := rfl
  rw [hmap, List.map_append]
  congr 1
  · exact (List.map_congr_left fun r hr => if_neg (hold r hr)).trans (List.map_id _)
  · exact List.map_congr_left fun r hr => if_pos (hrs r hr)

theorem tabFind_landed_withFetches_ne {rs : List Recomp} {j : Nat} (hj : j ≠ n) :
    tabFind (landed marker (withFetches t n blk td rs)).h j = tabFind t.h j :=
  (tabFind_tabPut_ne _ _ hj).trans ((tabFind_tabPut_ne _ _ hj).trans (tabFind_withoutReg hj))

theorem tabFind_landed_withFetches_self {rs : List Recomp} :
    tabFind (landed marker (withFetches t n blk td rs)).h n = some (freshReg blk td t.kcomm) :=
  tabFind_tabPut_self _ _ _

/-- Nothing but the registers and the recomputations differs. -/
theorem landed_withFetches_frame (t : Thread) (n marker : Nat) (blk td : List Byte) (rs : List Recomp) :
    landed marker (withFetches t n blk td rs) = { t with
      h := (landed marker (withFetches t n blk td rs)).h, recomps := (landed marker (withFetches t n blk td rs)).recomps } :=
  congrArg (fun z : Thread => { z with
    h := (landed marker (withFetches t n blk td rs)).h, recomps := (landed marker (withFetches t n blk td rs)).recomps }) (withoutReg_frame t n)

/-- Elements that enter a box in mode wo read zero (R175). -/
theorem spRead_enterScratch_wo {k : Nat} {enter : List Nat} (hm : blkMode h.blk = modeWo) (hk : k ∈ enter) (sp : Tab Byte) :
    spRead (enterScratch h enter sp) (slotByte h k) (tySize (tdType h.td)) = 0 := by
  rw [enterScratch, if_neg (by rw [hm]; decide), if_pos hm]
  exact spRead_zeroPlaces (List.mem_map.mpr ⟨k, hk, rfl⟩) _

/-- The copies of elements that enter an accumulation window read zero (R175). -/
theorem spRead_enterScratch_acc {k i : Nat} {enter : List Nat} (hm : blkMode h.blk = modeAcc) (hk : k ∈ enter) (hi : i < 64) (sp : Tab Byte) :
    spRead (enterScratch h enter sp) (copyByte h i k) (tySize (tdType h.td)) = 0 := by
  rw [enterScratch, if_pos hm]
  exact spRead_zeroPlaces (copyByte_mem_copies hk hi) _

/-! ## The obligation -/

/-- Settles O30: hres.set reads, checks and configures, and the box enters as a whole; hres.clr hands back and erases. -/
theorem residencySetAndClear : Obligations.ResidencySetAndClear := by
  unfold Obligations.ResidencySetAndClear
  intro s s1 s2 tid t e rest d a h blk td slot pa H hlost kept lo inside clipped
  refine ⟨fun hin hclean h1 hb h2 hd hcfg hm hov => ?set, fun hin hh => ?clr⟩
  case set =>
    obtain ⟨hn, he⟩ := engineAtVcp_hresSet (s := s) (tid := tid) (t := t) hin
    have hc1 := onlyCaches_touchRanges _ h1
    have hc2 := onlyCaches_touchRanges _ h2
    have hlo : (freshReg blk td t.kcomm).comm.lo = lo := freshReg_lo blk td t.kcomm
    rw [← configCheck_congr (s := s) (s' := s2) (by rw [hc2.rest, hc1.rest])] at hcfg
    have hapart : blkMode blk = 0 ∨ ApartFrom s tid d.toNat (freshReg blk td t.kcomm) (freshReg blk td t.kcomm).comm.lo := by
      rw [hlo]
      exact hov
    obtain ⟨s3, rs, hs3, L, hrs, hnone, hall⟩ := configure_leads (((Leads.start H.here).onlyCaches hc1).onlyCaches hc2) H.here hlost hcfg hclean hapart
    rw [hresSetAtVcp_reads h1 hb h2 hd, hs3] at he
    obtain ⟨hcomp, L1⟩ := H.completesTo hn he L (by rw [landed_withFetches_frame])
    have hpush : (freshReg blk td t.kcomm).push.lo = lo := hlo
    rw [hpush] at hrs hall
    rw [hlo] at L1
    refine ⟨_, _, freshReg blk td t.kcomm, rs.map fun r => { r with landing := true }, hcomp, landed_withFetches_frame _ _ _ _ _ _,
      tabFind_landed_withFetches_self, fun j hj => tabFind_landed_withFetches_ne hj, rfl, ?_, ?_, ?_, ?_, ?_, ?_, ?_⟩
    · rw [← hlo]
      rfl
    · rw [landed_withFetches hm fun r hr => (hrs r hr).2.1, withoutReg]
      split <;> rfl
    · intro r hr
      obtain ⟨x, hx, rfl⟩ := List.mem_map.mp hr
      obtain ⟨hreg, hmark, -, hcount, hf⟩ := hrs x hx
      refine ⟨hreg, hmark, rfl, hcount, fun f hfr => ?_⟩
      obtain ⟨c, hc, hfc⟩ := hf f hfr
      rw [hfc.1]
      exact travelsIn_fresh.mp hc
    · intro hmode c hin hcl
      have hread : ¬ (blkMode blk = modeWo ∨ blkMode blk = modeAcc) := by
        rcases hmode with hmode | hmode <;> rw [hmode] <;> decide
      obtain ⟨r, hr, f, hf, hfc⟩ := hall hread c (travelsIn_fresh.mpr ⟨hin, hcl⟩)
      exact ⟨_, List.mem_map.mpr ⟨r, hr, rfl⟩, f, hf, hfc⟩
    · intro hmode
      have hlt := blkMode_lt_of_configCheck hcfg
      rw [hnone (by unfold modeWo modeAcc; omega), List.map_nil]
    · intro hmode c hc
      rw [L1.scratch]
      exact spRead_enterScratch_wo hmode (slotOf_mem_slotsAt hc) _
    · intro hmode c i hc hi
      rw [L1.scratch]
      exact spRead_enterScratch_acc hmode (slotOf_mem_slotsAt hc) hi _
  case clr =>
    intro gone
    refine ⟨fun hd => ?clean, fun hd hmode hty => ?dirty⟩
    case clean =>
      obtain ⟨s', hs', -⟩ := H.hresClr (pa := fun _ => pa) hin hlost hh (by rw [hd]; exact fun _ hk => absurd hk List.not_mem_nil)
        fun hne => absurd hd hne
      exact ⟨s', hs'⟩
    case dirty =>
      intro c size hopen h0 h52 home hroom
      have hacc : blkMode h.blk ≠ modeAcc := by rcases hmode with hmode | hmode <;> rw [hmode] <;> decide
      have htravels : ∀ k ∈ h.dirty, Travels s (tid / 4) t h (fun _ => pa) k := by
        rw [hd]
        intro k hk
        rw [List.mem_singleton.mp hk]
        exact ⟨hopen, h0, h52, home⟩
      have hcount : h.dirty ≠ [] → storesCount s t + h.dirty.length ≤ 65535 := fun _ => by
        rw [hd]
        exact hroom
      obtain ⟨s', hs', hinf⟩ := H.hresClr hin hlost hh htravels hcount
      refine ⟨s', hs', ?_⟩
      rw [hinf, hd, backReqs_cons, backReq, backKind, if_neg hacc, if_neg hty, decide_eq_false hacc]
      rfl

end Sys2Proof.Machine
end

section
/-! PROOFS. TILE and TMOV at vcp: what an entry takes along to the tile queue (R200, R202, R205, R207, R208, R217). -/

namespace Sys2Proof.Machine

variable {s s' : State} {tid : Nat} {t u : Thread} {e : Entry} {rest : List Entry} {d a b : Reg} {p : PReg} {ty : ElemTy} {tile : Nat}
  {c : Cluster}

/-! ## What a hand-off and a completion leave -/

/-- An entry handed to the tile queue leaves the vector queue (R200). -/
theorem AtVcp.completes_handOff (h : AtVcp s tid t e rest) {q : TEntry} {f : Thread → Thread} (hv : (f t).vq = t.vq)
    (he : needsLanes e.instr = false ∧ engineAtVcp s tid t e = handOff s tid q f) :
    Completes s tid { f t with tq := (f t).tq ++ [q] } rest :=
  ⟨_, (h.completesTo he.1 he.2 ((Leads.start h.here).modThread _) hv).1⟩

/-- A completion leaves each cluster all but the misses that it ends. -/
theorem clusterOf_completeHead (s : State) (tid k : Nat) :
    clusterOf (completeHead s tid) k = { clusterOf s k with missed := (clusterOf (completeHead s tid) k).missed } := by
  unfold completeHead
  split
  · rfl
  · next t _ =>
    rw [clusterOf_bump]
    show clusterOf (endEntry s tid t) k = { clusterOf s k with missed := (clusterOf (endEntry s tid t) k).missed }
    unfold endEntry
    split
    · rfl
    · rw [endMiss]
      exact clusterOf_modMisses s _ k _

/-- A cluster changed outside its scratchpad. -/
theorem Leads.setCluster {r : List Req} {sp : Tab Byte} (h : Leads s s' tid u r sp) (hc : c.scratch = sp) :
    Leads s (setCluster s' (tid / 4) c) tid u r sp :=
  h.quiet rfl rfl rfl (by rw [clusterOf_setCluster_self, hc, h.scratch])

/-! ## Hand-off of TILE and TMOV (R200, R202, R205, R208, R217) -/

theorem tileAtVcp_bound (hq : t.tq.length < 16) (ht : tabFind t.t d.toNat = some tile) (data : BitVec 2048)
    (hi : ∀ x, e.instr ≠ .tileOff x) : tileAtVcp s tid t e d p data =
      handOff s tid { entryOf e with tile := tile, pred := predOf t p, data := data } id := by
  rw [tileAtVcp, if_neg (Nat.not_le.mpr hq), ht]
  refine congrArg (handOff s tid _) (funext fun t => ?_)
  split
  · next x hx => exact absurd hx (hi x)
  · rfl

/-- tile.off unbinds its name as it is handed over (R207). -/
theorem tileAtVcp_tileOff (hq : t.tq.length < 16) (ht : tabFind t.t d.toNat = some tile) (hi : e.instr = .tileOff d) :
    tileAtVcp s tid t e d p 0 = handOff s tid { entryOf e with tile := tile, pred := predOf t p, data := 0 }
      (fun t => { t with t := tabErase t.t d.toNat }) := by
  rw [tileAtVcp, if_neg (Nat.not_le.mpr hq), ht, hi]

theorem tmovInAtVcp_bound (hq : t.tq.length < 16) (ht : tabFind t.t d.toNat = some tile) (hx : e.cap.xb.toNat < 64)
    (hi : ∀ x, e.instr ≠ .tileOff x) : tmovInAtVcp s tid t e d a b p =
      handOff s tid { entryOf e with tile := tile, pred := predOf t p, data := (rv t a.toNat).extractLsb' 0 2048 } id := by
  rw [tmovInAtVcp, if_neg (Nat.not_le.mpr hq), ht, if_neg (by simp), if_neg (Nat.not_le.mpr hx), tileAtVcp_bound hq ht _ hi]

/-- The checks of R208 on the slots of a tile.mma. -/
structure ProductFits (ty : ElemTy) (ma mb : Word) : Prop where
  loadedA : miLoaded ma = true
  loadedB : miLoaded mb = true
  typeA : miType ma = ty
  typeB : miType mb = if ty = .bpi then .s8 else ty
  rows : miRows ma ≤ 64
  cols : miCols mb ≤ 64
  inner : miCols ma = miRows mb

theorem mmaAtVcp_fits {qa qb : Nat} (hq : t.tq.length < 16) (ht : tabFind t.t d.toNat = some tile) (ha : tabFind t.q a.toNat = some qa)
    (hb : tabFind t.q b.toNat = some qb)
    (hf : ProductFits ty (slotAt (clusterOf s (tid / 4)) qa).info (slotAt (clusterOf s (tid / 4)) qb).info) :
    mmaAtVcp s tid t e d a b p ty = handOff s tid { entryOf e with tile := tile, slots := [qa, qb], pred := predOf t p } id := by
  obtain ⟨hla, hlb, hta, htb, hr, hc, hn⟩ := hf
  simp [mmaAtVcp, Nat.not_le.mpr hq, ht, ha, hb, hla, hlb, mmaTypeOk, hta, htb, Nat.not_lt.mpr hr, Nat.not_lt.mpr hc, hn]

/-- With 16 entries in the tile queue an entry for it waits (R200). -/
theorem engineAtVcp_tile_full (hq : 16 ≤ t.tq.length) (h : e.instr = .tileZero d p ∨ e.instr = .tileScal d a p ∨ e.instr = .tileOff d ∨
    e.instr = .tmovVtor d a b p ∨ e.instr = .tmovVtoc d a b p ∨ e.instr = .tileMma d a b p ty ∨ e.instr = .cdyRel a b) :
    needsLanes e.instr = false ∧ engineAtVcp s tid t e = .wait s := by
  unfold engineAtVcp
  rcases h with h | h | h | h | h | h | h <;> rw [h] <;> exact ⟨rfl, if_pos hq⟩

/-- The scale factor is element 0 of vA as a 32-bit pattern (R207). -/
theorem elem_zero_extend (t : Thread) (n : Nat) : BitVec.ofNat 2048 (elem t n 32 0) = ((rv t n).extractLsb' 0 32).zeroExtend 2048 := by
  rw [elem, Nat.zero_mul]
  exact BitVec.ofNat_toNat ..

/-- Settles O33: each entry is handed to the tile queue with the operands that its form of R200 names; a full queue holds it at vcp. -/
theorem tileEntriesAreHandedOff : Obligations.TileEntriesAreHandedOff := by
  unfold Obligations.TileEntriesAreHandedOff
  intro s tid t e rest d a b p ty tile qa qb h ht pred queues made
  have queue {q : TEntry} (he : needsLanes e.instr = false ∧ engineAtVcp s tid t e = handOff s tid q id) : queues q :=
    h.completes_handOff rfl he
  refine ⟨fun hq => ⟨fun hi => ?zero, fun hi => ?scal, fun hx hi => ?move, fun hi ha hb hla hlb hta htb hr hc hn => ?mma⟩,
    fun hq hi => ?full⟩
  case zero =>
    refine queue ?_
    unfold engineAtVcp
    rw [hi]
    exact ⟨rfl, tileAtVcp_bound hq ht _ (by simp [hi])⟩
  case scal =>
    rw [← elem_zero_extend]
    refine queue ?_
    unfold engineAtVcp
    rw [hi]
    exact ⟨rfl, tileAtVcp_bound hq ht _ (by simp [hi])⟩
  case move =>
    refine queue ?_
    unfold engineAtVcp
    rcases hi with hi | hi <;> rw [hi] <;> exact ⟨rfl, tmovInAtVcp_bound hq ht hx (by simp [hi])⟩
  case mma =>
    refine queue ?_
    unfold engineAtVcp
    rw [hi]
    exact ⟨rfl, mmaAtVcp_fits hq ht ha hb ⟨hla, hlb, hta, htb, hr, hc, hn⟩⟩
  case full =>
    obtain ⟨hl, he⟩ := engineAtVcp_tile_full (s := s) (tid := tid) hq hi
    exact vcpWaits_of_engine h hl he

end Sys2Proof.Machine
end

section
/-! PROOFS. Claims of tiles and Caddy slots: the waiters of a cluster, what TILE_POOL_GRANT and CADDY_SLOT_GRANT give the oldest, and what
tile.off and cdy.rel unbind (R200, R201, R207, R211). -/

namespace Sys2Proof.Machine

variable {s : State} {tid : Nat} {t u : Thread} {e : Entry} {rest : List Entry} {d a b : Reg} {tile : Nat} {c : Cluster} {l : List Nat}

/-! ## Several numbers of a table -/

theorem tabFind_foldl_tabErase {α : Type} (ks : List Nat) (m : Tab α) (k : Nat) :
    tabFind (ks.foldl tabErase m) k = if k ∈ ks then none else tabFind m k := by
  induction ks generalizing m with
  | nil => rfl
  | cons x ks ih =>
    rw [List.foldl_cons, ih]
    by_cases hk : k = x
    · subst hk
      simp
    · simp [hk, tabFind_tabErase_ne m hk]

theorem tabFind_foldl_tabPut_ne {α : Type} {ps : List (Nat × α)} {k : Nat} (h : ∀ x ∈ ps, x.1 ≠ k) (m : Tab α) :
    tabFind (ps.foldl (fun m x => tabPut m x.1 x.2) m) k = tabFind m k := by
  induction ps generalizing m with
  | nil => rfl
  | cons x ps ih =>
    rw [List.foldl_cons, ih fun y hy => h y (List.mem_cons_of_mem _ hy), tabFind_tabPut_ne _ _ (h x List.mem_cons_self).symm]

/-- Pairs put one after the other at different numbers are all found. -/
theorem tabFind_foldl_tabPut_mem {α : Type} {ps : List (Nat × α)} {k : Nat} {v : α} (hn : (ps.map Prod.fst).Nodup) (h : (k, v) ∈ ps)
    (m : Tab α) : tabFind (ps.foldl (fun m x => tabPut m x.1 x.2) m) k = some v := by
  induction ps generalizing m with
  | nil => exact absurd h List.not_mem_nil
  | cons x ps ih =>
    rw [List.map_cons, List.nodup_cons] at hn
    rw [List.foldl_cons]
    rcases List.mem_cons.mp h with rfl | h
    · rw [tabFind_foldl_tabPut_ne, tabFind_tabPut_self]
      exact fun y hy hyk => hn.1 (List.mem_map.mpr ⟨y, hy, hyk⟩)
    · exact ih hn.2 h _

theorem tabFind_filter_none {α : Type} {f : Nat × α → Bool} {k : Nat} (h : ∀ v, f (k, v) = false) (m : Tab α) :
    tabFind (m.filter f) k = none := by
  induction m with
  | nil => rfl
  | cons x m ih =>
    obtain ⟨j, v⟩ := x
    rw [List.filter_cons]
    split
    · next hf =>
      have hj : j ≠ k := fun hj => by rw [hj, h] at hf; cases hf
      rw [tabFind, if_neg hj, ih]
    · exact ih

theorem mem_foldl_setAdd {ks : List Nat} {k : Nat} : k ∈ ks.foldl setAdd l ↔ k ∈ l ∨ k ∈ ks := by
  induction ks generalizing l with
  | nil => simp
  | cons x ks ih => rw [List.foldl_cons, ih, mem_setAdd, List.mem_cons, or_assoc]

/-! ## tile.on and TILE_POOL_GRANT (R201, R207) -/

theorem exec_tilePoolGrant (cl : Nat) (s : State) : exec (.tilePoolGrant cl) s = execTilePoolGrant cl s := rfl

theorem engineAtVcp_tileOn (hi : e.instr = .tileOn d) : needsLanes e.instr = false ∧ engineAtVcp s tid t e = tileOnAtVcp s tid t d := by
  unfold engineAtVcp
  rw [hi]
  exact ⟨rfl, rfl⟩

theorem tileOnAtVcp_bound (h : (tabFind t.t d.toNat).isSome = true) : tileOnAtVcp s tid t d = .done s := if_pos h

/-- A thread that has not asked yet joins the waiters of its cluster as the last. -/
theorem tileOnAtVcp_joins (h : tabFind t.t d.toNat = none) (hw : ¬ tid % 4 ∈ (clusterOf s (tid / 4)).tileWait) :
    tileOnAtVcp s tid t d = .wait (setCluster s (tid / 4)
      { clusterOf s (tid / 4) with tileWait := (clusterOf s (tid / 4)).tileWait ++ [tid % 4] }) := by
  rw [tileOnAtVcp, h]
  exact if_neg hw

/-- The instruction at vcp, as the grants ask for it. -/
theorem AtVcp.headOf (h : AtVcp s tid t e rest) : headOf s (4 * (tid / 4) + tid % 4) = some (t, e.instr) := by
  rw [Nat.div_add_mod, Machine.headOf, h.here]
  dsimp only
  rw [h.queue]

theorem leastBelow_eq {n k : Nat} {f : Nat → Bool} (hk : k < n) (hf : f k = true) (hl : ∀ j, j < k → f j = false) :
    leastBelow n f = some k := by
  rw [leastBelow, List.find?_range_eq_some]
  exact ⟨hf, List.mem_range.mpr hk, fun j hj => by simp [hl j hj]⟩

/-- A tile that is wiped is all +0 (R207). -/
theorem tileElem_wipeTile {i j : Nat} (hi : i < 64) (hj : j < 64) (c : Cluster) (tile : Nat) : tileElem (wipeTile c tile) tile i j = 0 := by
  have hp : (4096 * tile + 64 * i + j) / 4096 = tile := by omega
  rw [tileElem, wipeTile, tabGet, tabFind_filter_none (by simp [hp])]
  rfl

/-- The cluster when the oldest waiter has been given a tile. -/
def tileGranted (c : Cluster) (tile : Nat) (l : List Nat) : Cluster :=
  { wipeTile c tile with tileWait := l, tileBusy := setAdd c.tileBusy tile }

/-- TILE_POOL_GRANT binds the lowest free tile to the name that the oldest waiter asks for, and completes its tile.on. -/
theorem AtVcp.exec_tilePoolGrant (h : AtVcp s tid t e rest) (hi : e.instr = .tileOn d)
    (hw : (clusterOf s (tid / 4)).tileWait = tid % 4 :: l)
    (ht : leastBelow 16 (fun k => ¬ k ∈ (clusterOf s (tid / 4)).tileBusy) = some tile) :
    exec (.tilePoolGrant (tid / 4)) s = .next (completeHead (setThread
      (setCluster s (tid / 4) (tileGranted (clusterOf s (tid / 4)) tile l)) tid { t with t := tabPut t.t d.toNat tile }) tid) := by
  rw [Machine.exec_tilePoolGrant, execTilePoolGrant]
  dsimp only
  rw [hw, ht]
  dsimp only
  rw [h.headOf, hi, Nat.div_add_mod]
  rfl

/-! ## cdy.claim and CADDY_SLOT_GRANT (R201, R211) -/

theorem exec_caddySlotGrant (cl : Nat) (s : State) : exec (.caddySlotGrant cl) s = execCaddySlotGrant cl s := rfl

theorem engineAtVcp_cdyClaim (hi : e.instr = .cdyClaim a b) :
    needsLanes e.instr = false ∧ engineAtVcp s tid t e = claimAtVcp s tid t e a b := by
  unfold engineAtVcp
  rw [hi]
  exact ⟨rfl, rfl⟩

theorem claimAtVcp_joins (h : ∀ q ∈ claimNames a b, tabFind t.q q = none) (hw : ¬ tid % 4 ∈ (clusterOf s (tid / 4)).slotWait) :
    claimAtVcp s tid t e a b = .wait (setCluster s (tid / 4)
      { clusterOf s (tid / 4) with slotWait := (clusterOf s (tid / 4)).slotWait ++ [tid % 4] }) := by
  rw [claimAtVcp, List.find?_eq_none.mpr fun q hq => by simp [h q hq]]
  exact if_neg hw

theorem length_claimNames (a b : Reg) : (claimNames a b).length = b.toNat + 1 := by simp [claimNames]

theorem nodup_claimNames (a b : Reg) : (claimNames a b).Nodup :=
  List.nodup_range.map fun _ _ h => Nat.add_left_cancel h

/-- The cluster when the oldest waiter has been given slots. -/
def slotsGranted (c : Cluster) (got l : List Nat) : Cluster :=
  { c with slotWait := l, slotBusy := got.foldl setAdd c.slotBusy, slots := got.foldl tabErase c.slots }

/-- The names of a claim with the slots they are given, in order. -/
def claimedSlots (a b : Reg) (got : List Nat) (q : Tab Nat) : Tab Nat :=
  ((claimNames a b).zip got).foldl (fun q x => tabPut q x.1 x.2) q

theorem tabFind_claimedSlots {got : List Nat} {i : Nat} (hg : got.length = b.toNat + 1) (hi : i ≤ b.toNat) (q : Tab Nat) :
    tabFind (claimedSlots a b got q) (a.toNat + i) = got[i]? := by
  have hn : (((claimNames a b).zip got).map Prod.fst).Nodup := by
    rw [List.map_fst_zip (by rw [length_claimNames, hg])]
    exact nodup_claimNames a b
  rw [List.getElem?_eq_getElem (by omega)]
  refine tabFind_foldl_tabPut_mem hn (List.mem_iff_getElem.mpr ⟨i, ?_, ?_⟩) q
  · rw [List.length_zip, length_claimNames]
    omega
  · simp [claimNames]

theorem tabFind_claimedSlots_other {got : List Nat} {k : Nat} (hk : ¬ k ∈ claimNames a b) (q : Tab Nat) :
    tabFind (claimedSlots a b got q) k = tabFind q k := by
  refine tabFind_foldl_tabPut_ne (fun x hx hxk => hk ?_) q
  rw [← hxk]
  exact (List.of_mem_zip hx).1

/-- A claim of more slots than are free is given nothing. -/
theorem AtVcp.exec_caddySlotGrant_short (h : AtVcp s tid t e rest) (hi : e.instr = .cdyClaim a b)
    (hw : (clusterOf s (tid / 4)).slotWait = tid % 4 :: l) (hf : (freeSlots (clusterOf s (tid / 4))).length ≤ b.toNat) :
    exec (.caddySlotGrant (tid / 4)) s = .next s := by
  rw [exec_caddySlotGrant, execCaddySlotGrant]
  dsimp only
  rw [hw]
  dsimp only
  rw [h.headOf, hi]
  dsimp only
  rw [if_pos]
  rw [List.length_take, length_claimNames]
  omega

/-- CADDY_SLOT_GRANT gives the oldest waiter the lowest free slots and completes its cdy.claim, when enough are free. -/
theorem AtVcp.exec_caddySlotGrant (h : AtVcp s tid t e rest) (hi : e.instr = .cdyClaim a b)
    (hw : (clusterOf s (tid / 4)).slotWait = tid % 4 :: l) (hf : b.toNat < (freeSlots (clusterOf s (tid / 4))).length) :
    let got := (freeSlots (clusterOf s (tid / 4))).take (b.toNat + 1)
    exec (.caddySlotGrant (tid / 4)) s = .next (completeHead (setThread
      (setCluster s (tid / 4) (slotsGranted (clusterOf s (tid / 4)) got l)) tid { t with q := claimedSlots a b got t.q }) tid) := by
  rw [Machine.exec_caddySlotGrant, execCaddySlotGrant]
  dsimp only
  rw [hw]
  dsimp only
  rw [h.headOf, hi, Nat.div_add_mod]
  dsimp only
  rw [length_claimNames, if_neg]
  · rfl
  · rw [List.length_take]
    omega

/-- What either grant leaves: the cluster as granted, and the waiter with its entry done. -/
theorem AtVcp.granted {i : Instr} (h : AtVcp s tid t e rest)
    (hx : exec i s = .next (completeHead (setThread (setCluster s (tid / 4) c) tid u) tid))
    (hc : c.scratch = (clusterOf s (tid / 4)).scratch) (hq : u.vq = t.vq) :
    ∃ s' ms, exec i s = .next s' ∧ OnlyThread s s' tid ∧ threadAt s' tid = some { u with vq := rest } ∧
      clusterOf s' (tid / 4) = { c with missed := ms } := by
  have L := (((Leads.start h.here).setCluster hc).setThread u).completeHead
  rw [hq, h.queue, List.drop_one, List.tail_cons] at L
  have hcl := clusterOf_completeHead (setThread (setCluster s (tid / 4) c) tid u) tid (tid / 4)
  rw [show clusterOf (setThread (setCluster s (tid / 4) c) tid u) (tid / 4) = c from clusterOf_setCluster_self ..] at hcl
  exact ⟨_, _, hx, L.only, L.here, hcl⟩

/-! ## tile.off and cdy.rel (R200, R207, R211) -/

theorem engineAtVcp_tileOff (hi : e.instr = .tileOff d) : needsLanes e.instr = false ∧ engineAtVcp s tid t e = tileAtVcp s tid t e d 0 0 := by
  unfold engineAtVcp
  rw [hi]
  exact ⟨rfl, rfl⟩

theorem engineAtVcp_cdyRel (hi : e.instr = .cdyRel a b) : needsLanes e.instr = false ∧ engineAtVcp s tid t e = relAtVcp s tid t e a b := by
  unfold engineAtVcp
  rw [hi]
  exact ⟨rfl, rfl⟩

theorem relAtVcp_bound (hq : t.tq.length < 16) (h : ∀ q ∈ claimNames a b, (tabFind t.q q).isSome = true) :
    relAtVcp s tid t e a b = handOff s tid { entryOf e with tile := 16, slots := (claimNames a b).filterMap (tabFind t.q) }
      (fun t => { t with q := (claimNames a b).foldl tabErase t.q }) := by
  rw [relAtVcp, if_neg (Nat.not_le.mpr hq), List.find?_eq_none.mpr fun q hm => by simp [Option.isSome_iff_ne_none.mp (h q hm)]]

/-! ## The obligation -/

/-- Settles O32: both waits join the cluster's waiters, each grant serves the oldest with the lowest that is free, and both hand-offs
unbind their names. -/
theorem tilesAndSlotsAreClaimedInOrder : Obligations.TilesAndSlotsAreClaimedInOrder := by
  unfold Obligations.TilesAndSlotsAreClaimedInOrder
  intro s tid t e rest d a b l tile h cl c names free got
  refine ⟨fun hi hb => ?bound, fun hi hn hw => ?joinTile, fun hi hw h16 hfree hlow => ?grantTile, fun hi hn hw => ?joinSlots,
    fun hi hw => ⟨h.exec_caddySlotGrant_short hi hw, fun hf => ?grantSlots⟩, fun hi hq hb => ?off, fun hi hq hb => ?rel⟩
  case bound =>
    obtain ⟨hl, he⟩ := engineAtVcp_tileOn (s := s) (tid := tid) (t := t) hi
    exact ⟨_, completesTo_of_engine h hl (he.trans (tileOnAtVcp_bound hb)) rfl rfl⟩
  case joinTile =>
    obtain ⟨hl, he⟩ := engineAtVcp_tileOn (s := s) (tid := tid) (t := t) hi
    rw [exec_entryAtVcp_engine h hl, he, tileOnAtVcp_joins hn hw]
    rfl
  case grantTile =>
    have hleast : leastBelow 16 (fun k => ¬ k ∈ c.tileBusy) = some tile :=
      leastBelow_eq h16 (by simpa using hfree) fun j hj => by simpa using hlow j hj
    obtain ⟨s', ms, hx, honly, hhere, hc⟩ := h.granted (h.exec_tilePoolGrant hi hw hleast) rfl rfl
    refine ⟨s', hx, honly, hhere, by rw [hc]; rfl, fun k => ?_, fun i j hi hj => ?_⟩
    · rw [hc]
      exact mem_setAdd.trans or_comm
    · rw [hc]
      exact tileElem_wipeTile hi hj c tile
  case joinSlots =>
    obtain ⟨hl, he⟩ := engineAtVcp_cdyClaim (s := s) (tid := tid) (t := t) hi
    rw [exec_entryAtVcp_engine h hl, he, claimAtVcp_joins hn hw]
    rfl
  case grantSlots =>
    obtain ⟨s', ms, hx, honly, hhere, hc⟩ := h.granted (h.exec_caddySlotGrant hi hw hf) rfl rfl
    refine ⟨s', claimedSlots a b got t.q, hx, honly, hhere, fun i hib => ?_,
      fun q hq => tabFind_claimedSlots_other hq t.q, by rw [hc]; rfl, fun k => ?_, fun k hk => ?_⟩
    · have hgot : got.length = b.toNat + 1 := by
        rw [List.length_take]
        omega
      rw [tabFind_claimedSlots hgot hib, List.getElem?_take_of_lt (by omega)]
    · rw [hc]
      exact mem_foldl_setAdd
    · have hgone : slotAt (slotsGranted c got l) k = {} := by
        rw [slotAt, slotsGranted, tabGet, tabFind_foldl_tabErase, if_pos hk]
        rfl
      rw [hc]
      exact (congrArg (fun x : CSlot => miLoaded x.info) hgone).trans (by decide)
  case off =>
    obtain ⟨hl, he⟩ := engineAtVcp_tileOff (s := s) (tid := tid) (t := t) hi
    have hc := h.completes_handOff rfl ⟨hl, he.trans (tileAtVcp_tileOff hq hb hi)⟩
    exact ⟨_, hc, rfl, rfl⟩
  case rel =>
    obtain ⟨hl, he⟩ := engineAtVcp_cdyRel (s := s) (tid := tid) (t := t) hi
    have hc := h.completes_handOff rfl ⟨hl, he.trans (relAtVcp_bound hq hb)⟩
    exact ⟨_, _, hc, rfl, rfl, tabFind_foldl_tabErase _ _⟩

end Sys2Proof.Machine
end

section
/-! PROOFS. Elements of a Caddy slot, packed bit by bit, and the fields of its metadata word (R197, R198, R212). -/

namespace Sys2Proof.Machine

variable {sp : Tab Byte} {w : Nat}

/-! ## Bits of a table of bytes -/

/-- Bit m of a table of bytes, counted from its byte 0 on. -/
def byteBit (sp : Tab Byte) (m : Nat) : Bool := (tabGet 0 sp (m / 8)).getLsbD (m % 8)

theorem testBit_natOfBytes (l : List Byte) (i : Nat) : (natOfBytes l).testBit i = (l.getD (i / 8) 0).getLsbD (i % 8) := by
  rw [BitVec.getLsbD, ← natOfBytes_div, show (256 : Nat) = 2 ^ 8 by rfl, ← Nat.pow_mul, Nat.testBit_mod_two_pow,
    decide_eq_true (Nat.mod_lt i (by decide)), Bool.true_and, Nat.testBit_div_two_pow, Nat.mod_add_div]

/-- A read of bytes gives their bits. -/
theorem testBit_spRead (sp : Tab Byte) (a n i : Nat) : (spRead sp a n).testBit i = (decide (i < 8 * n) && byteBit sp (8 * a + i)) := by
  rw [spRead, testBit_natOfBytes, byteBit, show (8 * a + i) / 8 = a + i / 8 by omega, Nat.mul_add_mod]
  by_cases h : i < 8 * n
  · rw [List.getD_eq_getElem _ _ (by rw [List.length_map, List.length_range]; omega), List.getElem_map, List.getElem_range,
      decide_eq_true h, Bool.true_and]
  · rw [List.getD_eq_default _ _ (by rw [List.length_map, List.length_range]; omega), decide_eq_false h, Bool.false_and]
    exact BitVec.getLsbD_zero

/-- Bits of a table after the bytes of a number have been written. -/
theorem byteBit_spWrite (sp : Tab Byte) (a n v m : Nat) :
    byteBit (spWrite sp a (bytesOfNat n v)) m = if 8 * a ≤ m ∧ m < 8 * (a + n) then v.testBit (m - 8 * a) else byteBit sp m := by
  split
  · next h =>
    have hread := testBit_spRead (spWrite sp a (bytesOfNat n v)) a n (m - 8 * a)
    rw [spRead_spWrite_self, show (256 : Nat) = 2 ^ 8 by rfl, ← Nat.pow_mul, Nat.testBit_mod_two_pow,
      decide_eq_true (show m - 8 * a < 8 * n by omega), Bool.true_and, Bool.true_and, Nat.add_sub_cancel' h.1] at hread
    exact hread.symm
  · rw [byteBit, tabGet_spWrite_outside (by rw [length_bytesOfNat]; omega), byteBit]

/-! ## Elements of a slot (R197) -/

theorem testBit_bitsOf (x lo n i : Nat) : (bitsOf x lo n).testBit i = (decide (i < n) && x.testBit (lo + i)) := by
  rw [bitsOf, Nat.testBit_mod_two_pow, Nat.testBit_div_two_pow, Nat.add_comm]

theorem slotElem_lt (sp : Tab Byte) (w i : Nat) : slotElem sp w i < 2 ^ w := Nat.mod_lt _ (Nat.two_pow_pos w)

/-- An element of at most 16 bits is the bits of its place: three bytes hold it wherever it starts. -/
theorem testBit_slotElem (hw : w ≤ 16) (sp : Tab Byte) (i k : Nat) :
    (slotElem sp w i).testBit k = (decide (k < w) && byteBit sp (i * w + k)) := by
  rw [slotElem, testBit_bitsOf, testBit_spRead, ← Nat.add_assoc, Nat.div_add_mod]
  by_cases hk : k < w
  · rw [decide_eq_true (show i * w % 8 + k < 8 * 3 by omega), Bool.true_and]
  · rw [decide_eq_false hk, Bool.false_and, Bool.false_and]

/-- A number with `w` of its bits replaced from bit `lo` on. -/
theorem testBit_patched (x lo w v j : Nat) : (x - bitsOf x lo w * 2 ^ lo + v % 2 ^ w * 2 ^ lo).testBit j =
    if lo ≤ j ∧ j < lo + w then v.testBit (j - lo) else x.testBit j := by
  have hx : x = 2 ^ lo * (2 ^ w * (x / 2 ^ lo / 2 ^ w) + bitsOf x lo w) + x % 2 ^ lo := by
    rw [bitsOf, Nat.div_add_mod, Nat.div_add_mod]
  have hp : x - bitsOf x lo w * 2 ^ lo + v % 2 ^ w * 2 ^ lo =
      2 ^ lo * (2 ^ w * (x / 2 ^ lo / 2 ^ w) + v % 2 ^ w) + x % 2 ^ lo := by
    rw [Nat.mul_add] at hx ⊢
    rw [Nat.mul_comm (bitsOf x lo w), Nat.mul_comm (v % 2 ^ w)]
    omega
  have hlo : x % 2 ^ lo < 2 ^ lo := Nat.mod_lt _ (Nat.two_pow_pos lo)
  have hv : v % 2 ^ w < 2 ^ w := Nat.mod_lt _ (Nat.two_pow_pos w)
  rw [hp, Nat.testBit_two_pow_mul_add _ hlo, Nat.testBit_two_pow_mul_add _ hv, Nat.testBit_mod_two_pow, Nat.testBit_mod_two_pow,
    Nat.testBit_div_two_pow, Nat.testBit_div_two_pow]
  by_cases h1 : j < lo
  · rw [if_pos h1, if_neg (by omega), decide_eq_true h1, Bool.true_and]
  · by_cases h2 : j - lo < w
    · rw [if_neg h1, if_pos h2, if_pos (by omega), decide_eq_true h2, Bool.true_and]
    · rw [if_neg h1, if_neg h2, if_neg (by omega), show j - lo - w + w + lo = j by omega]

/-- An element written changes the bits of its own place. -/
theorem byteBit_setSlotElem (hw : w ≤ 16) (sp : Tab Byte) (i v m : Nat) :
    byteBit (setSlotElem sp w i v) m = if i * w ≤ m ∧ m < i * w + w then v.testBit (m - i * w) else byteBit sp m := by
  have hplace : 8 * (i * w / 8) + i * w % 8 = i * w := Nat.div_add_mod _ 8
  have hlow : i * w % 8 < 8 := Nat.mod_lt _ (by decide)
  rw [setSlotElem]
  generalize i * w % 8 = lo at hplace hlow ⊢
  generalize i * w / 8 = a at hplace ⊢
  rw [byteBit_spWrite, testBit_patched, testBit_spRead]
  by_cases hm : 8 * a ≤ m ∧ m < 8 * (a + 3)
  · rw [if_pos hm, decide_eq_true (show m - 8 * a < 8 * 3 by omega), Bool.true_and, Nat.add_sub_cancel' hm.1]
    by_cases h : i * w ≤ m ∧ m < i * w + w
    · rw [if_pos (by omega), if_pos h, show m - 8 * a - lo = m - i * w by omega]
    · rw [if_neg (by omega), if_neg h]
  · rw [if_neg hm, if_neg (by omega)]

/-- Elements of a slot do not meet. -/
theorem slotElem_apart {i j k : Nat} (hij : j ≠ i) (hk : k < w) : ¬ (i * w ≤ j * w + k ∧ j * w + k < i * w + w) := by
  rcases Nat.lt_or_gt_of_ne hij with h | h
  · have := Nat.mul_le_mul_right w (Nat.succ_le_of_lt h)
    rw [Nat.succ_mul] at this
    omega
  · have := Nat.mul_le_mul_right w (Nat.succ_le_of_lt h)
    rw [Nat.succ_mul] at this
    omega

/-- An element of a slot after one of them has been written (R197). -/
theorem slotElem_setSlotElem (hw : w ≤ 16) (sp : Tab Byte) (i j v : Nat) :
    slotElem (setSlotElem sp w i v) w j = if j = i then v % 2 ^ w else slotElem sp w j := by
  apply Nat.eq_of_testBit_eq
  intro k
  rw [apply_ite (Nat.testBit · k), testBit_slotElem hw, testBit_slotElem hw, Nat.testBit_mod_two_pow, byteBit_setSlotElem hw]
  by_cases hk : k < w
  · by_cases hij : j = i
    · subst hij
      rw [if_pos rfl, if_pos (by omega), Nat.add_sub_cancel_left]
    · rw [if_neg hij, if_neg (slotElem_apart hij hk)]
  · rw [decide_eq_false hk, Bool.false_and, Bool.false_and, Bool.false_and, ite_self]

/-- Elements written one by one: each listed one has its value, every other is as it was. -/
theorem slotElem_foldl_setSlotElem (hw : w ≤ 16) (f : Nat → Nat) (l : List Nat) (sp : Tab Byte) (j : Nat) :
    slotElem (l.foldl (fun b i => setSlotElem b w i (f i)) sp) w j = if j ∈ l then f j % 2 ^ w else slotElem sp w j := by
  induction l generalizing sp with
  | nil => rfl
  | cons i l ih =>
    rw [List.foldl_cons, ih, slotElem_setSlotElem hw]
    by_cases hj : j = i
    · subst hj
      simp
    · simp [hj]

/-! ## The metadata word (R198) -/

/-- The fields of a metadata word of a loaded slot (R198, R214, R216). -/
structure InfoReads (m : Word) (rows cols : Nat) (ty : ElemTy) (planes : Nat) (skip spec str : Bool) (fallback : Nat) (dropped : Bool)
    (lossq : Nat) : Prop where
  rows : miRows m = rows
  cols : miCols m = cols
  type : miType m = ty
  planes : miPlanes m = planes
  loaded : miLoaded m = true
  skip : miSkip m = skip
  spec : miSpec m = spec
  str : miStr m = str
  fallback : miFallback m = fallback
  dropped : miDropped m = dropped
  lossq : fieldOf m 48 16 = lossq

/-- Bit k of a word made of a number that fits it. -/
theorem getLsbD_eq_of_div {m : Word} {n k : Nat} {b : Bool} (hm : m.toNat = n) (hb : n / 2 ^ k % 2 = b.toNat) : m.getLsbD k = b := by
  rw [BitVec.getLsbD, hm, Nat.testBit_eq_decide_div_mod_eq, hb]
  cases b <;> rfl

/-- The fields of a metadata word are those it was made from. -/
theorem infoReads_miWord {rows cols planes fb nt nr lq : Nat} (hr : rows < 2 ^ 11) (hc : cols < 2 ^ 11) (ty : ElemTy) (hp : planes < 2 ^ 4)
    (skip spec str dr : Bool) (hf : fb < 2 ^ 2) (ht : nt < 2 ^ 3) (hn : nr < 2 ^ 7) (hl : lq < 2 ^ 16) :
    InfoReads (miWord rows cols ty.code.toNat planes true skip spec str fb nt nr dr lq) rows cols ty planes skip spec str fb dr lq := by
  have hty : ty.code.toNat < 2 ^ 4 := ty.code.isLt
  have hskip := skip.toNat_le
  have hspec := spec.toNat_le
  have hstr := str.toNat_le
  have hdr := dr.toNat_le
  obtain ⟨n, hn'⟩ : ∃ n, n = rows + 2 ^ 11 * cols + 2 ^ 22 * ty.code.toNat + 2 ^ 26 * planes + 2 ^ 30 * true.toNat + 2 ^ 31 * skip.toNat +
    2 ^ 32 * spec.toNat + 2 ^ 33 * str.toNat + 2 ^ 34 * fb + 2 ^ 36 * nt + 2 ^ 39 * nr + 2 ^ 46 * dr.toNat + 2 ^ 48 * lq := ⟨_, rfl⟩
  have hm : (miWord rows cols ty.code.toNat planes true skip spec str fb nt nr dr lq).toNat = n := by
    rw [miWord, BitVec.toNat_ofNat, ← hn']
    refine Nat.mod_eq_of_lt ?_
    rw [Bool.toNat_true] at hn'
    omega
  rw [Bool.toNat_true] at hn'
  have field {lo k x : Nat} (h : n / 2 ^ lo % 2 ^ k = x) :
      fieldOf (miWord rows cols ty.code.toNat planes true skip spec str fb nt nr dr lq) lo k = x := by
    rw [fieldOf, hm]
    exact h
  constructor
  case rows => exact field (by omega)
  case cols => exact field (by omega)
  case type =>
    have hcode : (miWord rows cols ty.code.toNat planes true skip spec str fb nt nr dr lq).extractLsb' 22 4 = ty.code := by
      apply BitVec.eq_of_toNat_eq
      rw [← fieldOf_eq]
      exact field (by omega)
    rw [miType, hcode, ElemTy.ofCode_code, Option.getD_some]
  case planes => exact field (by omega)
  case loaded => exact getLsbD_eq_of_div hm (by rw [Bool.toNat_true]; omega)
  case skip => exact getLsbD_eq_of_div hm (by omega)
  case spec => exact getLsbD_eq_of_div hm (by omega)
  case str => exact getLsbD_eq_of_div hm (by omega)
  case fallback => exact field (by omega)
  case dropped => exact getLsbD_eq_of_div hm (by omega)
  case lossq => exact field (by omega)

/-! ## Row-major order -/

/-- The places of rows × cols elements, (column, row), row by row. -/
def rowMajor (rows cols : Nat) : List (Nat × Nat) := (List.range rows).flatMap fun k => (List.range cols).map fun j => (j, k)

theorem mem_rowMajor {rows cols j k : Nat} : (j, k) ∈ rowMajor rows cols ↔ j < cols ∧ k < rows := by
  simp [rowMajor, and_comm]

/-- Their indices are the elements of the slot in their order. -/
theorem map_index_rowMajor (rows cols : Nat) : (rowMajor rows cols).map (fun x => x.2 * cols + x.1) = List.range (rows * cols) := by
  rw [rowMajor, List.map_flatMap]
  induction rows with
  | zero => rw [Nat.zero_mul]; rfl
  | succ n ih =>
    rw [List.range_succ, List.flatMap_append, ih, Nat.succ_mul, List.range_add, List.flatMap_singleton, List.map_map]
    rfl

end Sys2Proof.Machine
end

section
/-! PROOFS. The Strainer: what a term keeps of a column, and how the terms and the residual share out the nonzero elements (R213). -/

namespace Sys2Proof.Machine

variable {key : Nat → Nat} {l col : List Nat} {pat : Nat × Nat × Nat × Nat} {n nb mb ne me : Nat} {cols : List (List Nat)}

/-! ## The largest of a list -/

theorem bestOf_isSome (h : l ≠ []) : (bestOf key l).isSome = true := by
  cases l with
  | nil => exact absurd rfl h
  | cons x r =>
    rw [bestOf]
    cases bestOf key r with
    | none => rfl
    | some y =>
      dsimp only
      split <;> rfl

/-- The best of a list is one of it, and none has a larger key. -/
theorem bestOf_largest {x : Nat} (h : bestOf key l = some x) : x ∈ l ∧ ∀ y ∈ l, key y ≤ key x := by
  induction l generalizing x with
  | nil => cases h
  | cons z r ih =>
    rw [bestOf] at h
    cases hb : bestOf key r with
    | none =>
      have hr : r = [] := by
        by_contra hr
        have := bestOf_isSome (key := key) hr
        rw [hb] at this
        cases this
      rw [hb] at h
      cases h
      simp [hr]
    | some y =>
      obtain ⟨hy, hmax⟩ := ih hb
      rw [hb] at h
      dsimp only at h
      split at h
      · next hlt =>
        cases h
        exact ⟨List.mem_cons_of_mem _ hy, List.forall_mem_cons.mpr ⟨hlt.le, hmax⟩⟩
      · next hge =>
        cases h
        exact ⟨List.mem_cons_self, List.forall_mem_cons.mpr ⟨le_rfl, fun w hw => (hmax w hw).trans (Nat.le_of_not_lt hge)⟩⟩

theorem length_topBy_le (key : Nat → Nat) (n : Nat) (l : List Nat) : (topBy key n l).length ≤ n := by
  induction n generalizing l with
  | zero => exact Nat.le_refl 0
  | succ n ih =>
    rw [topBy]
    split
    · exact Nat.zero_le _
    · exact Nat.succ_le_succ (ih _)

theorem topBy_subset (key : Nat → Nat) (n : Nat) (l : List Nat) : topBy key n l ⊆ l := by
  induction n generalizing l with
  | zero => exact List.nil_subset l
  | succ n ih =>
    rw [topBy]
    split
    · exact List.nil_subset l
    · next x hx => exact List.cons_subset.mpr ⟨(bestOf_largest hx).1, fun y hy => List.mem_of_mem_filter (ih _ hy)⟩

/-- What is left out has no larger key than what is taken. -/
theorem topBy_largest {x y : Nat} (hx : x ∈ topBy key n l) (hy : y ∈ l) (hn : ¬ y ∈ topBy key n l) : key y ≤ key x := by
  induction n generalizing l with
  | zero => exact absurd hx List.not_mem_nil
  | succ n ih =>
    rw [topBy] at hx hn
    cases hb : bestOf key l with
    | none =>
      rw [hb] at hx
      exact absurd hx List.not_mem_nil
    | some b =>
      rw [hb] at hx hn
      obtain ⟨hyb, hn⟩ := not_or.mp (mt List.mem_cons.mpr hn)
      rcases List.mem_cons.mp hx with rfl | hx
      · exact (bestOf_largest hb).2 y hy
      · exact ih hx (List.mem_filter.mpr ⟨hy, by simpa using hyb⟩) hn

/-- A list without repeats whose members are all among those taken has at most as many. -/
theorem length_le_of_subset_topBy {m : List Nat} (hm : m.Nodup) (hs : m ⊆ topBy key n l) : m.length ≤ n :=
  (List.subperm_of_subset hm hs).length_le.trans (length_topBy_le key n l)

/-! ## One term of one column -/

/-- The group of `me` positions that position k lies in, and the blocks of 8 that share a group of `mb` blocks (R199). -/
def elemGroup (me g : Nat) : List Nat := (List.range me).map fun i => me * g + i
def blockGroup (mb blocks g : Nat) : List Nat := ((List.range mb).map fun i => g * mb + i).filter fun b => b < blocks

/-- Nonzero elements of a block of 8. -/
def blockCount (col : List Nat) (b : Nat) : Nat := ((List.range 8).filter fun i => col.getD (8 * b + i) 0 ≠ 0).length

/-- The blocks that a term takes from a column. -/
def pickedBlocks (nb mb : Nat) (col : List Nat) : List Nat :=
  (List.range ((col.length / 8 + mb - 1) / mb)).flatMap fun g => topBy (blockCount col) nb (blockGroup mb (col.length / 8) g)

theorem mem_elemGroup (hme : 0 < me) {g k : Nat} : k ∈ elemGroup me g ↔ k / me = g := by
  rw [elemGroup, List.mem_map]
  constructor
  · rintro ⟨i, hi, rfl⟩
    rw [Nat.mul_add_div hme, Nat.div_eq_of_lt (List.mem_range.mp hi), Nat.add_zero]
  · rintro rfl
    exact ⟨k % me, List.mem_range.mpr (Nat.mod_lt _ hme), Nat.div_add_mod k me⟩

/-- A picked block is one of the best of its group of blocks. -/
theorem pickedBlocks_best (hmb : 0 < mb) {b : Nat} (h : b ∈ pickedBlocks nb mb col) :
    b ∈ topBy (blockCount col) nb (blockGroup mb (col.length / 8) (b / mb)) := by
  obtain ⟨g, -, hb⟩ := List.mem_flatMap.mp h
  obtain ⟨i, hi, rfl⟩ := List.mem_map.mp (List.mem_of_mem_filter (topBy_subset _ _ _ hb))
  rwa [Nat.mul_comm, Nat.mul_add_div hmb, Nat.div_eq_of_lt (List.mem_range.mp hi), Nat.add_zero, Nat.mul_comm]

/-- R199, R213: a position is kept when its block is picked, it is one of the largest of its group, and not zero. -/
theorem mem_termColumn (hme : me = 4 ∨ me = 8) {k : Nat} : k ∈ termColumn (nb, mb, ne, me) col ↔
    k < col.length ∧ k / 8 ∈ pickedBlocks nb mb col ∧ k ∈ topBy (fun k => col.getD k 0) ne (elemGroup me (k / me)) ∧ col.getD k 0 ≠ 0 := by
  have hkept : k ∈ termColumn (nb, mb, ne, me) col ↔ k < col.length ∧ ∃ b ∈ pickedBlocks nb mb col, ∃ h, h < 8 / me ∧
      k ∈ topBy (fun k => col.getD k 0) ne ((List.range me).map fun i => 8 * b + me * h + i) ∧ col.getD k 0 ≠ 0 := by
    have h : k ∈ termColumn (nb, mb, ne, me) col ↔ k ∈ (List.range col.length).filter (fun k => k ∈ (pickedBlocks nb mb col).flatMap (fun b =>
      (List.range (8 / me)).flatMap (fun h => (topBy (fun k => col.getD k 0) ne ((List.range me).map (fun i => 8 * b + me * h + i))).filter
        (fun k => col.getD k 0 ≠ 0)))) := Iff.rfl
    simp only [h, List.mem_filter, List.mem_range, List.mem_flatMap, decide_eq_true_eq]
  have hgroup (b h : Nat) : (List.range me).map (fun i => 8 * b + me * h + i) = elemGroup me (8 / me * b + h) := by
    refine List.map_congr_left fun i _ => ?_
    rcases hme with rfl | rfl <;> omega
  simp only [hkept, hgroup]
  refine and_congr_right fun _ => ⟨?_, fun ⟨hb, ht, hz⟩ => ⟨k / 8, hb, k / me % (8 / me), ?_, ?_, hz⟩⟩
  · rintro ⟨b, hb, h, hh, ht, hz⟩
    have hk := (mem_elemGroup (by omega)).mp (topBy_subset _ _ _ ht)
    have hkb : k / 8 = b := by rcases hme with rfl | rfl <;> omega
    rw [hk, hkb]
    exact ⟨hb, ht, hz⟩
  · exact Nat.mod_lt _ (by rcases hme with rfl | rfl <;> decide)
  · have hk : 8 / me * (k / 8) + k / me % (8 / me) = k / me := by rcases hme with rfl | rfl <;> omega
    rwa [hk]

theorem termColumn_pairwise (pat : Nat × Nat × Nat × Nat) (col : List Nat) : (termColumn pat col).Pairwise (· < ·) :=
  List.pairwise_lt_range.filter _

theorem termColumn_nodup (pat : Nat × Nat × Nat × Nat) (col : List Nat) : (termColumn pat col).Nodup := List.nodup_range.filter _

@[simp] theorem termColumn_nil (pat : Nat × Nat × Nat × Nat) : termColumn pat [] = [] := rfl

/-- A term keeps at most Ne elements of a group of Me (R199). -/
theorem termColumn_group_le (hme : me = 4 ∨ me = 8) (g : Nat) :
    ((termColumn (nb, mb, ne, me) col).filter fun k => k / me = g).length ≤ ne := by
  refine length_le_of_subset_topBy (key := fun k => col.getD k 0) (l := elemGroup me g) ((termColumn_nodup _ col).filter _) fun k hk => ?_
  obtain ⟨hk, hg⟩ := List.mem_filter.mp hk
  obtain ⟨-, -, ht, -⟩ := (mem_termColumn hme).mp hk
  rwa [of_decide_eq_true hg] at ht

/-- A term keeps elements of at most Nb blocks of a group of Mb (R199). -/
theorem termColumn_blocks_le (hme : me = 4 ∨ me = 8) (hmb : 0 < mb) (g : Nat) :
    (((termColumn (nb, mb, ne, me) col).map fun k => k / 8).dedup.filter fun b => b / mb = g).length ≤ nb := by
  refine length_le_of_subset_topBy (key := blockCount col) (l := blockGroup mb (col.length / 8) g) ((List.nodup_dedup _).filter _) fun b hb => ?_
  obtain ⟨hb, hg⟩ := List.mem_filter.mp hb
  obtain ⟨k, hk, rfl⟩ := List.mem_map.mp (List.mem_dedup.mp hb)
  obtain ⟨-, hp, -, -⟩ := (mem_termColumn hme).mp hk
  rw [← of_decide_eq_true hg]
  exact pickedBlocks_best hmb hp

/-- What a term leaves of a group that it keeps something of is no larger than what it keeps (R213). -/
theorem termColumn_largest (hme : me = 4 ∨ me = 8) {k k' : Nat} (hk : k ∈ termColumn (nb, mb, ne, me) col) (hg : k' / me = k / me)
    (hlt : k' < col.length) (hn : ¬ k' ∈ termColumn (nb, mb, ne, me) col) : col.getD k' 0 ≤ col.getD k 0 := by
  obtain ⟨-, hp, ht, -⟩ := (mem_termColumn hme).mp hk
  have hb : k' / 8 = k / 8 := by rcases hme with rfl | rfl <;> omega
  by_contra hlarger
  refine hn ((mem_termColumn hme).mpr ⟨hlt, hb ▸ hp, ?_, by omega⟩)
  rw [hg]
  by_contra hnot
  exact hlarger (topBy_largest (key := fun k => col.getD k 0) ht ((mem_elemGroup (by omega)).mpr hg) hnot)

theorem getD_ne_zero_of_mem_termColumn (hme : me = 4 ∨ me = 8) {k : Nat} (hk : k ∈ termColumn (nb, mb, ne, me) col) : col.getD k 0 ≠ 0 :=
  ((mem_termColumn hme).mp hk).2.2.2

/-! ## All terms -/

theorem getD_dropKept (col kept : List Nat) (k : Nat) : (dropKept col kept).getD k 0 = if k ∈ kept then 0 else col.getD k 0 := by
  rw [dropKept, List.getD_eq_getElem?_getD, List.getElem?_map, List.getElem?_zipIdx, List.getD_eq_getElem?_getD]
  cases col[k]? <;> simp

/-- What one term leaves of a column. -/
def leftOf (pat : Nat × Nat × Nat × Nat) (col : List Nat) : List Nat := dropKept col (termColumn pat col)

/-- Element k of column j. -/
def entryAt (cols : List (List Nat)) (j k : Nat) : Nat := (cols.getD j []).getD k 0

theorem getD_map_nil {f : List Nat → List Nat} (hf : f [] = []) (cols : List (List Nat)) (j : Nat) :
    (cols.map f).getD j [] = f (cols.getD j []) := by
  have h := List.getD_map (l := cols) (d := []) (n := j) f
  rwa [hf] at h

/-- An element that a term keeps is gone for the next; any other stays (R213). -/
theorem entryAt_leftOf (pat : Nat × Nat × Nat × Nat) (cols : List (List Nat)) (j k : Nat) :
    entryAt (cols.map (leftOf pat)) j k = if k ∈ termColumn pat (cols.getD j []) then 0 else entryAt cols j k := by
  rw [entryAt, getD_map_nil rfl, leftOf, getD_dropKept, entryAt]

theorem strainTerms_zero (h : cols.all (fun c => c.all fun m => m = 0) = true) (n : Nat) : strainTerms pat n cols = ([], cols) := by
  cases n with
  | zero => rfl
  | succ n => exact if_pos h

theorem strainTerms_succ (h : ¬ cols.all (fun c => c.all fun m => m = 0) = true) (n : Nat) : strainTerms pat (n + 1) cols =
    (cols.map (termColumn pat) :: (strainTerms pat n (cols.map (leftOf pat))).1, (strainTerms pat n (cols.map (leftOf pat))).2) := by
  have hzip : (cols.zip (cols.map (termColumn pat))).map (fun x => dropKept x.1 x.2) = cols.map (leftOf pat) := by
    clear h
    induction cols with
    | nil => rfl
    | cons c cs ih => exact congrArg (leftOf pat c :: ·) ih
  rw [strainTerms, if_neg h]
  dsimp only
  rw [hzip]

theorem entryAt_eq_zero (h : cols.all (fun c => c.all fun m => m = 0) = true) (j k : Nat) : entryAt cols j k = 0 := by
  have hall : ∀ c ∈ cols, ∀ m ∈ c, m = 0 := by simpa using h
  rw [entryAt, List.getD_eq_getElem?_getD]
  cases hm : (cols.getD j [])[k]? with
  | none => rfl
  | some m =>
    have hj : cols.getD j [] ∈ cols := by
      rw [List.getD_eq_getElem?_getD] at hm ⊢
      cases hc : cols[j]? with
      | none => rw [hc] at hm; cases hm
      | some c => exact List.mem_of_getElem? hc
    exact hall _ hj m (List.mem_of_getElem? hm)

/-- What the terms of some columns are, and what they leave: each nonzero element is in one term or is left, and something is left only
after all terms (R213). -/
structure Shared (pat : Nat × Nat × Nat × Nat) (n : Nat) (cols : List (List Nat)) (ts : List (List (List Nat)))
    (rem : List (List Nat)) : Prop where
  few : ts.length ≤ n
  full : ∀ j k, entryAt rem j k ≠ 0 → ts.length = n
  terms : ∀ u ∈ ts, ∃ cs : List (List Nat), u = cs.map (termColumn pat)
  first : ∀ u, ts.head? = some u → u = cols.map (termColumn pat)
  once : ∀ j k, (ts.filter fun u => k ∈ u.getD j []).length + (if entryAt rem j k = 0 then 0 else 1) = if entryAt cols j k = 0 then 0 else 1

theorem shared_none (h : n = 0 ∨ cols.all (fun c => c.all fun m => m = 0) = true) : Shared pat n cols [] cols where
  few := Nat.zero_le n
  full := fun j k hz => by
    rcases h with h | h
    · exact h.symm
    · exact absurd (entryAt_eq_zero h j k) hz
  terms := fun _ hu => absurd hu List.not_mem_nil
  first := fun _ hu => nomatch hu
  once := fun _ _ => Nat.zero_add _

theorem shared_strainTerms (hme : me = 4 ∨ me = 8) (n : Nat) (cols : List (List Nat)) :
    Shared (nb, mb, ne, me) n cols (strainTerms (nb, mb, ne, me) n cols).1 (strainTerms (nb, mb, ne, me) n cols).2 := by
  induction n generalizing cols with
  | zero => exact shared_none (.inl rfl)
  | succ n ih =>
    by_cases h : cols.all (fun c => c.all fun m => m = 0) = true
    · rw [strainTerms_zero h]
      exact shared_none (.inr h)
    · rw [strainTerms_succ h]
      obtain ⟨few, full, terms, -, once⟩ := ih (cols.map (leftOf (nb, mb, ne, me)))
      refine ⟨Nat.succ_le_succ few, fun j k hz => congrArg (· + 1) (full j k hz), List.forall_mem_cons.mpr ⟨⟨cols, rfl⟩, terms⟩,
        fun u hu => (Option.some.inj hu).symm, fun j k => ?_⟩
      have hrest := once j k
      rw [entryAt_leftOf] at hrest
      rw [List.filter_cons, getD_map_nil (termColumn_nil _)]
      by_cases hk : k ∈ termColumn (nb, mb, ne, me) (cols.getD j [])
      · rw [if_pos hk, if_pos rfl] at hrest
        rw [if_pos (decide_eq_true hk), List.length_cons, if_neg (show entryAt cols j k ≠ 0 from getD_ne_zero_of_mem_termColumn hme hk)]
        dsimp only at hrest ⊢
        omega
      · rw [if_neg hk] at hrest
        rwa [if_neg (by simpa using hk)]

/-! ## The residual -/

/-- The nonzero places of a column that stands at place j. -/
def leftPlaces (c : List Nat × Nat) : List (Nat × Nat) := c.1.zipIdx.filterMap fun m => if m.1 = 0 then none else some (c.2, m.2)

theorem residualOf_eq (rem : List (List Nat)) : residualOf rem = rem.zipIdx.flatMap leftPlaces := rfl

theorem mem_leftPlaces {c : List Nat × Nat} {x : Nat × Nat} : x ∈ leftPlaces c ↔ x.1 = c.2 ∧ c.1.getD x.2 0 ≠ 0 := by
  obtain ⟨j, k⟩ := x
  simp only [leftPlaces, List.mem_filterMap, List.mem_zipIdx_iff_getElem?, Prod.exists, Option.ite_none_left_eq_some, Option.some.injEq,
    Prod.mk.injEq, List.getD_eq_getElem?_getD]
  constructor
  · rintro ⟨m, i, hi, hm, rfl, rfl⟩
    exact ⟨rfl, by rwa [hi, Option.getD_some]⟩
  · rintro ⟨rfl, hz⟩
    cases hm : c.1[k]? with
    | none =>
      rw [hm] at hz
      exact absurd rfl hz
    | some m =>
      rw [hm, Option.getD_some] at hz
      exact ⟨m, k, hm, hz, rfl, rfl⟩

/-- The residual is what the last term leaves that is not zero. -/
theorem mem_residualOf {rem : List (List Nat)} {x : Nat × Nat} : x ∈ residualOf rem ↔ entryAt rem x.1 x.2 ≠ 0 := by
  simp only [residualOf_eq, List.mem_flatMap, mem_leftPlaces, List.mem_zipIdx_iff_getElem?, entryAt]
  constructor
  · rintro ⟨c, hc, hx, hz⟩
    rwa [List.getD_eq_getElem?_getD (l := rem), hx, hc, Option.getD_some]
  · intro hz
    cases hc : rem[x.1]? with
    | none =>
      rw [List.getD_eq_getElem?_getD (l := rem), hc] at hz
      exact absurd rfl hz
    | some c =>
      rw [List.getD_eq_getElem?_getD (l := rem), hc, Option.getD_some] at hz
      exact ⟨(c, x.1), hc, rfl, hz⟩

theorem zipIdx_pairwise_ne {α : Type} (l : List α) : l.zipIdx.Pairwise fun x y => x.2 ≠ y.2 := by
  have h : (l.zipIdx.map Prod.snd).Nodup := by
    rw [List.zipIdx_map_snd]
    exact List.nodup_range'
  exact List.pairwise_map.mp h

theorem nodup_residualOf (rem : List (List Nat)) : (residualOf rem).Nodup := by
  rw [residualOf_eq, List.nodup_flatMap]
  refine ⟨fun c _ => ?_, (zipIdx_pairwise_ne rem).imp fun hne x hx hy => hne ?_⟩
  · refine List.pairwise_filterMap.mpr ((zipIdx_pairwise_ne c.1).imp fun hne b hb b' hb' => ?_)
    obtain ⟨-, hb⟩ := Option.ite_none_left_eq_some.mp hb
    obtain ⟨-, hb'⟩ := Option.ite_none_left_eq_some.mp hb'
    exact fun h => hne (Prod.mk.inj (Option.some.inj (hb.trans ((congrArg some h).trans hb'.symm)))).2
  · exact (mem_leftPlaces.mp hx).1.symm.trans (mem_leftPlaces.mp hy).1

/-! ## A slot strained (R213, R214) -/

theorem getD_map_range {α : Type} (f : Nat → α) (m k : Nat) (z : α) : ((List.range m).map f).getD k z = if k < m then f k else z := by
  by_cases h : k < m
  · rw [if_pos h, List.getD_eq_getElem _ _ (by simpa using h), List.getElem_map, List.getElem_range]
  · rw [if_neg h, List.getD_eq_default _ _ (by simpa using h)]

theorem entryAt_strainColumns (sp : Tab Byte) (ty : ElemTy) (rows cols j k : Nat) : entryAt (strainColumns sp ty rows cols) j k =
    if j < cols ∧ k < rows then strainMag ty (slotElem sp ty.bits (k * cols + j)) else 0 := by
  rw [entryAt, strainColumns, getD_map_range]
  by_cases hj : j < cols
  · rw [if_pos hj, getD_map_range]
    by_cases hk : k < rows
    · rw [if_pos (by omega), if_pos hk, if_pos ⟨hj, hk⟩]
    · rw [if_neg hk, ite_self, if_neg (fun h => hk h.2)]
  · rw [if_neg hj, if_neg (fun h => hj h.1)]
    rfl

theorem length_strainColumns (sp : Tab Byte) (ty : ElemTy) (rows : Nat) {cols j : Nat} (hj : j < cols) :
    rows ≤ ((strainColumns sp ty rows cols).getD j []).length := by
  rw [strainColumns, getD_map_range, if_pos hj, List.length_map, List.length_range]
  omega

/-- R213: how the terms and the residual of a strained slot share out its elements of magnitude `mag`. -/
structure Sieve (pat : Nat × Nat × Nat × Nat) (n rows cols : Nat) (mag : Nat → Nat → Nat) (ts : List (List (List Nat)))
    (res : List (Nat × Nat)) : Prop where
  few : ts.length ≤ n
  full : res ≠ [] → ts.length = n
  once : ∀ k j, k < rows → j < cols → (ts.filter fun u => k ∈ u.getD j []).length + (res.filter fun x => x = (j, k)).length =
    if mag k j = 0 then 0 else 1
  shape : ∀ u ∈ ts, ∀ j, (u.getD j []).Pairwise (· < ·) ∧
    (∀ g, ((u.getD j []).filter fun k => k / pat.2.2.2 = g).length ≤ pat.2.2.1) ∧
    ∀ g, (((u.getD j []).map fun k => k / 8).dedup.filter fun x => x / pat.2.1 = g).length ≤ pat.1
  largest : ∀ u, ts.head? = some u → ∀ j k k', j < cols → k ∈ u.getD j [] → k' / pat.2.2.2 = k / pat.2.2.2 → k' < rows →
    ¬ k' ∈ u.getD j [] → mag k' j ≤ mag k j
  nonzero : res.length ≤ ((rowMajor rows cols).filter fun x => mag x.2 x.1 ≠ 0).length

/-- The terms and the residual of columns that hold the magnitudes of a slot, and zeros beyond. -/
theorem sieve_strainTerms {rows width : Nat} {mag : Nat → Nat → Nat} (hme : me = 4 ∨ me = 8) (hmb : 0 < mb) (n : Nat)
    (hcols : ∀ j k, entryAt cols j k = if j < width ∧ k < rows then mag k j else 0) (hlen : ∀ j, j < width → rows ≤ (cols.getD j []).length) :
    Sieve (nb, mb, ne, me) n rows width mag (strainTerms (nb, mb, ne, me) n cols).1 (residualOf (strainTerms (nb, mb, ne, me) n cols).2) := by
  obtain ⟨few, full, terms, first, once⟩ := shared_strainTerms (nb := nb) (mb := mb) (ne := ne) hme n cols
  generalize strainTerms (nb, mb, ne, me) n cols = x at few full terms first once ⊢
  obtain ⟨ts, rem⟩ := x
  dsimp only at few full terms first once ⊢
  have hin {j k : Nat} (h : entryAt cols j k ≠ 0) : (j < width ∧ k < rows) ∧ mag k j ≠ 0 := by
    rw [hcols] at h
    exact ⟨(ite_ne_right_iff.mp h).1, (ite_ne_right_iff.mp h).2⟩
  refine ⟨few, fun hne => ?_, fun k j hk hj => ?_, fun u hu j => ?_, fun u hu j k k' hj hk hg hlt hnot => ?_, ?_⟩
  · obtain ⟨x, hx⟩ := List.exists_mem_of_ne_nil _ hne
    exact full _ _ (mem_residualOf.mp hx)
  · have h := once j k
    rw [hcols, if_pos (show j < width ∧ k < rows from ⟨hj, hk⟩)] at h
    have hcount : ((residualOf rem).filter fun x => x = (j, k)).length = if entryAt rem j k = 0 then 0 else 1 := by
      have hf : ((residualOf rem).filter fun x => x = (j, k)) = (residualOf rem).filter fun x => x == (j, k) :=
        List.filter_congr fun x _ => by rw [Bool.eq_iff_iff, decide_eq_true_iff, beq_iff_eq]
      rw [hf, ← List.count_eq_length_filter, (nodup_residualOf rem).count]
      exact (if_congr mem_residualOf rfl rfl).trans (ite_not ..)
    rwa [hcount]
  · obtain ⟨cs, rfl⟩ := terms u hu
    rw [getD_map_nil (termColumn_nil _)]
    exact ⟨termColumn_pairwise _ _, termColumn_group_le hme, termColumn_blocks_le hme hmb⟩
  · rw [first u hu, getD_map_nil (termColumn_nil _)] at hk hnot
    obtain ⟨⟨-, hkr⟩, -⟩ := hin (getD_ne_zero_of_mem_termColumn hme hk)
    have h : entryAt cols j k' ≤ entryAt cols j k := termColumn_largest hme hk hg (hlt.trans_le (hlen j hj)) hnot
    rwa [hcols, hcols, if_pos ⟨hj, hlt⟩, if_pos ⟨hj, hkr⟩] at h
  · refine (List.subperm_of_subset (nodup_residualOf rem) fun x hx => ?_).length_le
    have hz : entryAt cols x.1 x.2 ≠ 0 := by
      intro h0
      have h := once x.1 x.2
      rw [h0, if_pos rfl, if_neg (mem_residualOf.mp hx)] at h
      omega
    obtain ⟨hplace, hm⟩ := hin hz
    exact List.mem_filter.mpr ⟨mem_rowMajor.mpr hplace, by simpa using hm⟩

end Sys2Proof.Machine
end

section
/-! PROOFS. Loads of Caddy slots: the elements that come from a window, and the slot strained (R196 to R199, R210, R212 to R214, R216). -/

namespace Sys2Proof.Machine

variable {s : State} {tid : Nat} {t : Thread} {e : Entry} {rest : List Entry} {d a b : Reg} {h : HReg} {sl : CSlot} {slot w : Nat}
  {rows cols planes : Nat} {ty : ElemTy} {skip spec : Bool} {stctl stloss : Word}

/-! ## Elements from the window (R212) -/

/-- The window access of cdy.load and cdy.lstr: rows and columns of the box in order. -/
def slotAccess (c : Cap) (d : Reg) : Access := ⟨d.toNat, 0, 0, false, false, false, fun h i => offsetCoord h (tileOffsets c 1 0 0 i)⟩

/-- An element that lies in the box enters the slot: 0 when clipped, else what the scratchpad holds. -/
theorem loadElement_inside {ac : Access} (hp : ac.p = 0) (hf : h.failed = []) (hr : t.recomps = []) (sp bytes : Tab Byte) {i : Nat}
    (hi : (ac.coord h i).isSome = true) : loadElement t sp ac h { bytes := bytes } i =
      { bytes := setSlotElem bytes (slotWidth (tdType h.td) (tdPlanes h.td)) i (loadValue t ac h sp i 0) } := by
  have hm : maskBit t ac.p i = true := by rw [hp]; rfl
  rw [loadElement, loadValue, if_neg (by simp), if_neg (by simp [hm])]
  cases hk : elemSlot t ac.p h (ac.coord h) i with
  | none => rw [meet_clipped hm hk hi]; rfl
  | some k => rw [meet_slot hf hr hk]; rfl

theorem foldl_loadElement {ac : Access} (hp : ac.p = 0) (hf : h.failed = []) (hr : t.recomps = []) (sp bytes : Tab Byte) {l : List Nat}
    (hl : ∀ i ∈ l, (ac.coord h i).isSome = true) : l.foldl (loadElement t sp ac h) { bytes := bytes } =
      { bytes := l.foldl (fun b i => setSlotElem b (slotWidth (tdType h.td) (tdPlanes h.td)) i (loadValue t ac h sp i 0)) bytes } := by
  induction l generalizing bytes with
  | nil => rfl
  | cons i l ih =>
    rw [List.foldl_cons, loadElement_inside hp hf hr sp bytes (hl i List.mem_cons_self), ih _ fun j hj => hl j (List.mem_cons_of_mem i hj)]
    rfl

/-- What an element inside the box is (R212). -/
theorem loadValue_inside {ac : Access} (hp : ac.p = 0) (sp : Tab Byte) {i : Nat} {x : List Int} (hi : ac.coord h i = some x) :
    loadValue t ac h sp i 0 = if isClipped h.td h.comm.limit x then 0
      else spRead sp (slotByte h (slotOf (boxW h.blk) x)) (tySize (tdType h.td)) := by
  have hm : maskBit t ac.p i = true := by rw [hp]; rfl
  rw [loadValue, if_neg (by simp [hm]), elemSlot, if_pos hm, hi, Option.bind_some, openSlot]
  split <;> rfl

/-- The bytes of a slot into which all elements in play have been loaded. -/
def loadedBytes (t : Thread) (ac : Access) (h : HReg) (sp : Tab Byte) (n : Nat) (old : Tab Byte) : Tab Byte :=
  (span 0 n).foldl (fun b i => setSlotElem b (slotWidth (tdType h.td) (tdPlanes h.td)) i (loadValue t ac h sp i 0)) old

/-- A slot just loaded (R212). -/
def loadedSlot (c : Cap) (h : HReg) (bytes : Tab Byte) : CSlot :=
  { bytes := bytes, info := loadedInfo bytes (tdType h.td) (tdPlanes h.td) (nrows c) (ncols c), stctl := c.stctl, stloss := c.stloss }

/-- What lets a load of a slot complete in one step: a window that may be read and has every line full, a type and shape that a slot holds,
and every element inside the box (R197, R202, R212). -/
structure SlotLoads (t : Thread) (e : Entry) (d a : Reg) (h : HReg) (slot : Nat) : Prop where
  bound : tabFind t.q a.toNat = some slot
  unread : ¬ ∃ q ∈ t.tq, slot ∈ q.slots ∧ ∃ d a b p ty, q.instr = .tileMma d a b p ty
  window : tabFind t.h d.toNat = some h
  mode : blkMode h.blk = 0 ∨ blkMode h.blk = 1
  clean : h.failed = []
  quiet : t.recomps = []
  type : slotTy (tdType h.td) = true
  width : (vfmtTy e.cap.vfmt).bits = 8 * tySize (tdType h.td)
  shape : shapeLegal (nrows e.cap) (ncols e.cap) (slotWidth (tdType h.td) (tdPlanes h.td)) = true
  start : e.k = 0
  inside : ∀ i, i < nrows e.cap * ncols e.cap → (offsetCoord h (tileOffsets e.cap 1 0 0 i)).isSome = true

/-- A tile.mma in the tile queue that reads a slot (R200). -/
def readsSlot (slot : Nat) (q : TEntry) : Bool := match q.instr with | .tileMma _ _ _ _ _ => decide (slot ∈ q.slots) | _ => false

theorem readsSlot_iff {q : TEntry} : readsSlot slot q = true ↔ slot ∈ q.slots ∧ ∃ d a b p ty, q.instr = .tileMma d a b p ty := by
  unfold readsSlot
  split
  · next d a b p ty hi => simp [hi]
  · next hi =>
    refine iff_of_false Bool.false_ne_true fun h => ?_
    obtain ⟨-, d, a, b, p, ty, hq⟩ := h
    exact hi d a b p ty hq

theorem any_readsSlot_iff : t.tq.any (readsSlot slot) = true ↔
    ∃ q ∈ t.tq, slot ∈ q.slots ∧ ∃ d a b p ty, q.instr = .tileMma d a b p ty := by
  simp only [List.any_eq_true, readsSlot_iff]

/-- A load of a slot that a queued tile.mma reads waits for it (R200). -/
theorem cdyLoadAtVcp_waits {strained : Bool} (hb : tabFind t.q a.toNat = some slot)
    (hr : ∃ q ∈ t.tq, slot ∈ q.slots ∧ ∃ d a b p ty, q.instr = .tileMma d a b p ty) :
    cdyLoadAtVcp s tid t e d a strained = .wait s := by
  rw [cdyLoadAtVcp, hb]
  exact if_pos (any_readsSlot_iff.mpr hr)

theorem SlotLoads.cdyLoadAtVcp (hs : SlotLoads t e d a h slot) (strained : Bool) :
    let c := clusterOf s (tid / 4)
    let sl := loadedSlot e.cap h (loadedBytes t (slotAccess e.cap d) h c.scratch (nrows e.cap * ncols e.cap) (slotAt c slot).bytes)
    Machine.cdyLoadAtVcp s tid t e d a strained = .done (setCluster s (tid / 4)
      { c with slots := tabPut c.slots slot (if strained then strain sl e.cap.stctl e.cap.stloss else sl) }) := by
  intro c sl
  have hok : accessCheck t e.cap (slotAccess e.cap d) = .ok h :=
    accessCheck_ok hs.window (by rcases hs.mode with hm | hm <;> rw [hm] <;> rfl) hs.width
  have hload := foldl_loadElement (ac := slotAccess e.cap d) rfl hs.clean hs.quiet c.scratch (slotAt c slot).bytes
    (l := span 0 (nrows e.cap * ncols e.cap)) fun i hi => hs.inside i (mem_span.mp hi).2
  rw [Machine.cdyLoadAtVcp, hs.bound]
  dsimp only
  refine (if_neg (mt any_readsSlot_iff.mp hs.unread)).trans ?_
  rw [hs.window, hs.start]
  dsimp only
  rw [if_neg (by simp [hs.shape]), if_neg (by simp [hs.type]), ← slotAccess, hok]
  dsimp only
  rw [hload]
  rfl

theorem engineAtVcp_cdyLoad (hi : e.instr = .cdyLoad d a b) :
    needsLanes e.instr = false ∧ engineAtVcp s tid t e = cdyLoadAtVcp s tid t e d a false := by
  unfold engineAtVcp
  rw [hi]
  exact ⟨rfl, rfl⟩

theorem engineAtVcp_cdyLstr (hi : e.instr = .cdyLstr d a b) :
    needsLanes e.instr = false ∧ engineAtVcp s tid t e = cdyLoadAtVcp s tid t e d a true := by
  unfold engineAtVcp
  rw [hi]
  exact ⟨rfl, rfl⟩

/-- A load that nothing stops leaves the slot as loaded, and its thread with the entry done. -/
theorem AtVcp.loadsSlot (H : AtVcp s tid t e rest) (hs : SlotLoads t e d a h slot) {strained : Bool}
    (he : needsLanes e.instr = false ∧ engineAtVcp s tid t e = Machine.cdyLoadAtVcp s tid t e d a strained) :
    let c := clusterOf s (tid / 4)
    let sl := loadedSlot e.cap h (loadedBytes t (slotAccess e.cap d) h c.scratch (nrows e.cap * ncols e.cap) (slotAt c slot).bytes)
    ∃ s', exec (.entryAtVcp tid) s = .next s' ∧ OnlyThread s s' tid ∧ threadAt s' tid = some { t with vq := rest } ∧
      slotAt (clusterOf s' (tid / 4)) slot = if strained then strain sl e.cap.stctl e.cap.stloss else sl := by
  intro c sl
  obtain ⟨⟨hx, honly, hhere⟩, -⟩ := H.completesTo he.1 (he.2.trans (hs.cdyLoadAtVcp strained)) ((Leads.start H.here).setCluster rfl) rfl
  refine ⟨_, hx, honly, hhere, ?_⟩
  rw [clusterOf_completeHead, clusterOf_setCluster_self, slotAt]
  exact tabGet_tabPut_self ..

/-! ## Widths and shapes (R197) -/

theorem planes_lt (hp : if ty = .bpi then 1 ≤ planes ∧ planes ≤ 8 else planes = 0) : planes < 16 := by
  split at hp <;> omega

theorem slotWidth_of_ne (hty : ty ≠ .bpi) (planes : Nat) : slotWidth ty planes = ty.bits := if_neg hty

/-- An element of a slot has at most 16 bits. -/
theorem slotWidth_le (hty : slotTy ty = true) (hp : if ty = .bpi then 1 ≤ planes ∧ planes ≤ 8 else planes = 0) :
    slotWidth ty planes ≤ 16 := by
  by_cases hb : ty = .bpi
  · rw [if_pos hb] at hp
    rw [slotWidth, if_pos hb]
    omega
  · rw [slotWidth_of_ne hb]
    revert hty
    cases ty <;> decide

theorem shapeLegal_iff : shapeLegal rows cols w = true ↔
    1 ≤ rows ∧ rows ≤ 1024 ∧ 1 ≤ cols ∧ cols ≤ 1024 ∧ rows * cols * w ≤ 65536 := by
  simp only [shapeLegal, Bool.and_eq_true, decide_eq_true_eq, and_assoc]

/-- An element of a slot just loaded (R212). -/
theorem SlotLoads.slotElem_loadedBytes (hs : SlotLoads t e d a h slot) (hw : slotWidth (tdType h.td) (tdPlanes h.td) ≤ 16)
    (sp old : Tab Byte) {i : Nat} (hi : i < nrows e.cap * ncols e.cap) :
    let w := slotWidth (tdType h.td) (tdPlanes h.td)
    ∃ x, offsetCoord h (tileOffsets e.cap 1 0 0 i) = some x ∧
      slotElem (loadedBytes t (slotAccess e.cap d) h sp (nrows e.cap * ncols e.cap) old) w i =
        if isClipped h.td h.comm.limit x then 0
        else spRead sp (slotByte h (slotOf (boxW h.blk) x)) (tySize (tdType h.td)) % 2 ^ w := by
  intro w
  obtain ⟨x, hx⟩ := Option.isSome_iff_exists.mp (hs.inside i hi)
  refine ⟨x, hx, ?_⟩
  rw [loadedBytes, slotElem_foldl_setSlotElem hw, if_pos (mem_span.mpr ⟨Nat.zero_le i, hi⟩),
    loadValue_inside (ac := slotAccess e.cap d) rfl sp hx]
  split
  · exact Nat.zero_mod _
  · rfl

/-! ## The metadata of a slot (R212, R214, R216) -/

theorem infoReads_loadedSlot {c : Cap} (hr : nrows c ≤ 1024) (hc : ncols c ≤ 1024) (hp : tdPlanes h.td < 16) (bytes : Tab Byte) :
    let w := slotWidth (tdType h.td) (tdPlanes h.td)
    InfoReads (loadedSlot c h bytes).info (nrows c) (ncols c) (tdType h.td) (tdPlanes h.td)
      (slotSkip bytes (tdType h.td) w (nrows c * ncols c)) (slotSpec bytes (tdType h.td) w (nrows c * ncols c)) false 0 false 0 :=
  infoReads_miWord (by omega) (by omega) _ (by omega) _ _ _ _ (by decide) (by decide) (by decide) (by decide)

/-- Every element is ±0 (R216). -/
theorem slotSkip_iff {bytes : Tab Byte} : slotSkip bytes ty w (rows * cols) = true ↔ ∀ x ∈ rowMajor rows cols,
    if ty = .bpi then slotElem bytes w (x.2 * cols + x.1) = 0 else strainMag ty (slotElem bytes w (x.2 * cols + x.1)) = 0 := by
  rw [slotSkip, ← map_index_rowMajor, List.all_map, List.all_eq_true]
  refine forall₂_congr fun x _ => ?_
  rw [Function.comp]
  split <;> exact decide_eq_true_iff

/-- A slot whose straining fell back for a reason (R214). -/
def fallBack (sl : CSlot) (reason : Nat) : CSlot :=
  { sl with
    info := miWord (miRows sl.info) (miCols sl.info) (miType sl.info).code.toNat (miPlanes sl.info) true (miSkip sl.info) (miSpec sl.info) true
      reason 0 0 false 0
    terms := [], residual := [] }

@[simp] theorem fallBack_bytes (sl : CSlot) (reason : Nat) : (fallBack sl reason).bytes = sl.bytes := by rw [fallBack]
@[simp] theorem fallBack_terms (sl : CSlot) (reason : Nat) : (fallBack sl reason).terms = [] := by rw [fallBack]
@[simp] theorem fallBack_residual (sl : CSlot) (reason : Nat) : (fallBack sl reason).residual = [] := by rw [fallBack]

/-- The terms of a slot, with what they leave. -/
def termsOf (sl : CSlot) (stctl : Word) : List (List (List Nat)) × List (List Nat) :=
  strainTerms (patternsOf stctl) (fieldOf stctl 4 3) (strainColumns sl.bytes (miType sl.info) (miRows sl.info) (miCols sl.info))

/-- The mass of one element, of a whole slot, and of a list of its places (R214). -/
def massAt (sl : CSlot) (i : Nat) : Nat := massOf (miType sl.info) (slotElem sl.bytes (miType sl.info).bits i)
def totalMass (sl : CSlot) : Nat := ((List.range (miRows sl.info * miCols sl.info)).map (massAt sl)).sum
def leftMass (sl : CSlot) (res : List (Nat × Nat)) : Nat := (res.map fun x => massAt sl (x.2 * miCols sl.info + x.1)).sum

/-- LOSSQ and DROPPED of R214. -/
def lossOf (res : List (Nat × Nat)) (spec : Bool) (left total : Nat) : Nat :=
  if res = [] then 0 else if spec then 0xFFFF else min ((left * 65536 + total - 1) / total) 0xFFFF
def dropsResidual (res : List (Nat × Nat)) (spec : Bool) (stctl stloss : Word) (left total : Nat) : Bool :=
  decide (res ≠ []) && stctl.getLsbD 7 && !spec && decide (left * 65536 ≤ fieldOf stloss 0 16 * total)

/-- A slot with its terms and residual (R213, R214). -/
def keepTerms (sl : CSlot) (stctl stloss : Word) : CSlot :=
  let res := residualOf (termsOf sl stctl).2
  { sl with
    info := miWord (miRows sl.info) (miCols sl.info) (miType sl.info).code.toNat (miPlanes sl.info) true (miSkip sl.info) (miSpec sl.info) true 0
      (termsOf sl stctl).1.length res.length (dropsResidual res (miSpec sl.info) stctl stloss (leftMass sl res) (totalMass sl))
      (lossOf res (miSpec sl.info) (leftMass sl res) (totalMass sl))
    terms := (termsOf sl stctl).1, residual := res }

@[simp] theorem keepTerms_bytes (sl : CSlot) (stctl stloss : Word) : (keepTerms sl stctl stloss).bytes = sl.bytes := by rw [keepTerms]
@[simp] theorem keepTerms_terms (sl : CSlot) (stctl stloss : Word) : (keepTerms sl stctl stloss).terms = (termsOf sl stctl).1 := by rw [keepTerms]
@[simp] theorem keepTerms_residual (sl : CSlot) (stctl stloss : Word) :
    (keepTerms sl stctl stloss).residual = residualOf (termsOf sl stctl).2 := by rw [keepTerms]

/-- The Strainer falls back on a slot too wide or of planes, one too tall, and one that leaves too much (R213, R214). -/
theorem strain_eq (sl : CSlot) (stctl stloss : Word) : strain sl stctl stloss =
    if 64 < miCols sl.info ∨ miType sl.info = .bpi then fallBack sl 3
    else if 512 < miRows sl.info then fallBack sl 2
    else if 64 < (residualOf (termsOf sl stctl).2).length then fallBack sl 1
    else keepTerms sl stctl stloss := rfl

theorem lossOf_lt (res : List (Nat × Nat)) (spec : Bool) (left total : Nat) : lossOf res spec left total < 2 ^ 16 := by
  unfold lossOf
  split
  · decide
  · split
    · decide
    · exact (Nat.min_le_right _ _).trans_lt (by decide)

theorem patternsOf_bounds (stctl : Word) :
    0 < (patternsOf stctl).2.1 ∧ ((patternsOf stctl).2.2.2 = 4 ∨ (patternsOf stctl).2.2.2 = 8) := by
  unfold patternsOf
  generalize fieldOf stctl 0 2 = x
  generalize fieldOf stctl 2 2 = y
  rcases x with _ | _ | _ | x <;> rcases y with _ | _ | y <;> simp

theorem InfoReads.fallBack (hi : InfoReads sl.info rows cols ty planes skip spec false 0 false 0) (hr : rows ≤ 1024) (hc : cols ≤ 1024)
    (hp : planes < 16) {reason : Nat} (hf : reason < 4) :
    InfoReads (Machine.fallBack sl reason).info rows cols ty planes skip spec true reason false 0 := by
  obtain ⟨rfl, rfl, rfl, rfl, -, rfl, rfl, -, -, -, -⟩ := hi
  exact infoReads_miWord (by omega) (by omega) _ (by omega) _ _ _ _ (by omega) (by decide) (by decide) (by decide)

/-- The terms and the residual share out the elements of the slot (R213). -/
theorem InfoReads.sieve (hi : InfoReads sl.info rows cols ty planes skip spec false 0 false 0) (stctl : Word) :
    Sieve (patternsOf stctl) (fieldOf stctl 4 3) rows cols (fun k j => strainMag ty (slotElem sl.bytes ty.bits (k * cols + j)))
      (termsOf sl stctl).1 (residualOf (termsOf sl stctl).2) := by
  obtain ⟨hmb, hme⟩ := patternsOf_bounds stctl
  rw [termsOf, hi.type, hi.rows, hi.cols]
  exact sieve_strainTerms hme hmb _ (entryAt_strainColumns sl.bytes ty rows cols) fun j hj => length_strainColumns sl.bytes ty rows hj

theorem InfoReads.keepTerms (hi : InfoReads sl.info rows cols ty planes skip spec false 0 false 0) (hr : rows ≤ 1024) (hc : cols ≤ 1024)
    (hp : planes < 16) (stloss : Word) (hres : (residualOf (termsOf sl stctl).2).length ≤ 64) :
    let res := residualOf (termsOf sl stctl).2
    InfoReads (Machine.keepTerms sl stctl stloss).info rows cols ty planes skip spec true 0
      (dropsResidual res spec stctl stloss (leftMass sl res) (totalMass sl)) (lossOf res spec (leftMass sl res) (totalMass sl)) := by
  have hts : (termsOf sl stctl).1.length < 8 :=
    (hi.sieve stctl).few.trans_lt (by rw [fieldOf_eq]; exact BitVec.isLt _)
  obtain ⟨rfl, rfl, rfl, rfl, -, rfl, rfl, -, -, -, -⟩ := hi
  exact infoReads_miWord (by omega) (by omega) _ (by omega) _ _ _ _ (by decide) hts (by omega) (lossOf_lt _ _ _ _)

/-- R213, R214: what straining makes of a slot just loaded. -/
structure StrainedSlot (sl out : CSlot) (stctl stloss : Word) (rows cols : Nat) (ty : ElemTy) (planes : Nat) (skip spec : Bool) (reason : Nat)
    (dropped : Bool) (lossq : Nat) : Prop where
  reads : InfoReads out.info rows cols ty planes skip spec true reason dropped lossq
  bytes : out.bytes = sl.bytes
  fallen : reason ≠ 0 → out.terms = [] ∧ out.residual = []
  wide : 64 < cols ∨ ty = .bpi → reason = 3
  tall : ¬ (64 < cols ∨ ty = .bpi) → 512 < rows → reason = 2
  fits : ¬ (64 < cols ∨ ty = .bpi) → rows ≤ 512 → reason = 0 ∨ reason = 1
  sparse : ¬ (64 < cols ∨ ty = .bpi) → rows ≤ 512 →
    ((rowMajor rows cols).filter fun x => strainMag ty (slotElem sl.bytes ty.bits (x.2 * cols + x.1)) ≠ 0).length ≤ 64 → reason = 0
  kept : reason = 0 → out.residual.length ≤ 64 ∧
    Sieve (patternsOf stctl) (fieldOf stctl 4 3) rows cols (fun k j => strainMag ty (slotElem sl.bytes ty.bits (k * cols + j)))
      out.terms out.residual ∧
    dropped = dropsResidual out.residual spec stctl stloss (leftMass sl out.residual) (totalMass sl) ∧
    lossq = lossOf out.residual spec (leftMass sl out.residual) (totalMass sl)

/-- Each way through the Strainer leaves what its rule says: three fall back, the last keeps terms and residual. -/
theorem InfoReads.strained (hi : InfoReads sl.info rows cols ty planes skip spec false 0 false 0) (hr : rows ≤ 1024) (hc : cols ≤ 1024)
    (hp : planes < 16) (stctl stloss : Word) :
    ∃ reason dropped lossq, StrainedSlot sl (strain sl stctl stloss) stctl stloss rows cols ty planes skip spec reason dropped lossq := by
  have hs := hi.sieve stctl
  rw [strain_eq, hi.cols, hi.type, hi.rows]
  by_cases hw : 64 < cols ∨ ty = .bpi
  · rw [if_pos hw]
    exact ⟨3, false, 0, hi.fallBack hr hc hp (by decide), fallBack_bytes _ _, fun _ => ⟨fallBack_terms _ _, fallBack_residual _ _⟩,
      fun _ => rfl, fun h => absurd hw h, fun h => absurd hw h, fun h => absurd hw h, fun h => nomatch h⟩
  by_cases ht : 512 < rows
  · rw [if_neg hw, if_pos ht]
    exact ⟨2, false, 0, hi.fallBack hr hc hp (by decide), fallBack_bytes _ _, fun _ => ⟨fallBack_terms _ _, fallBack_residual _ _⟩,
      fun h => absurd h hw, fun _ _ => rfl,
      fun _ h => absurd ht (Nat.not_lt.mpr h), fun _ h => absurd ht (Nat.not_lt.mpr h), fun h => nomatch h⟩
  by_cases hl : 64 < (residualOf (termsOf sl stctl).2).length
  · rw [if_neg hw, if_neg ht, if_pos hl]
    exact ⟨1, false, 0, hi.fallBack hr hc hp (by decide), fallBack_bytes _ _, fun _ => ⟨fallBack_terms _ _, fallBack_residual _ _⟩,
      fun h => absurd h hw, fun _ h => absurd h ht,
      fun _ _ => .inr rfl, fun _ _ h => absurd (hl.trans_le hs.nonzero) (Nat.not_lt.mpr h), fun h => nomatch h⟩
  · rw [if_neg hw, if_neg ht, if_neg hl]
    have hle := Nat.le_of_not_lt hl
    refine ⟨0, _, _, hi.keepTerms hr hc hp stloss hle, keepTerms_bytes _ _ _, fun h => absurd rfl h, fun h => absurd h hw, fun _ h => absurd h ht,
      fun _ _ => .inl rfl, fun _ _ _ => rfl, fun _ => ?_⟩
    rw [keepTerms_terms, keepTerms_residual]
    exact ⟨hle, hs, rfl, rfl⟩

theorem InfoReads.totalMass_eq {str dr : Bool} {fb lq : Nat} (hi : InfoReads sl.info rows cols ty planes skip spec str fb dr lq) :
    totalMass sl = ((rowMajor rows cols).map fun x => massOf ty (slotElem sl.bytes ty.bits (x.2 * cols + x.1))).sum := by
  have hmap := congrArg (List.map (massAt sl)) (map_index_rowMajor rows cols)
  rw [List.map_map] at hmap
  rw [totalMass, hi.rows, hi.cols, ← hmap]
  simp only [Function.comp_def, massAt, hi.type]

theorem InfoReads.leftMass_eq {str dr : Bool} {fb lq : Nat} (hi : InfoReads sl.info rows cols ty planes skip spec str fb dr lq)
    (res : List (Nat × Nat)) : leftMass sl res = (res.map fun x => massOf ty (slotElem sl.bytes ty.bits (x.2 * cols + x.1))).sum := by
  simp only [leftMass, massAt, hi.cols, hi.type]

theorem dropsResidual_iff {res : List (Nat × Nat)} {left total : Nat} : dropsResidual res spec stctl stloss left total = true ↔
    res ≠ [] ∧ stctl.getLsbD 7 = true ∧ spec = false ∧ left * 65536 ≤ fieldOf stloss 0 16 * total := by
  simp only [dropsResidual, Bool.and_eq_true, decide_eq_true_eq, Bool.not_eq_true', and_assoc]

end Sys2Proof.Machine
end

section
/-! PROOFS. What tiles and slots give registers, and loads of slots (R140, R196 to R200, R210, R212 to R214, R216, R217). -/

namespace Sys2Proof.Machine

variable {s s1 : State} {tid : Nat} {t u : Thread} {e : Entry} {rest : List Entry} {d a b : Reg} {p : PReg} {tile slot : Nat}

/-! ## An entry that writes registers under a new name (R298, R299) -/

/-- A change of a thread that takes its vector queue as it is. -/
def KeepsQueue (f : Thread → Thread) : Prop := ∀ u q, f { u with vq := q } = { f u with vq := q }

theorem KeepsQueue.vq {f : Thread → Thread} (h : KeepsQueue f) (u : Thread) : (f u).vq = u.vq := (congrArg Thread.vq (h u u.vq) :)

/-- An entry whose engine takes a register under a new name, and then changes the thread, completes up to keys of queued entries. -/
theorem AtVcp.completesRs (H : AtVcp s tid t e rest) (hl : needsLanes e.instr = false) {f : Thread → Thread}
    (he : engineAtVcp s tid t e = .done (modThread s1 tid f)) (hr : RsOnly s s1) (hf : KeepsQueue f) : CompletesRs s tid (f t) rest := by
  obtain ⟨v, hv, hvt⟩ := hr.threadAt H.here
  have hm : modThread s1 tid f = setThread s1 tid (f v) := modThread_eq hv f
  have hq : (f v).vq.map unkey = (e :: rest).map unkey := by
    rw [hf.vq, ← H.queue]
    exact (unkeyed_eq_iff.mp hvt).2
  have hfv : f v = { f t with vq := (f v).vq } := by
    rw [hf.vq]
    conv_lhs => rw [unkeyed_congr hvt]
    exact hf t v.vq
  refine ⟨_, { f v with vq := (f v).vq.drop 1 }, by rw [exec_entryAtVcp_engine H hl, he, settle], ⟨fun j hj => ?_, ?_⟩, ?_, ?_⟩
  · rw [threadAt_completeHead_ne hj, hm, threadAt_setThread_ne _ _ hj]
    exact hr.threads j
  · rw [completeHead_mem, modThread_mem, hr.mem]
  · exact threadAt_completeHead (by rw [hm, threadAt_setThread_self])
  · rw [unkeyed_eq_iff]
    refine ⟨?_, ?_⟩
    · exact congrArg (fun x : Thread => { x with vq := (f v).vq.drop 1 }) hfv
    · dsimp only
      rw [List.map_drop, hq]
      rfl

theorem keepsQueue_writeE (c : Cap) (d : Reg) (v : Nat) : KeepsQueue fun t => writeE t c d v := fun _ _ => rfl

theorem keepsQueue_writeGroup (p d w lo hi : Nat) (f : Nat → Nat) : KeepsQueue fun t => writeGroup t p d w lo hi f := by
  intro u q
  have hfold (l : List Nat) (x : Thread) :
      l.foldl (fun y i => if maskBit u p i then setElem y d w i (f i) else y) { x with vq := q } =
        { l.foldl (fun y i => if maskBit u p i then setElem y d w i (f i) else y) x with vq := q } := by
    induction l generalizing x with
    | nil => rfl
    | cons i l ih =>
      rw [List.foldl_cons, List.foldl_cons, ← ih]
      congr 1
      split <;> rfl
  exact hfold _ u

/-! ## cdy.meta (R216) -/

theorem engineAtVcp_cdyMeta (hi : e.instr = .cdyMeta d a) :
    needsLanes e.instr = false ∧ engineAtVcp s tid t e = metaAtVcp s tid t e d a := by
  unfold engineAtVcp
  rw [hi]
  exact ⟨rfl, rfl⟩

/-- cdy.meta gives eD the metadata of its slot. -/
theorem AtVcp.cdyMeta (H : AtVcp s tid t e rest) (hi : e.instr = .cdyMeta d a) (hb : tabFind t.q a.toNat = some slot) :
    let m := (slotAt (clusterOf s (tid / 4)) slot).info
    CompletesRs s tid (writeE t e.cap d (if miLoaded m then m.toNat else 0)) rest := by
  intro m
  obtain ⟨hl, he⟩ := engineAtVcp_cdyMeta (s := s) (tid := tid) (t := t) hi
  rw [metaAtVcp, hb] at he
  exact H.completesRs hl he (rsOnly_rsTake s _ _ _ _) (keepsQueue_writeE e.cap d _)

theorem toNat_mod_32 (r : Reg) : r.toNat % 32 = r.toNat := Nat.mod_eq_of_lt r.isLt

theorem rv_writeE (t : Thread) (c : Cap) (d : Reg) (v : Nat) {r : Nat} (h : r % 32 ≠ d.toNat) : rv (writeE t c d v) r = rv t r := by
  refine rv_setElem t _ _ _ _ _ ?_
  rwa [Nat.zero_mul, Nat.zero_div, Nat.add_zero, toNat_mod_32]

/-! ## tmov.rtov and ctov (R217) -/

theorem elemWidth_32 : elemWidth 32 := .inr (.inr (.inl rfl))

/-- Element k of a row or a column of a tile. -/
def tileLine (c : Cluster) (tile x : Nat) (col : Bool) (k : Nat) : Nat := if col then tileElem c tile k x else tileElem c tile x k

theorem tileLine_lt (c : Cluster) (tile x : Nat) (col : Bool) (k : Nat) : tileLine c tile x col k < 2 ^ 32 := by
  unfold tileLine
  split <;> exact tileElem_lt ..

/-- With nothing in the tile queue that names the tile, the row or column enters vA where P governs it. -/
theorem tmovOutAtVcp_bound {col : Bool} (hb : tabFind t.t d.toNat = some tile) (hq : ∀ q ∈ t.tq, tileName q.instr ≠ some d.toNat)
    (hx : e.cap.xb.toNat < 64) : tmovOutAtVcp s tid t e d a b p col =
      .done (modThread (rsTake s (tid / 4) (tid % 4) a.toNat e.cap.rsctl) tid
        (fun t => writeGroup t p.toNat a.toNat 32 0 64 (tileLine (clusterOf s (tid / 4)) tile e.cap.xb.toNat col))) := by
  rw [tmovOutAtVcp, if_neg (by simpa using hq), hb]
  dsimp only
  rw [if_neg (Nat.not_le.mpr hx)]
  rfl

theorem AtVcp.tmovOut (H : AtVcp s tid t e rest) (hi : e.instr = .tmovRtov d a b p ∨ e.instr = .tmovCtov d a b p)
    (hb : tabFind t.t d.toNat = some tile) (hq : ∀ q ∈ t.tq, tileName q.instr ≠ some d.toNat) (hx : e.cap.xb.toNat < 64) :
    CompletesRs s tid (writeGroup t p.toNat a.toNat 32 0 64
      (tileLine (clusterOf s (tid / 4)) tile e.cap.xb.toNat (decide (e.instr = .tmovCtov d a b p)))) rest := by
  have he : needsLanes e.instr = false ∧
      engineAtVcp s tid t e = tmovOutAtVcp s tid t e d a b p (decide (e.instr = .tmovCtov d a b p)) := by
    unfold engineAtVcp
    rcases hi with hi | hi <;> rw [hi]
    · exact ⟨rfl, by simp⟩
    · exact ⟨rfl, by simp⟩
  exact H.completesRs he.1 (he.2.trans (tmovOutAtVcp_bound hb hq hx)) (rsOnly_rsTake s _ _ _ _) (keepsQueue_writeGroup _ _ _ _ _ _)

/-! ## The obligation -/

/-- Settles O35: a load of a slot that nothing stops leaves it loaded, or strained by the rules of R213; cdy.meta and the moves out of a
tile write one register. -/
theorem slotsLoadAndTilesMoveOut : Obligations.SlotsLoadAndTilesMoveOut := by
  unfold Obligations.SlotsLoadAndTilesMoveOut
  intro s tid t e rest d a b p h slot tile H c rows cols place reading lstr
  refine ⟨fun hi hb hr => ?waits, fun hi hb hnr hh hm hf hrc hty hwd hpl h1r hr h1c hc => ?loads, fun hi hb => ?metadata,
    fun hb hq hx hi => ?moves⟩
  case waits =>
    rcases hi with hi | hi
    · obtain ⟨hl, he⟩ := engineAtVcp_cdyLoad (s := s) (tid := tid) (t := t) hi
      exact vcpWaits_of_engine H hl (he.trans (cdyLoadAtVcp_waits hb hr))
    · obtain ⟨hl, he⟩ := engineAtVcp_cdyLstr (s := s) (tid := tid) (t := t) hi
      exact vcpWaits_of_engine H hl (he.trans (cdyLoadAtVcp_waits hb hr))
  case loads =>
    intro ty w hsize hk hin
    have hs : SlotLoads t e d a h slot := ⟨hb, hnr, hh, hm, hf, hrc, hty, hwd, shapeLegal_iff.mpr ⟨h1r, hr, h1c, hc, hsize⟩, hk, hin⟩
    have hp : tdPlanes h.td < 16 := planes_lt hpl
    have info := infoReads_loadedSlot hr hc hp (loadedBytes t (slotAccess e.cap d) h c.scratch (rows * cols) (slotAt c slot).bytes)
    have elems (i : Nat) (hi : i < rows * cols) := hs.slotElem_loadedBytes (slotWidth_le hty hpl) c.scratch (slotAt c slot).bytes hi
    rcases hi with hi | hi
    · obtain ⟨s', hx, honly, hhere, hslot⟩ := H.loadsSlot hs (engineAtVcp_cdyLoad hi)
      refine ⟨s', hx, honly, hhere, ?_⟩
      rw [hslot, if_neg Bool.false_ne_true]
      intro sl m mag mass full pats nb mb ne me total left col
      exact ⟨info.loaded, info.rows, info.cols, info.type, info.planes, elems, info.skip ▸ slotSkip_iff, fun _ => ⟨info.str, rfl, rfl⟩,
        fun hl => absurd (hi.symm.trans hl) (by simp)⟩
    · obtain ⟨s', hx, honly, hhere, hslot⟩ := H.loadsSlot hs (engineAtVcp_cdyLstr hi)
      refine ⟨s', hx, honly, hhere, ?_⟩
      obtain ⟨reason, dropped, lossq, S⟩ := info.strained hr hc hp e.cap.stctl e.cap.stloss
      rw [if_pos rfl] at hslot
      rw [hslot]
      generalize strain _ _ _ = out at S ⊢
      obtain ⟨bytes, m, terms, residual, _, _⟩ := out
      obtain ⟨reads, hbytes, fallen, wide, tall, fits, sparse, kept⟩ := S
      dsimp only at hbytes
      subst hbytes
      intro sl m mag mass full pats nb mb ne me total left col
      have hnarrow (h64 : cols ≤ 64) (hb : ty ≠ .bpi) : ¬ (64 < cols ∨ ty = .bpi) := by
        rintro (hwide | hbpi)
        · omega
        · exact hb hbpi
      have hbits (hb : ty ≠ .bpi) : (tdType h.td).bits = w := (slotWidth_of_ne hb _).symm
      refine ⟨reads.loaded, reads.rows, reads.cols, reads.type, reads.planes, elems, reads.skip ▸ slotSkip_iff, fun hl => absurd hi hl,
        fun _ => ⟨reads.str, fun hz => fallen (reads.fallback ▸ hz), fun hwide => reads.fallback.trans (wide hwide),
          fun h64 hb h512 => reads.fallback.trans (tall (hnarrow h64 hb) h512),
          fun h64 hb h512 => (fits (hnarrow h64 hb) h512).imp reads.fallback.trans reads.fallback.trans,
          fun h64 hb h512 hn => reads.fallback.trans (sparse (hnarrow h64 hb) h512 (by rwa [hbits hb])), fun hz => ?kept⟩⟩
      case kept =>
        have h0 : reason = 0 := reads.fallback.symm.trans hz
        have hb : ty ≠ .bpi := fun hb => by
          have := wide (.inr hb)
          omega
        obtain ⟨hlen, S, hdr, hlq⟩ := kept h0
        have hpat : patternsOf e.cap.stctl = (nb, mb, ne, me) := by
          simp only [patternsOf, nb, mb, ne, me, pats]
          generalize fieldOf e.cap.stctl 0 2 = x
          generalize fieldOf e.cap.stctl 2 2 = y
          rcases x with _ | _ | _ | x <;> rcases y with _ | _ | y <;> rfl
        rw [hbits hb, hpat] at S
        rw [info.leftMass_eq, info.totalMass_eq, hbits hb] at hdr hlq
        refine ⟨hlen, S.few, S.full, S.once, S.shape, S.largest, ?_, ?_⟩
        · rw [reads.lossq, hlq, ← reads.spec]
          rfl
        · rw [reads.dropped, hdr, dropsResidual_iff, ← reads.spec]
          rfl
  case metadata =>
    refine ⟨_, H.cdyMeta hi hb, ⟨?_, fun j h0 hj => ?_⟩, fun r hr => rv_writeE t e.cap d _ hr, rfl⟩
    · exact (elem_writeE t e.cap d _ (by omega)).trans (if_pos rfl)
    · exact (elem_writeE t e.cap d _ hj).trans (if_neg (by omega))
  case moves =>
    refine ⟨_, H.tmovOut hi hb hq hx, fun k hk => ?_, fun r hr => rv_writeGroup elemWidth_32 (fun j hj => ?_) t, vOnly_writeGroup ..⟩
    · rw [elem_writeGroup elemWidth_32 (by decide) (by omega), Nat.mod_eq_of_lt (tileLine_lt ..)]
      simp only [Nat.zero_le, true_and, tileLine, decide_eq_true_eq]
      rfl
    · have hj0 : j = 0 := by omega
      rwa [hj0, Nat.add_zero, toNat_mod_32]

end Sys2Proof.Machine
end

section
/-! PROOFS. Memory in canonical form: what leaves the bytes of memory and of the persistence image as they are, and what writes
them through `Memory.put` and filters only (R219, R355). -/

namespace Sys2Proof.Machine

variable {s s' : State}

/-- What the device stores byte by byte: its memory, and the memory of the persistence image (R219, R355). -/
def memories (s : State) : Memory × Memory := (s.mem, s.image.mem)

theorem RsOnly.memories (h : RsOnly s s') : memories s' = memories s := by
  rw [h.rest]
  rfl

theorem memories_foldl {α : Type} {f : State → α → State} (hf : ∀ s a, memories (f s a) = memories s) (l : List α) (s : State) :
    memories (l.foldl f s) = memories s := by
  induction l generalizing s with
  | nil => rfl
  | cons a l ih => exact (ih _).trans (hf s a)

/-- The state in which an engine leaves the device. -/
def Res.state : Res → State
  | .done s | .more s | .wait s | .trap s _ _ _ => s

theorem memories_modThread (tid : Nat) (f : Thread → Thread) : memories (modThread s tid f) = memories s := by
  unfold modThread
  split <;> rfl

theorem memories_ite {c : Prop} [Decidable c] {a b : State} (ha : memories a = memories s) (hb : memories b = memories s) :
    memories (if c then a else b) = memories s := by
  split
  · exact ha
  · exact hb

/-! ## What leaves memory as it is -/

/-! ### Memory, counters and translation -/

theorem memories_bump (page idx n : Nat) : memories (bump s page idx n) = memories s := by
  grind [bump, memories]

theorem memories_setDrv (off : Nat) (v : Word) : memories (setDrv s off v) = memories s := rfl

theorem memories_recordEvent (e : HostEvent) : memories (recordEvent s e) = memories s := by
  grind [recordEvent, memories_bump, memories_setDrv, memories]

theorem memories_postRecord (e : HostEvent) : memories (postRecord s e) = memories s := by
  grind [postRecord, memories_recordEvent, memories]

theorem memories_postEvent (type die : Nat) (arg0 arg1 : Word) : memories (postEvent s type die arg0 arg1) = memories s := by
  grind [postEvent, memories_postRecord]

theorem memories_countHere (a : Nat) : memories (countHere s a) = memories s := by
  grind [countHere, memories_bump]

theorem memories_countAccess (a : Nat) : memories (countAccess s a) = memories s := by
  grind [countAccess, memories_bump, memories_countHere, memories]

theorem memories_countPa (a : Nat) : memories (countPa s a) = memories s := by
  grind [countPa, memories_countHere, memories_countAccess]

theorem memories_setCluster (cl : Nat) (c : Cluster) : memories (setCluster s cl c) = memories s := rfl

theorem memories_startWalk (cl c va : Nat) (n : Need) : memories (startWalk s cl c va n) = memories s := by
  grind [startWalk, memories]

theorem memories_countWalk (tile : Option Nat) (owner c va : Nat) : memories (countWalk s tile owner c va) = memories s := by
  unfold countWalk
  refine (memories_foldl (fun s x => ?_) _ _).trans ?_ <;> grind [memories_bump, memories_countPa, memories]

theorem memories_modMisses (cl : Nat) (f : List Miss → List Miss) : memories (modMisses s cl f) = memories s := by
  grind [modMisses, memories_setCluster, memories]

theorem memories_countMiss (cl owner id va : Nat) : memories (countMiss s cl owner id va) = memories s := by
  grind [countMiss, memories_bump, memories_setCluster, memories]

theorem memories_setWalked (cl owner id va : Nat) (l : Option (Word × Bool)) : memories (setWalked s cl owner id va l) = memories s := by
  grind [setWalked, memories_modMisses, memories]

theorem memories_endMiss (cl owner id : Nat) : memories (endMiss s cl owner id) = memories s := by
  grind [endMiss, memories_modMisses]

theorem memories_dropMisses (cl owner : Nat) : memories (dropMisses s cl owner) = memories s := by
  grind [dropMisses, memories_modMisses]

theorem memories_cacheFound (cl c va : Nat) (n : Need) (l : Option (Word × Bool)) : memories (cacheFound s cl c va n l) = memories s := by
  unfold cacheFound
  grind [memories_setCluster, memories]

theorem memories_xlate (cl owner id c area va : Nat) (n : Need) : memories (xlate s cl owner id c area va n).2 = memories s := by
  grind [xlate, memories_startWalk, memories_countWalk, memories_countMiss, memories_setWalked, memories_cacheFound, memories]

theorem memories_countOwnWalk (o : Origin) (c va : Nat) : memories (countOwnWalk s o c va) = memories s := by
  grind [countOwnWalk, memories_countWalk]

theorem memories_touchPages (cl o id c : Nat) (n : Need) (l : List (Nat × Nat)) :
    memories (touchPages s cl o id c n l).2 = memories s := by
  induction l generalizing s with
  | nil => grind [touchPages]
  | cons x r ih => grind [touchPages, memories_xlate, memories]

theorem memories_touchRanges (cl o id : Nat) (l : List Touch) : memories (touchRanges s cl o id l).2 = memories s := by
  induction l generalizing s with
  | nil => grind [touchRanges]
  | cons x r ih => grind [touchRanges, memories_touchPages, memories]

theorem memories_countRange (a n : Nat) : memories (countRange s a n) = memories s := by
  unfold countRange
  split
  · rfl
  · exact memories_foldl (fun _ _ => memories_countAccess _) _ _

theorem memories_countOwnWalks (o : Origin) (c va n : Nat) : memories (countOwnWalks s o c va n) = memories s := by
  unfold countOwnWalks
  refine (memories_foldl (fun s x => ?_) _ _).trans ?_ <;> grind [memories_countOwnWalk]

theorem memories_countVirt (o c va n : Nat) : memories (countVirt s o c va n) = memories s := by
  unfold countVirt
  refine (memories_foldl (fun s x => ?_) _ _).trans ?_ <;> grind [memories_countRange, memories]

/-! ### Operands -/

theorem memories_setThread (tid : Nat) (t : Thread) : memories (setThread s tid t) = memories s := rfl

theorem memories_dropThread (tid : Nat) : memories (dropThread s tid) = memories s := rfl

theorem memories_modLaunch (id : Nat) (f : Launch → Launch) : memories (modLaunch s id f) = memories s := rfl

/-! ### Markers -/

theorem memories_rsInvalidate (cl : Nat) (bad : RsEntry → Bool) :
    memories (rsInvalidate s cl bad) = memories s := (rsOnly_rsInvalidate ..).memories

theorem memories_rsMapAll (cl slot : Nat) (ms : List (Nat × Nat)) : memories (rsMapAll s cl slot ms) = memories s :=
  (rsOnly_rsMapAll ..).memories.trans (memories_modThread ..)

theorem memories_rsMap (cl slot v p : Nat) : memories (rsMap s cl slot v p) = memories s := by
  grind [rsMap, memories_rsMapAll]

theorem memories_rsTake (cl slot v : Nat) (rsctl : Word) : memories (rsTake s cl slot v rsctl) = memories s := (rsOnly_rsTake ..).memories

theorem memories_rsDropLoads (cl slot : Nat) : memories (rsDropLoads s cl slot) = memories s := (rsOnly_rsDropLoads ..).memories

theorem memories_rsDropReg (cl slot h : Nat) : memories (rsDropReg s cl slot h) = memories s := by
  grind [rsDropReg, memories_rsInvalidate, memories]

theorem memories_rsForget (cl slot : Nat) : memories (rsForget s cl slot) = memories s := by
  grind [rsForget, memories_rsMapAll, memories_rsDropLoads]

theorem memories_rsTagMask (cl slot p : Nat) : memories (rsTagMask s cl slot p) = memories s := (rsOnly_rsTagMask ..).memories

theorem memories_walkStart (cl ctx : Nat) (fs : List Fetch) : memories (walkStart s cl ctx fs) = memories s :=
  (memories_bump ..).trans (memories_foldl (fun _ _ => memories_startWalk ..) _ _)

theorem memories_recompute (tid : Nat) (t : Thread) (n : Nat) (old : Option (List Int)) (sofar : List (Nat × List Fetch)) :
    memories (recompute s tid t n old sofar).1 = memories s := by
  grind [recompute, memories_walkStart, memories]

theorem memories_recomputeAll (tid : Nat) (t : Thread) (marker : Nat) (olds : List (Nat × Option (List Int))) :
    memories (recomputeAll s tid t marker olds).1 = memories s := by
  unfold recomputeAll
  exact List.foldlRecOn (motive := fun acc : State × List (Nat × List Fetch) => memories acc.1 = memories s) olds _ rfl
    (fun acc h e _ => (memories_recompute ..).trans h)

theorem memories_refetch (tid : Nat) (t : Thread) (n : Nat) (h : HReg) (slots : List Nat) :
    memories (refetch s tid t n h slots).1 = memories s := by
  grind [refetch, memories_walkStart, memories]

theorem memories_issue (r : Req) : memories (issue s r) = memories s := rfl

theorem memories_backRequest (tid : Nat) (t : Thread) (h : HReg) (seq : Nat) (part : Bool) (slot pa : Nat) :
    memories (backRequest s tid t h seq part slot pa) = memories s := by
  grind [backRequest, memories_issue]

theorem memories_handBack (tid : Nat) (t : Thread) (h : HReg) (seq : Nat) (part : Bool) (l : List Nat) (at0 : Option Int) :
    memories (handBack s tid t h seq part l at0).1 = memories s := by
  induction l generalizing s at0 with
  | nil => grind [handBack]
  | cons x r ih => grind [handBack, memories_bump, memories_xlate, memories_backRequest, memories]

theorem memories_zeroCopies (cl : Nat) (h : HReg) (slots : List Nat) : memories (zeroCopies s cl h slots) = memories s := rfl

theorem memories_postLost (tid : Nat) : memories (postLost s tid) = memories s := by
  grind [postLost, memories_postEvent, memories_setThread, memories]

theorem memories_cleanSome (tid n seq : Nat) (part : Bool) (slots : List Nat) :
    memories (cleanSome s tid n seq part slots).1 = memories s := by
  grind [cleanSome, memories_setThread, memories_rsDropReg, memories_handBack, memories_zeroCopies, memories]

theorem memories_cleanReg (tid n seq : Nat) (part : Bool) : memories (cleanReg s tid n seq part).1 = memories s := by
  grind [cleanReg, memories_cleanSome]

theorem memories_cleanRegs (tid seq : Nat) (l : List Nat) : memories (cleanRegs s tid seq l).1 = memories s := by
  induction l generalizing s with
  | nil => grind [cleanRegs]
  | cons x r ih => grind [cleanRegs, memories_cleanReg, memories]

/-! ### Threads, traps and pushes -/

theorem memories_pumpPort (port : Nat) (more : List (Packet × Nat)) : memories (pumpPort s port more) = memories s := by
  grind [pumpPort, memories_bump, memories]

theorem memories_sendFrom (port dest : Nat) (p : Packet) (src : Option Source) : memories (sendFrom s port dest p src) = memories s := by
  grind [sendFrom, memories_bump, memories_pumpPort, memories]

theorem memories_sendPacket (port : Nat) (p : Packet) : memories (sendPacket s port p) = memories s := by
  grind [sendPacket, memories_sendFrom]

theorem memories_sendColl (peer : Nat) (m : CollMsg) {s' : State} (h : sendColl s peer m = some s') : memories s' = memories s := by
  grind [sendColl, memories_sendFrom]

theorem foldl_bind_none {α : Type} (f : State → α → Option State) (l : List α) :
    l.foldl (fun a x => a.bind (fun s => f s x)) none = none := by
  induction l with
  | nil => rfl
  | cons a l ih => exact ih

/-- Messages that go out one after another, until one finds no way. -/
theorem memories_foldl_bind {α : Type} {f : State → α → Option State} (hf : ∀ s a s', f s a = some s' → memories s' = memories s)
    {l : List α} (h : l.foldl (fun a x => a.bind (fun s => f s x)) (some s) = some s') : memories s' = memories s := by
  induction l generalizing s with
  | nil => exact congrArg memories (Option.some.inj h).symm
  | cons a l ih =>
    rw [List.foldl_cons, Option.bind_some] at h
    cases ha : f s a with
    | none =>
      rw [ha, foldl_bind_none] at h
      cases h
    | some s1 => exact (ih (ha ▸ h)).trans (hf s a s1 ha)

theorem memories_sendLost (code : Nat) (c : Coll) : memories (sendLost code s c) = memories s := by
  refine memories_foldl (fun s o => ?_) _ _
  cases h : sendColl s o (.lost c.gid c.seq code) with
  | none => rfl
  | some s' => exact memories_sendColl o _ h

theorem memories_modQueues (f : List LCmd → List LCmd) : memories (modQueues s f) = memories s := rfl

theorem memories_modCmd (uid : Nat) (f : LCmd → LCmd) : memories (modCmd s uid f) = memories s := rfl

theorem memories_quitLacqs (tag : BitVec 56) (l : List LCmd) : memories (quitLacqs s tag l) = memories s := by
  unfold quitLacqs
  refine (memories_foldl (fun s x => ?_) _ _).trans ?_ <;> grind [memories_sendPacket, memories]

theorem memories_setQueue (q : Nat) (l : LQueue) : memories (setQueue s q l) = memories s := rfl

theorem memories_setOutcome (id : Nat) (o : LOut) : memories (setOutcome s id o) = memories s := by
  grind [setOutcome, memories_setQueue, memories]

theorem memories_freeUnits (tid : Nat) (t : Thread) : memories (freeUnits s tid t) = memories s := by
  grind [freeUnits, memories_setCluster, memories_rsForget, memories]

theorem memories_dropQueued (id : Nat) : memories (dropQueued s id) = memories s := rfl

theorem memories_endScalar (cl owner : Nat) : memories (endScalar s cl owner) = memories s := by
  grind [endScalar, memories_endMiss]

theorem memories_enqueue (tid : Nat) (t : Thread) (e : Entry) {s' : State} (h : enqueue s tid t e = some s') :
    memories s' = memories s := by
  grind [enqueue, memories_setThread, memories_recomputeAll, memories]

theorem memories_endEntry (tid : Nat) (t : Thread) : memories (endEntry s tid t) = memories s := by
  grind [endEntry, memories_endMiss, memories]

theorem memories_completeHead (tid : Nat) : memories (completeHead s tid) = memories s := by
  grind [completeHead, memories_bump, memories_setThread, memories_endEntry, memories]

theorem memories_modHead (tid : Nat) (f : Entry → Entry) : memories (modHead s tid f) = memories s := by
  grind [modHead, memories_setThread, memories]

theorem memories_writeX (t : Thread) (d : Reg) (v : Word) : memories (writeX s t d v) = memories s := rfl

theorem memories_repush (tid : Nat) (l : List Entry) : memories (repush s tid l) = memories s := by
  induction l generalizing s with
  | nil => rfl
  | cons e r ih =>
    unfold repush
    split
    · rfl
    · split
      next he => exact (ih ..).trans ((memories_enqueue _ _ _ he).trans rfl)
      · rfl

theorem memories_reissuePoisoned (tid : Nat) : memories (reissuePoisoned s tid) = memories s := by
  unfold reissuePoisoned
  split
  · rfl
  · exact memories_foldl (fun s e => by grind [memories_setThread, memories_refetch]) _ _

/-! ### Completion and resumption -/

theorem memories_vrelEffect (tid seq : Nat) : memories (vrelEffect s tid seq).1 = memories s := by
  grind [vrelEffect, memories_setThread, memories_postLost, memories_cleanRegs, memories_freeUnits, memories]

theorem memories_modBarrier (launch lvl group : Nat) (f : Barrier → Barrier) :
    memories (modBarrier s launch lvl group f) = memories s := rfl

theorem memories_leaveBarriers (t : Thread) (raw : List Byte) : memories (leaveBarriers s t raw) = memories s := rfl

theorem memories_retire (tid : Nat) (t : Thread) : memories (retire s tid t) = memories s := by
  grind [retire, memories_setCluster, memories_dropThread, memories_endScalar, memories_leaveBarriers, memories]

/-! ### Fetches and the order of accesses -/

theorem memories_receiveHost (op : HostOp) : memories (receiveHost s op) = memories s := rfl

theorem memories_hostFlits (idx : Nat) : memories (hostFlits s idx) = memories s := by
  grind [hostFlits, memories_bump, memories]

theorem memories_driverArrives (off : Nat) (v : Word) {f : State → State} (hf : ∀ s, memories (f s) = memories s) :
    memories (driverArrives s off v f) = memories s := by
  grind [driverArrives, memories_receiveHost, memories_hostFlits]

/-! ### Window accesses -/

theorem memories_winCommit (tid : Nat) (a : Access) (h : HReg) (acc : WinAcc) : memories (winCommit s tid a h acc) = memories s := by
  grind [winCommit, memories_setCluster, memories_setThread, memories_rsDropReg, memories_rsTagMask, memories_modHead, memories]

theorem memories_winStep (tid : Nat) (t : Thread) (e : Entry) (a : Access) : memories (winStep s tid t e a).state = memories s := by
  grind [winStep, memories_modHead, memories_winCommit, memories, Res.state]

/-! ### Residency -/

theorem memories_zeroSlots (cl : Nat) (h : HReg) (slots : List Nat) : memories (zeroSlots s cl h slots) = memories s := rfl

theorem memories_leaveBoxes (tid seq : Nat) (l : List (Nat × List Int)) : memories (leaveBoxes s tid seq l).1 = memories s := by
  induction l generalizing s with
  | nil => grind [leaveBoxes]
  | cons x r ih => grind [leaveBoxes, memories_cleanSome, memories]

theorem memories_moveBox (tid n : Nat) (old : Option (List Int)) (new : HCopy) : memories (moveBox s tid n old new) = memories s := by
  grind [moveBox, memories_rsDropReg, memories_zeroCopies, memories_modThread, memories_zeroSlots, memories]

theorem memories_openLanding (tid marker : Nat) : memories (openLanding s tid marker) = memories s := by
  grind [openLanding, memories_modThread, memories]

theorem memories_markerAtVcp_go (tid : Nat) (t : Thread) (e : Entry) : memories (markerAtVcp.go tid t e s).state = memories s := by
  unfold markerAtVcp.go
  split
  · rfl
  · split
    next h => exact (congrArg (memories ·.1) h).symm.trans (memories_leaveBoxes ..)
    next h =>
      refine (memories_postLost ..).trans ((memories_openLanding ..).trans ((memories_foldl (fun s b => ?_) _ _).trans ?_))
      · grind [memories_moveBox]
      · have := memories_leaveBoxes (s := s) tid e.uid e.boxes
        grind [memories_modThread]

theorem memories_markerAtVcp (tid : Nat) (t : Thread) (e : Entry) : memories (markerAtVcp s tid t e).state = memories s := by
  grind [markerAtVcp, memories_markerAtVcp_go, Res.state]

theorem memories_clearReg (tid n seq : Nat) : memories (clearReg s tid n seq).1 = memories s := by
  grind [clearReg, memories_rsDropLoads, memories_cleanReg, memories_modThread, memories]

theorem memories_hresClrAtVcp (tid : Nat) (t : Thread) (e : Entry) (n : Nat) :
    memories (hresClrAtVcp s tid t e n).state = memories s := by
  grind [hresClrAtVcp, memories_postLost, memories_clearReg, memories, Res.state]

theorem memories_configure (tid : Nat) (t : Thread) (e : Entry) (n : Nat) (blk td : List Byte) :
    memories (configure s tid t e n blk td).state = memories s := by
  grind [configure, memories_recomputeAll, memories_postLost, memories_modThread, memories_moveBox, memories_openLanding,
    memories_clearReg, memories, Res.state]

theorem memories_hresSetAtVcp (tid : Nat) (t : Thread) (e : Entry) (n : Nat) :
    memories (hresSetAtVcp s tid t e n).state = memories s := by
  unfold hresSetAtVcp
  split <;> grind [memories_touchRanges, memories_configure, memories, Res.state]

theorem memories_cacheLeaf (w : Walk) (owner : Nat) : memories (cacheLeaf s w owner) = memories s := by
  grind [cacheLeaf, memories_setCluster, memories]

theorem memories_endMisses (cl owner page : Nat) (l : Option (Word × Bool)) : memories (endMisses s cl owner page l) = memories s := by
  grind [endMisses, memories_modMisses, memories]

theorem memories_endWalk (w : Walk) (e : Nat × Thread) : memories (endWalk w s e) = memories s := by
  grind [endWalk, memories_setThread, memories_cacheLeaf, memories_endMisses, memories]

theorem memories_endWalkRetired (w : Walk) (r : Retired) : memories (endWalkRetired w s r) = memories s := by
  grind [endWalkRetired, memories_cacheLeaf, memories_endMisses]

/-! ### Latches, bindings and barriers -/

theorem memories_countAtomic (pa : Nat) : memories (countAtomic s pa) = memories s := by
  grind [countAtomic, memories_bump, memories_countAccess]

theorem memories_latchAt (tid : Nat) (t : Thread) (e : Entry) (a : Word) : memories (latchAt s tid t e a).2 = memories s := by
  grind [latchAt, memories_xlate, memories]

theorem memories_refetchBound (tid : Nat) (a : Word) : memories (refetchBound s tid a) = memories s := by
  unfold refetchBound
  split
  · rfl
  · exact memories_foldl (fun s n => by grind [memories_setThread, memories_refetch, memories_rsDropReg]) _ _

theorem memories_acqAtVcp (tid : Nat) (t : Thread) (e : Entry) (sc : Scope) : memories (acqAtVcp s tid t e sc).state = memories s := by
  grind [acqAtVcp, memories_modHead, memories_latchAt, memories, Res.state]

theorem memories_linkObtain (uid : Nat) (port : Option Nat) (broken : Bool) : memories (linkObtain s uid port broken) = memories s := rfl

theorem memories_relLatchAtVcp (tid : Nat) (t : Thread) (e : Entry) (sc : Scope) :
    memories (relLatchAtVcp s tid t e sc).state = memories s := by
  grind [relLatchAtVcp, memories_postLost, memories_cleanRegs, memories_latchAt, memories, Res.state]

theorem memories_bindTrap (e : Entry) (r : Nat) : memories (bindTrap s e r).state = memories s := rfl

theorem memories_bindAtVcp (tid : Nat) (t : Thread) (e : Entry) (sc : Scope) : memories (bindAtVcp s tid t e sc).state = memories s := by
  grind [bindAtVcp, memories_bindTrap, memories, Res.state]

theorem memories_ubndAtVcp (tid : Nat) (t : Thread) (e : Entry) (sc : Scope) : memories (ubndAtVcp s tid t e sc).state = memories s := by
  grind [ubndAtVcp, memories_bindTrap, memories, Res.state]

theorem memories_fencAtVcp (t : Thread) : memories (fencAtVcp s t).state = memories s := by
  grind [fencAtVcp, Res.state]

theorem memories_atBarrier (t : Thread) (e : Entry) (lvl : BitVec 4) {f : Nat → Res} (hf : ∀ g, memories (f g).state = memories s) :
    memories (atBarrier s t e lvl f).state = memories s := by
  grind [atBarrier, Res.state]

theorem memories_barrAtVcp (tid : Nat) (t : Thread) (e : Entry) (lvl : BitVec 4) :
    memories (barrAtVcp s tid t e lvl).state = memories s := by
  refine memories_atBarrier t e lvl (fun g => ?_)
  split
  · rfl
  · split
    · split
      · exact (memories_rsDropLoads ..).trans (memories_modThread ..)
      · rfl
    · split
      · exact (memories_modHead ..).trans ((memories_modThread ..).trans (memories_modBarrier ..))
      · rfl

theorem memories_arrvAtVcp (t : Thread) (e : Entry) (lvl : BitVec 4) : memories (arrvAtVcp s t e lvl).state = memories s := by
  grind [arrvAtVcp, memories_modBarrier, memories_atBarrier, Res.state]

theorem memories_exptAtVcp (t : Thread) (e : Entry) (lvl : BitVec 4) : memories (exptAtVcp s t e lvl).state = memories s := by
  grind [exptAtVcp, memories_modBarrier, memories_atBarrier, Res.state]

/-! ### Requests and atomics -/

theorem memories_elemAt (tid : Nat) (t : Thread) (e : Entry) (ea : Word) (n : Nat) (need : Need) (fault : BitVec 8) :
    memories (elemAt s tid t e ea n need fault).2 = memories s := by
  grind [elemAt, memories_xlate, memories]

theorem memories_amoIssue (tid : Nat) (t : Thread) (e : Entry) (m : Amo) (l : List Nat) :
    memories (amoIssue tid t e m s l).state = memories s := by
  induction l generalizing s with
  | nil => grind [amoIssue, memories_modHead, Res.state]
  | cons i r ih => grind [amoIssue, memories_modHead, memories_elemAt, memories_issue, memories_endMiss, Res.state]

theorem memories_vwtcPass (tid : Nat) (t : Thread) (e : Entry) (b : Reg) (cc : WCond) (n : Nat) (low : Bool) (l : List Nat) :
    memories (vwtcPass tid t e b cc n low s l).1 = memories s := by
  induction l generalizing s low with
  | nil => rfl
  | cons i r ih => grind [vwtcPass, memories_elemAt, memories_countAccess, memories_endMiss]

theorem memories_vwtcAtVcp (tid : Nat) (t : Thread) (e : Entry) (d b : Reg) (p : PReg) (cc : WCond) (w64 : Bool) :
    memories (vwtcAtVcp s tid t e d b p cc w64).state = memories s := by
  grind [vwtcAtVcp, memories_rsDropLoads, memories_modHead, memories_vwtcPass, memories, Res.state]

/-! ### Accumulation windows -/

theorem memories_accwStep (tid : Nat) (t : Thread) (e : Entry) (d a b : Reg) (p : PReg) (ty : ElemTy) :
    memories (accwStep s tid t e d a b p ty).state = memories s := by
  grind [accwStep, memories_setCluster, memories_modHead, memories_modThread, memories, Res.state]

theorem memories_accwMrgeAtVcp (tid : Nat) (t : Thread) (e : Entry) (d : Reg) (ty : ElemTy) :
    memories (accwMrgeAtVcp s tid t e d ty).state = memories s := by
  grind [accwMrgeAtVcp, memories_postLost, memories_cleanReg, memories, Res.state]

theorem memories_accwClrAtVcp (tid : Nat) (t : Thread) (e : Entry) (d : Reg) (ty : ElemTy) :
    memories (accwClrAtVcp s tid t e d ty).state = memories s := by
  grind [accwClrAtVcp, memories_zeroCopies, memories_modThread, memories, Res.state]

/-! ### Tiles -/

theorem memories_tileOffTrap (e : Entry) (d : Nat) : memories (tileOffTrap s e d).state = memories s := rfl

theorem memories_matrixTrap (e : Entry) (reason fld reg : Nat) : memories (matrixTrap s e reason fld reg).state = memories s := rfl

theorem memories_handOff (tid : Nat) (q : TEntry) (f : Thread → Thread) : memories (handOff s tid q f).state = memories s := by
  grind [handOff, memories_modThread, memories, Res.state]

theorem memories_tileAtVcp (tid : Nat) (t : Thread) (e : Entry) (d : Reg) (p : PReg) (data : BitVec 2048) :
    memories (tileAtVcp s tid t e d p data).state = memories s := by
  grind [tileAtVcp, memories_tileOffTrap, memories_handOff, memories, Res.state]

theorem memories_mmaAtVcp (tid : Nat) (t : Thread) (e : Entry) (d a b : Reg) (p : PReg) (ty : ElemTy) :
    memories (mmaAtVcp s tid t e d a b p ty).state = memories s := by
  grind [mmaAtVcp, memories_tileOffTrap, memories_matrixTrap, memories_handOff, memories, Res.state]

theorem memories_tmovInAtVcp (tid : Nat) (t : Thread) (e : Entry) (d a b : Reg) (p : PReg) :
    memories (tmovInAtVcp s tid t e d a b p).state = memories s := by
  grind [tmovInAtVcp, memories_tileOffTrap, memories_matrixTrap, memories_tileAtVcp, Res.state]

theorem memories_tmovOutAtVcp (tid : Nat) (t : Thread) (e : Entry) (d a b : Reg) (p : PReg) (col : Bool) :
    memories (tmovOutAtVcp s tid t e d a b p col).state = memories s := by
  grind [tmovOutAtVcp, memories_rsTake, memories_modThread, memories_tileOffTrap, memories_matrixTrap, memories, Res.state]

theorem memories_tileOnAtVcp (tid : Nat) (t : Thread) (d : Reg) : memories (tileOnAtVcp s tid t d).state = memories s := by
  grind [tileOnAtVcp, memories_setCluster, memories, Res.state]

/-! ### Caddy slots -/

theorem memories_claimAtVcp (tid : Nat) (t : Thread) (e : Entry) (a b : Reg) :
    memories (claimAtVcp s tid t e a b).state = memories s := by
  grind [claimAtVcp, memories_setCluster, memories_matrixTrap, memories, Res.state]

theorem memories_relAtVcp (tid : Nat) (t : Thread) (e : Entry) (a b : Reg) : memories (relAtVcp s tid t e a b).state = memories s := by
  grind [relAtVcp, memories_matrixTrap, memories_handOff, memories, Res.state]

theorem memories_metaAtVcp (tid : Nat) (t : Thread) (e : Entry) (d a : Reg) : memories (metaAtVcp s tid t e d a).state = memories s := by
  grind [metaAtVcp, memories_rsTake, memories_modThread, memories_matrixTrap, memories, Res.state]

theorem memories_cdyLoadAtVcp (tid : Nat) (t : Thread) (e : Entry) (d a : Reg) (strained : Bool) :
    memories (cdyLoadAtVcp s tid t e d a strained).state = memories s := by
  grind [cdyLoadAtVcp, memories_setCluster, memories_modHead, memories_matrixTrap, memories, Res.state]

/-! ### Links -/

theorem memories_linkTrap (e : Entry) (r : Nat) : memories (linkTrap s e r).state = memories s := rfl

theorem memories_linkHandOff (tid : Nat) (t : Thread) (e : Entry) (d : List Byte) :
    memories (linkHandOff s tid t e d).state = memories s := by
  grind [linkHandOff, memories_countVirt, memories_modThread, memories_linkTrap, memories, Res.state]

theorem memories_linkAtVcp (tid : Nat) (t : Thread) (e : Entry) : memories (linkAtVcp s tid t e).state = memories s := by
  grind [linkAtVcp, memories_touchRanges, memories_linkTrap, memories_linkHandOff, memories, Res.state]

theorem memories_beginCmd (uid : Nat) : memories (beginCmd s uid) = memories s := rfl

theorem memories_departCmd (uid port dest : Nat) (cmd : RemoteCmd) (src : Option Source) :
    memories (departCmd s uid port dest cmd src) = memories s := by
  grind [departCmd, memories_sendFrom, memories_modCmd, memories]

theorem memories_modRemote (owner : Nat) (f : List RemoteLatch → List RemoteLatch) : memories (modRemote s owner f) = memories s := rfl

theorem memories_clearLanded (landed : List Nat) : memories (clearLanded s landed) = memories s := rfl

theorem memories_arriveAt (o : Origin) (launch lvl group : Nat) : memories (arriveAt s o launch lvl group).1 = memories s := by
  grind [arriveAt, memories_modBarrier, memories]

theorem memories_publish (w : Nat) (v : Word) : memories (publish s w v) = memories s := by
  unfold publish
  dsimp only
  split
  · rfl
  · exact memories_foldl (fun s e => by grind [memories_rsDropLoads]) _ _

theorem memories_countWmk (w : Nat) : memories (countWmk s w) = memories s := by
  grind [countWmk, memories_bump]

theorem memories_hostPublish (w : Nat) (value : Word) : memories (hostPublish s w value) = memories s := by
  grind [hostPublish, memories_publish, memories_countWmk]

theorem memories_hostClear (w : Nat) : memories (hostClear s w) = memories s := by
  grind [hostClear, memories_postEvent, memories_countWmk, memories]

theorem memories_inject (port : Nat) (l : List Byte) : memories (inject s port l).1 = memories s := by
  grind [inject, memories]

theorem memories_dropRemoteWaiter (port ctx : Nat) (ra : Word) (tag : BitVec 56) :
    memories (dropRemoteWaiter s port ctx ra tag) = memories s := by
  grind [dropRemoteWaiter, memories]

theorem memories_writeInj (port : Nat) (value : Word) : memories (writeInj s port value) = memories s := by
  grind [writeInj, memories]

/-! ### Placement -/

theorem memories_startThread (l : Launch) (x : Nat × Nat × Option Nat) (area : Nat) : memories (startThread s l x area) = memories s := by
  unfold startThread
  generalize List.range 7 = l
  exact memories_foldl (fun _ _ => memories_rsTagMask ..) _ _

theorem memories_startBarriers (l : Launch) (taken : List (Nat × Nat × Option Nat)) : memories (startBarriers s l taken) = memories s :=
  memories_foldl (fun s i => memories_foldl (fun s g => by grind [memories]) _ _) _ _

theorem memories_startAtom (l : Launch) (acc : PlaceAcc) : memories (startAtom s l acc) = memories s :=
  (memories_startBarriers ..).trans (memories_foldl (fun _ _ => memories_startThread ..) _ _)

/-! ### Collectives -/

theorem memories_keepGroup (launch va : Nat) (g : List Byte) : memories (keepGroup s launch va g) = memories s := rfl

theorem memories_collTrap (e : Entry) (r : Nat) : memories (collTrap s e r).state = memories s := rfl

theorem memories_touchColl (cl : Nat) (t : Thread) (id va : Nat) : memories (touchColl s cl t id va).2 = memories s := by
  unfold touchColl
  split <;> grind [memories_touchRanges, memories]

theorem memories_collHandOff (tid : Nat) (t : Thread) (e : Entry) : memories (collHandOff s tid t e).state = memories s := by
  grind [collHandOff, memories_countVirt, memories_modThread, memories_keepGroup, memories_collTrap, memories, Res.state]

theorem memories_collAtVcp (tid : Nat) (t : Thread) (e : Entry) : memories (collAtVcp s tid t e).state = memories s := by
  grind [collAtVcp, memories_touchColl, memories_collHandOff, memories, Res.state]

theorem memories_putColl (c : Coll) : memories (putColl s c) = memories s := by
  grind [putColl, memories]

theorem memories_loseColl (c : Coll) (code : Nat) : memories (loseColl s c code) = memories s := by
  grind [loseColl, memories_sendLost, memories_putColl, memories]

theorem memories_passDown (c : Coll) : memories (passDown s c) = memories s := by
  unfold passDown
  dsimp only
  split
  · rfl
  · split
    next h =>
      exact (memories_foldl_bind (fun _ _ _ h => memories_foldl_bind (fun _ _ _ h => memories_sendColl _ _ h) h) h).trans
        (memories_putColl ..)
    · exact memories_loseColl ..

theorem memories_settleColl (c : Coll) : memories (settleColl s c) = memories s := by
  grind [settleColl, memories_putColl, memories]

theorem memories_passGather (c : Coll) (x : Nat × Nat × List IWord) : memories (passGather s c x) = memories s := by
  unfold passGather
  split
  next h => exact memories_foldl_bind (fun _ _ _ h => memories_sendColl _ _ h) h
  · exact memories_loseColl ..

theorem memories_leaveColl (c : Coll) (cmd : Nat) : memories (leaveColl s c cmd) = memories s := by
  grind [leaveColl, memories_settleColl, memories]

theorem memories_catchUp (k : Word × IWord) (use : Nat) : memories (catchUp s k use) = memories s := by
  grind [catchUp, memories]

theorem memories_refuseMsg (g : List Byte) (msg : CollMsg) : memories (refuseMsg s g msg) = memories s := by
  unfold refuseMsg
  grind [memories_sendLost, memories]

/-! ### Fetches -/

theorem memories_fetchAt (tid : Nat) (t : Thread) : memories (fetchAt s tid t).2 = memories s := by
  grind [fetchAt, memories_endMiss, memories_xlate, memories]

/-! ### LD and ST -/

theorem memories_scalarCheck (t : Thread) (ea : Word) (width : Nat) (n : Need) (fault : BitVec 8) :
    memories (scalarCheck s t ea width n fault).2 = memories s := by
  grind [scalarCheck, memories_endMiss, memories_xlate, memories]

/-! ### Launch queues -/

theorem memories_queueError (q cause : Nat) : memories (queueError s q cause) = memories s := by
  grind [queueError, memories_postEvent]

theorem memories_enableQueue (q : Nat) (ring : Word) : memories (enableQueue s q ring) = memories s := rfl

theorem memories_launchTrap (e : Entry) (r : Nat) : memories (launchTrap s e r).state = memories s := rfl

theorem memories_vrelAtVcp (tid : Nat) (t : Thread) (e : Entry) : memories (vrelAtVcp s tid t e).state = memories s := by
  grind [vrelAtVcp, memories_vrelEffect, memories, Res.state]

/-! ### Contexts -/

theorem memories_stopMisses (tid : Nat) (t : Thread) : memories (stopMisses s tid t) = memories s := by
  grind [stopMisses, memories_modMisses]

theorem memories_stopThread (tid : Nat) : memories (stopThread s tid) = memories s := by
  grind [stopThread, memories_setCluster, memories_setThread, memories_stopMisses, memories]

theorem memories_restoreUnits (cl : Nat) (v : Saved) : memories (restoreUnits s cl v).1 = memories s := by
  grind [restoreUnits, memories_setCluster, memories]

theorem memories_restoreLines (tid : Nat) (v : Saved) : memories (restoreLines s tid v) = memories s := by
  unfold restoreLines
  split
  · rfl
  · exact (memories_foldl (fun s e => by grind [memories_setThread, memories_refetch]) _ _).trans (memories_setCluster ..)

theorem memories_restoreThread (l : Launch) (v : Saved) (tid : Nat) (lane : Option Nat) :
    memories (restoreThread s l v tid lane) = memories s := by
  unfold restoreThread
  generalize List.range 7 = l
  dsimp only
  refine (memories_repush ..).trans ((memories_restoreLines ..).trans ((memories_foldl (fun _ _ => memories_rsTagMask ..) _ _).trans
    ((memories_foldl (fun _ _ => memories_rsTake ..) _ _).trans ?_)))
  exact memories_restoreUnits (tid / 4) v

theorem memories_restoreAtom (l : Launch) (a : Nat) (acc : PlaceAcc) : memories (restoreAtom s l a acc) = memories s := by
  unfold restoreAtom
  refine (memories_foldl (fun s x => ?_) _ _).trans ?_ <;> grind [memories_modLaunch, memories_restoreThread, memories]

/-! ### The scheduler -/

theorem memories_dropHead (q : Nat) : memories (dropHead s q) = memories s := rfl

theorem memories_requestStop (tids : List Nat) : memories (requestStop s tids) = memories s := rfl

theorem memories_preemptFor (l : Launch) : memories (preemptFor s l) = memories s := by
  grind [preemptFor, memories_requestStop, memories]

/-! ### Snapshots -/

theorem memories_post (sender : Nat) (b : Bcast) : memories (post s sender b) = memories s := by
  grind [post, memories]

theorem memories_dropBcast (b : Bcast) : memories (dropBcast s b) = memories s := rfl

theorem memories_latchPage (seq : IWord) (page : Nat) : memories (latchPage s seq page) = memories s := rfl

theorem memories_setTodo (die : Nat) (seq : IWord) (todo left : List Nat) : memories (setTodo s die seq todo left) = memories s := rfl

theorem memories_changeMode (mode die cause : Nat) : memories (changeMode s mode die cause) = memories s := by
  grind [changeMode, memories_postEvent, memories]

theorem memories_writePower (value : Word) : memories (writePower s value) = memories s := by
  grind [writePower, memories_changeMode]

/-! ### Cupping -/

theorem memories_setObs (o n : Nat) (r : Obs) : memories (setObs s o n r) = memories s := rfl

theorem memories_losePacket (l : OnWay) : memories (losePacket s l) = memories s := by
  unfold losePacket
  grind [memories_modThread, memories]

theorem memories_dropFlit (tile : Nat) (ways : List OnWay) : memories (dropFlit s tile ways) = memories s := by
  grind [dropFlit, memories_bump, memories_losePacket, memories]

theorem memories_correctHeader (tile sender : Nat) : memories (correctHeader s tile sender) = memories s := by
  grind [correctHeader, memories_bump]

theorem memories_receiveBeat (tile sender : Nat) : memories (receiveBeat s tile sender) = memories s := by
  grind [receiveBeat, memories_bump, memories_setObs, memories_correctHeader, memories]

theorem memories_deliverBeat (b : Beat) : memories (deliverBeat s b) = memories s := by
  grind [deliverBeat, memories_receiveBeat, memories]

theorem memories_observe (o n : Nat) : memories (observe s o n) = memories s := by
  grind [observe, memories_bump, memories_post, memories_setObs]

theorem memories_observeAll (o : Nat) : memories (observeAll s o) = memories s := by
  unfold observeAll
  refine (memories_foldl (fun s x => ?_) _ _).trans ?_ <;> grind [memories_observe]

theorem memories_sendBeats (t : Nat) : memories (sendBeats s t) = memories s := by
  grind [sendBeats, memories_bump, memories]

theorem memories_settleReleasesTo (tile : Nat) : memories (settleReleasesTo s tile) = memories s := by
  unfold settleReleasesTo
  refine (memories_foldl (fun s p => ?_) _ _).trans (memories_foldl (fun s r => ?_) _ _)
  · exact (memories_modCmd ..).trans rfl
  · rfl

theorem memories_settleHostTo (tile : Nat) : memories (settleHostTo s tile) = memories s := rfl

theorem memories_settleRequestsTo (tile : Nat) : memories (settleRequestsTo s tile) = memories s := rfl

theorem memories_settleHost : memories (settleHost s) = memories s := rfl

theorem memories_failPort (port : Nat) : memories (failPort s port) = memories s := by
  unfold failPort
  refine (memories_foldl (fun s x => ?_) _ _).trans ?_ <;> grind [memories_modQueues, memories_loseColl, memories]

theorem memories_portFails (port cause : Nat) : memories (portFails s port cause) = memories s := by
  grind [portFails, memories_postEvent, memories_failPort, memories]

theorem memories_strike (tile : Nat) : memories (strike s tile) = memories s := by
  unfold strike
  refine (memories_foldl (fun s x => ?_) _ _).trans ?_ <;> grind [memories]

/-! ### The firmware -/

theorem memories_haltWork : memories (haltWork s) = memories s := rfl

theorem memories_fwError (e : Nat) : memories (fwError s e) = memories s := rfl

theorem memories_fwStart (c : FwCmd) : memories (fwStart s c) = memories s := rfl

theorem memories_fwDone : memories (fwDone s) = memories s := rfl

theorem memories_fwFail (e : Nat) : memories (fwFail s e) = memories s := rfl

theorem memories_setImage (addr : Word) (len : Nat) : memories (setImage s addr len) = memories s := rfl

theorem memories_setReport (addr : Word) : memories (setReport s addr) = memories s := rfl

theorem memories_trainPorts : memories (trainPorts s) = memories s := by
  unfold trainPorts
  refine (memories_foldl (fun s x => ?_) _ _).trans ?_ <;> grind [memories]

theorem memories_resumeThreads : memories (resumeThreads s) = memories s := rfl

theorem memories_restoreRetired (l : Tab (List Retired)) : memories (restoreRetired s l) = memories s := by
  unfold restoreRetired
  refine (memories_foldl (fun s x => ?_) _ _).trans ?_ <;> grind [memories_setCluster, memories]

/-! ### The host -/

theorem memories_dropCached (ctx va n : Nat) : memories (dropCached s ctx va n) = memories s := rfl

theorem memories_startInval : memories (startInval s) = memories s := by
  grind [startInval, memories_setDrv, memories_dropCached, memories]

theorem memories_startMigrate : memories (startMigrate s) = memories s := by
  grind [startMigrate, memories_setDrv, memories_countWalk, memories_dropCached, memories]

theorem memories_failMove (err : Nat) : memories (failMove s err) = memories s := rfl

theorem memories_setUpRing (size : Word) : memories (setUpRing s size) = memories s := by
  grind [setUpRing, memories_setDrv, memories_recordEvent, memories]

theorem memories_writePortctl (port : Nat) (enable : Bool) : memories (writePortctl s port enable) = memories s := by
  grind [writePortctl, memories_setDrv, memories]

theorem memories_driverPerform (off : Nat) (v : Word) : memories (driverPerform s off v) = memories s :=
  memories_ite rfl (memories_ite (memories_writePower _) (memories_ite rfl (memories_ite (memories_setUpRing _)
    (memories_ite rfl (memories_ite (memories_ite memories_startInval rfl) (memories_ite (memories_ite rfl rfl)
    (memories_ite (memories_ite memories_startMigrate rfl) (memories_ite (memories_ite rfl rfl) (memories_ite rfl (memories_ite rfl
    (memories_ite (memories_writePortctl ..) (memories_ite rfl (memories_ite (memories_writeInj ..) (memories_ite (memories_hostPublish
      ..)
    (memories_ite (memories_hostClear _) rfl)))))))))))))))

theorem memories_answerRead (bar off len : Nat) : memories (answerRead s bar off len) = memories s := by
  unfold answerRead
  split
  · rfl
  · refine (memories_hostFlits ..).trans ?_
    split
    · exact memories_foldl (fun _ _ => memories_countPa _) _ _
    · grind [memories_countWmk, memories]
    · rfl

theorem memories_longHaulDown (port : Nat) : memories (longHaulDown s port) = memories s := by
  grind [longHaulDown, memories_portFails, memories]

theorem memories_poisonLine (cl line : Nat) : memories (poisonLine s cl line) = memories s := by
  unfold poisonLine
  refine (memories_foldl (fun s x => ?_) _ _).trans ?_ <;> grind [memories_setThread, memories]

/-! ### The reuse table -/

theorem memories_rsHit (tid : Nat) (e : Entry) (x : RsEntry) : memories (rsHit s tid e x) = memories s := by
  grind [rsHit, memories_bump, memories_setCluster, memories_rsMapAll, memories]

theorem memories_rsInsert (tid : Nat) (e : Entry) : memories (rsInsert s tid e) = memories s := (rsOnly_rsInsert ..).memories

theorem memories_copyResults (tid : Nat) (e : Entry) (x : RsEntry) : memories (copyResults s tid e x) = memories s := by
  grind [copyResults, memories_modThread, memories]

/-! ### Issue -/

theorem memories_workStep (tid : Nat) (t : Thread) (e : Entry) : memories (workStep s tid t e).state = memories s := by
  grind [workStep, memories_setThread, memories_rsTagMask, memories_modHead, memories, Res.state]

theorem memories_laneStep (tid : Nat) (t : Thread) (e : Entry) : memories (laneStep s tid t e).state = memories s := by
  grind [laneStep, memories_winStep, memories_accwStep, memories_workStep, memories, Res.state]

theorem memories_laneRun (f tid : Nat) {s' : State} (h : laneRun f s tid = some s') : memories s' = memories s := by
  induction f generalizing s with
  | zero => cases h
  | succ f ih => grind [laneRun, memories_laneStep, Res.state]

theorem memories_takeDests (tid : Nat) (e : Entry) : memories (takeDests s tid e) = memories s := (rsOnly_takeDests ..).memories

theorem memories_awaitGrants (tid : Nat) (t : Thread) (e : Entry) : memories (awaitGrants s tid t e).state = memories s := by
  grind [awaitGrants, memories_modHead, memories_rsInsert, memories_laneStep, memories_takeDests, memories, Res.state]

theorem memories_beginLanes (tid : Nat) (t : Thread) (e : Entry) : memories (beginLanes s tid t e).state = memories s := by
  unfold beginLanes
  dsimp only
  split
  · exact (memories_awaitGrants ..).trans (memories_modHead ..)
  · split
    · exact (memories_awaitGrants ..).trans ((memories_bump ..).trans (memories_modHead ..))
    · refine (memories_rsHit ..).trans ?_
      cases h : laneRun _ _ tid with
      | none => exact (memories_copyResults ..).trans ((memories_bump ..).trans (memories_modHead ..))
      | some s' => exact (memories_laneRun _ _ h).trans ((memories_bump ..).trans (memories_modHead ..))

/-! ### SYS -/

theorem memories_postTrigger : memories (postTrigger s) = memories s := rfl

/-! ## The canonical form -/

/-- Both memories are in canonical form. -/
def BothCanonical (m : Memory × Memory) : Prop := m.1.wf = true ∧ m.2.wf = true

theorem canonical_iff : Canonical s ↔ BothCanonical (memories s) := Iff.rfl

theorem Canonical.foldl {α : Type} {f : State → α → State} (hf : ∀ s a, Canonical s → Canonical (f s a)) (h : Canonical s) (l : List α) :
    Canonical (l.foldl f s) := by
  induction l generalizing s with
  | nil => exact h
  | cons a l ih => exact ih (hf s a h)

/-- Cells that are left out leave a memory in canonical form. -/
theorem memWfFrom_filter {lo : Nat} {m : Memory} (p : Host.Cell → Bool) (h : memWfFrom lo m = true) : memWfFrom lo
    (m.filter p) = true := by
  induction m generalizing lo with
  | nil => rfl
  | cons e r ih =>
    obtain ⟨a, b⟩ := e
    simp only [memWfFrom, Bool.and_eq_true, decide_eq_true_eq] at h
    obtain ⟨⟨hlo, hb⟩, hr⟩ := h
    rw [List.filter_cons]
    split
    · simp only [memWfFrom, Bool.and_eq_true, decide_eq_true_eq]
      exact ⟨⟨hlo, hb⟩, ih hr⟩
    · exact memWfFrom_mono (Nat.le_succ_of_le hlo) (ih hr)

theorem Canonical.congr (h : Canonical s) (hm : memories s' = memories s) : Canonical s' := by
  rw [canonical_iff, hm]
  exact h

theorem canonical_ite {c : Prop} [Decidable c] {a b : State} (ha : Canonical a) (hb : Canonical b) : Canonical (if c then a else b) := by
  split
  · exact ha
  · exact hb

theorem canonical_ite_state {c : Prop} [Decidable c] {a b : Res} (ha : Canonical a.state) (hb : Canonical b.state) :
    Canonical (if c then a else b).state := by
  split
  · exact ha
  · exact hb

/-! ## What writes memory -/

/-! ### Memory, counters and translation -/

theorem canonical_performWrite (h : Canonical s) (a : Nat) (l : List Byte) : Canonical (performWrite s a l) :=
  ⟨wf_performWrite h.1 a l, h.2⟩

theorem canonical_physWrite (h : Canonical s) (tile : Option Nat) (a : Nat) (l : List Byte) : Canonical (physWrite s tile a l) := by
  refine h.foldl (fun _ g h => ?_) _
  split
  · exact (canonical_performWrite h ..).congr (memories_countAccess _)
  · exact h

theorem canonical_writePieces (h : Canonical s) (o : Origin) (c : Nat) (ps : List (Nat × Nat)) (l : List Byte) :
    Canonical (writePieces s o c ps l).1 := by
  induction ps generalizing s l with
  | nil => exact h
  | cons p r ih =>
    obtain ⟨va, m⟩ := p
    simp only [writePieces]
    split
    · split
      · exact ih ((canonical_performWrite h ..).congr (memories_countRange ..)) _
      · exact ih h _
    · exact ih h _

theorem canonical_writeVia (h : Canonical s) (o : Origin) (c va : Nat) (l : List Byte) : Canonical (writeVia s o c va l).1 := by
  grind [writeVia, canonical_writePieces, canonical_iff]

theorem canonical_writeVirt (h : Canonical s) (o c va : Nat) (l : List Byte) : Canonical (writeVirt s o c va l).1 := by
  grind [writeVirt, canonical_writeVia, canonical_iff]

/-! ### Threads, traps and pushes -/

theorem canonical_writeWord (h : Canonical s) (pa : Nat) (w : Word) : Canonical (writeWord s pa w) := by
  grind [writeWord, canonical_performWrite, canonical_iff]

theorem canonical_breakLatchAt (h : Canonical s) (pa : Nat) : Canonical (breakLatchAt s pa) := by
  grind [breakLatchAt, memories_countAccess, canonical_writeWord, canonical_iff]

theorem canonical_breakLatch (h : Canonical s) (ctx : Nat) (tag : BitVec 56) (a : Word) : Canonical (breakLatch s ctx tag a) := by
  grind [breakLatch, memories_countOwnWalk, canonical_breakLatchAt, canonical_iff, memories]

theorem canonical_breakRemotes (h : Canonical s) (tag : BitVec 56) (l : List RemoteLatch) : Canonical (breakRemotes s tag l) := by
  refine h.foldl (fun _ r h => ?_) l
  split
  · exact canonical_breakLatch h ..
  · exact h.congr (memories_sendPacket ..)

theorem canonical_writeStatus (h : Canonical s) (ctx : Nat) (raw : List Byte) (state err tile flat id : Nat) (tcause tval tepc : Word) :
    Canonical (writeStatus s ctx raw state err tile flat id tcause tval tepc) := by
  grind [writeStatus, memories_countOwnWalks, canonical_writeVirt, canonical_iff]

theorem canonical_killThread (h : Canonical s) (tid : Nat) : Canonical (killThread s tid) := by
  unfold killThread
  split
  · exact h
  next t _ =>
    have hl := h.foldl (fun _ a h => canonical_breakLatch h t.ctx (tagOf t.launch t.flat) a) t.latches
    have hq := (canonical_breakRemotes hl (tagOf t.launch t.flat) t.remote).congr (memories_quitLacqs (tagOf t.launch t.flat) t.lq)
    have hm := (hq.congr (memories_freeUnits tid t)).congr (memories_dropMisses (tid / 4) t.uid)
    dsimp only
    generalize dropMisses _ _ _ = u at hm ⊢
    exact hm

theorem canonical_stopLaunch (h : Canonical s) (id : Nat) : Canonical (stopLaunch s id) := by
  have hc : Canonical ((collsOf s id).foldl (sendLost 9) s) := h.foldl (fun _ c h => h.congr (memories_sendLost ..)) _
  have hk := hc.foldl (f := fun (s : State) (e : Nat × Thread) => killThread s e.1) (fun _ e h => canonical_killThread h e.1)
    (((collsOf s id).foldl (sendLost 9) s).threads.filter (fun (e : Nat × Thread) => e.2.launch = id))
  unfold stopLaunch
  refine Canonical.congr (s := List.foldl _ _ _) (Canonical.foldl (fun _ r h => ?_) ?_ _) rfl
  · exact (canonical_breakRemotes h ..).congr (memories_quitLacqs ..)
  · split
    · exact hk
    · exact hk.foldl (fun _ v h => canonical_breakRemotes (h.foldl (fun _ a h => canonical_breakLatch h ..) _) ..) _

theorem canonical_endStatus (h : Canonical s) (id ctx : Nat) (raw : List Byte) (state tile flat : Nat) (tcause tval tepc : Word) :
    Canonical (endStatus s id ctx raw state tile flat tcause tval tepc) := by
  grind [endStatus, memories_postEvent, canonical_writeStatus, memories_setOutcome, canonical_iff]

theorem canonical_endLaunch (h : Canonical s) (id state tile flat : Nat) (tcause tval tepc : Word) :
    Canonical (endLaunch s id state tile flat tcause tval tepc) := by
  grind [endLaunch, canonical_stopLaunch, memories_dropQueued, canonical_endStatus, canonical_iff, memories]

theorem canonical_takeTrap (h : Canonical s) (tid : Nat) (cause : BitVec 8) (tval tepc : Word) (vec : Option Nat) :
    Canonical (takeTrap s tid cause tval tepc vec) := by
  grind [takeTrap, memories_bump, memories_setThread, canonical_endLaunch, canonical_iff, memories]

theorem canonical_scalarTrap (h : Canonical s) (tid : Nat) (cause : BitVec 8) (tval tepc : Word) :
    Canonical (scalarTrap s tid cause tval tepc) := by
  grind [scalarTrap, canonical_takeTrap, canonical_iff]

theorem canonical_saveHeld (h : Canonical s) (tile area : Nat) (held : List Entry) : Canonical (saveHeld s tile area held) := by
  refine Canonical.foldl (fun _ e h => canonical_physWrite h ..) ?_ _
  exact canonical_physWrite (canonical_physWrite h ..) ..

theorem canonical_vectorTrap (h : Canonical s) (tid : Nat) (cause : BitVec 8) (tval : Word) (k : Nat) (done : Bool) :
    Canonical (vectorTrap s tid cause tval k done) := by
  grind [vectorTrap, memories_endMiss, memories_setThread, memories_rsDropLoads, canonical_takeTrap, canonical_saveHeld,
    memories_endScalar, canonical_iff, memories]

theorem canonical_push (h : Canonical s) (tid : Nat) (i : Instr) : Canonical (push s tid i) := by
  unfold push
  split
  · exact h
  · split
    · exact canonical_scalarTrap h ..
    · split
      · exact canonical_scalarTrap h ..
      · dsimp only
        split
        next he => exact h.congr ((memories_enqueue _ _ _ he).trans rfl)
        · exact h

theorem canonical_pushCur (h : Canonical s) (i : Instr) : Canonical (pushCur s i) := by
  grind [pushCur, canonical_push, canonical_iff]

theorem canonical_takeDeferred (h : Canonical s) (tid : Nat) : Canonical (takeDeferred s tid) := by
  grind [takeDeferred, memories_setThread, canonical_vectorTrap, canonical_iff, memories]

theorem canonical_trapReturn (h : Canonical s) (tid : Nat) : Canonical (trapReturn s tid) := by
  grind [trapReturn, memories_setThread, canonical_scalarTrap, memories_repush, memories_reissuePoisoned, canonical_takeDeferred,
    canonical_iff, memories]

/-! ### Completion and resumption -/

theorem canonical_threadEnd (h : Canonical s) (tid : Nat) : Canonical (threadEnd s tid) := by
  grind [threadEnd, memories_setThread, canonical_scalarTrap, memories_vrelEffect, memories_retire, canonical_iff, memories]

/-! ### Latches, bindings and barriers -/

theorem canonical_obtain (h : Canonical s) (tid : Nat) (a : Word) (broken : Bool) : Canonical (obtain s tid a broken) := by
  grind [obtain, memories_bump, memories_rsDropLoads, canonical_vectorTrap, memories_completeHead, memories_modThread,
    memories_refetchBound, canonical_iff, memories]

theorem canonical_failWaiter (h : Canonical s) (w : Waiter) (cause : BitVec 8) (code : Byte) : Canonical (failWaiter s w cause code) := by
  grind [failWaiter, memories_sendPacket, memories_modCmd, canonical_vectorTrap, canonical_iff, memories]

theorem canonical_performRelease (h : Canonical s) (r : PendRel) : Canonical (performRelease s r) := by
  grind [performRelease, canonical_writeWord, memories_countAtomic, canonical_iff, memories]

/-! ### Requests and atomics -/

theorem canonical_writePlane (h : Canonical s) (pa pos planes v j : Nat) : Canonical (writePlane s pa pos planes v j) := by
  grind [writePlane, canonical_performWrite, canonical_iff]

theorem canonical_updateAt (h : Canonical s) (pa n : Nat) (f : Nat → Nat) : Canonical (updateAt s pa n f) := by
  grind [updateAt, canonical_performWrite, memories_countAccess, memories_countAtomic, canonical_iff]

theorem canonical_performReq (h : Canonical s) (k : ReqKind) : Canonical (performReq s k) := by
  unfold performReq
  split
  · exact (canonical_performWrite h ..).congr (memories_countAccess _)
  · exact (canonical_performWrite h ..).congr (memories_countAccess _)
  · exact (h.foldl (fun _ j h => canonical_writePlane h ..) _).congr (memories_countAccess _)
  · exact canonical_updateAt h ..
  · exact canonical_updateAt h ..

theorem canonical_performAt (h : Canonical s) (r : Req) : Canonical (performAt s r) := by
  unfold performAt
  split
  · exact h
  · split
    · have hb (n : Nat) : Canonical (bump { s with inflight := s.inflight.filter (fun x => x.uid ≠ r.uid ∧ ¬ x ∈ combined s r) }
          (320 + homeOf (reqSpan r.kind).1) 2 n) := h.congr (memories_bump ..)
      exact (hb _).foldl (f := fun s (x : Req) => performReq s x.kind) (fun _ _ h => canonical_performReq h _) _
    · exact h

theorem canonical_amoReturn (h : Canonical s) (tid : Nat) (t : Thread) (e : Entry) (m : Amo) (i : Nat) :
    Canonical (amoReturn s tid t e m i).state := by
  grind [amoReturn, canonical_performWrite, memories_endMiss, memories_modHead, memories_modThread, memories_countAtomic,
    memories_elemAt, canonical_iff, memories, Res.state]

theorem canonical_amoAtVcp (h : Canonical s) (tid : Nat) (t : Thread) (e : Entry) (m : Amo) : Canonical (amoAtVcp s tid t e m).state := by
  have ht : memories ((destRegs e.cap.vfmt e.instr).foldl (fun s v => rsTake s (tid / 4) (tid % 4) v e.cap.rsctl) s) = memories s :=
    memories_foldl (fun _ _ => memories_rsTake ..) _ _
  unfold amoAtVcp
  generalize List.foldl _ _ _ = u at ht ⊢
  grind [canonical_amoReturn, memories_amoIssue, memories_modHead, memories_rsDropLoads, canonical_iff, Res.state]

/-! ### Links -/

theorem canonical_withTouch (h : Canonical s) (x : CmdAt) (l : List Touch) {f : State → State}
    (hf : ∀ s, Canonical s → Canonical (f s)) : Canonical (withTouch s x l f) := by
  grind [withTouch, memories_touchRanges, canonical_iff]

theorem canonical_finishCmd (h : Canonical s) (x : CmdAt) (code : Byte) (run : IWord) (bytes : Word) :
    Canonical (finishCmd s x code run bytes) := by
  have hs : Canonical (if cmdStatus x.cmd = 0 then s
      else (writeVirt s x.owner x.ctx (cmdStatus x.cmd) (statusRecord code run bytes)).1) :=
    canonical_ite h (canonical_writeVirt h ..)
  unfold finishCmd
  refine Canonical.congr ?_ (memories_modQueues _)
  generalize (if cmdStatus x.cmd = 0 then s
      else (writeVirt s x.owner x.ctx (cmdStatus x.cmd) (statusRecord code run bytes)).1) = u at hs ⊢
  cases clusterOfOwner u x.owner
  · exact hs
  · exact hs.congr (memories_endMiss ..)

theorem canonical_landByte {acc : State × List Nat} (h : Canonical acc.1) (n : Nat) (o : Origin) (ctx va : Nat) (x : Byte × Nat) :
    Canonical (landByte n o ctx va acc x).1 := by
  unfold landByte
  split
  · split
    · exact canonical_performWrite h ..
    · exact h
  · exact h

theorem canonical_land (h : Canonical s) (o : Origin) (n ctx va : Nat) (l : List Byte) (run : IWord) :
    Canonical (land s o n ctx va l run).1 := by
  unfold land
  dsimp only
  split
  · exact canonical_writeVia h ..
  · refine Canonical.congr ?_ (memories_clearLanded _)
    exact List.foldlRecOn (motive := fun acc : State × List Nat => Canonical acc.1) l.zipIdx _ h
      (fun _ h x _ => canonical_landByte h n o ctx va x)

theorem canonical_runXfer (h : Canonical s) (x : CmdAt) : Canonical (runXfer x s) := by
  grind [runXfer, memories_countVirt, memories_departCmd, canonical_finishCmd, canonical_land, canonical_iff, memories]

theorem canonical_beginXfer (h : Canonical s) (x : CmdAt) : Canonical (beginXfer s x) := by
  unfold beginXfer
  split
  · exact h
  · exact canonical_withTouch h _ _ (fun _ h => canonical_runXfer h x)

theorem canonical_releaseAt (h : Canonical s) (o : Origin) (ctx va : Nat) (tag : BitVec 56) : Canonical (releaseAt s o ctx va tag).1 := by
  grind [releaseAt, canonical_writeWord, memories_countAtomic, canonical_iff, memories]

theorem canonical_beginLacq (h : Canonical s) (x : CmdAt) : Canonical (beginLacq x s) := by
  grind [beginLacq, canonical_finishCmd, canonical_iff, memories]

theorem canonical_beginLrel (h : Canonical s) (x : CmdAt) : Canonical (beginLrel x s) := by
  grind [beginLrel, memories_modRemote, canonical_finishCmd, canonical_releaseAt, canonical_iff]

theorem canonical_beginLsig (h : Canonical s) (x : CmdAt) : Canonical (beginLsig x s) := by
  grind [beginLsig, memories_beginCmd, canonical_finishCmd, memories_arriveAt, canonical_iff, memories]

theorem canonical_beginLocal (h : Canonical s) (x : CmdAt) : Canonical (beginLocal s x) := by
  unfold beginLocal
  dsimp only
  split
  · split
    · exact h
    · exact canonical_withTouch h _ _ (fun _ h => canonical_beginLacq h x)
  · split
    · exact h
    · exact canonical_withTouch h _ _ (fun _ h => canonical_beginLrel h x)
  · split
    · exact h
    · exact canonical_withTouch h _ _ (fun _ h => canonical_beginLsig h x)

theorem canonical_beginRemote (h : Canonical s) (x : CmdAt) : Canonical (beginRemote s x) := by
  unfold beginRemote
  refine canonical_ite h ?_
  split
  · exact canonical_withTouch h _ _ (fun _ h => canonical_finishCmd h ..)
  · exact h.congr (memories_departCmd ..)

theorem canonical_endRemote (h : Canonical s) (x : CmdAt) (r : LinkReply) : Canonical (endRemote s x r) := by
  grind [endRemote, memories_modRemote, canonical_finishCmd, canonical_iff, memories]

theorem canonical_linkPerform (h : Canonical s) (x : CmdAt) (reply : LinkReply) : Canonical (linkPerform s x reply) := by
  have hf (code : Byte) (run : IWord) (bytes : Word) : Canonical (withTouch s x (ownStatus x) fun s => finishCmd s x code run bytes) :=
    canonical_withTouch h _ _ (fun _ h => canonical_finishCmd h ..)
  have hr : Canonical (withTouch s x (ownStatus x) fun s => endRemote s x reply) :=
    canonical_withTouch h _ _ (fun _ h => canonical_endRemote h ..)
  exact canonical_ite h <| canonical_ite (hf ..) <| canonical_ite (hf ..) <| canonical_ite (hf ..) <|
    canonical_ite (canonical_ite h hr) <| canonical_ite h <| canonical_ite (canonical_beginXfer h x) <|
    canonical_ite (canonical_beginLocal h x) (canonical_beginRemote h x)

/-! ### Collectives -/

theorem canonical_loadBank (h : Canonical s) (tid : Nat) (t : Thread) (e : Entry) (g : List Byte) : Canonical (loadBank s tid t e g) := by
  grind [loadBank, memories_countVirt, canonical_vectorTrap, canonical_iff, memories]

theorem canonical_loadFor (h : Canonical s) (tid : Nat) (t : Thread) (e : Entry) : Canonical (loadFor s tid t e) := by
  unfold loadFor
  grind [memories_touchRanges, memories_keepGroup, memories_touchColl, canonical_loadBank, canonical_iff, memories]

/-- A contribution sends its blocks to the root of its level, or is lost. -/
theorem canonical_sendBlocks (h : Canonical s) (c : Coll) (root : Nat) (bs : List CollBlock) :
    Canonical (match bs.foldl (fun (a : Option State) b => a.bind (fun s => sendColl s root (.block b))) (some (putColl s c)) with
      | some s => s
      | none => loseColl s c 9) := by
  split
  next hr => exact h.congr ((memories_foldl_bind (fun _ _ _ h => memories_sendColl _ _ h) hr).trans (memories_putColl ..))
  · exact h.congr (memories_loseColl ..)

theorem canonical_contribute (h : Canonical s) (c : Coll) (l : Nat) : Canonical (contribute s c l) := by
  unfold contribute
  split
  · exact h
  · dsimp only
    generalize (if levelKind c l = 2 then feedback s c else Feedback.none) = fb
    cases fb with
    | entries p e => exact canonical_ite ((canonical_writeVirt h ..).congr (memories_putColl ..)) (canonical_sendBlocks
      (canonical_writeVirt h ..) ..)
    | none => exact canonical_ite (h.congr (memories_putColl ..)) (canonical_sendBlocks h ..)
    | bad p code => exact h.congr ((memories_loseColl ..).trans (memories_modCmd ..))

theorem canonical_advanceLevel (h : Canonical s) (gid : Word) (seq : IWord) (l : Nat) : Canonical (advanceLevel s gid seq l) := by
  grind [advanceLevel, canonical_contribute, canonical_iff, memories]

theorem canonical_advanceColl (h : Canonical s) (gid : Word) (seq : IWord) : Canonical (advanceColl s gid seq) := by
  unfold advanceColl
  split
  · exact h
  next c _ =>
    dsimp only
    split
    · exact h
    · have hl := h.foldl (fun _ l h => canonical_advanceLevel h gid seq l) (List.range c.levels.length)
      generalize List.foldl _ _ _ = u at hl ⊢
      split
      · exact hl
      · split
        · exact hl
        · exact hl.congr ((memories_passDown ..).trans (memories_putColl ..))

theorem canonical_contributeSrc (h : Canonical s) (x : CmdAt) (c : Coll) (p : CollPart) : Canonical (contributeSrc s x c p) := by
  grind [contributeSrc, memories_modCmd, memories_putColl, canonical_advanceColl, memories_passGather, canonical_iff, memories]

theorem canonical_joinColl (h : Canonical s) (x : CmdAt) : Canonical (joinColl s x) := by
  unfold joinColl
  split
  · exact canonical_finishCmd h ..
  · dsimp only
    split
    · exact h.congr ((memories_loseColl ..).trans (memories_modCmd ..))
    · split
      · exact (canonical_finishCmd h ..).congr ((memories_settleColl ..).trans (memories_loseColl ..))
      · refine canonical_contributeSrc ?_ ..
        have hv (n : Nat) : Canonical (countVirt s x.owner x.ctx (cdSrc x.cmd.desc) n) := h.congr (memories_countVirt ..)
        split
        · exact (hv _).foldl (fun _ y h => h.congr (memories_passGather _ y)) _
        · exact hv _

theorem canonical_landColl (h : Canonical s) (x : CmdAt) (c : Coll) (dst : Nat) (l : List Byte) : Canonical (landColl x c dst l s) := by
  grind [landColl, canonical_writeVirt, canonical_finishCmd, memories_leaveColl, canonical_iff]

theorem canonical_endColl (h : Canonical s) (x : CmdAt) : Canonical (endColl s x) := by
  unfold endColl
  cases collOfCmd s x.cmd.uid <;> dsimp only
  case' some c =>
    replace h := canonical_advanceColl h c.gid c.seq
    generalize advanceColl s c.gid c.seq = s at h ⊢
  all_goals
    split
    · exact h
    · exact canonical_withTouch h _ _ (fun _ h => canonical_finishCmd h ..)
    · refine canonical_ite ?_ (canonical_ite ?_ ?_)
      · exact canonical_withTouch h _ _ (fun _ h => (canonical_finishCmd h ..).congr (memories_leaveColl ..))
      · exact canonical_withTouch h _ _ (fun _ h => (canonical_finishCmd h ..).congr (memories_leaveColl ..))
      · split
        · exact h
        · exact canonical_withTouch h _ _ (fun _ h => canonical_landColl h ..)

theorem canonical_beginColl (h : Canonical s) (x : CmdAt) : Canonical (beginColl s x) :=
  canonical_withTouch h _ _ (fun _ h => canonical_joinColl h x)

theorem canonical_takeMsg (h : Canonical s) (msg : CollMsg) : Canonical (takeMsg s msg) := by
  unfold takeMsg
  grind [memories_putColl, memories_loseColl, canonical_advanceColl, memories_passGather, canonical_iff, memories]

/-! ### Launch queues -/

theorem canonical_failRecord (h : Canonical s) (id ctx code : Nat) (raw : List Byte) : Canonical (failRecord s id ctx code raw) := by
  grind [failRecord, memories_countOwnWalk, canonical_writeStatus, memories_setOutcome, memories_queueError, canonical_iff]

theorem canonical_commit (h : Canonical s) (q : Nat) (device page : Bool) (raw : List Byte) : Canonical (commit s q device page raw) := by
  grind [commit, memories_countOwnWalk, canonical_writeStatus, memories_setQueue, canonical_failRecord, canonical_iff, memories]

theorem canonical_commitRing (h : Canonical s) (q n : Nat) : Canonical (commitRing s q n) := by
  grind [commitRing, memories_countOwnWalks, memories_countVirt, memories_setQueue, canonical_commit, canonical_iff, memories]

theorem canonical_writeTail (h : Canonical s) (q : Nat) (value : Word) : Canonical (writeTail s q value) := by
  have hc := h.foldl (fun _ i h => canonical_commitRing h q ((queueAt s q).tail + i)) (List.range (value.toNat - (queueAt s q).tail))
  unfold writeTail
  dsimp only
  split
  · exact h.congr (memories_queueError ..)
  · exact hc

theorem canonical_disableQueue (h : Canonical s) (q : Nat) : Canonical (disableQueue s q) := by
  refine Canonical.foldl (fun _ r h => canonical_failRecord h ..) ?_ _
  exact h

theorem canonical_controlWrite (h : Canonical s) (op : HostOp) : Canonical (controlWrite s op) := by
  unfold controlWrite
  grind [memories_countHere, canonical_writeTail, memories_enableQueue, canonical_disableQueue, canonical_iff, memories]

theorem canonical_controlArrives (h : Canonical s) (q : Nat) (op : HostOp) : Canonical (controlArrives s q op) := by
  grind [controlArrives, memories_receiveHost, memories_hostFlits, canonical_controlWrite, canonical_iff]

theorem canonical_lnchAtVcp (h : Canonical s) (tid : Nat) (t : Thread) (e : Entry) : Canonical (lnchAtVcp s tid t e).state := by
  grind [lnchAtVcp, memories_touchRanges, memories_countOwnWalks, memories_countVirt, canonical_commit, memories_launchTrap,
    canonical_iff, memories, Res.state]

/-! ### Contexts -/

theorem canonical_saveThread (h : Canonical s) (tid : Nat) : Canonical (saveThread s tid) := by
  unfold saveThread
  split
  · exact h
  next t _ =>
    dsimp only
    split
    · exact h
    · have hw := h.foldl (fun _ p h => canonical_physWrite h (some (tileOfCluster (tid / 4))) (t.area + p.1) p.2)
        (areaParts (clusterOf s (tid / 4)) t)
      exact (((hw.congr (memories_dropMisses ..)).congr (memories_freeUnits ..)).congr (memories_dropThread _)).congr (memories_modLaunch
        ..)

/-! ### The scheduler -/

theorem canonical_placeCandidate (h : Canonical s) (q : Nat) (r : QRec) : Canonical (placeCandidate s q r) := by
  grind [placeCandidate, canonical_writeStatus, memories_startAtom, canonical_failRecord, memories_dropHead, memories_preemptFor,
    canonical_iff, memories]

theorem canonical_placeNext (h : Canonical s) : Canonical (placeNext s) := by
  grind [placeNext, memories_startAtom, canonical_placeCandidate, canonical_iff, memories]

theorem canonical_completeLaunch (h : Canonical s) (l : Launch) : Canonical (completeLaunch s l) := by
  grind [completeLaunch, canonical_writeStatus, memories_setOutcome, canonical_iff, memories]

/-! ### Cupping -/

theorem canonical_settleReleasesOf (h : Canonical s) (tile : Nat) : Canonical (settleReleasesOf s tile) :=
  h.foldl (fun _ r h => canonical_performRelease h r) _

theorem canonical_settleRequestsOf (h : Canonical s) (tile : Nat) : Canonical (settleRequestsOf s tile) := by
  grind [settleRequestsOf, canonical_settleReleasesOf, canonical_iff, memories]

theorem canonical_endLaunchesOn (h : Canonical s) (tile : Nat) : Canonical (endLaunchesOn s tile) :=
  (canonical_settleRequestsOf h tile).foldl (fun _ _ h => canonical_endLaunch h ..) _

theorem canonical_failWaitersOn (h : Canonical s) (tile : Nat) : Canonical (failWaitersOn s tile) := by
  refine h.foldl (fun s w h => ?_) _
  split
  · exact canonical_failWaiter (s := { s with waiters := s.waiters.erase w }) h ..
  · exact h

theorem canonical_endBarriersOn (h : Canonical s) (tile : Nat) : Canonical (endBarriersOn s tile) :=
  h.foldl (fun _ _ h => canonical_endLaunch h ..) _

theorem canonical_failQueuesOn (h : Canonical s) (tile : Nat) : Canonical (failQueuesOn s tile) :=
  h.foldl (fun _ q h => (canonical_disableQueue h q).congr (memories_queueError ..)) _

theorem canonical_fenceTile (h : Canonical s) (tile cause cycle : Nat) : Canonical (fenceTile s tile cause cycle) := by
  unfold fenceTile
  refine Canonical.foldl (fun _ x h => ?_) ?_ _ <;> grind [memories_postRecord, canonical_endLaunchesOn, memories_settleReleasesTo,
    memories_settleHostTo, memories_settleRequestsTo, memories_settleHost, canonical_failWaitersOn, canonical_endBarriersOn,
    canonical_failQueuesOn, memories_portFails, memories_strike, canonical_iff, memories]

theorem canonical_zeroTile (h : Canonical s) (tile : Nat) : Canonical (zeroTile s tile) :=
  ⟨memWfFrom_filter _ h.1, h.2⟩

theorem canonical_retest (h : Canonical s) (f die : Nat) : Canonical (retest f s die) := by
  induction f generalizing s with
  | zero => exact h
  | succ f ih =>
    unfold retest
    split
    · exact ih (canonical_fenceTile h ..)
    · exact h

theorem canonical_reinstate (h : Canonical s) (tile : Nat) : Canonical (reinstate s tile) := by
  grind [reinstate, memories_postEvent, canonical_zeroTile, canonical_iff, memories]

theorem canonical_readmit (h : Canonical s) (f die : Nat) : Canonical (readmit f s die) := by
  induction f generalizing s with
  | zero => exact h
  | succ f ih =>
    unfold readmit
    split
    · exact ih (canonical_reinstate h ..)
    · exact h

theorem canonical_afterFence (h : Canonical s) (die : Nat) : Canonical (afterFence s die) := by
  grind [afterFence, canonical_retest, canonical_readmit, canonical_iff]

theorem canonical_testTally (h : Canonical s) (tile cause : Nat) : Canonical (testTally s tile cause) := by
  grind [testTally, canonical_fenceTile, canonical_afterFence, canonical_iff, memories]

/-! ### The firmware -/

theorem canonical_resetDevice (h : Canonical s) : Canonical (resetDevice s) := h

theorem canonical_startLoad (h : Canonical s) : Canonical (startLoad s) := by
  grind [startLoad, canonical_resetDevice, memories_haltWork, memories_fwStart, memories_setImage, canonical_iff]

theorem canonical_writeFwctl (h : Canonical s) (v : Nat) : Canonical (writeFwctl s v) := by
  grind [writeFwctl, memories_requestStop, memories_fwError, memories_fwStart, canonical_startLoad, canonical_iff]

theorem canonical_dvsecWrite (h : Canonical s) (off v : Nat) : Canonical (dvsecWrite s off v) := by
  grind [dvsecWrite, memories_setImage, memories_setReport, canonical_writeFwctl, canonical_iff]

theorem canonical_startImage (h : Canonical s) : Canonical (startImage s) := by
  unfold startImage
  refine Canonical.foldl (fun s t h => canonical_fenceTile (s := { s with testFailed := setAdd s.testFailed t }) h _ _ _) ?_ _
  exact ⟨memWfFrom_filter _ h.1, h.2⟩

theorem canonical_finishLoad (h : Canonical s) (addr : Word) (len : Nat) : Canonical (finishLoad s addr len) := by
  grind [finishLoad, memories_fwDone, memories_fwFail, canonical_startImage, memories_trainPorts, canonical_iff, memories]

theorem canonical_finishAttest (h : Canonical s) (addr : Word) : Canonical (finishAttest s addr) := by
  grind [finishAttest, canonical_physWrite, memories_fwDone, canonical_iff]

theorem canonical_finishCkpt (h : Canonical s) : Canonical (finishCkpt s) := by
  have hm : Canonical { s with image := { s.image with valid := false } } := h
  exact canonical_ite (hm.congr ((memories_fwFail _).trans memories_resumeThreads)) <| canonical_ite h <| canonical_ite hm <|
    Canonical.congr (s := { s with image := takeImage s }) ⟨h.1, h.1⟩ memories_fwDone

theorem canonical_finishRestore (h : Canonical s) : Canonical (finishRestore s) := by
  have hr : memories (restoreRetired s s.image.retired) = memories s := memories_restoreRetired _
  unfold finishRestore
  dsimp only
  split
  · exact h.congr (memories_fwFail _)
  · split
    · exact h.congr (memories_fwFail _)
    · refine Canonical.congr ?_ memories_fwDone
      exact ⟨memWfFrom_filter _ h.2, (h.congr hr).2⟩

/-! ### The host -/

theorem canonical_movePage (h : Canonical s) (old new n : Nat) : Canonical (movePage s old new n) :=
  ⟨wf_writeBytes h.1 _ _, h.2⟩

theorem canonical_finishMove (h : Canonical s) (m : Move) : Canonical (finishMove s m) := by
  grind [finishMove, canonical_physWrite, canonical_iff, memories]

theorem canonical_controlStore (h : Canonical s) (q a : Nat) (l : List Byte) : Canonical (controlStore s q a l) := by
  grind [controlStore, memories_setQueue, canonical_writeTail, memories_enableQueue, canonical_disableQueue, canonical_iff, memories]

theorem canonical_hostStore (h : Canonical s) (bar a : Nat) (l : List Byte) (gone : List Nat) : Canonical (hostStore s bar a l gone) := by
  unfold hostStore
  dsimp only
  have hw := h.foldl (f := fun s g => if barHas s bar g.1 && hostUp s g.1 && !decide (tileOfSlice (homeOf g.1) ∈ gone) then
      countPa (performWrite s (forwardedPa s g.1) ((l.drop (g.1 - a)).take g.2)) g.1 else s) (fun _ g h => by
    split
    · exact (canonical_performWrite h ..).congr (memories_countPa _)
    · exact h) (granulesOf a l.length)
  split
  · generalize List.range 64 = qs
    exact hw.foldl (fun _ q h => by
      split
      · exact canonical_controlStore h ..
      · exact h) qs
  · exact hw

theorem canonical_hostPerform (h : Canonical s) (op : HostOp) (gone : List Nat) : Canonical (hostPerform s op gone) := by
  unfold hostPerform
  grind [canonical_controlWrite, memories_driverPerform, canonical_hostStore, memories_answerRead, canonical_iff, memories]

theorem canonical_performPosted (h : Canonical s) (uid : Nat) : Canonical (performPosted s uid) := by
  grind [performPosted, canonical_hostPerform, canonical_iff, memories]

/-! ### Issue -/

theorem canonical_engineAtVcp (h : Canonical s) (tid : Nat) (t : Thread) (e : Entry) : Canonical (engineAtVcp s tid t e).state := by
  cases hi : e.instr with
  | hresSet _ _ =>
    simp only [engineAtVcp, hi]
    exact h.congr (memories_hresSetAtVcp ..)
  | hresClr _ =>
    simp only [engineAtVcp, hi]
    exact h.congr (memories_hresClrAtVcp ..)
  | hresAnch _ _ _ | hresLim _ _ _ | hresBind _ _ | hresWmk _ _ | kcntExt _ _ | kcntLink _ _ | kcntAdv _ | kcntSet _ _ | kcntRst _ =>
    simp only [engineAtVcp, hi]
    exact h.congr (memories_markerAtVcp ..)
  | tileMma _ _ _ _ _ =>
    simp only [engineAtVcp, hi]
    exact h.congr (memories_mmaAtVcp ..)
  | tileZero _ _ | tileScal _ _ _ | tileOff _ =>
    simp only [engineAtVcp, hi]
    exact h.congr (memories_tileAtVcp ..)
  | tileOn _ =>
    simp only [engineAtVcp, hi]
    exact h.congr (memories_tileOnAtVcp ..)
  | cdyClaim _ _ =>
    simp only [engineAtVcp, hi]
    exact h.congr (memories_claimAtVcp ..)
  | cdyLoad _ _ _ | cdyLstr _ _ _ =>
    simp only [engineAtVcp, hi]
    exact h.congr (memories_cdyLoadAtVcp ..)
  | cdyRel _ _ =>
    simp only [engineAtVcp, hi]
    exact h.congr (memories_relAtVcp ..)
  | cdyMeta _ _ =>
    simp only [engineAtVcp, hi]
    exact h.congr (memories_metaAtVcp ..)
  | tmovRtov _ _ _ _ | tmovCtov _ _ _ _ =>
    simp only [engineAtVcp, hi]
    exact h.congr (memories_tmovOutAtVcp ..)
  | tmovVtor _ _ _ _ | tmovVtoc _ _ _ _ =>
    simp only [engineAtVcp, hi]
    exact h.congr (memories_tmovInAtVcp ..)
  | syncAcq _ _ =>
    simp only [engineAtVcp, hi]
    exact canonical_ite_state h (h.congr (memories_acqAtVcp ..))
  | syncRel _ _ =>
    simp only [engineAtVcp, hi]
    exact h.congr (memories_relLatchAtVcp ..)
  | syncBind _ _ _ _ =>
    simp only [engineAtVcp, hi]
    exact h.congr (memories_bindAtVcp ..)
  | syncUbnd _ _ _ =>
    simp only [engineAtVcp, hi]
    exact h.congr (memories_ubndAtVcp ..)
  | syncFenc _ =>
    simp only [engineAtVcp, hi]
    exact h.congr (memories_fencAtVcp ..)
  | syncBarr _ _ =>
    simp only [engineAtVcp, hi]
    exact h.congr (memories_barrAtVcp ..)
  | syncArrv _ _ =>
    simp only [engineAtVcp, hi]
    exact h.congr (memories_arrvAtVcp ..)
  | syncExpt _ _ _ =>
    simp only [engineAtVcp, hi]
    exact h.congr (memories_exptAtVcp ..)
  | vwtc _ _ _ _ _ _ =>
    simp only [engineAtVcp, hi]
    exact canonical_ite_state h (h.congr (memories_vwtcAtVcp ..))
  | accwMrge _ _ =>
    simp only [engineAtVcp, hi]
    exact h.congr (memories_accwMrgeAtVcp ..)
  | accwClr _ _ =>
    simp only [engineAtVcp, hi]
    exact h.congr (memories_accwClrAtVcp ..)
  | linkXfer _ _ _ _ _ | linkLacq _ | linkLrel _ | linkLsig _ =>
    simp only [engineAtVcp, hi]
    exact h.congr (memories_linkAtVcp ..)
  | collAred _ _ | collRsct _ _ | collAgat _ _ =>
    simp only [engineAtVcp, hi]
    exact h.congr (memories_collAtVcp ..)
  | lnch _ _ =>
    simp only [engineAtVcp, hi]
    exact canonical_lnchAtVcp h ..
  | vrel =>
    simp only [engineAtVcp, hi]
    exact h.congr (memories_vrelAtVcp ..)
  | _ =>
    simp only [engineAtVcp, hi]
    split
    · exact canonical_amoAtVcp h ..
    · exact h

theorem canonical_settle {r : Res} (h : Canonical r.state) (tid : Nat) : Canonical (settle tid r) := by
  cases r with
  | done s => exact h.congr (memories_completeHead tid)
  | more s => exact h
  | wait s => exact h
  | trap s c v k => exact canonical_vectorTrap h ..

theorem memories_readyStep (tid : Nat) {r : Res} (hr : readyStep s tid = some r) : memories r.state = memories s := by
  grind [readyStep, memories_laneStep]

theorem canonical_grant (hs : Canonical s) {r : Res} (h : Canonical r.state) (tid : Nat) : Canonical (grant s tid r) := by
  cases r with
  | done u =>
    have hc : Canonical (bump u (tid / 4) 1 1) := h.congr (memories_bump ..)
    refine Canonical.congr ?_ (memories_completeHead tid)
    dsimp only
    split
    · exact hc.congr (memories_rsInsert ..)
    · exact hc
  | more u => exact h.congr (memories_bump ..)
  | wait u => exact hs
  | trap u c v k => exact canonical_vectorTrap (h.congr (memories_bump (tid / 4) 1 1)) ..

theorem canonical_issueGroup (h : Canonical s) (cl : Nat) (g : Nat) : Canonical (issueGroup cl s g) := by
  grind [issueGroup, memories_setCluster, canonical_grant, memories_readyStep, canonical_iff, memories]

/-! ### QORD -/

theorem canonical_qordPush (h : Canonical s) (i : Instr) : Canonical (qordPush s i) := by
  grind [qordPush, memories_setThread, canonical_scalarTrap, canonical_pushCur, canonical_iff, memories]

/-! ## Instructions and events -/

/-- A turn that goes on leaves memory in canonical form. -/
def NextCanonical (o : Host.Outcome State Fault Refusal) : Prop := ∀ s', o = .next s' → Canonical s'

theorem nextCanonical_next (h : Canonical s) : NextCanonical (.next s) := by
  intro s' e
  cases e
  exact h

theorem nextCanonical_onCur (h : Canonical s) {f : Thread → State} (hf : ∀ t, Canonical (f t)) : NextCanonical (onCur s f) := by
  unfold onCur
  split
  · exact nextCanonical_next h
  · exact nextCanonical_next (hf _)

theorem nextCanonical_alu (h : Canonical s) (d a b : Reg) (f : Word → Word → Word) : NextCanonical (alu d a b f s) :=
  nextCanonical_onCur h fun _ => h.congr (memories_writeX ..)

theorem nextCanonical_bitOp (h : Canonical s) (d a : Reg) (f : Word → Word) : NextCanonical (bitOp d a f s) :=
  nextCanonical_onCur h fun _ => h.congr (memories_writeX ..)

theorem nextCanonical_branch (h : Canonical s) (cond : Nat) (a b : Reg) (off : BitVec 14) : NextCanonical (branch cond a b off s) :=
  nextCanonical_onCur h fun _ => h.congr (memories_setThread ..)

theorem nextCanonical_ctlWrite (h : Canonical s) (d : Option Reg) (a : Reg) (c : BitVec 12) (f : Word → Word → Word) :
    NextCanonical (ctlWrite d a c f s) :=
  nextCanonical_onCur h fun _ => h.congr (memories_setThread ..)

theorem nextCanonical_execPageWalkComplete (h : Canonical s) (cluster ctx : Nat) (va : Word) :
    NextCanonical (execPageWalkComplete cluster ctx va s) := by
  have hw (w : Walk) : Canonical (countWalk { s with walks := s.walks.erase w } (some (tileOfCluster cluster)) 0 ctx (65536 * w.page)) :=
    h.congr (memories_countWalk ..)
  refine nextCanonical_next ?_
  split
  · exact h
  next w _ =>
    refine canonical_ite h ?_
    exact ((hw w).foldl (fun _ _ h => h.congr (memories_endWalk ..)) _).foldl (fun _ _ h => h.congr (memories_endWalkRetired ..)) _

theorem nextCanonical_execFetchReturn (h : Canonical s) (thread : Nat) (h : Nat) (fetch : Nat) :
    NextCanonical (execFetchReturn thread h fetch s) := by
  refine nextCanonical_next ?_
  grind [memories_countAccess, memories_setThread, canonical_iff, memories]

theorem nextCanonical_execDeliveryLanding (h : Canonical s) (thread : Nat) (h : Nat) (fetch : Nat) :
    NextCanonical (execDeliveryLanding thread h fetch s) := by
  refine nextCanonical_next ?_
  grind [memories_bump, memories_setCluster, memories_setThread, memories_rsDropReg, canonical_iff, memories]

theorem nextCanonical_execLatchGrant (h : Canonical s) (pa : Nat) : NextCanonical (execLatchGrant pa s) := by
  refine nextCanonical_next ?_
  split <;> grind [memories_sendPacket, canonical_writeWord, memories_countAtomic, canonical_obtain, memories_linkObtain,
    canonical_failWaiter, canonical_iff, memories]

theorem nextCanonical_execLatchAcquireRetry (h : Canonical s) (thread : Nat) : NextCanonical (execLatchAcquireRetry thread s) := by
  refine nextCanonical_next ?_
  split <;> grind [canonical_vectorTrap, memories_acqAtVcp, canonical_iff, memories, Res.state]

theorem nextCanonical_execLatchReleasePerform (h : Canonical s) (uid : Nat) : NextCanonical (execLatchReleasePerform uid s) := by
  refine nextCanonical_next ?_
  grind [canonical_performRelease, canonical_iff, memories]

theorem nextCanonical_execStaticBinding (h : Canonical s) (ctx : Nat) (latch base length : Word) (sc : Scope) :
    NextCanonical (execStaticBinding ctx latch base length sc s) := by
  refine nextCanonical_next ?_
  grind [canonical_iff, memories]

theorem nextCanonical_execBarrierPhaseComplete (h : Canonical s) (launch : Nat) (lvl : Nat) (group : Nat) :
    NextCanonical (execBarrierPhaseComplete launch lvl group s) := by
  refine nextCanonical_next ?_
  grind [memories_modBarrier, canonical_iff, memories]

theorem nextCanonical_execVwtcReread (h : Canonical s) (thread : Nat) : NextCanonical (execVwtcReread thread s) := by
  refine nextCanonical_next ?_
  split <;> grind [canonical_vectorTrap, memories_completeHead, memories_vwtcAtVcp, canonical_iff, memories, Res.state]

theorem nextCanonical_execAlui (h : Canonical s) (d a : Reg) (imm : BitVec 16) : NextCanonical (execAlui d a imm s) := by
  refine nextCanonical_onCur h fun t => ?_
  grind [memories_writeX, canonical_iff, memories]

theorem nextCanonical_execUpi (h : Canonical s) (d : Reg) (imm : BitVec 21) : NextCanonical (execUpi d imm s) := by
  refine nextCanonical_onCur h fun t => ?_
  grind [memories_writeX, canonical_iff, memories]

theorem nextCanonical_execJlGo (h : Canonical s) (off : BitVec 25) : NextCanonical (execJlGo off s) := by
  refine nextCanonical_onCur h fun t => ?_
  grind [memories_setThread, canonical_iff, memories]

theorem nextCanonical_execJlLn (h : Canonical s) (off : BitVec 25) : NextCanonical (execJlLn off s) := by
  refine nextCanonical_onCur h fun t => ?_
  grind [memories_setThread, canonical_iff, memories]

theorem nextCanonical_execJlr (h : Canonical s) (d a : Reg) (imm : BitVec 16) : NextCanonical (execJlr d a imm s) := by
  refine nextCanonical_onCur h fun t => ?_
  grind [memories_setThread, canonical_scalarTrap, canonical_iff, memories]

theorem nextCanonical_execTilePoolGrant (h : Canonical s) (cluster : Nat) : NextCanonical (execTilePoolGrant cluster s) := by
  refine nextCanonical_next ?_
  grind [memories_setCluster, memories_setThread, memories_completeHead, canonical_iff, memories]

theorem nextCanonical_execTileEngineStep (h : Canonical s) (cluster : Nat) : NextCanonical (execTileEngineStep cluster s) := by
  have hc (c : Cluster) (t : Thread) (k : Nat) : Canonical (setThread (setCluster s cluster c) (4 * cluster + k) t) :=
    h.congr ((memories_setThread ..).trans (memories_setCluster ..))
  have hb (c : Cluster) (t : Thread) (k : Nat) : Canonical (setThread (setCluster (bump s cluster 2 1) cluster c) (4 * cluster + k) t) :=
    h.congr ((memories_setThread ..).trans ((memories_setCluster ..).trans (memories_bump ..)))
  refine nextCanonical_next (canonical_ite h ?_)
  split
  · exact h
  · split
    · exact h
    · split
      · exact h
      · exact canonical_ite (hc ..) (canonical_ite (hb ..) (hb ..))

theorem nextCanonical_execCaddySlotGrant (h : Canonical s) (cluster : Nat) : NextCanonical (execCaddySlotGrant cluster s) := by
  refine nextCanonical_next ?_
  grind [memories_setCluster, memories_setThread, memories_completeHead, canonical_iff, memories]

theorem nextCanonical_execWatermarkPublish (h : Canonical s) (uid : Nat) : NextCanonical (execWatermarkPublish uid s) := by
  refine nextCanonical_next ?_
  grind [memories_modCmd, memories_publish, canonical_iff, memories]

theorem nextCanonical_execHostWatermarkWrite (h : Canonical s) (n : BitVec 8) (value : Word) :
    NextCanonical (execHostWatermarkWrite n value s) := by
  refine nextCanonical_next ?_
  grind [memories_driverArrives, memories_hostPublish, canonical_iff, memories]

theorem nextCanonical_execHostWatermarkClear (h : Canonical s) (n : BitVec 8) : NextCanonical (execHostWatermarkClear n s) := by
  refine nextCanonical_next ?_
  grind [memories_driverArrives, memories_hostClear, canonical_iff, memories]

theorem nextCanonical_execRemoteCommandReceive (h : Canonical s) (port : Nat) (cmd : RemoteCmd) :
    NextCanonical (execRemoteCommandReceive port cmd s) := by
  refine nextCanonical_next ?_
  grind [memories_bump, memories_countOwnWalk, memories_countOwnWalks, memories_sendPacket, canonical_breakLatch, canonical_endLaunch,
    canonical_land, canonical_releaseAt, memories_arriveAt, memories_publish, memories_inject, memories_dropRemoteWaiter, canonical_iff,
    memories]

theorem nextCanonical_execInjWrite (h : Canonical s) (port : Nat) (value : Word) : NextCanonical (execInjWrite port value s) := by
  refine nextCanonical_next ?_
  grind [memories_driverArrives, memories_writeInj, canonical_iff, memories]

theorem nextCanonical_execCodebookLoad (h : Canonical s) (thread : Nat) : NextCanonical (execCodebookLoad thread s) := by
  refine nextCanonical_next ?_
  grind [canonical_loadFor, canonical_iff, memories]

theorem nextCanonical_execLinkCommandPerform (h : Canonical s) (uid : Nat) (reply : LinkReply) :
    NextCanonical (execLinkCommandPerform uid reply s) := by
  refine nextCanonical_next ?_
  grind [canonical_linkPerform, canonical_endColl, canonical_beginColl, canonical_iff, memories]

theorem nextCanonical_execCollBlockReceive (h : Canonical s) (msg : CollArrival) : NextCanonical (execCollBlockReceive msg s) := by
  refine nextCanonical_next ?_
  grind [memories_bump, canonical_takeMsg, memories_catchUp, memories_refuseMsg, canonical_iff, memories]

theorem nextCanonical_execCtlRd (h : Canonical s) (d : Reg) (csr : BitVec 12) : NextCanonical (execCtlRd d csr s) := by
  refine nextCanonical_onCur h fun t => ?_
  grind [memories_setThread, canonical_scalarTrap, memories_writeX, canonical_iff, memories]

theorem nextCanonical_execEReadWake (h : Canonical s) (thread : Nat) : NextCanonical (execEReadWake thread s) := by
  refine nextCanonical_next ?_
  grind [memories_setThread, canonical_iff, memories]

theorem nextCanonical_execLd (h : Canonical s) (d a b : Reg) (w : LdW) (strong : Option Scope) (off : BitVec 4) :
    NextCanonical (execLd d a b w strong off s) := by
  refine nextCanonical_onCur h fun t => ?_
  grind [memories_countAccess, memories_endMiss, canonical_scalarTrap, memories_writeX, memories_scalarCheck, canonical_iff, memories]

theorem nextCanonical_execSt (h : Canonical s) (d a b : Reg) (w : StW) (strong : Option Scope) (off : BitVec 4) :
    NextCanonical (execSt d a b w strong off s) := by
  refine nextCanonical_onCur h fun t => ?_
  grind [memories_endMiss, memories_setThread, memories_issue, canonical_scalarTrap, memories_scalarCheck, canonical_iff, memories]

theorem nextCanonical_execHostTailWrite (h : Canonical s) (q : BitVec 6) (value : Word) :
    NextCanonical (execHostTailWrite q value s) := by
  refine nextCanonical_next ?_
  grind [canonical_controlArrives, canonical_iff, memories]

theorem nextCanonical_execQueueEnable (h : Canonical s) (q : BitVec 6) (ring : Word) : NextCanonical (execQueueEnable q ring s) := by
  refine nextCanonical_next ?_
  grind [canonical_controlArrives, canonical_iff, memories]

theorem nextCanonical_execQueueDisable (h : Canonical s) (q : BitVec 6) : NextCanonical (execQueueDisable q s) := by
  refine nextCanonical_next ?_
  grind [canonical_controlArrives, canonical_iff, memories]

theorem nextCanonical_execThreadStop (h : Canonical s) (thread : Nat) : NextCanonical (execThreadStop thread s) := by
  refine nextCanonical_next ?_
  grind [memories_stopThread, canonical_iff, memories]

theorem nextCanonical_execContextSave (h : Canonical s) (thread : Nat) : NextCanonical (execContextSave thread s) := by
  refine nextCanonical_next ?_
  grind [canonical_saveThread, canonical_iff, memories]

theorem nextCanonical_execContextRestore (h : Canonical s) (launch : Nat) : NextCanonical (execContextRestore launch s) := by
  refine nextCanonical_next ?_
  grind [memories_restoreAtom, canonical_iff, memories]

theorem nextCanonical_execSchedulerPlace (h : Canonical s) : NextCanonical (execSchedulerPlace s) := by
  refine nextCanonical_next ?_
  grind [canonical_failRecord, memories_dropHead, canonical_placeNext, canonical_iff, memories]

theorem nextCanonical_execRetirementEntryFree (h : Canonical s) (cluster : Nat) (index : Nat) :
    NextCanonical (execRetirementEntryFree cluster index s) := by
  refine nextCanonical_next ?_
  grind [memories_setCluster, canonical_breakRemotes, canonical_completeLaunch, canonical_iff, memories]

theorem nextCanonical_execSnaptrigWrite (h : Canonical s) : NextCanonical (execSnaptrigWrite s) := by
  refine nextCanonical_next ?_
  grind [memories_driverArrives, canonical_iff, memories]

theorem nextCanonical_execSnapshotTriggerArrive (h : Canonical s) : NextCanonical (execSnapshotTriggerArrive s) := by
  refine nextCanonical_next ?_
  grind [canonical_iff, memories]

theorem nextCanonical_execSnapshotRoundEnd (h : Canonical s) : NextCanonical (execSnapshotRoundEnd s) := by
  refine nextCanonical_next (canonical_ite h (canonical_ite h ?_))
  exact Canonical.foldl (s := { s with trigRound := 0, snapSeq := s.snapSeq + 1 }) (fun _ _ h => h.congr (memories_post ..)) h _

theorem nextCanonical_execSnapshotApply (h : Canonical s) (station : Nat) : NextCanonical (execSnapshotApply station s) := by
  refine nextCanonical_next ?_
  split
  · exact canonical_ite h (canonical_ite ((h.congr (memories_setTodo ..)).foldl (fun _ _ h => h.congr (memories_latchPage ..)) _)
      (h.congr (memories_setTodo ..)))
  all_goals exact h

theorem nextCanonical_execPowerWrite (h : Canonical s) (value : Word) : NextCanonical (execPowerWrite value s) := by
  refine nextCanonical_next ?_
  grind [memories_driverArrives, memories_writePower, canonical_iff, memories]

theorem nextCanonical_execPowerModeApply (h : Canonical s) (die : Nat) : NextCanonical (execPowerModeApply die s) := by
  refine nextCanonical_next ?_
  grind [canonical_iff, memories]

theorem nextCanonical_execCoolantLimitExit (h : Canonical s) (die : Nat) : NextCanonical (execCoolantLimitExit die s) := by
  refine nextCanonical_next ?_
  grind [memories_changeMode, canonical_iff, memories]

theorem nextCanonical_execHeartbeatTick (h : Canonical s) (die : Nat) : NextCanonical (execHeartbeatTick die s) := by
  refine nextCanonical_next (canonical_ite h (canonical_ite h ?_))
  refine Canonical.foldl (fun _ _ h => h.congr (memories_sendBeats _)) (Canonical.foldl (fun _ _ h => h.congr (memories_observeAll _)) ?_
    _) _
  refine Canonical.foldl (fun _ _ h => h.congr (memories_deliverBeat _)) ?_ _
  exact h

theorem nextCanonical_execHeartbeatReceive (h : Canonical s) (tile sender : Nat) :
    NextCanonical (execHeartbeatReceive tile sender s) := by
  refine nextCanonical_next ?_
  grind [memories_bump, memories_receiveBeat, memories_deliverBeat, canonical_iff, memories]

theorem nextCanonical_execRouterFlitReceive (h : Canonical s) (tile sender : Nat) (credits : Nat) (malformed : Bool) :
    NextCanonical (execRouterFlitReceive tile sender credits malformed s) := by
  refine nextCanonical_next ?_
  grind [memories_bump, memories_setObs, memories_dropFlit, memories_correctHeader, canonical_iff, memories]

theorem nextCanonical_execAccusationApply (h : Canonical s) (tile accuser : Nat) :
    NextCanonical (execAccusationApply tile accuser s) := by
  refine nextCanonical_next ?_
  grind [memories_dropBcast, canonical_testTally, canonical_iff, memories]

theorem nextCanonical_execRetractionApply (h : Canonical s) (tile accuser : Nat) :
    NextCanonical (execRetractionApply tile accuser s) := by
  refine nextCanonical_next ?_
  grind [memories_dropBcast, canonical_testTally, canonical_iff, memories]

theorem nextCanonical_execTokenBypass (h : Canonical s) (tile : Nat) : NextCanonical (execTokenBypass tile s) := by
  refine nextCanonical_next ?_
  grind [canonical_iff, memories]

theorem nextCanonical_execTileFallsSilent (h : Canonical s) (tile : Nat) : NextCanonical (execTileFallsSilent tile s) := by
  refine nextCanonical_next ?_
  grind [canonical_iff, memories]

theorem nextCanonical_execPeriodicDrain (h : Canonical s) (die : Nat) : NextCanonical (execPeriodicDrain die s) := by
  refine nextCanonical_next ?_
  grind [canonical_iff, memories]

theorem nextCanonical_execDrainEnd (h : Canonical s) (die : Nat) : NextCanonical (execDrainEnd die s) := by
  refine nextCanonical_next (canonical_ite h ?_)
  have hf (l : List (Nat × Nat × Nat)) : Canonical (l.foldl (fun s p => if inService s p.1 then fenceTile s p.1 p.2.1 p.2.2 else s)
      ((tilesOfDie die).foldl (fun s t => bump s (480 + t) 4 1)
        { s with drains := tabSet {} s.drains die { tabGet {} s.drains die with active := false, pending := [] } })) := by
    refine Canonical.foldl (fun _ _ h => canonical_ite (canonical_fenceTile h ..) h) ?_ _
    refine Canonical.foldl (fun _ _ h => h.congr (memories_bump ..)) ?_ _
    exact h
  exact canonical_ite (hf _) (canonical_afterFence (hf _) _)

theorem nextCanonical_execBusyLaneRotate (h : Canonical s) (die : Nat) : NextCanonical (execBusyLaneRotate die s) := by
  refine nextCanonical_next ?_
  grind [canonical_iff, memories]

theorem nextCanonical_execSelfTestComplete (h : Canonical s) (tile : Nat) (pass : Bool) :
    NextCanonical (execSelfTestComplete tile pass s) := by
  refine nextCanonical_next ?_
  grind [memories_post, canonical_zeroTile, canonical_iff, memories]

theorem nextCanonical_execAppealApply (h : Canonical s) (tile : Nat) : NextCanonical (execAppealApply tile s) := by
  refine nextCanonical_next ?_
  split
  next t _ =>
    have hd : Canonical (dropBcast s (.appeal t)) := h.congr (memories_dropBcast _)
    refine canonical_ite h (canonical_ite hd ?_)
    refine Canonical.foldl (fun _ _ h => h.congr (memories_setObs ..)) ?_ _
    exact hd
  all_goals exact h

theorem nextCanonical_execReinstatementVoteApply (h : Canonical s) (tile voter : Nat) (withdraw : Bool) :
    NextCanonical (execReinstatementVoteApply tile voter withdraw s) := by
  refine nextCanonical_next ?_
  grind [memories_dropBcast, canonical_readmit, canonical_iff, memories]

theorem nextCanonical_execDeviceReset (h : Canonical s) : NextCanonical (execDeviceReset s) := by
  refine nextCanonical_next ?_
  grind [canonical_resetDevice, canonical_iff, memories]

theorem nextCanonical_execThermalHalt (h : Canonical s) : NextCanonical (execThermalHalt s) := by
  refine nextCanonical_next ?_
  grind [memories_haltWork, canonical_iff, memories]

theorem nextCanonical_execFwLoad (h : Canonical s) (addr : Word) (len : Nat) : NextCanonical (execFwLoad addr len s) := by
  refine nextCanonical_next ?_
  grind [memories_setImage, canonical_writeFwctl, canonical_iff, memories]

theorem nextCanonical_execFwAttest (h : Canonical s) (addr : Word) : NextCanonical (execFwAttest addr s) := by
  refine nextCanonical_next ?_
  grind [memories_setReport, canonical_writeFwctl, canonical_iff, memories]

theorem nextCanonical_execFwCkpt (h : Canonical s) : NextCanonical (execFwCkpt s) := by
  refine nextCanonical_next ?_
  grind [canonical_writeFwctl, canonical_iff, memories]

theorem nextCanonical_execFwRestore (h : Canonical s) : NextCanonical (execFwRestore s) := by
  refine nextCanonical_next ?_
  grind [canonical_writeFwctl, canonical_iff, memories]

theorem nextCanonical_execFwCommandDone (h : Canonical s) : NextCanonical (execFwCommandDone s) := by
  refine nextCanonical_next ?_
  grind [canonical_finishLoad, canonical_finishAttest, canonical_finishCkpt, canonical_finishRestore, canonical_iff, memories]

theorem nextCanonical_execInvalCommand (h : Canonical s) : NextCanonical (execInvalCommand s) := by
  refine nextCanonical_next ?_
  grind [memories_driverArrives, memories_startInval, canonical_iff, memories]

theorem nextCanonical_execMigrateCommand (h : Canonical s) : NextCanonical (execMigrateCommand s) := by
  refine nextCanonical_next ?_
  grind [memories_driverArrives, memories_startMigrate, canonical_iff, memories]

theorem nextCanonical_execMigrationComplete (h : Canonical s) : NextCanonical (execMigrationComplete s) := by
  refine nextCanonical_next ?_
  grind [canonical_movePage, canonical_finishMove, memories_failMove, canonical_iff, memories]

theorem nextCanonical_execCommandBlockDone (h : Canonical s) (migrate : Bool) : NextCanonical (execCommandBlockDone migrate s) := by
  refine nextCanonical_next ?_
  grind [memories_setDrv, canonical_iff, memories]

theorem nextCanonical_execPortctlEnable (h : Canonical s) (port : Nat) (enable : Bool) :
    NextCanonical (execPortctlEnable port enable s) := by
  refine nextCanonical_next ?_
  grind [memories_driverArrives, memories_writePortctl, canonical_iff, memories]

theorem nextCanonical_execDriverAreaWrite (h : Canonical s) (offset value : Word) :
    NextCanonical (execDriverAreaWrite offset value s) := by
  refine nextCanonical_next ?_
  grind [memories_driverArrives, memories_driverPerform, canonical_iff, memories]

theorem nextCanonical_execSliceRequest (h : Canonical s) (uid : Nat) : NextCanonical (execSliceRequest uid s) := by
  refine nextCanonical_next ?_
  grind [canonical_performAt, canonical_performPosted, canonical_iff, memories]

theorem nextCanonical_execHostPostedWrite (h : Canonical s) (bar off : Nat) (bytes : List Byte) (relaxed : Bool) :
    NextCanonical (execHostPostedWrite bar off bytes relaxed s) := by
  refine nextCanonical_next ?_
  grind [memories_receiveHost, memories_hostFlits, canonical_dvsecWrite, canonical_iff, memories]

theorem nextCanonical_execHostNonpostedRead (h : Canonical s) (bar off len : Nat) :
    NextCanonical (execHostNonpostedRead bar off len s) := by
  refine nextCanonical_next ?_
  grind [memories_receiveHost, memories_hostFlits, memories_answerRead, canonical_iff, memories]

theorem nextCanonical_execShortReachFlitReceive (h : Canonical s) (port : Nat) (kind : ShortFlit) :
    NextCanonical (execShortReachFlitReceive port kind s) := by
  refine nextCanonical_next ?_
  grind [memories_bump, canonical_iff, memories]

theorem nextCanonical_execLongHaulFrameReceive (h : Canonical s) (port : Nat) (seq : IWord) (kind : FrameKind) :
    NextCanonical (execLongHaulFrameReceive port seq kind s) := by
  refine nextCanonical_next (canonical_ite h ?_)
  cases kind with
  | bad => exact h.congr ((memories_bump ..).trans (memories_bump ..))
  | good =>
    have hb (n : Nat) : Canonical (bump { s with uid := s.uid + 1 } (640 + port) 1 n) := h.congr (memories_bump ..)
    exact canonical_ite (hb _) (canonical_ite ((hb _).congr (memories_bump ..)) (hb _))
  | again => exact h.congr ((memories_bump ..).trans ((memories_bump ..).trans (memories_bump ..)))

theorem nextCanonical_execCumulativeAcknowledgement (h : Canonical s) (port : Nat) (seq : IWord) :
    NextCanonical (execCumulativeAcknowledgement port seq s) := by
  refine nextCanonical_next ?_
  grind [memories_bump, memories_pumpPort, canonical_iff, memories]

theorem nextCanonical_execLongHaulAckTimeout (h : Canonical s) (port : Nat) : NextCanonical (execLongHaulAckTimeout port s) := by
  refine nextCanonical_next ?_
  grind [memories_longHaulDown, canonical_iff, memories]

theorem nextCanonical_execPortPhyFault (h : Canonical s) (port : Nat) : NextCanonical (execPortPhyFault port s) := by
  refine nextCanonical_next ?_
  grind [memories_portFails, memories_longHaulDown, canonical_iff, memories]

theorem nextCanonical_execPortLinkTrained (h : Canonical s) (port : Nat) : NextCanonical (execPortLinkTrained port s) := by
  refine nextCanonical_next ?_
  grind [canonical_iff, memories]

theorem nextCanonical_execSramEccError (h : Canonical s) (place : SramPlace) (corrected : Bool) :
    NextCanonical (execSramEccError place corrected s) := by
  refine nextCanonical_next ?_
  grind [memories_bump, memories_poisonLine, canonical_iff, memories]

theorem nextCanonical_execCxlReadReturn (h : Canonical s) (pa : Nat) (poisoned : Bool) :
    NextCanonical (execCxlReadReturn pa poisoned s) := by
  refine nextCanonical_next ?_
  grind [memories_bump, canonical_iff, memories]

theorem nextCanonical_execResteepMerge (h : Canonical s) (cluster : Nat) (older newer : Nat) :
    NextCanonical (execResteepMerge cluster older newer s) := by
  have hm (l : List (Nat × Nat)) : Canonical (l.foldl (fun s n => rsMap s cluster (n.1 % 4) n.2 older) s) :=
    h.foldl (fun _ _ h => h.congr (memories_rsMap ..)) _
  refine nextCanonical_next ?_
  split
  · refine canonical_ite h <| canonical_ite h <| canonical_ite h <| canonical_ite h <| canonical_ite (canonical_ite h ?_) ?_
    · exact h.congr ((memories_bump ..).trans (memories_setCluster ..))
    · exact (hm _).congr (memories_bump ..)
  · exact h

theorem nextCanonical_execEntryAtVcp (h : Canonical s) (thread : Nat) : NextCanonical (execEntryAtVcp thread s) := by
  refine nextCanonical_next ?_
  grind [memories_beginLanes, canonical_engineAtVcp, canonical_settle, canonical_iff, memories, Res.state]

theorem nextCanonical_execIssueGrant (h : Canonical s) (cluster : Nat) : NextCanonical (execIssueGrant cluster s) := by
  refine nextCanonical_next ?_
  grind [canonical_issueGroup, canonical_iff, memories]

theorem nextCanonical_execQordWait (h : Canonical s) (l0 l1 l2 l3 l4 : BitVec 4) : NextCanonical (execQordWait l0 l1 l2 l3 l4 s) := by
  refine nextCanonical_next ?_
  grind [canonical_qordPush, canonical_iff, memories]

theorem nextCanonical_execQordJoin (h : Canonical s) (l0 l1 l2 l3 l4 : BitVec 4) : NextCanonical (execQordJoin l0 l1 l2 l3 l4 s) := by
  refine nextCanonical_next ?_
  grind [canonical_qordPush, canonical_iff, memories]

theorem nextCanonical_execQordRelease (h : Canonical s) (thread : Nat) : NextCanonical (execQordRelease thread s) := by
  refine nextCanonical_next ?_
  grind [canonical_push, canonical_iff, memories]

theorem nextCanonical_execPushStallResume (h : Canonical s) (thread : Nat) : NextCanonical (execPushStallResume thread s) := by
  refine nextCanonical_next ?_
  grind [memories_setThread, memories_repush, canonical_iff, memories]

theorem nextCanonical_execSysCall (h : Canonical s) : NextCanonical (execSysCall s) := by
  refine nextCanonical_onCur h fun t => ?_
  grind [canonical_scalarTrap, canonical_iff, memories]

theorem nextCanonical_execSysTrap (h : Canonical s) (code : BitVec 6) : NextCanonical (execSysTrap code s) := by
  refine nextCanonical_onCur h fun t => ?_
  grind [canonical_scalarTrap, canonical_iff, memories]

theorem nextCanonical_execSysTret (h : Canonical s) : NextCanonical (execSysTret s) := by
  refine nextCanonical_next ?_
  grind [canonical_trapReturn, canonical_iff, memories]

theorem nextCanonical_execSysTend (h : Canonical s) : NextCanonical (execSysTend s) := by
  refine nextCanonical_next ?_
  grind [canonical_threadEnd, canonical_iff, memories]

theorem nextCanonical_execSysSnap (h : Canonical s) : NextCanonical (execSysSnap s) := by
  refine nextCanonical_onCur h fun t => ?_
  grind [memories_setThread, memories_postTrigger, canonical_iff, memories]

theorem nextCanonical_execSysBrk (h : Canonical s) : NextCanonical (execSysBrk s) := by
  refine nextCanonical_onCur h fun t => ?_
  grind [canonical_scalarTrap, canonical_iff, memories]

theorem nextCanonical_execIllegalWord (h : Canonical s) (w : IWord) : NextCanonical (execIllegalWord w s) := by
  refine nextCanonical_onCur h fun t => ?_
  grind [canonical_scalarTrap, canonical_iff, memories]

theorem nextCanonical_execInstructionPageFault (h : Canonical s) (va : Word) : NextCanonical (execInstructionPageFault va s) :=
  nextCanonical_onCur h fun _ => canonical_scalarTrap h ..

theorem nextCanonical_exec (h : Canonical s) (i : Instr) : NextCanonical (exec i s) := by
  cases i with
  | aluAdd d a b => exact (nextCanonical_alu h _ _ _ _ : NextCanonical (execAluAdd d a b s))
  | aluSub d a b => exact (nextCanonical_alu h _ _ _ _ : NextCanonical (execAluSub d a b s))
  | aluAnd d a b => exact (nextCanonical_alu h _ _ _ _ : NextCanonical (execAluAnd d a b s))
  | aluOr d a b => exact (nextCanonical_alu h _ _ _ _ : NextCanonical (execAluOr d a b s))
  | aluXor d a b => exact (nextCanonical_alu h _ _ _ _ : NextCanonical (execAluXor d a b s))
  | aluSll d a b => exact (nextCanonical_alu h _ _ _ _ : NextCanonical (execAluSll d a b s))
  | aluSrl d a b => exact (nextCanonical_alu h _ _ _ _ : NextCanonical (execAluSrl d a b s))
  | aluSra d a b => exact (nextCanonical_alu h _ _ _ _ : NextCanonical (execAluSra d a b s))
  | aluSlt d a b => exact (nextCanonical_alu h _ _ _ _ : NextCanonical (execAluSlt d a b s))
  | aluSltu d a b => exact (nextCanonical_alu h _ _ _ _ : NextCanonical (execAluSltu d a b s))
  | aluAddw d a b => exact (nextCanonical_alu h _ _ _ _ : NextCanonical (execAluAddw d a b s))
  | aluSubw d a b => exact (nextCanonical_alu h _ _ _ _ : NextCanonical (execAluSubw d a b s))
  | aluMin d a b => exact (nextCanonical_alu h _ _ _ _ : NextCanonical (execAluMin d a b s))
  | aluMax d a b => exact (nextCanonical_alu h _ _ _ _ : NextCanonical (execAluMax d a b s))
  | aluMinu d a b => exact (nextCanonical_alu h _ _ _ _ : NextCanonical (execAluMinu d a b s))
  | aluMaxu d a b => exact (nextCanonical_alu h _ _ _ _ : NextCanonical (execAluMaxu d a b s))
  | mdvMul d a b => exact (nextCanonical_alu h _ _ _ _ : NextCanonical (execMdvMul d a b s))
  | mdvMulh d a b => exact (nextCanonical_alu h _ _ _ _ : NextCanonical (execMdvMulh d a b s))
  | mdvMulhu d a b => exact (nextCanonical_alu h _ _ _ _ : NextCanonical (execMdvMulhu d a b s))
  | mdvDiv d a b => exact (nextCanonical_alu h _ _ _ _ : NextCanonical (execMdvDiv d a b s))
  | mdvDivu d a b => exact (nextCanonical_alu h _ _ _ _ : NextCanonical (execMdvDivu d a b s))
  | mdvRem d a b => exact (nextCanonical_alu h _ _ _ _ : NextCanonical (execMdvRem d a b s))
  | mdvRemu d a b => exact (nextCanonical_alu h _ _ _ _ : NextCanonical (execMdvRemu d a b s))
  | mdvMulw d a b => exact (nextCanonical_alu h _ _ _ _ : NextCanonical (execMdvMulw d a b s))
  | mdvDivw d a b => exact (nextCanonical_alu h _ _ _ _ : NextCanonical (execMdvDivw d a b s))
  | mdvRemw d a b => exact (nextCanonical_alu h _ _ _ _ : NextCanonical (execMdvRemw d a b s))
  | bitSlli d a sh => exact (nextCanonical_bitOp h _ _ _ : NextCanonical (execBitSlli d a sh s))
  | bitSrli d a sh => exact (nextCanonical_bitOp h _ _ _ : NextCanonical (execBitSrli d a sh s))
  | bitSrai d a sh => exact (nextCanonical_bitOp h _ _ _ : NextCanonical (execBitSrai d a sh s))
  | bitClz d a => exact (nextCanonical_bitOp h _ _ _ : NextCanonical (execBitClz d a s))
  | bitCtz d a => exact (nextCanonical_bitOp h _ _ _ : NextCanonical (execBitCtz d a s))
  | bitPopc d a => exact (nextCanonical_bitOp h _ _ _ : NextCanonical (execBitPopc d a s))
  | bitRev8 d a => exact (nextCanonical_bitOp h _ _ _ : NextCanonical (execBitRev8 d a s))
  | brEq a b off => exact (nextCanonical_branch h _ _ _ _ : NextCanonical (execBrEq a b off s))
  | brNe a b off => exact (nextCanonical_branch h _ _ _ _ : NextCanonical (execBrNe a b off s))
  | brLt a b off => exact (nextCanonical_branch h _ _ _ _ : NextCanonical (execBrLt a b off s))
  | brLtu a b off => exact (nextCanonical_branch h _ _ _ _ : NextCanonical (execBrLtu a b off s))
  | ctlWr a csr => exact (nextCanonical_ctlWrite h _ _ _ _ : NextCanonical (execCtlWr a csr s))
  | ctlXchg d a csr => exact (nextCanonical_ctlWrite h _ _ _ _ : NextCanonical (execCtlXchg d a csr s))
  | ctlBset a csr => exact (nextCanonical_ctlWrite h _ _ _ _ : NextCanonical (execCtlBset a csr s))
  | ctlBclr a csr => exact (nextCanonical_ctlWrite h _ _ _ _ : NextCanonical (execCtlBclr a csr s))
  | ctlAdv d a csr => exact (nextCanonical_ctlWrite h _ _ _ _ : NextCanonical (execCtlAdv d a csr s))
  | sysTrap _ => exact nextCanonical_execSysTrap h _
  | alui _ _ _ => exact nextCanonical_execAlui h _ _ _
  | upi _ _ => exact nextCanonical_execUpi h _ _
  | ld _ _ _ _ _ _ => exact nextCanonical_execLd h _ _ _ _ _ _
  | st _ _ _ _ _ _ => exact nextCanonical_execSt h _ _ _ _ _ _
  | jlGo _ => exact nextCanonical_execJlGo h _
  | jlLn _ => exact nextCanonical_execJlLn h _
  | jlr _ _ _ => exact nextCanonical_execJlr h _ _ _
  | ctlRd _ _ => exact nextCanonical_execCtlRd h _ _
  | qordWait _ _ _ _ _ => exact nextCanonical_execQordWait h _ _ _ _ _
  | qordJoin _ _ _ _ _ => exact nextCanonical_execQordJoin h _ _ _ _ _
  | entryAtVcp _ => exact nextCanonical_execEntryAtVcp h _
  | issueGrant _ => exact nextCanonical_execIssueGrant h _
  | eReadWake _ => exact nextCanonical_execEReadWake h _
  | qordRelease _ => exact nextCanonical_execQordRelease h _
  | pushStallResume _ => exact nextCanonical_execPushStallResume h _
  | tileEngineStep _ => exact nextCanonical_execTileEngineStep h _
  | tilePoolGrant _ => exact nextCanonical_execTilePoolGrant h _
  | caddySlotGrant _ => exact nextCanonical_execCaddySlotGrant h _
  | fetchReturn _ _ _ => exact nextCanonical_execFetchReturn h _ _ _
  | deliveryLanding _ _ _ => exact nextCanonical_execDeliveryLanding h _ _ _
  | sliceRequest _ => exact nextCanonical_execSliceRequest h _
  | pageWalkComplete _ _ _ => exact nextCanonical_execPageWalkComplete h _ _ _
  | watermarkPublish _ => exact nextCanonical_execWatermarkPublish h _
  | hostWatermarkWrite _ _ => exact nextCanonical_execHostWatermarkWrite h _ _
  | hostWatermarkClear _ => exact nextCanonical_execHostWatermarkClear h _
  | latchGrant _ => exact nextCanonical_execLatchGrant h _
  | latchAcquireRetry _ => exact nextCanonical_execLatchAcquireRetry h _
  | latchReleasePerform _ => exact nextCanonical_execLatchReleasePerform h _
  | barrierPhaseComplete _ _ _ => exact nextCanonical_execBarrierPhaseComplete h _ _ _
  | vwtcReread _ => exact nextCanonical_execVwtcReread h _
  | retirementEntryFree _ _ => exact nextCanonical_execRetirementEntryFree h _ _
  | hostTailWrite _ _ => exact nextCanonical_execHostTailWrite h _ _
  | queueEnable _ _ => exact nextCanonical_execQueueEnable h _ _
  | queueDisable _ => exact nextCanonical_execQueueDisable h _
  | threadStop _ => exact nextCanonical_execThreadStop h _
  | contextSave _ => exact nextCanonical_execContextSave h _
  | contextRestore _ => exact nextCanonical_execContextRestore h _
  | heartbeatTick _ => exact nextCanonical_execHeartbeatTick h _
  | heartbeatReceive _ _ => exact nextCanonical_execHeartbeatReceive h _ _
  | periodicDrain _ => exact nextCanonical_execPeriodicDrain h _
  | drainEnd _ => exact nextCanonical_execDrainEnd h _
  | busyLaneRotate _ => exact nextCanonical_execBusyLaneRotate h _
  | accusationApply _ _ => exact nextCanonical_execAccusationApply h _ _
  | retractionApply _ _ => exact nextCanonical_execRetractionApply h _ _
  | selfTestComplete _ _ => exact nextCanonical_execSelfTestComplete h _ _
  | appealApply _ => exact nextCanonical_execAppealApply h _
  | reinstatementVoteApply _ _ _ => exact nextCanonical_execReinstatementVoteApply h _ _ _
  | snapshotApply _ => exact nextCanonical_execSnapshotApply h _
  | powerWrite _ => exact nextCanonical_execPowerWrite h _
  | powerModeApply _ => exact nextCanonical_execPowerModeApply h _
  | sramEccError _ _ => exact nextCanonical_execSramEccError h _ _
  | commandBlockDone _ => exact nextCanonical_execCommandBlockDone h _
  | portctlEnable _ _ => exact nextCanonical_execPortctlEnable h _ _
  | injWrite _ _ => exact nextCanonical_execInjWrite h _ _
  | driverAreaWrite _ _ => exact nextCanonical_execDriverAreaWrite h _ _
  | hostPostedWrite _ _ _ _ => exact nextCanonical_execHostPostedWrite h _ _ _ _
  | hostNonpostedRead _ _ _ => exact nextCanonical_execHostNonpostedRead h _ _ _
  | shortReachFlitReceive _ _ => exact nextCanonical_execShortReachFlitReceive h _ _
  | longHaulFrameReceive _ _ _ => exact nextCanonical_execLongHaulFrameReceive h _ _ _
  | longHaulAckTimeout _ => exact nextCanonical_execLongHaulAckTimeout h _
  | portPhyFault _ => exact nextCanonical_execPortPhyFault h _
  | remoteCommandReceive _ _ => exact nextCanonical_execRemoteCommandReceive h _ _
  | linkCommandPerform _ _ => exact nextCanonical_execLinkCommandPerform h _ _
  | collBlockReceive _ => exact nextCanonical_execCollBlockReceive h _
  | codebookLoad _ => exact nextCanonical_execCodebookLoad h _
  | resteepMerge _ _ _ => exact nextCanonical_execResteepMerge h _ _ _
  | fwLoad _ _ => exact nextCanonical_execFwLoad h _ _
  | fwAttest _ => exact nextCanonical_execFwAttest h _
  | illegalWord _ => exact nextCanonical_execIllegalWord h _
  | instructionPageFault _ => exact nextCanonical_execInstructionPageFault h _
  | sysCall => exact nextCanonical_execSysCall h
  | sysTret => exact nextCanonical_execSysTret h
  | sysTend => exact nextCanonical_execSysTend h
  | sysSnap => exact nextCanonical_execSysSnap h
  | sysBrk => exact nextCanonical_execSysBrk h
  | schedulerPlace => exact nextCanonical_execSchedulerPlace h
  | snaptrigWrite => exact nextCanonical_execSnaptrigWrite h
  | snapshotTriggerArrive => exact nextCanonical_execSnapshotTriggerArrive h
  | snapshotRoundEnd => exact nextCanonical_execSnapshotRoundEnd h
  | thermalHalt => exact nextCanonical_execThermalHalt h
  | invalCommand => exact nextCanonical_execInvalCommand h
  | migrateCommand => exact nextCanonical_execMigrateCommand h
  | migrationComplete => exact nextCanonical_execMigrationComplete h
  | fwCkpt => exact nextCanonical_execFwCkpt h
  | fwRestore => exact nextCanonical_execFwRestore h
  | fwCommandDone => exact nextCanonical_execFwCommandDone h
  | deviceReset => exact nextCanonical_execDeviceReset h
  | tokenBypass _ => exact nextCanonical_execTokenBypass h _
  | tileFallsSilent _ => exact nextCanonical_execTileFallsSilent h _
  | coolantLimitExit _ => exact nextCanonical_execCoolantLimitExit h _
  | routerFlitReceive _ _ _ _ => exact nextCanonical_execRouterFlitReceive h _ _ _ _
  | portLinkTrained _ => exact nextCanonical_execPortLinkTrained h _
  | cumulativeAcknowledgement _ _ => exact nextCanonical_execCumulativeAcknowledgement h _ _
  | cxlReadReturn _ _ => exact nextCanonical_execCxlReadReturn h _ _
  | staticBinding _ _ _ _ _ => exact nextCanonical_execStaticBinding h _ _ _ _ _
  | _ => exact nextCanonical_next (canonical_pushCur h _)

theorem canonical_passTime (h : Canonical s) (l : List Turn) : Canonical { passTime s with agenda := l } := h

theorem nextCanonical_runThread (h : Canonical s) (tid : Nat) : NextCanonical (runThread s tid) := by
  unfold runThread
  split
  · exact fun _ e => nomatch e
  · split
    · exact nextCanonical_next h
    next t _ =>
      have hf : Canonical (fetchAt s tid t).2 := h.congr (memories_fetchAt ..)
      split
      · dsimp only
        split
        · exact nextCanonical_exec (s := { (fetchAt s tid t).2 with cur := tid }) hf _
        · exact nextCanonical_next hf
      · exact nextCanonical_next h

/-- Settles O58: time passes and the fetch walks its page without writing memory, and no instruction or event leaves memory, or
that of the persistence image, out of canonical form. -/
theorem stepsKeepMemoryCanonical : Obligations.StepsKeepMemoryCanonical := by
  unfold Obligations.StepsKeepMemoryCanonical
  intro s s' h hs
  have hp := canonical_passTime h (s.agenda.drop 1)
  have hn : NextCanonical (step s) := by
    unfold step
    split
    · exact nextCanonical_runThread hp _
    · split
      · exact nextCanonical_exec hp _
      · exact nextCanonical_next hp
  exact hn s' hs

end Sys2Proof.Machine
end

section
/-! PROOFS. A message of a collective that two entries of the device's table stand for: why link commands and collectives do not do all
that is said of them (R344, R348). -/

namespace Sys2Proof.Machine

/-! ## Two entries of one GID and SEQ -/

/-- What the messages of a collective have left before a thread here has joined it: no group table, and it runs. -/
def heardOf : Coll := { gid := 1, seq := 2, launch := 0, ctx := 0, op := 0, ty := .f32, count := 0, table := [] }

/-- A collective of the same GID and SEQ that a thread here has joined and that has ended with code 5. -/
def endedWith5 : Coll := { heardOf with table := [1], code := 5, told := true }

/-- An entry of a link command. -/
def queuedTransfer : Entry := { uid := 50, instr := .linkXfer 5 6 7 false false, cap := {}, k := 0 }

/-- A thread with that entry at vcp. -/
def linkThread : Thread :=
  { uid := 1, launch := 64, ctx := 0, flat := 0, idx := [0], weight := 1, area := 0x400000, pc := 0x10000, vq := [queuedTransfer] }

/-- The device with that thread alone: port 17 is up, and both collectives stand in the table. -/
def sTwoColls : State := { setThread State.reset 0 linkThread with ports := [(17, { trained := true })], colls := [heardOf, endedWith5] }

/-- A message of a later use of a pair whose launch is not lost: the table catches up with its use, then takes it in. -/
theorem exec_collBlockReceive_later {s : State} {port use : Nat} {m : CollMsg} (hp : portDown s port = false) (hn : port < 29)
    (hu : useOf s (msgKey m) < use) (hl : lostTable s (msgKey m).1 = none) :
    exec (.collBlockReceive ⟨port, use, m⟩) s = .next (takeMsg (catchUp
      (bump { s with uid := s.uid + 1 } (640 + port) 1 (Config.linkFlits s.uid)) (msgKey m) use) m) := by
  have hl1 (n : Nat) : lostTable (bump { s with uid := s.uid + 1 } (640 + port) 1 n) (msgKey m).1 = none := by
    simpa only [lostTable, bump_launches, bump_lostTables] using hl
  have hl2 (u : State) : lostTable (catchUp u (msgKey m) use) (msgKey m).1 = lostTable u (msgKey m).1 := by
    unfold catchUp
    split <;> rfl
  have hu1 (n : Nat) : ¬ use < useOf (bump { s with uid := s.uid + 1 } (640 + port) 1 n) (msgKey m) := by
    simpa only [useOf, bump_collUses, not_lt] using hu.le
  change execCollBlockReceive _ s = _
  simp only [execCollBlockReceive, hp, hn.not_ge, decide_false, Bool.or_false, Bool.false_eq_true, if_false, hu1, hl2, hl1]

/-- Catching up with a later use drops the collectives of the pair that no thread here has joined. -/
theorem catchUp_colls {s : State} {k : Word × IWord} {use : Nat} (hu : useOf s k < use) :
    (catchUp s k use).colls = s.colls.filter (fun c => ¬ (c.gid = k.1 ∧ c.seq = k.2 ∧ c.table = [])) := by
  rw [catchUp, if_neg hu.not_ge]

/-- A collective that has ended, of which the other devices know, keeps its code. -/
theorem loseColl_told {s : State} {c : Coll} (hc : s.colls = [c]) (ht : c.told = true) (hcode : c.code ≠ 0) (htable : c.table ≠ [])
    (n : Nat) : (loseColl s c n).colls = [c] := by
  have he : ({ c with code := c.code, told := decide (c.table ≠ []) } : Coll) = c := by
    rw [decide_eq_true htable, ← ht]
  simp only [loseColl, hcode, if_false, ht, if_true]
  simp [putColl, hc, ← ht, htable]

/-- The message of the next use of `heardOf`'s pair that the collective is lost with code 7. -/
def lostMessage : CollMsg := .lost 1 2 7

/-- The next use of the pair drops what no thread has joined, so that the message finds the ended collective, which keeps its code. -/
theorem lostMessage_keeps_code {s' : State} (h : exec (.collBlockReceive ⟨17, 1, lostMessage⟩) sTwoColls = .next s') :
    collOf s' 1 2 = some endedWith5 := by
  have hu : useOf sTwoColls (1, 2) < 1 := by decide
  rw [exec_collBlockReceive_later (by decide +kernel) (by decide) hu rfl] at h
  generalize hb : bump { sTwoColls with uid := sTwoColls.uid + 1 } _ _ _ = s1 at h
  have hu1 : useOf s1 (1, 2) < 1 := by simpa only [← hb, useOf, bump_collUses] using hu
  have hc : (catchUp s1 (1, 2) 1).colls = [endedWith5] := by
    rw [catchUp_colls hu1, ← hb, bump_colls]
    decide +kernel
  have hf : collFor (catchUp s1 (1, 2) 1) 1 2 = endedWith5 := by
    rw [collFor, collOf, hc]
    rfl
  have hs : s' = loseColl (catchUp s1 (1, 2) 1) endedWith5 7 := by
    rw [← hf]
    cases h
    rfl
  rw [collOf, hs, loseColl_told hc rfl (by decide) (by decide)]
  rfl

/-! ## The obligation -/

/-- Refutes O46: where two entries of the table have the same GID and SEQ, the first without a group table and still running and the
second ended with code 5, the message of the next use that the collective is lost with code 7 drops the first and finds the second, so
that the entry of the pair has code 5 (R348). -/
theorem not_commandsAndCollectivesPerform : ¬ Obligations.CommandsAndCollectivesPerform := by
  unfold Obligations.CommandsAndCollectivesPerform
  intro h
  have hvcp : AtVcp sTwoColls 0 linkThread queuedTransfer [] := ⟨rfl, rfl, rfl, List.not_mem_nil⟩
  obtain ⟨-, -, -, -, -, -, hlost⟩ := h sTwoColls sTwoColls sTwoColls 0 linkThread queuedTransfer [] 0 0 0 false false .f32 [] [] []
    { uid := 0, instr := .linkLacq 0, cap := {}, desc := [] } 0 0 17 0 0 0 { launch := 0, lvl := 0, group := 0, expect := 0, live := 0 }
    1 2 heardOf ⟨1, 2, 0, 0, 0, 0, []⟩ 7 1 { code := 0, run := 0, bytes := 0 } hvcp
  obtain ⟨-, hends, -⟩ := hlost rfl rfl (by decide +kernel) (by decide)
  obtain ⟨⟨s', hs', y, hy, hcode⟩, -⟩ := hends rfl (by decide)
  rw [lostMessage_keeps_code hs'] at hy
  cases hy
  exact absurd hcode (by decide)

end Sys2Proof.Machine
end

section
/-! PROOFS. Requests at their homes: when one performs, and what it then leaves in memory (R223, R225, R227 to R229, R236, R252, R253,
R260). -/

namespace Sys2Proof.Machine

variable {s s' : State} {r : Req} {pa n : Nat}

/-! ## When a request performs -/

theorem exec_sliceRequest_inflight (h : s.inflight.find? (fun x => x.uid = r.uid) = some r) :
    exec (.sliceRequest r.uid) s = .next (performAt s r) := by
  show execSliceRequest r.uid s = _
  rw [execSliceRequest, h]

theorem requestHeld_iff (s : State) (r : Req) : requestHeld s r = true ↔
    (∃ x ∈ s.inflight, mustPrecede x r = true) ∨ waitsInQueue s r = true ∨ requestStuck s r = true ∨ r.uid ∈ s.dropped := by
  simp only [requestHeld, requestWaits, Bool.or_eq_true, List.any_eq_true, decide_eq_true_eq, or_assoc]

/-- The state in which a request and those that its home combines with it perform: they are no longer in flight. -/
def arrivedAt (s : State) (r : Req) : State :=
  bump { s with inflight := s.inflight.filter (fun x => x.uid ≠ r.uid ∧ ¬ x ∈ combined s r) } (320 + homeOf (reqSpan r.kind).1) 2
    (combined s r).length

theorem performAt_reaches (hw : ¬ requestHeld s r = true) (hr : requestReaches s r = true) :
    performAt s r = (r :: combined s r).foldl (fun s x => performReq s x.kind) (arrivedAt s r) := by
  rw [performAt, if_neg hw, if_pos hr]
  rfl

theorem performAt_lost (hw : ¬ requestHeld s r = true) (hr : requestReaches s r = false) :
    performAt s r = { s with inflight := s.inflight.filter (fun x => x.uid ≠ r.uid) } := by
  rw [performAt, if_neg hw, hr, if_neg Bool.false_ne_true]

@[simp] theorem arrivedAt_mem (s : State) (r : Req) : (arrivedAt s r).mem = s.mem := bump_mem ..
@[simp] theorem arrivedAt_poison (s : State) (r : Req) : (arrivedAt s r).poison = s.poison := bump_poison ..
@[simp] theorem arrivedAt_threads (s : State) (r : Req) : (arrivedAt s r).threads = s.threads := bump_threads ..
@[simp] theorem arrivedAt_inflight (s : State) (r : Req) :
    (arrivedAt s r).inflight = s.inflight.filter (fun x => x.uid ≠ r.uid ∧ ¬ x ∈ combined s r) := bump_inflight ..
@[simp] theorem poisoned_arrivedAt (s : State) (r : Req) (a n : Nat) : poisoned (arrivedAt s r) a n = poisoned s a n := by
  rw [poisoned, arrivedAt_poison, poisoned]

/-! ## What a home combines -/

theorem combined_of_not_canCombine (h : canCombine r.kind = false) : combined s r = [] := by
  rw [combined, h]
  rfl

theorem combined_same : ∀ x ∈ combined s r, canCombine x.kind = true ∧ reqSpan x.kind = reqSpan r.kind := by
  unfold combined
  split
  · exact fun _ h => absurd h List.not_mem_nil
  · refine List.foldlRecOn (motive := fun (g : List Req) => ∀ x ∈ g, canCombine x.kind = true ∧ reqSpan x.kind = reqSpan r.kind) s.inflight _ ?_ ?_
    · exact fun _ h => absurd h List.not_mem_nil
    · intro g hg y _ x hx
      split at hx
      · next hy =>
        rcases List.mem_append.mp hx with hx | hx
        · exact hg x hx
        · simp only [Bool.and_eq_true, decide_eq_true_eq] at hy
          cases List.mem_singleton.mp hx
          exact ⟨hy.1.1.1.1.1.1.1, hy.1.1.1.1.1.2.2⟩
      · exact hg x hx

/-- An atomic element of 8 or 4 bytes at an address. -/
def IsAtom (pa : Nat) (w64 : Bool) (x : Req) : Prop := ∃ op v, x.kind = .atom pa op w64 v

/-- What a home combines with an atomic element are elements of its address and width (R253). -/
theorem combined_isAtom {op : AmoOp} {w64 : Bool} {v : Word} (hk : r.kind = .atom pa op w64 v) :
    ∀ x ∈ r :: combined s r, IsAtom pa w64 x := by
  intro x hx
  rcases List.mem_cons.mp hx with rfl | hx
  · exact ⟨op, v, hk⟩
  · obtain ⟨hc, hs⟩ := combined_same x hx
    rw [hk] at hs
    cases hxk : x.kind with
    | atom pa' op' w' u =>
      rw [hxk] at hs
      cases w64 <;> cases w' <;> simp_all [reqSpan, IsAtom]
    | _ => simp [hxk, canCombine] at hc

/-! ## What one request changes -/

theorem storesOnly_performWrite (s : State) (a : Nat) (l : List Byte) : StoresOnly s (performWrite s a l) := rfl

theorem storesOnly_countAtomic (s : State) (a : Nat) : StoresOnly s (countAtomic s a) :=
  (storesOnly_countAccess s a).trans (storesOnly_bump _ _ _ _)

theorem storesOnly_updateAt (s : State) (pa n : Nat) (f : Nat → Nat) : StoresOnly s (updateAt s pa n f) := by
  unfold updateAt
  split
  · exact storesOnly_countAccess s pa
  · exact (storesOnly_performWrite s _ _).trans (storesOnly_countAtomic _ _)

theorem storesOnly_writePlane (s : State) (pa pos planes v j : Nat) : StoresOnly s (writePlane s pa pos planes v j) :=
  storesOnly_performWrite s _ _

theorem storesOnly_performReq (s : State) (k : ReqKind) : StoresOnly s (performReq s k) := by
  unfold performReq
  cases k with
  | store pa l | writeBack pa l => exact (storesOnly_performWrite s pa l).trans (storesOnly_countAccess _ pa)
  | planes pa pos p v =>
    exact (StoresOnly.foldl (fun s j => storesOnly_writePlane s pa pos p v.toNat j) (List.range p) s).trans (storesOnly_countAccess _ _)
  | merge pa ty copies => exact storesOnly_updateAt s pa _ _
  | atom pa op w64 v => exact storesOnly_updateAt s pa _ _

theorem storesOnly_performs (s : State) (r : Req) (l : List Req) :
    StoresOnly (arrivedAt s r) (l.foldl (fun s x => performReq s x.kind) (arrivedAt s r)) :=
  StoresOnly.foldl (fun s x => storesOnly_performReq s x.kind) l _

@[simp] theorem countAccess_poison (s : State) (a : Nat) : (countAccess s a).poison = s.poison := by rw [countAccess_frame]
@[simp] theorem countAtomic_mem (s : State) (a : Nat) : (countAtomic s a).mem = s.mem := by simp [countAtomic]
@[simp] theorem countAtomic_poison (s : State) (a : Nat) : (countAtomic s a).poison = s.poison := by simp [countAtomic]

/-! ## Stores and write-backs (R225, R227) -/

/-- A store or write-back has performed: its bytes stand in memory, and the granules it covers whole have lost their poison. -/
theorem performReq_store {k : ReqKind} {l : List Byte} (h : k = .store pa l ∨ k = .writeBack pa l) :
    (performReq s k).mem = writeBytes s.mem pa l ∧ (performReq s k).poison = (performWrite s pa l).poison := by
  rcases h with rfl | rfl <;> simp [performReq]

/-! ## Planes (R95) -/

/-- One plane's bit. -/
theorem readByte_writePlane (s : State) (pa pos p v j a : Nat) : readByte (writePlane s pa pos p v j).mem a =
    if a = pa + 32 * j + pos / 8 then
      BitVec.ofNat 8 ((readByte s.mem a).toNat - bitsOf (readByte s.mem a).toNat (pos % 8) 1 * 2 ^ (pos % 8) +
        bitsOf v (p - 1 - j) 1 * 2 ^ (pos % 8))
    else readByte s.mem a := by
  rw [writePlane, performWrite_mem, readByte_writeBytes]
  by_cases h : a = pa + 32 * j + pos / 8
  · subst h
    simp
  · rw [if_neg h, if_neg (by simp only [List.length_singleton]; omega)]

/-- Bit k of a byte of which bit `b` has been replaced by a bit of a number. -/
theorem getLsbD_planeByte (x : Byte) (v i b k : Nat) (hb : b < 8) (hk : k < 8) :
    (BitVec.ofNat 8 (x.toNat - bitsOf x.toNat b 1 * 2 ^ b + bitsOf v i 1 * 2 ^ b)).getLsbD k =
      if k = b then v.testBit i else x.getLsbD k := by
  have hp := testBit_patched x.toNat b 1 (v / 2 ^ i) k
  rw [BitVec.getLsbD_ofNat, decide_eq_true hk, Bool.true_and]
  rw [show bitsOf v i 1 = v / 2 ^ i % 2 ^ 1 from rfl, hp]
  by_cases h : k = b
  · subst h
    rw [if_pos rfl, if_pos ⟨le_refl k, Nat.lt_succ_self k⟩, Nat.sub_self, Nat.testBit_div_two_pow, Nat.zero_add]
  · rw [if_neg h, if_neg (by omega)]
    rfl

theorem readByte_writePlanes (s : State) (pa pos p v a : Nat) (l : List Nat) (h : ∀ j ∈ l, a ≠ pa + 32 * j + pos / 8) :
    readByte (l.foldl (fun s j => writePlane s pa pos p v j) s).mem a = readByte s.mem a := by
  induction l generalizing s with
  | nil => rfl
  | cons j l ih =>
    rw [List.foldl_cons, ih _ (fun i hi => h i (List.mem_cons_of_mem _ hi)), readByte_writePlane, if_neg (h j List.mem_cons_self)]

/-- The bytes of the planes stand in different granules, so that each plane changes its own. -/
theorem readByte_writePlanes_own (s : State) (pa pos p v j : Nat) (l : List Nat) (hl : l.Nodup) (hj : j ∈ l) :
    readByte (l.foldl (fun s j => writePlane s pa pos p v j) s).mem (pa + 32 * j + pos / 8) =
      readByte (writePlane s pa pos p v j).mem (pa + 32 * j + pos / 8) := by
  induction l generalizing s with
  | nil => exact absurd hj List.not_mem_nil
  | cons i l ih =>
    obtain ⟨hi, hl⟩ := List.nodup_cons.mp hl
    rw [List.foldl_cons]
    rcases List.mem_cons.mp hj with rfl | hj
    · exact readByte_writePlanes _ _ _ _ _ _ _ (fun k hk he => hi (by rwa [show j = k by omega]))
    · have hne : j ≠ i := fun h => hi (h ▸ hj)
      have hb : readByte (writePlane s pa pos p v i).mem (pa + 32 * j + pos / 8) = readByte s.mem (pa + 32 * j + pos / 8) := by
        rw [readByte_writePlane, if_neg (by omega)]
      rw [ih _ hl hj, readByte_writePlane, if_pos rfl, hb, readByte_writePlane, if_pos rfl]

/-! ## Updates (R225, R236) -/

theorem poisoned_performWrite_small {l : List Byte} (hl : l.length < 32) (s : State) (pa a n : Nat) :
    poisoned (performWrite s pa l) a n = poisoned s a n := by
  rw [Bool.eq_iff_iff]
  simp only [poisoned, List.any_eq_true, mem_performWrite_poison]
  exact ⟨fun ⟨g, hg, h⟩ => ⟨g, hg.1, h⟩, fun ⟨g, hg, h⟩ => ⟨g, ⟨hg, by omega⟩, h⟩⟩

theorem updateAt_mem (s : State) (pa n : Nat) (f : Nat → Nat) : (updateAt s pa n f).mem =
    if poisoned s pa n then s.mem else writeBytes s.mem pa (bytesOfNat n (f (readNat s pa n))) := by
  unfold updateAt
  split <;> simp

/-- An update covers no granule whole, so that it takes no poison. -/
theorem poisoned_updateAt (hn : n < 32) (s : State) (pa : Nat) (f : Nat → Nat) (a m : Nat) :
    poisoned (updateAt s pa n f) a m = poisoned s a m := by
  unfold updateAt
  split
  · rw [poisoned, countAccess_poison, poisoned]
  · rw [poisoned, countAtomic_poison]
    exact poisoned_performWrite_small (by rwa [length_bytesOfNat]) ..

theorem readByte_updateAt_outside (s : State) (f : Nat → Nat) {a : Nat} (h : a < pa ∨ pa + n ≤ a) :
    readByte (updateAt s pa n f).mem a = readByte s.mem a := by
  rw [updateAt_mem]
  split
  · rfl
  · exact readByte_writeBytes_outside _ _ _ _ (by rwa [length_bytesOfNat])

theorem readNat_updateAt (hp : poisoned s pa n = false) (f : Nat → Nat) :
    readNat (updateAt s pa n f) pa n = f (readNat s pa n) % 256 ^ n := by
  rw [readNat, updateAt_mem, hp, if_neg Bool.false_ne_true]
  have := readBytes_writeBytes s.mem pa (bytesOfNat n (f (readNat s pa n)))
  rw [length_bytesOfNat] at this
  rw [this, natOfBytes_bytesOfNat]

theorem readNat_lt (s : State) (pa n : Nat) : readNat s pa n < 256 ^ n := by
  have := natOfBytes_lt (readBytes s.mem pa n)
  rwa [length_readBytes] at this

/-! ## Atomic elements (R236, R252, R253) -/

/-- Bytes of an atomic element. -/
def atomBytes (w64 : Bool) : Nat := if w64 then 8 else 4

theorem performReq_atom (s : State) (pa : Nat) (op : AmoOp) (w64 : Bool) (v : Word) : performReq s (.atom pa op w64 v) =
    updateAt s pa (atomBytes w64) (fun old => amoNew op (8 * atomBytes w64) old v.toNat 0) := rfl

theorem atomBytes_lt (w64 : Bool) : atomBytes w64 < 32 := by cases w64 <;> decide

theorem pow_atomBytes (w64 : Bool) : 256 ^ atomBytes w64 = 2 ^ (8 * atomBytes w64) := by
  rw [show (256 : Nat) = 2 ^ 8 by rfl, Nat.pow_mul]

variable {w64 : Bool} {l : List Req}

/-- Elements of one address change no other byte. -/
theorem readByte_performAtoms_outside (hl : ∀ x ∈ l, IsAtom pa w64 x) (s : State) {a : Nat} (h : a < pa ∨ pa + atomBytes w64 ≤ a) :
    readByte (l.foldl (fun s x => performReq s x.kind) s).mem a = readByte s.mem a := by
  induction l generalizing s with
  | nil => rfl
  | cons x l ih =>
    obtain ⟨op, v, hx⟩ := hl x List.mem_cons_self
    rw [List.foldl_cons, ih (fun y hy => hl y (List.mem_cons_of_mem _ hy)), hx, performReq_atom, readByte_updateAt_outside _ _ h]

/-- Elements that meet poison write nothing (log 87). -/
theorem performAtoms_poisoned (hl : ∀ x ∈ l, IsAtom pa w64 x) (hp : poisoned s pa (atomBytes w64) = true) :
    (l.foldl (fun s x => performReq s x.kind) s).mem = s.mem := by
  induction l generalizing s with
  | nil => rfl
  | cons x l ih =>
    obtain ⟨op, v, hx⟩ := hl x List.mem_cons_self
    rw [List.foldl_cons, hx, performReq_atom, ih (fun y hy => hl y (List.mem_cons_of_mem _ hy))
      (by rwa [poisoned_updateAt (atomBytes_lt w64)]), updateAt_mem, if_pos hp]

/-- What an element's operation leaves, in one element's width. -/
theorem readNat_performAtom (hp : poisoned s pa (atomBytes w64) = false) (op : AmoOp) (v : Word) :
    readNat (performReq s (.atom pa op w64 v)) pa (atomBytes w64) =
      amoNew op (8 * atomBytes w64) (readNat s pa (atomBytes w64)) v.toNat 0 % 2 ^ (8 * atomBytes w64) := by
  rw [performReq_atom, readNat_updateAt hp, pow_atomBytes]

/-- What an element adds, 0 for other requests. -/
def addedBy (x : Req) : Nat := match x.kind with | .atom _ _ _ u => u.toNat | _ => 0

/-- Additions at one address leave their sum. -/
theorem readNat_performAdds (hl : ∀ x ∈ l, ∃ u, x.kind = .atom pa .add w64 u) (hp : poisoned s pa (atomBytes w64) = false) :
    readNat (l.foldl (fun s x => performReq s x.kind) s) pa (atomBytes w64) =
      (readNat s pa (atomBytes w64) + (l.map addedBy).sum) % 2 ^ (8 * atomBytes w64) := by
  induction l generalizing s with
  | nil =>
    have := readNat_lt s pa (atomBytes w64)
    rw [pow_atomBytes] at this
    exact (Nat.mod_eq_of_lt this).symm
  | cons x l ih =>
    obtain ⟨u, hx⟩ := hl x List.mem_cons_self
    rw [List.foldl_cons, ih (fun y hy => hl y (List.mem_cons_of_mem _ hy))
      (by rwa [hx, performReq_atom, poisoned_updateAt (atomBytes_lt w64)]), hx, readNat_performAtom hp, amoNew, Nat.mod_mod,
      Nat.mod_add_mod, List.map_cons, List.sum_cons, addedBy, hx, Nat.add_assoc]

theorem and_lt_two_pow {x y w : Nat} (hx : x < 2 ^ w) : x &&& y < 2 ^ w := lt_of_le_of_lt Nat.and_le_left hx

/-- The result of one element whose amount fits its width. -/
theorem amoNew_mod {w old v d : Nat} (ho : old < 2 ^ w) (hv : v < 2 ^ w) (op : AmoOp) :
    (op = .swap → amoNew op w old v d % 2 ^ w = v) ∧ (op = .and → amoNew op w old v d % 2 ^ w = old &&& v) ∧
    (op = .or → amoNew op w old v d % 2 ^ w = old ||| v) ∧ (op = .xor → amoNew op w old v d % 2 ^ w = old ^^^ v) ∧
    (op = .min → amoNew op w old v d % 2 ^ w = if signedOf w old ≤ signedOf w v then old else v) ∧
    (op = .max → amoNew op w old v d % 2 ^ w = if signedOf w old ≤ signedOf w v then v else old) ∧
    (op = .cas → amoNew op w old v d % 2 ^ w = if old = d then v else old) := by
  refine ⟨?_, ?_, ?_, ?_, ?_, ?_, ?_⟩ <;> rintro rfl <;> apply Nat.mod_eq_of_lt
  · exact hv
  · exact and_lt_two_pow ho
  · exact Nat.or_lt_two_pow ho hv
  · exact Nat.xor_lt_two_pow ho hv
  · simp only [amoNew, sMin]
    split <;> assumption
  · simp only [amoNew, sMax]
    split <;> assumption
  · simp only [amoNew]
    split <;> assumption

/-! ## Merges (R260) -/

theorem performReq_merge (s : State) (pa : Nat) (ty : ElemTy) (copies : List Word) : performReq s (.merge pa ty copies) =
    updateAt s pa (ty.bits / 8) (fun m => copies.foldl (fun m c => mergeAdd ty m c.toNat) m) := rfl

theorem pow_bits (ty : ElemTy) : 256 ^ (ty.bits / 8) = 2 ^ ty.bits := by cases ty <;> rfl

/-- Copies added in order are added at once, but for f32. -/
theorem foldl_mergeAdd {ty : ElemTy} (h : ty ≠ .f32) (copies : List Word) (m : Nat) (hm : m < 2 ^ ty.bits) :
    copies.foldl (fun m c => mergeAdd ty m c.toNat) m = (m + (copies.map (fun c => c.toNat)).sum) % 2 ^ ty.bits := by
  rw [← foldl_add_mod _ _ _ hm, List.foldl_map]
  simp only [mergeAdd, if_neg h]

theorem readNat_arrivedAt (s : State) (r : Req) (pa n : Nat) : readNat (arrivedAt s r) pa n = readNat s pa n := by
  rw [readNat, arrivedAt_mem, readNat]

/-! ## The obligation -/

/-- Settles O12: a request that nothing holds and that reaches its home performs with those combined with it, `performAt_reaches`, and
each kind of request changes the bytes of its own address only. -/
theorem requestsPerformAtHome : Obligations.RequestsPerformAtHome := by
  unfold Obligations.RequestsPerformAtHome
  intro s r hfind held amount
  have hexec := exec_sliceRequest_inflight hfind
  have hheld : held ↔ requestHeld s r = true := (requestHeld_iff s r).symm
  refine ⟨fun h => ?_, fun h hr => ?_, fun h hr => ?_⟩
  · rw [hexec, performAt, if_pos (hheld.mp h)]
  · rw [hexec, performAt_lost (mt hheld.mpr h) hr]
  · rw [performAt_reaches (mt hheld.mpr h) hr] at hexec
    have hs := storesOnly_performs s r (r :: combined s r)
    refine ⟨_, hexec, hs.threads.trans (arrivedAt_threads s r), ?_, fun pa l hk => ?_, fun pa pos p v hk hpos hp => ?_,
      fun pa op w64 v hk => ?_, fun pa ty copies hk => ?_⟩
    · rw [hs]
      exact arrivedAt_inflight s r
    · obtain ⟨hm, hpo⟩ := performReq_store (s := arrivedAt s r) hk
      rw [combined_of_not_canCombine (by rcases hk with hk | hk <;> rw [hk] <;> rfl), List.foldl_cons, List.foldl_nil, hm, hpo]
      refine ⟨fun a => ?_, fun g => ?_⟩
      · rw [readByte_writeBytes, arrivedAt_mem]
      · rw [mem_performWrite_poison, arrivedAt_poison]
    · rw [combined_of_not_canCombine (by rw [hk]; rfl), List.foldl_cons, List.foldl_nil, hk]
      have hm (u : State) : (performReq u (.planes pa pos p v)).mem =
          ((List.range p).foldl (fun s j => writePlane s pa pos p v.toNat j) u).mem := countAccess_mem ..
      rw [hm]
      refine ⟨fun a ha => ?_, fun j k hj hk8 => ?_⟩
      · rw [readByte_writePlanes _ _ _ _ _ _ _ (fun j hj => ha j (List.mem_range.mp hj)), arrivedAt_mem]
      · rw [readByte_writePlanes_own _ _ _ _ _ _ _ List.nodup_range (List.mem_range.mpr hj), readByte_writePlane, if_pos rfl,
          getLsbD_planeByte _ _ _ _ _ (Nat.mod_lt _ (by decide)) hk8, arrivedAt_mem]
        rfl
    · have hatoms := combined_isAtom (s := s) hk
      refine ⟨fun a ha => ?_, fun hp => ?_, fun hp => ⟨fun hadd => ?_, fun hc hv => ?_⟩⟩
      · rw [readByte_performAtoms_outside hatoms _ ha, arrivedAt_mem]
      · rw [performAtoms_poisoned hatoms (by rwa [poisoned_arrivedAt]), arrivedAt_mem]
      · have := readNat_performAdds hadd (s := arrivedAt s r) (by rwa [poisoned_arrivedAt])
        rw [readNat_arrivedAt] at this
        exact this
      · have hnow := readNat_performAtom (s := arrivedAt s r) (pa := pa) (w64 := w64) (by rwa [poisoned_arrivedAt]) op v
        rw [hc, List.foldl_cons, List.foldl_nil, hk]
        rw [readNat_arrivedAt] at hnow
        have hold := readNat_lt s pa (atomBytes w64)
        rw [pow_atomBytes] at hold
        obtain ⟨hswap, hand, hor, hxor, hmin, hmax, -⟩ := amoNew_mod (d := 0) hold hv op
        refine ⟨fun h => hnow.trans (hswap h), fun h => hnow.trans (hand h), fun h => hnow.trans (hor h), fun h => hnow.trans (hxor h),
          fun h => hnow.trans (hmin h), fun h => hnow.trans (hmax h), ?_⟩
        rintro rfl rfl
        exact hnow
    · rw [combined_of_not_canCombine (by rw [hk]; rfl), List.foldl_cons, List.foldl_nil, hk, performReq_merge]
      refine ⟨fun a ha => ?_, fun hp => ?_, fun hp => ?_⟩
      · rw [readByte_updateAt_outside _ _ ha, arrivedAt_mem]
      · rw [updateAt_mem, if_pos (by rwa [poisoned_arrivedAt]), arrivedAt_mem]
      · have hnow := readNat_updateAt (s := arrivedAt s r) (pa := pa) (n := ty.bits / 8) (by rwa [poisoned_arrivedAt])
          (fun m => copies.foldl (fun m c => mergeAdd ty m c.toNat) m)
        have hold := readNat_lt s pa (ty.bits / 8)
        rw [readNat_arrivedAt, pow_bits] at hnow
        rw [pow_bits] at hold
        refine ⟨fun hty => ?_, ?_⟩
        · rw [foldl_mergeAdd hty _ _ hold, Nat.mod_mod] at hnow
          exact hnow
        · rintro rfl
          exact hnow

end Sys2Proof.Machine
end

section
/-! PROOFS. Numbers taken, event counters and launch queues are nothing to a translation or a read of memory (R223, R225, R283, R323). -/

namespace Sys2Proof.Machine

variable {s s' s'' : State}

/-- `s'` is `s` but for numbers taken, event counters and launch queues. -/
def BooksOnly (s s' : State) : Prop := s' = { s with uid := s'.uid, counters := s'.counters, queues := s'.queues }

namespace BooksOnly

theorem refl (s : State) : BooksOnly s s := rfl

theorem trans (h : BooksOnly s s') (h' : BooksOnly s' s'') : BooksOnly s s'' := by
  unfold BooksOnly at *
  rw [h', h]

theorem foldl {α : Type} {f : State → α → State} (hf : ∀ s a, BooksOnly s (f s a)) (l : List α) (s : State) :
    BooksOnly s (l.foldl f s) := by
  induction l generalizing s with
  | nil => exact refl s
  | cons a l ih => exact (hf s a).trans (ih (f s a))

theorem of_countsOnly (h : CountsOnly s s') : BooksOnly s s' := by
  rw [h]
  rfl

end BooksOnly

theorem booksOnly_bump (s : State) (p i n : Nat) : BooksOnly s (bump s p i n) := .of_countsOnly (bump_frame ..)

theorem booksOnly_countHere (s : State) (a : Nat) : BooksOnly s (countHere s a) := .of_countsOnly (countHere_frame ..)

theorem booksOnly_countAccess (s : State) (a : Nat) : BooksOnly s (countAccess s a) := .of_countsOnly (countAccess_frame ..)

theorem booksOnly_hostFlits (s : State) (i : Nat) : BooksOnly s (hostFlits s i) := by
  rw [hostFlits_frame]
  rfl

theorem booksOnly_setQueue (s : State) (q : Nat) (l : LQueue) : BooksOnly s (setQueue s q l) := rfl

theorem booksOnly_countOwnWalk (s : State) (o : Origin) (c va : Nat) : BooksOnly s (countOwnWalk s o c va) := by
  unfold countOwnWalk
  split
  · exact .refl s
  · exact .of_countsOnly (countsOnly_countWalk ..)

theorem booksOnly_countOwnWalks (s : State) (o : Origin) (c va n : Nat) : BooksOnly s (countOwnWalks s o c va n) :=
  .foldl (fun s _ => booksOnly_countOwnWalk s ..) ..

theorem booksOnly_countRange (s : State) (a n : Nat) : BooksOnly s (countRange s a n) := by
  unfold countRange
  split
  · exact .refl s
  · exact .foldl (fun s _ => booksOnly_countAccess s _) ..

theorem booksOnly_countVirt (s : State) (o c va n : Nat) : BooksOnly s (countVirt s o c va n) := by
  refine .foldl (fun s x => ?_) ..
  split
  · exact booksOnly_countRange ..
  · exact .refl s

/-! ## What a translation and a read depend on -/

section
variable (s) (u : Nat) (c : Tab Word) (q : Tab LQueue)

theorem walkLeaf_books (tile : Option Nat) (o ctx va : Nat) :
    walkLeaf { s with uid := u, counters := c, queues := q } tile o ctx va = walkLeaf s tile o ctx va := by
  have hpte : pteRead { s with uid := u, counters := c, queues := q } = pteRead s := by
    funext tile o a
    unfold pteRead
    rfl
  have hroot : ctxRoot { s with uid := u, counters := c, queues := q } = ctxRoot s := rfl
  have hbig : bigOk { s with uid := u, counters := c, queues := q } = bigOk s := rfl
  have hsmall : smallOk { s with uid := u, counters := c, queues := q } = smallOk s := rfl
  simp only [walkLeaf, hpte, hroot, hbig, hsmall]

theorem xlateDirect_books (o ctx va : Nat) (n : Need) :
    xlateDirect { s with uid := u, counters := c, queues := q } o ctx va n = xlateDirect s o ctx va n := by
  simp only [xlateDirect, xlateVia, leafFor, walkLeaf_books]
  rfl

theorem readVirt_books (o ctx va n : Nat) :
    readVirt { s with uid := u, counters := c, queues := q } o ctx va n = readVirt s o ctx va n := by
  have hfrom (a m : Nat) : homesFrom { s with uid := u, counters := c, queues := q }
      (tileOfOwner { s with uid := u, counters := c, queues := q } o) a m = homesFrom s (tileOfOwner s o) a m := by
    have hup : upFrom { s with uid := u, counters := c, queues := q } = upFrom s := rfl
    simp only [homesFrom, hup]
    rfl
  have hp : poisoned { s with uid := u, counters := c, queues := q } = poisoned s := rfl
  unfold readVirt
  generalize pagesOf va n = l
  induction l with
  | nil => rfl
  | cons x r ih => simp only [readPieces, ih, xlateDirect_books, hfrom, hp]

end

namespace BooksOnly

variable (h : BooksOnly s s')
include h

theorem xlateDirect (o ctx va : Nat) (n : Need) : xlateDirect s' o ctx va n = Machine.xlateDirect s o ctx va n := by
  rw [h, xlateDirect_books]

theorem readVirt (o ctx va n : Nat) : readVirt s' o ctx va n = Machine.readVirt s o ctx va n := by rw [h, readVirt_books]

theorem readSource (o ctx va n : Nat) : readSource s' o ctx va n = Machine.readSource s o ctx va n := by
  rw [Machine.readSource, h.readVirt, Machine.readSource]

theorem readableVirt (o ctx va n : Nat) : readableVirt s' o ctx va n = Machine.readableVirt s o ctx va n := by
  simp only [Machine.readableVirt, h.xlateDirect]

theorem recAddresses (ctx : Nat) (raw : List Byte) : recAddresses s' ctx raw = Machine.recAddresses s ctx raw := by
  simp only [Machine.recAddresses, statusOk, h.xlateDirect]

theorem ctxRoot (ctx : Nat) : ctxRoot s' ctx = Machine.ctxRoot s ctx := by rw [h]; rfl
theorem ctxOfQueue (q : Nat) : ctxOfQueue s' q = Machine.ctxOfQueue s q := by rw [h]; rfl
theorem threads : s'.threads = s.threads := by rw [h]
theorem mem : s'.mem = s.mem := by rw [h]
theorem migration : s'.migration = s.migration := by rw [h]

end BooksOnly

end Sys2Proof.Machine
end

section
/-! PROOFS. Ports and memory errors: what a flit, a frame, an acknowledgement and an error change (R225, R323, R329, R330, R338). -/

namespace Sys2Proof.Machine

variable {s s1 s' : State} {port : Nat} {seq : IWord}

/-! ## Event counters of a port (R323) -/

/-- A counter of a port's page. -/
def portCounter (c : Tab Word) (port k : Nat) : Word := tabGet 0 c (256 * (640 + port) + k)

/-- A counter of a port whose tile is in service grows, and no other counter of the port changes. -/
theorem portCounter_bump (h : tabGet 0 s.fence (tileOfPort port) = 0) (i n k : Nat) :
    portCounter (bump s (640 + port) i n).counters port k = portCounter s.counters port k + if k = i then BitVec.ofNat 64 n else 0 := by
  have ht : tileOfPage (640 + port) = tileOfPort port := by
    rw [tileOfPage, if_neg (by omega), if_neg (by omega), if_neg (by omega), Nat.add_sub_cancel_left]
  rw [bump, ht, if_pos (by rw [inService, h]; rfl), portCounter, tabGet_tabSet, portCounter]
  by_cases hk : k = i
  · rw [if_pos (by rw [hk]), if_pos hk, hk]
  · rw [if_neg (by omega), if_neg hk]
    exact (BitVec.add_zero _).symm

theorem fence_of_up (h : portDown s port = false) : tabGet 0 s.fence (tileOfPort port) = 0 := by
  simp only [portDown, Bool.or_eq_false_iff, Bool.not_eq_false', inService, decide_eq_true_eq] at h
  exact h.1.1

/-- TX, RX, RETRY and CRC_ERR of a port have grown by so much. -/
def PortCounts (port : Nat) (s s' : State) (tx rx retry failed : Nat) : Prop :=
  ∀ (k n : Nat), (k, n) ∈ [(0, tx), (1, rx), (2, retry), (3, failed)] →
    portCounter s'.counters port k = portCounter s.counters port k + BitVec.ofNat 64 n

theorem portCounts_iff {tx rx retry failed : Nat} : PortCounts port s s' tx rx retry failed ↔
    portCounter s'.counters port 0 = portCounter s.counters port 0 + BitVec.ofNat 64 tx ∧
    portCounter s'.counters port 1 = portCounter s.counters port 1 + BitVec.ofNat 64 rx ∧
    portCounter s'.counters port 2 = portCounter s.counters port 2 + BitVec.ofNat 64 retry ∧
    portCounter s'.counters port 3 = portCounter s.counters port 3 + BitVec.ofNat 64 failed := by
  simp only [PortCounts, List.mem_cons, Prod.mk.injEq, List.not_mem_nil, or_false]
  constructor
  · intro h
    exact ⟨h 0 tx (by simp), h 1 rx (by simp), h 2 retry (by simp), h 3 failed (by simp)⟩
  · rintro ⟨h0, h1, h2, h3⟩ k n (⟨rfl, rfl⟩ | ⟨rfl, rfl⟩ | ⟨rfl, rfl⟩ | ⟨rfl, rfl⟩) <;> assumption

/-- `s'` is `s1` but for the next number and the event counters. -/
def UpToCounts (s1 s' : State) : Prop := s' = { s1 with uid := s'.uid, counters := s'.counters }

theorem UpToCounts.refl (s : State) : UpToCounts s s := rfl

theorem UpToCounts.bump (h : UpToCounts s1 s) (p i n : Nat) : UpToCounts s1 (bump s p i n) := by
  unfold UpToCounts at *
  rw [bump_frame, h]

/-- What an instruction makes of a state, up to the next number and the counters, with what a port's counters grow by. -/
def Carried (i : Instr) (port : Nat) (s s1 : State) (tx rx retry failed : Nat) : Prop :=
  ∃ s', exec i s = .next s' ∧ UpToCounts s1 s' ∧ PortCounts port s s' tx rx retry failed

/-! ## Short-reach ports (R329) -/

theorem exec_shortReachFlitReceive (port : Nat) (k : ShortFlit) (s : State) :
    exec (.shortReachFlitReceive port k) s = execShortReachFlitReceive port k s := rfl

theorem shortReach_up (h : portDown s port = false) (h17 : 17 ≤ port) (h25 : port < 25) :
    ¬ (port < 17 ∨ 25 ≤ port ∨ portDown s port = true) := by
  simp only [h, Bool.false_eq_true, or_false]
  omega

theorem framed_shortReach (h : port < 25) (s : State) (dest : Nat) (x : Packet) :
    framed s port dest x = .flit dest (tabGet {} s.ports port).rxSeq x := if_pos h

theorem shortReach_good (h : portDown s port = false) (h17 : 17 ≤ port) (h25 : port < 25) (seq : IWord) :
    let p := tabGet {} s.ports port
    Carried (.shortReachFlitReceive port (.good seq)) port s
      { s with ports := tabPut s.ports port { p with sent := p.sent.dropWhile (acknowledged seq.toNat), rxSeq := (p.rxSeq + 1) % 2 ^ 32 } }
      0 1 0 0 := by
  refine ⟨_, by rw [exec_shortReachFlitReceive, execShortReachFlitReceive, if_neg (shortReach_up h h17 h25)], ?_, ?_⟩
  · rw [bump_frame]
    rfl
  · simp [portCounts_iff, portCounter_bump (fence_of_up h)]

/-- What a flit lets a short-reach port send leaves it; the counters are those of the port. -/
theorem upToCounts_sends (s : State) (port i j n m : Nat) (l : List (Nat × Packet)) :
    UpToCounts { s with portOut := l } (bump (bump { bump s (640 + port) 1 1 with portOut := l } (640 + port) i n) (640 + port) j m) := by
  have h : UpToCounts { s with portOut := l } { bump s (640 + port) 1 1 with portOut := l } := by
    rw [bump_frame]
    rfl
  exact (h.bump _ _ _).bump _ _ _

theorem shortReach_bad (h : portDown s port = false) (h17 : 17 ≤ port) (h25 : port < 25) :
    let p := tabGet {} s.ports port
    Carried (.shortReachFlitReceive port .bad) port s
      { s with portOut := s.portOut ++ [(port, .flit (Config.farEnd port) p.rxSeq (.askAgain p.rxSeq))] } 1 1 0 1 := by
  intro p
  refine ⟨bump (bump { bump s (640 + port) 1 1 with portOut := s.portOut ++
    [(port, .flit (Config.farEnd port) p.rxSeq (.askAgain p.rxSeq))] } (640 + port) 3 1) (640 + port) 0 1, ?_, upToCounts_sends .., ?_⟩
  · rw [exec_shortReachFlitReceive, execShortReachFlitReceive, if_neg (shortReach_up h h17 h25)]
    simp only [bump_ports, framed_shortReach h25, bump_portOut, p]
  · simp [portCounts_iff, portCounter_bump, fence_of_up h]

theorem shortReach_again_none (h : portDown s port = false) (h17 : 17 ≤ port) (h25 : port < 25)
    (hf : (tabGet {} s.ports port).sent.find? (carries seq.toNat) = none) :
    Carried (.shortReachFlitReceive port (.again seq)) port s s 0 1 0 0 := by
  refine ⟨bump s (640 + port) 1 1, ?_, (UpToCounts.refl s).bump .., ?_⟩
  · rw [exec_shortReachFlitReceive, execShortReachFlitReceive, if_neg (shortReach_up h h17 h25)]
    simp only [bump_ports, hf]
  · simp [portCounts_iff, portCounter_bump, fence_of_up h]

theorem shortReach_again (h : portDown s port = false) (h17 : 17 ≤ port) (h25 : port < 25) {x : Sent}
    (hf : (tabGet {} s.ports port).sent.find? (carries seq.toNat) = some x) {y : Packet}
    (hy : sentAgain (bump s (640 + port) 1 1) x = y) : Carried (.shortReachFlitReceive port (.again seq)) port s
      { s with portOut := s.portOut ++ [(port, .flit x.dest (tabGet {} s.ports port).rxSeq y)] } 1 1 1 0 := by
  refine ⟨bump (bump { bump s (640 + port) 1 1 with portOut :=
    s.portOut ++ [(port, .flit x.dest (tabGet {} s.ports port).rxSeq y)] } (640 + port) 0 1) (640 + port) 2 1, ?_, upToCounts_sends .., ?_⟩
  · rw [exec_shortReachFlitReceive, execShortReachFlitReceive, if_neg (shortReach_up h h17 h25)]
    simp only [bump_ports, hf, framed_shortReach h25, hy, bump_portOut]
  · simp [portCounts_iff, portCounter_bump, fence_of_up h]

/-! ## What is sent again -/

/-- What is kept without a source is sent as it is. -/
theorem sentAgain_none {x : Sent} (h : x.source = none) (s : State) : sentAgain s x = x.packet := by
  unfold sentAgain
  rw [h]
  split <;> simp_all

/-- A transfer is sent with what its source holds now. -/
theorem sentAgain_xfer {x : Sent} {u ctx : Nat} {ra : Word} {was now : List Byte} {run : IWord} {src : Source}
    (hx : x.packet = .command u (.xfer ctx ra was run)) (hs : x.source = some src)
    (hr : readSource s src.owner src.ctx src.va src.len = .ok now) (p i n : Nat) :
    sentAgain (bump s p i n) x = .command u (.xfer ctx ra now run) := by
  have hr' : readSource (bump s p i n) src.owner src.ctx src.va src.len = .ok now := by
    rw [(booksOnly_bump ..).readSource, hr]
  simp only [sentAgain, hx, hs, hr']

/-! ## Long-haul frames (R330) -/

theorem exec_longHaulFrameReceive (port : Nat) (seq : IWord) (k : FrameKind) (s : State) :
    exec (.longHaulFrameReceive port seq k) s = execLongHaulFrameReceive port seq k s := rfl

theorem longHaul_up (h : portDown s port = false) (h25 : 25 ≤ port) (h29 : port < 29) :
    ¬ (port < 25 ∨ 29 ≤ port ∨ portDown s port = true) := by
  simp only [h, Bool.false_eq_true, or_false]
  omega

/-- A frame has been received: the next number is taken, and RX has grown by its flits. -/
def frameTaken (s : State) (port n : Nat) : State := bump { s with uid := s.uid + 1 } (640 + port) 1 n

theorem frameTaken_frame (s : State) (port n : Nat) :
    frameTaken s port n = { s with uid := s.uid + 1, counters := (frameTaken s port n).counters } := bump_frame ..

theorem upToCounts_frameTaken (s : State) (port n : Nat) : UpToCounts s (frameTaken s port n) := by
  rw [frameTaken_frame]
  rfl

theorem portCounter_frameTaken (h : portDown s port = false) (n k : Nat) : portCounter (frameTaken s port n).counters port k =
    portCounter s.counters port k + if k = 1 then BitVec.ofNat 64 n else 0 :=
  portCounter_bump (s := { s with uid := s.uid + 1 }) (fence_of_up h) ..

theorem fence_frameTaken (h : portDown s port = false) (n : Nat) : tabGet 0 (frameTaken s port n).fence (tileOfPort port) = 0 := by
  rw [frameTaken_frame]
  exact fence_of_up h

theorem longHaul_bad (h : portDown s port = false) (h25 : 25 ≤ port) (h29 : port < 29) :
    Carried (.longHaulFrameReceive port seq .bad) port s s 0 (Config.linkFlits s.uid) 0 1 := by
  refine ⟨bump (frameTaken s port (Config.linkFlits s.uid)) (640 + port) 3 1, ?_, (upToCounts_frameTaken ..).bump .., ?_⟩
  · rw [exec_longHaulFrameReceive, execLongHaulFrameReceive, if_neg (longHaul_up h h25 h29)]
    rfl
  · simp [portCounts_iff, portCounter_bump, portCounter_frameTaken h, fence_frameTaken h]

theorem longHaul_expected (h : portDown s port = false) (h25 : 25 ≤ port) (h29 : port < 29)
    (hq : seq.toNat = (tabGet {} s.ports port).rxSeq) :
    let p := tabGet {} s.ports port
    Carried (.longHaulFrameReceive port seq .good) port s
      { s with ports := tabPut s.ports port { p with rxSeq := (p.rxSeq + 1) % 2 ^ 32 } } 0 (Config.linkFlits s.uid) 0 0 := by
  intro p
  refine ⟨{ frameTaken s port (Config.linkFlits s.uid) with ports := tabPut s.ports port { p with rxSeq := (p.rxSeq + 1) % 2 ^ 32 } },
    ?_, ?_, ?_⟩
  · rw [exec_longHaulFrameReceive, execLongHaulFrameReceive, if_neg (longHaul_up h h25 h29)]
    dsimp only
    rw [if_pos hq, frameTaken, bump_ports]
  · rw [frameTaken_frame]
    rfl
  · simp [portCounts_iff, portCounter_frameTaken h]

theorem longHaul_gap (h : portDown s port = false) (h25 : 25 ≤ port) (h29 : port < 29) {gap : Nat} (hg : 0 < gap) (hg31 : gap < 2 ^ 31)
    (hq : seq.toNat = ((tabGet {} s.ports port).rxSeq + gap) % 2 ^ 32) :
    Carried (.longHaulFrameReceive port seq .good) port s
      { s with portOut := s.portOut ++ [(port, .nack (tabGet {} s.ports port).rxSeq)] } 1 (Config.linkFlits s.uid) 0 0 := by
  refine ⟨bump { frameTaken s port (Config.linkFlits s.uid) with
    portOut := s.portOut ++ [(port, .nack (tabGet {} s.ports port).rxSeq)] } (640 + port) 0 1, ?_, UpToCounts.bump ?_ .., ?_⟩
  · rw [exec_longHaulFrameReceive, execLongHaulFrameReceive, if_neg (longHaul_up h h25 h29)]
    dsimp only
    rw [if_neg (by omega), if_pos (by omega), frameTaken, bump_portOut]
  · rw [frameTaken_frame]
    rfl
  · simp [portCounts_iff, portCounter_bump, portCounter_frameTaken h, fence_frameTaken h]

/-- What a replay buffer holds from a number on. -/
theorem dropWhile_replay {o r : List (Nat × Nat)} {m n : Nat} (ho : ∀ x ∈ o, x.1 ≠ m) :
    (o ++ (m, n) :: r).dropWhile (fun x => x.1 ≠ m) = (m, n) :: r := by
  rw [List.dropWhile_append_of_pos (by simpa using ho)]
  simp

theorem longHaul_again (h : portDown s port = false) (h25 : 25 ≤ port) (h29 : port < 29) {o r : List (Nat × Nat)} {n : Nat}
    (hp : (tabGet {} s.ports port).replay = o ++ (seq.toNat, n) :: r) (ho : ∀ x ∈ o, x.1 ≠ seq.toNat) :
    let again := n + (r.map (fun x => x.2)).sum
    Carried (.longHaulFrameReceive port seq .again) port s
      { s with portOut := s.portOut ++ ((seq.toNat, n) :: r).map (fun x => (port, .resend x.1)) } again 1 again 0 := by
  intro again
  refine ⟨bump (bump { frameTaken s port 1 with portOut := s.portOut ++ ((seq.toNat, n) :: r).map (fun x => (port, .resend x.1)) }
    (640 + port) 0 again) (640 + port) 2 again, ?_, (UpToCounts.bump ?_ ..).bump .., ?_⟩
  · rw [exec_longHaulFrameReceive, execLongHaulFrameReceive, if_neg (longHaul_up h h25 h29)]
    dsimp only
    rw [hp, dropWhile_replay ho, frameTaken, bump_portOut]
    rfl
  · rw [frameTaken_frame]
    rfl
  · simp [portCounts_iff, portCounter_bump, portCounter_frameTaken h, fence_frameTaken h]

/-! ## Acknowledgements (R330) -/

/-- What an acknowledgement does: it is answered, what it covers is no longer held, and what waited leaves, as `q` and `out` say. -/
def Acks (s : State) (port : Nat) (seq : IWord) (q : Port) (out : List Packet) (tx : Nat) : Prop :=
  ∃ s', exec (.cumulativeAcknowledgement port seq) s = .next s' ∧
    s' = { s with ports := s'.ports, portOut := s'.portOut, counters := s'.counters } ∧ PortCounts port s s' (1 + tx) 1 0 0 ∧
    (∀ j, tabGet {} s'.ports j = if j = port then q else tabGet {} s.ports j) ∧
    s'.portOut = s.portOut ++ (Packet.ack (tabGet {} s.ports port).rxSeq :: out).map (fun x => (port, x))

/-- What a port still holds once the partner has acknowledged up to a number. -/
def heldAfter (p : Port) (seq : IWord) : List (Nat × Nat) :=
  if seq.toNat = p.txSeq then []
  else if p.replay.any (fun x => x.1 = seq.toNat) then p.replay.dropWhile (fun x => x.1 ≠ seq.toNat) else p.replay

/-- The acknowledgement has been received and answered with the port's own. -/
def ackAnswered (s : State) (port : Nat) : State :=
  bump (bump { s with portOut := s.portOut ++ [(port, .ack (tabGet {} s.ports port).rxSeq)] } (640 + port) 0 1) (640 + port) 1 1

theorem exec_cumulativeAcknowledgement (h : portDown s port = false) (h25 : 25 ≤ port) (h29 : port < 29) (seq : IWord) :
    exec (.cumulativeAcknowledgement port seq) s = .next (pumpPort { ackAnswered s port with
      ports := tabPut (ackAnswered s port).ports port { tabGet {} s.ports port with replay := heldAfter (tabGet {} s.ports port) seq } } port []) := by
  show execCumulativeAcknowledgement port seq s = _
  rw [execCumulativeAcknowledgement, if_neg (longHaul_up h h25 h29)]
  rfl

theorem heldAfter_found {p : Port} {o r : List (Nat × Nat)} {n : Nat} (hp : p.replay = o ++ (seq.toNat, n) :: r)
    (ho : ∀ x ∈ o, x.1 ≠ seq.toNat) (hne : seq.toNat ≠ p.txSeq) : heldAfter p seq = (seq.toNat, n) :: r := by
  rw [heldAfter, if_neg hne, hp, if_pos (by simp), dropWhile_replay ho]

theorem heldAfter_all {p : Port} (h : seq.toNat = p.txSeq) : heldAfter p seq = [] := if_pos h

theorem heldAfter_unknown {p : Port} (hno : ¬ ∃ y ∈ p.replay, y.1 = seq.toNat) (hne : seq.toNat ≠ p.txSeq) : heldAfter p seq = p.replay := by
  rw [heldAfter, if_neg hne, if_neg (by simpa using hno)]

/-- `s'` is `s` but for the ports, what has left them and the event counters. -/
def PortsOnly (s s' : State) : Prop := s' = { s with ports := s'.ports, portOut := s'.portOut, counters := s'.counters }

theorem PortsOnly.bump (h : PortsOnly s s1) (p i n : Nat) : PortsOnly s (bump s1 p i n) := by
  unfold PortsOnly at *
  rw [bump_frame, h]

theorem PortsOnly.send (h : PortsOnly s s1) (ps : Tab Port) (l : List (Nat × Packet)) : PortsOnly s { s1 with ports := ps, portOut := l } := by
  unfold PortsOnly at *
  rw [h]

theorem portsOnly_ackAnswered (s : State) (port : Nat) : PortsOnly s (ackAnswered s port) :=
  ((PortsOnly.send (s1 := s) rfl s.ports _).bump _ _ _).bump _ _ _

theorem ackAnswered_ports (s : State) (port : Nat) : (ackAnswered s port).ports = s.ports := by rw [ackAnswered, bump_ports, bump_ports]

theorem ackAnswered_portOut (s : State) (port : Nat) :
    (ackAnswered s port).portOut = s.portOut ++ [(port, .ack (tabGet {} s.ports port).rxSeq)] := by
  rw [ackAnswered, bump_portOut, bump_portOut]

theorem ackAnswered_fence (s : State) (port : Nat) : (ackAnswered s port).fence = s.fence := by rw [ackAnswered, bump_fence, bump_fence]

theorem portCounter_ackAnswered (h : portDown s port = false) (k : Nat) : portCounter (ackAnswered s port).counters port k =
    portCounter s.counters port k + (if k = 0 then 1 else 0) + if k = 1 then 1 else 0 := by
  rw [ackAnswered, portCounter_bump (by rw [bump_fence]; exact fence_of_up h), portCounter_bump (by exact fence_of_up h)]
  rfl

theorem acks_of_sendWaiting (h : portDown s port = false) (h25 : 25 ≤ port) (h29 : port < 29) {q : Port} {out : List Packet}
    (hw : sendWaiting { tabGet {} s.ports port with replay := heldAfter (tabGet {} s.ports port) seq } (tabGet {} s.ports port).waiting =
      (q, out))
    {tx : Nat} (htx : ((tabGet {} s.ports port).waiting.map (fun x => x.2)).sum - waitingFlits q = tx) : Acks s port seq q out tx := by
  subst htx
  have hx := exec_cumulativeAcknowledgement h h25 h29 seq
  simp only [pumpPort, tabGet_tabPut_self, List.append_nil, hw, ackAnswered_portOut, ackAnswered_ports] at hx
  refine ⟨_, hx, ((portsOnly_ackAnswered s port).send _ _).bump _ _ _, ?_, fun j => ?_, ?_⟩
  · simp [portCounts_iff, portCounter_bump, ackAnswered_fence, fence_of_up h, portCounter_ackAnswered h, BitVec.ofNat_add, BitVec.add_assoc]
  · simp only [bump_ports, tabGet_tabPut]
    split <;> rfl
  · simp

theorem sendWaiting_nil {p : Port} (h : p.waiting = []) : sendWaiting p [] = (p, []) := by
  rw [sendWaiting, ← h]

theorem acks_none_waiting (h : portDown s port = false) (h25 : 25 ≤ port) (h29 : port < 29) (hw : (tabGet {} s.ports port).waiting = []) :
    Acks s port seq { tabGet {} s.ports port with replay := heldAfter (tabGet {} s.ports port) seq } [] 0 :=
  acks_of_sendWaiting h h25 h29 (by rw [hw]; exact sendWaiting_nil hw) (by rw [hw]; exact Nat.zero_sub _)

/-- A packet of one frame leaves a port that holds nothing. -/
theorem sendWaiting_one {p : Port} (hr : p.replay = []) (x : Packet) {k : Nat} (hk : 0 < k) (hk32 : k ≤ 32) :
    sendWaiting p [(x, k)] = ({ p with replay := [(p.txSeq, k)], waiting := [], txSeq := (p.txSeq + 1) % 2 ^ 32 }, [x]) := by
  have hs : sendFrames (k / frameFlits + 1) p k = ({ p with replay := [(p.txSeq, k)], txSeq := (p.txSeq + 1) % 2 ^ 32 }, 0) := by
    have hmin : min frameFlits k = k := by simpa [frameFlits] using hk32
    have hend (f : Nat) (q : Port) : sendFrames f q 0 = (q, 0) := by cases f <;> simp [sendFrames]
    rw [sendFrames]
    simp [hmin, hr, hend, replayFlits]
    omega
  simp [sendWaiting, hs]

/-- A packet for which the replay buffer has no room goes on waiting. -/
theorem sendWaiting_full {p : Port} {x : Packet} {k : Nat} (hk : 0 < k) (hf : 393216 < (p.replay.map (fun y => y.2)).sum + min 32 k) :
    sendWaiting p [(x, k)] = ({ p with waiting := [(x, k)] }, []) := by
  have hs : sendFrames (k / frameFlits + 1) p k = (p, k) := by
    rw [sendFrames]
    exact if_pos (.inr hf)
  simp [sendWaiting, hs, hk.ne']

/-- An acknowledgement of all that was sent lets the one packet that waits leave. -/
theorem acks_all_one (h : portDown s port = false) (h25 : 25 ≤ port) (h29 : port < 29) {x : Packet} {k : Nat}
    (heq : seq.toNat = (tabGet {} s.ports port).txSeq) (hw : (tabGet {} s.ports port).waiting = [(x, k)]) (hk : 0 < k) (hk32 : k ≤ 32) :
    let p := tabGet {} s.ports port
    Acks s port seq { p with replay := [(p.txSeq, k)], waiting := [], txSeq := (p.txSeq + 1) % 2 ^ 32 } [x] k :=
  acks_of_sendWaiting h h25 h29 (by rw [heldAfter_all heq, hw]; exact sendWaiting_one rfl x hk hk32) (by rw [hw]; exact Nat.sub_zero k)

/-- An acknowledgement of what the port does not hold lets nothing leave while the replay buffer is full. -/
theorem acks_unknown_full (h : portDown s port = false) (h25 : 25 ≤ port) (h29 : port < 29) {x : Packet} {k : Nat}
    (hno : ¬ ∃ y ∈ (tabGet {} s.ports port).replay, y.1 = seq.toNat) (hne : seq.toNat ≠ (tabGet {} s.ports port).txSeq)
    (hw : (tabGet {} s.ports port).waiting = [(x, k)]) (hk : 0 < k)
    (hf : 393216 < ((tabGet {} s.ports port).replay.map (fun y => y.2)).sum + min 32 k) :
    Acks s port seq (tabGet {} s.ports port) [] 0 := by
  refine acks_of_sendWaiting h h25 h29 ?_ (by rw [waitingFlits, Nat.sub_self])
  rw [heldAfter_unknown hno hne, hw, sendWaiting_full hk hf, ← hw]

/-! ## A port that goes down (R330, R338) -/

theorem portDown_of_untrained (h : (tabGet {} s.ports port).trained = false) : portDown s port = true := by
  rw [portDown, h, Bool.not_false, Bool.or_true]

variable {q : Port}

/-- A port that is down sends nothing, and what other ports send leaves it as it is. -/
theorem sendFrom_keeps (hq : q.trained = false) (h : tabGet {} s.ports port = q) (p d : Nat) (x : Packet) (src : Option Source) :
    tabGet {} (sendFrom s p d x src).ports port = q := by
  unfold sendFrom
  split
  · exact h
  · next hp =>
    have hne : port ≠ p := by
      rintro rfl
      exact hp (portDown_of_untrained (by rw [h, hq]))
    dsimp only
    split
    · rw [bump_ports, tabGet_tabPut_ne _ _ _ hne, h]
    · rw [pumpPort, bump_ports, tabGet_tabPut_ne _ _ _ hne, h]

theorem sendColl_keeps (hq : q.trained = false) (h : tabGet {} s.ports port = q) {o : Nat} {m : CollMsg} (hs : sendColl s o m = some s') :
    tabGet {} s'.ports port = q := by
  unfold sendColl at hs
  split at hs
  · cases hs
  · split at hs
    · cases hs
    · cases hs
      exact sendFrom_keeps hq h ..

theorem sendLost_keeps (hq : q.trained = false) (h : tabGet {} s.ports port = q) (code : Nat) (c : Coll) :
    tabGet {} (sendLost code s c).ports port = q := by
  refine List.foldlRecOn (motive := fun (s : State) => tabGet {} s.ports port = q) _ _ h fun s h o _ => ?_
  cases hs : sendColl s o (.lost c.gid c.seq code) with
  | none => exact h
  | some s' => exact sendColl_keeps hq h hs

theorem loseColl_keeps (hq : q.trained = false) (h : tabGet {} s.ports port = q) (c : Coll) (code : Nat) :
    tabGet {} (loseColl s c code).ports port = q := by
  have hp (c : Coll) : tabGet {} (putColl s c).ports port = q := by
    unfold putColl
    split <;> exact h
  unfold loseColl
  dsimp only
  split
  · exact hp _
  · exact sendLost_keeps hq (hp _) ..

theorem failPort_keeps (hq : q.trained = false) (h : tabGet {} s.ports port = q) (p : Nat) : tabGet {} (failPort s p).ports port = q :=
  List.foldlRecOn (motive := fun (s : State) => tabGet {} s.ports port = q) _ _ h fun _ h _ _ => loseColl_keeps hq h ..

/-- A port that fails but for a reset of the host's link has lost its training, and holds nothing that it has sent or is to send. -/
theorem portFails_own (s : State) (port : Nat) : tabGet {} (portFails s port 1).ports port =
    { tabGet {} s.ports port with trained := false, replay := [], waiting := [], sent := [] } := by
  rw [portFails, postEvent_frame]
  refine failPort_keeps rfl ?_ port
  simp

/-- What a port is once it has gone down. -/
def IsDown (s' : State) (port : Nat) : Prop := portDown s' port = true ∧
  (tabGet {} s'.ports port).trained = false ∧ (tabGet {} s'.ports port).replay = [] ∧
  (tabGet {} s'.ports port).waiting = [] ∧ (tabGet {} s'.ports port).sent = [] ∧ (25 ≤ port → (tabGet {} s'.ports port).fault = true)

theorem longHaulDown_isDown (s : State) (port : Nat) : IsDown (longHaulDown s port) port := by
  have h : tabGet {} (longHaulDown s port).ports port =
      { tabGet {} s.ports port with trained := false, replay := [], waiting := [], sent := [], fault := true } := by
    rw [longHaulDown]
    dsimp only
    rw [tabGet_tabPut_self, portFails_own]
  refine ⟨portDown_of_untrained ?_, ?_⟩ <;> rw [h]
  exact ⟨rfl, rfl, rfl, rfl, fun _ => rfl⟩

theorem portFails_isDown (s : State) (h : port < 25) : IsDown (portFails s port 1) port := by
  refine ⟨portDown_of_untrained ?_, ?_⟩ <;> rw [portFails_own]
  exact ⟨rfl, rfl, rfl, rfl, fun h25 => absurd h25 h.not_ge⟩

theorem exec_longHaulAckTimeout (h : portDown s port = false) (h25 : 25 ≤ port) (h29 : port < 29) :
    exec (.longHaulAckTimeout port) s = .next (if (tabGet {} s.ports port).replay = [] then s else longHaulDown s port) := by
  show execLongHaulAckTimeout port s = _
  rw [execLongHaulAckTimeout]
  simp only [h, h25.not_gt, h29.not_ge, Bool.false_eq_true, false_or]

theorem portPhyFault_isDown (h : portDown s port = false) (h29 : port < 29) :
    ∃ s', exec (.portPhyFault port) s = .next s' ∧ IsDown s' port := by
  have hx : exec (.portPhyFault port) s = .next (if 25 ≤ port then longHaulDown s port else portFails s port 1) := by
    show execPortPhyFault port s = _
    rw [execPortPhyFault, if_neg (by simp [h, h29])]
  by_cases h25 : 25 ≤ port
  · exact ⟨_, hx.trans (by rw [if_pos h25]), longHaulDown_isDown s port⟩
  · exact ⟨_, hx.trans (by rw [if_neg h25]), portFails_isDown s (not_le.mp h25)⟩

theorem exec_portLinkTrained (h29 : port < 29) (hin : inService s (tileOfPort port) = true) : exec (.portLinkTrained port) s =
    .next { s with ports := tabPut s.ports port { tabGet {} s.ports port with trained := true } } := by
  show execPortLinkTrained port s = _
  rw [execPortLinkTrained, if_neg (by simp [h29, hin])]

/-! ## Memory errors (R225; log 61) -/

theorem exec_cxlReadReturn {pa : Nat} (hpa : Config.cxlBase ≤ pa) (hex : paExists s pa = true) (hup : portDown s (cxlPortOf pa) = false)
    (bad : Bool) : ∃ s', exec (.cxlReadReturn pa bad) s = .next s' ∧ s'.mem = s.mem ∧ s'.threads = s.threads ∧
      ∀ g, g ∈ s'.poison ↔ g ∈ s.poison ∨ bad = true ∧ g = pa / 32 := by
  have hgo : ¬ (pa < Config.cxlBase ∨ (!paExists s pa) = true ∨ portDown s (cxlPortOf pa) = true) := by
    simp [hpa, hex, hup]
  refine ⟨_, (by show execCxlReadReturn pa bad s = _; rw [execCxlReadReturn, if_neg hgo]), ?_⟩
  cases bad <;> simp [mem_setAdd]

theorem exec_sramEccError_slice {pa : Nat} (hpa : pa < Config.sramEnd) (fixed : Bool) :
    ∃ s', exec (.sramEccError (.slice pa) fixed) s = .next s' ∧ s'.mem = s.mem ∧
      s'.threads = s.threads ∧ ∀ g, g ∈ s'.poison ↔ g ∈ s.poison ∨ fixed = false ∧ g = pa / 32 := by
  refine ⟨_, (by show execSramEccError (.slice pa) fixed s = _; rw [execSramEccError]), ?_⟩
  cases fixed <;> simp [hpa.not_ge, mem_setAdd]

theorem exec_sramEccError_corrected {cl line : Nat} (hcl : cl < 320) (hline : line < 16384) :
    exec (.sramEccError (.scratch cl line) true) s = .next (bump s cl 4 1) := by
  show execSramEccError (.scratch cl line) true s = _
  rw [execSramEccError]
  simp [hcl.not_ge, hline.not_ge]

theorem exec_sramEccError_line {cl line : Nat} (hcl : cl < 320) (hline : line < 16384) :
    exec (.sramEccError (.scratch cl line) false) s = .next (bump (poisonLine s cl line) cl 5 1) := by
  show execSramEccError (.scratch cl line) false s = _
  rw [execSramEccError]
  simp [hcl.not_ge, hline.not_ge]

/-- What a poisoned line makes of a register whose region holds it. -/
def poisonedReg (h : HReg) (line : Nat) : HReg :=
  let slots := slotsTouching h line
  { h with dirty := h.dirty.filter (fun k => ¬ k ∈ slots), failed := h.failed.filter (fun f => ¬ f.slot ∈ slots) ++
    slots.map (fun k => ⟨k, BitVec.ofInt 64 (elemVa h.td (coordOfSlot h.comm.lo (boxW h.blk) k)), true⟩) }

theorem poisonedReg_slots (h : HReg) (line : Nat) : ∀ k ∈ slotsTouching h line,
    ¬ k ∈ (poisonedReg h line).dirty ∧ ∃ f ∈ (poisonedReg h line).failed, f.slot = k ∧ f.poisoned = true := by
  intro k hk
  refine ⟨fun hd => ?_, ⟨k, BitVec.ofInt 64 (elemVa h.td (coordOfSlot h.comm.lo (boxW h.blk) k)), true⟩, ?_, rfl, rfl⟩
  · simpa [hk] using (List.mem_filter.mp hd).2
  · exact List.mem_append_right _ (List.mem_map.mpr ⟨k, hk, rfl⟩)

/-- A line of the only region of the only thread of the device. -/
theorem poisonLine_alone {cl line tid n : Nat} {t : Thread} {h : HReg} (hs : s.threads = [(tid, t)]) (hc : tid / 4 = cl)
    (hh : t.h = [(n, h)]) (h0 : blkLine0 h.blk ≤ line) (h1 : line < blkLine0 h.blk + blkLines h.blk) :
    poisonLine s cl line = setThread s tid { t with h := [(n, poisonedReg h line)] } := by
  have hat (j : Nat) : threadAt s j = if j = tid then some t else none := by
    rw [threadAt, hs]
    by_cases hj : j = tid
    · simp [tabFind, hj]
    · simp [tabFind, hj, Ne.symm hj]
  have hts : threadsOf s cl = [(tid, t)] :=
    threadsOf_alone ((hat tid).trans (if_pos rfl)) hc.symm fun j _ hj => (hat _).trans (if_neg hj)
  rw [poisonLine, hts, List.foldl_cons, List.foldl_nil, hh]
  simp only [List.map_cons, List.map_nil, if_pos (And.intro h0 h1), poisonedReg]

/-! ## The obligation -/

/-- Settles O51: one lemma for each flit, frame and acknowledgement, with the counters of its port; `longHaulDown_isDown` for ports that
fail and `poisonedReg_slots` for a poisoned line. -/
theorem portsCarryAndFail : Obligations.PortsCarryAndFail := by
  unfold Obligations.PortsCarryAndFail
  intro s port pa cl line tid n seq o r bad t h p counts grows carried rx acks down
  refine ⟨fun hup h17 h25 => ⟨shortReach_good hup h17 h25 seq, shortReach_bad hup h17 h25, shortReach_again_none hup h17 h25,
      fun x hf => ⟨fun hs => shortReach_again hup h17 h25 hf (sentAgain_none hs _),
        fun u ctx ra was now run src hx hs hr => shortReach_again hup h17 h25 hf (sentAgain_xfer hx hs hr ..)⟩⟩,
    fun hup h25 h29 => ⟨longHaul_bad hup h25 h29, longHaul_expected hup h25 h29, fun gap hg hg31 _ hq => longHaul_gap hup h25 h29 hg hg31 hq,
      fun hp ho => ⟨longHaul_again hup h25 h29 hp ho, fun hne hw => ?_⟩,
      fun heq => ⟨fun hw => ?_, fun x k hw hk hk32 => acks_all_one hup h25 h29 heq hw hk hk32⟩,
      fun x k hno hne hw hk hfull => acks_unknown_full hup h25 h29 hno hne hw hk hfull, fun hr => ?_, fun hr => ?_⟩,
    portPhyFault_isDown, exec_portLinkTrained, fun hpa hex hup => exec_cxlReadReturn hpa hex hup bad,
    fun hpa fixed => exec_sramEccError_slice hpa fixed, fun hcl hline => ⟨?_, fun hs hc hh h0 h1 => ?_⟩⟩
  · rw [← heldAfter_found hp ho hne]
    exact acks_none_waiting hup h25 h29 hw
  · rw [← heldAfter_all heq]
    exact acks_none_waiting hup h25 h29 hw
  · rw [exec_longHaulAckTimeout hup h25 h29, if_pos hr]
  · exact ⟨_, (exec_longHaulAckTimeout hup h25 h29).trans (by rw [if_neg hr]), longHaulDown_isDown s port⟩
  · exact ⟨_, exec_sramEccError_corrected hcl hline, (UpToCounts.refl s).bump ..⟩
  · refine ⟨_, { t with h := [(n, poisonedReg h line)] }, poisonedReg h line, exec_sramEccError_line hcl hline, ?_, rfl, ?_,
      poisonedReg_slots h line⟩ <;> rw [poisonLine_alone hs hc hh h0 h1]
    · rw [threadAt, bump_threads]
      exact tabFind_tabPut_self ..
    · rw [bump_mem]
      rfl

end Sys2Proof.Machine
end

section
/-! PROOFS. VAMO at its home and VWTC's watch of memory (R230, R235, R236, R252, R253, R255, R256). -/

namespace Sys2Proof.Machine

variable {s s' s'' : State} {tid : Nat} {t : Thread} {e : Entry} {rest : List Entry}

/-! ## The first of some elements -/

/-- The least element of an ascending list stands at its head. -/
theorem head_eq_of_least {l : List Nat} {i : Nat} (hl : l.Pairwise (· < ·)) (hi : i ∈ l) (hm : ∀ j ∈ l, i ≤ j) : l.head? = some i := by
  cases l with
  | nil => exact absurd hi List.not_mem_nil
  | cons x r =>
    rcases List.mem_cons.mp hi with rfl | hr
    · rfl
    · exact absurd (hm x List.mem_cons_self) (Nat.not_le.mpr (List.rel_of_pairwise_cons hl hr))

/-- The governed elements of an entry from `k` on. -/
def governed (t : Thread) (p k n : Nat) : List Nat := (span k n).filter (fun i => maskBit t p i)

theorem mem_governed {p k n i : Nat} : i ∈ governed t p k n ↔ k ≤ i ∧ i < n ∧ maskBit t p i = true := by
  rw [governed, List.mem_filter, mem_span, and_assoc]

theorem nextActive_eq_some {p k n i : Nat} (hi : k ≤ i ∧ i < n ∧ maskBit t p i = true)
    (hm : ∀ j, k ≤ j ∧ j < n ∧ maskBit t p j = true → i ≤ j) : nextActive t p k n = some i := by
  rw [nextActive, ← List.head?_filter]
  exact head_eq_of_least ((pairwise_span k n).filter _) (mem_governed.mpr hi) fun j hj => hm j (mem_governed.mp hj)

theorem nextActive_eq_none {p k n : Nat} (h : ∀ j, ¬ (k ≤ j ∧ j < n ∧ maskBit t p j = true)) : nextActive t p k n = none := by
  rw [nextActive, List.find?_eq_none]
  intro j hj hb
  obtain ⟨hk, hn⟩ := mem_span.mp hj
  exact h j ⟨hk, hn, hb⟩

/-! ## What leaves an access its way -/

/-- Translations, homes and ways of accesses are the same in both states. -/
structure KeepsWays (s s' : State) : Prop where
  fence : s'.fence = s.fence
  silent : s'.silent = s.silent
  ports : s'.ports = s.ports
  poison : s'.poison = s.poison
  migration : s'.migration = s.migration
  tlb : ∀ c, (clusterOf s' c).tlb = (clusterOf s c).tlb

theorem KeepsWays.reaches {cl n pa : Nat} {va : Word} {need : Need} (h : KeepsWays s s') (r : Reaches s cl t va n need pa) :
    Reaches s' cl t va n need pa where
  inside := r.inside
  cached := by
    rw [h.tlb]
    simp only [forwardedPa, h.migration]
    exact r.cached
  open_ := (cutOff_congr h.fence h.silent cl pa).trans r.open_
  up := (reaches_congr h.fence h.ports cl pa).trans r.up
  clean := by
    rw [poisoned, h.poison]
    exact r.clean

theorem keepsWays_endMiss (s : State) (cl o i : Nat) : KeepsWays s (endMiss s cl o i) :=
  ⟨by simp, by simp, by simp, by simp, by simp, fun c => by rw [endMiss, clusterOf_modMisses]⟩

theorem KeepsWays.trans (h : KeepsWays s s') (h' : KeepsWays s' s'') : KeepsWays s s'' :=
  ⟨h'.fence.trans h.fence, h'.silent.trans h.silent, h'.ports.trans h.ports, h'.poison.trans h.poison, h'.migration.trans h.migration,
    fun c => (h'.tlb c).trans (h.tlb c)⟩

theorem keepsWays_countAccess (s : State) (pa : Nat) : KeepsWays s (countAccess s pa) := by
  rw [countAccess_frame]
  exact ⟨rfl, rfl, rfl, rfl, rfl, fun _ => rfl⟩

theorem keepsWays_issue (s : State) (r : Req) : KeepsWays s (issue s r) := ⟨rfl, rfl, rfl, rfl, rfl, fun _ => rfl⟩

theorem keepsWays_modHead (s : State) (tid : Nat) (f : Entry → Entry) : KeepsWays s (modHead s tid f) := by
  unfold modHead
  split <;> exact ⟨rfl, rfl, rfl, rfl, rfl, fun _ => rfl⟩

@[simp] theorem modHead_uid (s : State) (tid : Nat) (f : Entry → Entry) : (modHead s tid f).uid = s.uid := by
  unfold modHead
  split <;> rfl

@[simp] theorem modHead_inflight (s : State) (tid : Nat) (f : Entry → Entry) : (modHead s tid f).inflight = s.inflight := by
  unfold modHead
  split <;> rfl

theorem elemAt_reaches {ea : Word} {n pa : Nat} {need : Need} (ha : ea.toNat % n = 0) (r : Reaches s (tid / 4) t ea n need pa)
    (fault : BitVec 8) : elemAt s tid t e ea n need fault = (.ok pa, s) := by
  rw [elemAt, if_neg (not_not_intro ha), r.xlate]
  dsimp only
  rw [r.up, r.clean]
  rfl

/-! ## VAMO at vcp -/

variable {m : Amo}

theorem needsLanes_amo {i : Instr} (h : amoOf i = some m) : needsLanes i = false := by
  cases i
  case vamoAdd | vamoMin | vamoMax | vamoAnd | vamoOr | vamoXor | vamoSwap | vamoCas | vamoFadd => rfl
  all_goals cases h

theorem engineAtVcp_amo (h : amoOf e.instr = some m) : engineAtVcp s tid t e = amoAtVcp s tid t e m := by
  unfold engineAtVcp
  generalize e.instr = i at h ⊢
  cases i
  case vamoAdd | vamoMin | vamoMax | vamoAnd | vamoOr | vamoXor | vamoSwap | vamoCas | vamoFadd =>
    cases h
    rfl
  all_goals cases h

/-- A VAMO without a return writes no register. -/
theorem destRegs_amo {i : Instr} (h : amoOf i = some m) (hr : m.ret = false) (f : Word) : destRegs f i = [] := by
  cases i
  case vamoAdd | vamoMin | vamoMax | vamoAnd | vamoOr | vamoXor | vamoSwap | vamoFadd =>
    cases h
    cases hr
    rfl
  case vamoCas =>
    cases h
    cases hr
  all_goals cases h

/-- The VAMO's entry begins: without a return it takes no register. -/
def amoBegun (s : State) (tid : Nat) (e : Entry) : State := if e.begun then s else modHead s tid (fun x => { x with begun := true })

section
variable (hw : vfmtW e.cap.vfmt = if m.w64 then 64 else 32)
include hw

theorem amoAtVcp_releaseWaits (hb : e.begun = false) (hl : m.rl = true) (hr : releaseReady s t.uid e.uid = false) :
    amoAtVcp s tid t e m = .wait s := by
  rw [amoAtVcp, if_neg (not_not_intro hw), hb, hl, hr]
  rfl

theorem amoAtVcp_return {i : Nat} (hb : e.begun = true) (hr : m.ret = true) (hn : nextActive t m.p.toNat e.k (nElems e.cap) = some i) :
    amoAtVcp s tid t e m = amoReturn s tid t e m i := by
  rw [amoAtVcp, if_neg (not_not_intro hw), hb, if_neg (by simp), hn, if_pos rfl]
  dsimp only
  rw [if_pos hr]

theorem amoAtVcp_issue {i : Nat} (hm : amoOf e.instr = some m) (hr : m.ret = false)
    (hb : e.begun = true ∨ m.rl = false ∨ releaseReady s t.uid e.uid = true)
    (hn : nextActive t m.p.toNat e.k (nElems e.cap) = some i) :
    amoAtVcp s tid t e m = amoIssue tid t e m (amoBegun s tid e) (governed t m.p.toNat i (nElems e.cap)) := by
  have hwait : ¬ (!e.begun && m.rl && !releaseReady s t.uid e.uid) = true := by
    rcases hb with h | h | h <;> simp [h]
  rw [amoAtVcp, if_neg (not_not_intro hw), if_neg hwait, hn, destRegs_amo hm hr]
  dsimp only
  rw [hr, if_neg Bool.false_ne_true]
  rfl

theorem amoAtVcp_last (hb : e.begun = true) (hn : nextActive t m.p.toNat e.k (nElems e.cap) = none) : amoAtVcp s tid t e m =
    if m.aq then (if atomsOut s t.uid then .wait s else .done (rsDropLoads s (tid / 4) (tid % 4))) else .done s := by
  rw [amoAtVcp, if_neg (not_not_intro hw), hb, if_neg (by simp), hn, if_pos rfl]

end

/-- Where element `i` of a VAMO lies. -/
abbrev amoEa (t : Thread) (e : Entry) (m : Amo) (i : Nat) : Word := atomEa t e.cap m.b (atomBytes m.w64) i

/-- The operand of element `i`. -/
def amoOperand (t : Thread) (e : Entry) (m : Amo) (i : Nat) : Nat := elem t (m.b.toNat + vfmtGm e.cap.vfmt) (8 * atomBytes m.w64) i

/-- What element `i` leaves at `pa`. -/
def amoResult (s : State) (t : Thread) (e : Entry) (m : Amo) (i pa : Nat) : Nat :=
  amoNew m.op (8 * atomBytes m.w64) (readNat s pa (atomBytes m.w64)) (amoOperand t e m i) (elem t m.d.toNat (8 * atomBytes m.w64) i)

/-- Element `i` of a returning VAMO has performed at `pa`. -/
def amoPerformed (s : State) (tid : Nat) (t : Thread) (e : Entry) (m : Amo) (i pa : Nat) : State :=
  countAtomic (performWrite (endMiss s (tid / 4) t.uid e.uid) pa (bytesOfNat (atomBytes m.w64) (amoResult s t e m i pa))) pa

@[simp] theorem amoPerformed_threads (s : State) (tid : Nat) (t : Thread) (e : Entry) (m : Amo) (i pa : Nat) :
    (amoPerformed s tid t e m i pa).threads = s.threads := by
  rw [amoPerformed, countAtomic, bump_threads, countAccess_threads, performWrite_threads, endMiss_threads]

@[simp] theorem amoPerformed_mem (s : State) (tid : Nat) (t : Thread) (e : Entry) (m : Amo) (i pa : Nat) :
    (amoPerformed s tid t e m i pa).mem = writeBytes s.mem pa (bytesOfNat (atomBytes m.w64) (amoResult s t e m i pa)) := by
  rw [amoPerformed, countAtomic_mem, performWrite_mem, endMiss_mem]

/-- The thread with the old value of element `i` in D. -/
def amoTaken (s : State) (t : Thread) (m : Amo) (i pa : Nat) : Thread :=
  setElem t m.d.toNat (8 * atomBytes m.w64) i (readNat s pa (atomBytes m.w64))

theorem amoReturn_misaligned {i : Nat} (h : (amoEa t e m i).toNat % atomBytes m.w64 ≠ 0) :
    amoReturn s tid t e m i = .trap s causeMisaligned (amoEa t e m i) i := by
  have he : elemAt s tid t e (amoEa t e m i) (atomBytes m.w64) needRW causeStoreFault = (.trap causeMisaligned, s) := if_pos h
  simp only [amoEa, atomBytes] at he
  rw [amoReturn, he]
  rfl

section
variable {i pa : Nat} (ha : (amoEa t e m i).toNat % atomBytes m.w64 = 0)
  (r : Reaches s (tid / 4) t (amoEa t e m i) (atomBytes m.w64) needRW pa)
include ha r

theorem amoReturn_waits (hw : atomWaits s t e pa (atomBytes m.w64) = true) : amoReturn s tid t e m i = .wait s := by
  have he := elemAt_reaches (e := e) ha r causeStoreFault
  simp only [amoEa, atomBytes] at he
  rw [amoReturn, he]
  exact if_pos hw

theorem amoReturn_performs (hw : atomWaits s t e pa (atomBytes m.w64) = false) : amoReturn s tid t e m i =
    .more (modHead (modThread (amoPerformed s tid t e m i pa) tid
      (fun t => setElem t m.d.toNat (8 * atomBytes m.w64) i (readNat s pa (atomBytes m.w64)))) tid (fun e => { e with k := i + 1 })) := by
  have he := elemAt_reaches (e := e) ha r causeStoreFault
  simp only [amoEa, atomBytes] at he
  rw [amoReturn, he]
  exact if_neg (Bool.eq_false_iff.mp hw)

end

/-- What a VAMO's operation leaves, in one element's width (R252). -/
theorem amoResult_mod (s : State) (t : Thread) (e : Entry) (m : Amo) (i pa : Nat) :
    amoResult s t e m i pa % 2 ^ (8 * atomBytes m.w64) =
      let w := 8 * atomBytes m.w64
      let old := readNat s pa (atomBytes m.w64)
      let v := amoOperand t e m i
      match m.op with
      | .add => (old + v) % 2 ^ w
      | .min => if signedOf w old ≤ signedOf w v then old else v
      | .max => if signedOf w old ≤ signedOf w v then v else old
      | .and => old &&& v | .or => old ||| v | .xor => old ^^^ v | .swap => v
      | .cas => if old = elem t m.d.toNat w i then v else old
      | .fadd => roundTo .f32 .rne (fadd .rne (fvalOf .f32 old) (fvalOf .f32 v)) % 2 ^ w := by
  have hold := readNat_lt s pa (atomBytes m.w64)
  rw [pow_atomBytes] at hold
  have hv : amoOperand t e m i < 2 ^ (8 * atomBytes m.w64) := elem_lt ..
  unfold amoResult
  generalize readNat s pa (atomBytes m.w64) = old at *
  generalize amoOperand t e m i = v at *
  obtain ⟨hswap, hand, hor, hxor, hmin, hmax, hcas⟩ := amoNew_mod (d := elem t m.d.toNat (8 * atomBytes m.w64) i) hold hv m.op
  cases hop : m.op <;> rw [hop] at hswap hand hor hxor hmin hmax hcas <;> dsimp only
  case add => exact Nat.mod_mod ..
  case min => exact hmin rfl
  case max => exact hmax rfl
  case and => exact hand rfl
  case or => exact hor rfl
  case xor => exact hxor rfl
  case swap => exact hswap rfl
  case cas => exact hcas rfl
  case fadd => rfl

/-! ## The turns of a VAMO -/

/-- The request of one element of a VAMO that returns nothing (R236, R252). -/
def amoReq (tid : Nat) (t : Thread) (e : Entry) (m : Amo) (at' : Nat → Nat) (uid i : Nat) : Req :=
  { uid := uid, seq := e.uid, part := true, owner := t.uid, launch := t.launch, cluster := tid / 4, strong := true,
    kind := .atom (at' i) m.op m.w64 (BitVec.ofNat 64 (amoOperand t e m i)) }

/-- The requests of some elements, numbered from `uid` on. -/
def amoReqs (tid : Nat) (t : Thread) (e : Entry) (m : Amo) (at' : Nat → Nat) (uid : Nat) (l : List Nat) : List Req :=
  (l.zipIdx).map fun x => amoReq tid t e m at' (uid + x.2) x.1

theorem amoReqs_cons (at' : Nat → Nat) (uid i : Nat) (l : List Nat) : amoReqs tid t e m at' uid (i :: l) =
    amoReq tid t e m at' uid i :: amoReqs tid t e m at' (uid + 1) l := by
  unfold amoReqs
  rw [List.zipIdx_cons, List.map_cons, List.zipIdx_succ, List.map_map]
  congr 1
  refine List.map_congr_left fun x _ => ?_
  rw [Function.comp_apply, Nat.add_assoc, Nat.add_comm 1]

/-- Every element that its home can perform is issued (R252; log 64). -/
theorem amoIssue_reaches {at' : Nat → Nat} (l : List Nat) (s : State)
    (h : ∀ j ∈ l, (amoEa t e m j).toNat % atomBytes m.w64 = 0 ∧
      Reaches s (tid / 4) t (amoEa t e m j) (atomBytes m.w64) needRW (at' j)) :
    ∃ s1, amoIssue tid t e m s l = .more (modHead s1 tid (fun x => { x with k := nElems e.cap })) ∧ s1.threads = s.threads ∧
      s1.mem = s.mem ∧ s1.inflight = s.inflight ++ amoReqs tid t e m at' s.uid l := by
  induction l generalizing s with
  | nil => exact ⟨s, rfl, rfl, rfl, (List.append_nil _).symm⟩
  | cons i l ih =>
    obtain ⟨ha, r⟩ := h i List.mem_cons_self
    let s2 := issue (endMiss s (tid / 4) t.uid e.uid) (amoReq tid t e m at' 0 i)
    have hk : KeepsWays s s2 := (keepsWays_endMiss ..).trans (keepsWays_issue ..)
    obtain ⟨s1, hs, ht, hm, hi⟩ := ih s2 fun j hj =>
      ⟨(h j (List.mem_cons_of_mem _ hj)).1, hk.reaches (h j (List.mem_cons_of_mem _ hj)).2⟩
    have he := elemAt_reaches (e := e) ha r causeStoreFault
    simp only [amoEa, atomBytes] at he
    refine ⟨s1, ?_, ht.trans (endMiss_threads ..), hm.trans (endMiss_mem ..), ?_⟩
    · rw [amoIssue, he]
      exact hs
    · rw [hi, amoReqs_cons]
      simp [s2, issue, amoReq]

variable (H : AtVcp s tid t e rest) (hm : amoOf e.instr = some m) (hw : vfmtW e.cap.vfmt = if m.w64 then 64 else 32)
include H hm

theorem vcpWaits_amo (h : amoAtVcp s tid t e m = .wait s) : VcpWaits s tid :=
  vcpWaits_of_engine H (needsLanes_amo hm) ((engineAtVcp_amo hm).trans h)

/-- A turn of a VAMO that leaves it at vcp. -/
theorem exec_amo_more {s1 : State} (h : amoAtVcp s tid t e m = .more s1) : exec (.entryAtVcp tid) s = .next s1 := by
  rw [exec_entryAtVcp_engine H (needsLanes_amo hm), engineAtVcp_amo hm, h, settle]

include hw

/-- A misaligned element of a returning VAMO traps at its number (R252). -/
theorem vecTraps_amo_misaligned {i : Nat} (hf : handlerFree t) (hh : t.hold = .run) (hb : e.begun = true) (hr : m.ret = true)
    (hn : nextActive t m.p.toNat e.k (nElems e.cap) = some i) (ha : (amoEa t e m i).toNat % atomBytes m.w64 ≠ 0) :
    VecTraps s tid t e rest causeMisaligned (amoEa t e m i) i := by
  obtain ⟨s2, hother, hrec, hv⟩ := vectorTrap_holds H.here H.queue hf hh causeMisaligned (amoEa t e m i) i
  refine ⟨setThread s2 tid (inHandler (holding t (heldAt e i :: rest)) causeMisaligned (amoEa t e m i) i),
    inHandler (holding t (heldAt e i :: rest)) causeMisaligned (amoEa t e m i) i, ?_, threadAt_setThread_self s2 tid _,
    fun j hj => (threadAt_setThread_ne s2 _ hj).trans (hother j hj), rfl, rfl, rfl, rfl, rfl, rfl, rfl, rfl, rfl, rfl, rfl, rfl, hrec⟩
  rw [exec_entryAtVcp_engine H (needsLanes_amo hm), engineAtVcp_amo hm, amoAtVcp_return hw hb hr hn,
    amoReturn_misaligned ha, settle, hv]

/-- An element of a returning VAMO performs: its old value stands in D, its result in memory (R236, R252, R253). -/
theorem exec_amo_performs {i pa : Nat} (hb : e.begun = true) (hr : m.ret = true) (hi : i < nElems e.cap)
    (hn : nextActive t m.p.toNat e.k (nElems e.cap) = some i) (ha : (amoEa t e m i).toNat % atomBytes m.w64 = 0)
    (r : Reaches s (tid / 4) t (amoEa t e m i) (atomBytes m.w64) needRW pa) (hwait : atomWaits s t e pa (atomBytes m.w64) = false) :
    ∃ s' u, exec (.entryAtVcp tid) s = .next s' ∧ threadAt s' tid = some u ∧ (∀ j, j ≠ tid → threadAt s' j = threadAt s j) ∧
      u = { t with v := u.v, vext := u.vext, vq := { e with k := i + 1 } :: rest } ∧
      elem u m.d.toNat (8 * atomBytes m.w64) i = readNat s pa (atomBytes m.w64) ∧
      Holds s s' pa (atomBytes m.w64) (amoResult s t e m i pa % 2 ^ (8 * atomBytes m.w64)) := by
  have hsame (j : Nat) : threadAt (amoPerformed s tid t e m i pa) j = threadAt s j := by rw [threadAt, amoPerformed_threads, threadAt]
  have hw8 : 8 * atomBytes m.w64 = vfmtW e.cap.vfmt := by rw [hw, atomBytes]; split <;> rfl
  have hfit : i * (8 * atomBytes m.w64) < 131072 := by
    have hle := nElems_mul_le e.cap
    have hpos : 0 < 8 * atomBytes m.w64 := by rw [atomBytes]; split <;> decide
    rw [← hw8] at hle
    exact lt_of_lt_of_le (Nat.mul_lt_mul_of_pos_right hi hpos) hle
  refine ⟨_, { amoTaken s t m i pa with vq := { e with k := i + 1 } :: rest },
    exec_amo_more H hm ((amoAtVcp_return hw hb hr hn).trans (amoReturn_performs ha r hwait)), ?_, fun j hj => ?_, rfl, ?_, ?_, fun a hout => ?_⟩
  · rw [modThread_eq ((hsame tid).trans H.here)]
    exact threadAt_modHead (u := amoTaken s t m i pa) (threadAt_setThread_self _ _ _) H.queue _
  · rw [(onlyThread_modHead _ tid _).threads j hj, modThread_eq ((hsame tid).trans H.here), threadAt_setThread_ne _ _ hj, hsame]
  · have hold := readNat_lt s pa (atomBytes m.w64)
    rw [pow_atomBytes] at hold
    have he := elem_setElem (d := m.d.toNat) (val := readNat s pa (atomBytes m.w64))
      (by rw [hw8]; exact elemWidth_bits _) hfit hfit t
    rw [if_pos rfl, Nat.mod_eq_of_lt hold] at he
    exact he
  · rw [(onlyThread_modHead _ tid _).mem, modThread_mem, amoPerformed_mem]
    have hback := readBytes_writeBytes s.mem pa (bytesOfNat (atomBytes m.w64) (amoResult s t e m i pa))
    rw [length_bytesOfNat] at hback
    rw [hback, natOfBytes_bytesOfNat, pow_atomBytes]
  · rw [(onlyThread_modHead _ tid _).mem, modThread_mem, amoPerformed_mem]
    exact readByte_writeBytes_outside _ _ _ _ (by rwa [length_bytesOfNat])

/-- A VAMO that returns nothing issues its elements in one turn (R252; log 64). -/
theorem exec_amo_issues {i : Nat} {at' : Nat → Nat} (hr : m.ret = false)
    (hb : e.begun = true ∨ m.rl = false ∨ releaseReady s t.uid e.uid = true)
    (hn : nextActive t m.p.toNat e.k (nElems e.cap) = some i)
    (h : ∀ j ∈ governed t m.p.toNat i (nElems e.cap), (amoEa t e m j).toNat % atomBytes m.w64 = 0 ∧
      Reaches s (tid / 4) t (amoEa t e m j) (atomBytes m.w64) needRW (at' j)) :
    ∃ s', exec (.entryAtVcp tid) s = .next s' ∧ OnlyThread s s' tid ∧
      threadAt s' tid = some { t with vq := { e with begun := true, k := nElems e.cap } :: rest } ∧
      s'.inflight = s.inflight ++ amoReqs tid t e m at' s.uid (governed t m.p.toNat i (nElems e.cap)) := by
  obtain ⟨hk, honly, hhere, huid, hinfl⟩ : KeepsWays s (amoBegun s tid e) ∧ OnlyThread s (amoBegun s tid e) tid ∧
      threadAt (amoBegun s tid e) tid = some { t with vq := { e with begun := true } :: rest } ∧
      (amoBegun s tid e).uid = s.uid ∧ (amoBegun s tid e).inflight = s.inflight := by
    unfold amoBegun
    split
    · next hb =>
      refine ⟨⟨rfl, rfl, rfl, rfl, rfl, fun _ => rfl⟩, ⟨fun _ _ => rfl, rfl⟩, ?_, rfl, rfl⟩
      rw [H.here, ← hb, ← H.queue]
    · exact ⟨keepsWays_modHead .., onlyThread_modHead .., threadAt_modHead H.here H.queue _, by simp, by simp⟩
  obtain ⟨s1, hs, ht, hmem, hi⟩ := amoIssue_reaches _ (amoBegun s tid e) fun j hj => ⟨(h j hj).1, hk.reaches (h j hj).2⟩
  have hsame (j : Nat) : threadAt s1 j = threadAt (amoBegun s tid e) j := by rw [threadAt, ht, threadAt]
  have hturn : OnlyThread s1 (modHead s1 tid (fun x => { x with k := nElems e.cap })) tid := onlyThread_modHead ..
  refine ⟨_, exec_amo_more H hm ((amoAtVcp_issue hw hm hr hb hn).trans hs), ⟨fun j hj => ?_, ?_⟩, ?_, ?_⟩
  · rw [hturn.threads j hj, hsame, honly.threads j hj]
  · rw [hturn.mem, hmem, honly.mem]
  · exact threadAt_modHead ((hsame tid).trans hhere) rfl _
  · rw [modHead_inflight, hi, hinfl, huid]

omit H hm hw in
theorem atomsOut_iff (s : State) (owner : Nat) : atomsOut s owner = true ↔
    ∃ r ∈ s.inflight, r.owner = owner ∧ ∃ q o x y, r.kind = .atom q o x y := by
  rw [atomsOut, List.any_eq_true]
  refine exists_congr fun r => and_congr_right fun _ => ?_
  rw [Bool.and_eq_true, decide_eq_true_iff]
  refine and_congr_right fun _ => ?_
  cases r.kind <;> simp

/-- A VAMO without an element left completes, with AQ when all have performed (R252, R302). -/
theorem completes_amo (hb : e.begun = true) (hn : nextActive t m.p.toNat e.k (nElems e.cap) = none)
    (h : m.aq = false ∨ atomsOut s t.uid = false) : Completes s tid t rest := by
  have hlast := amoAtVcp_last (s := s) (tid := tid) hw hb hn
  have heng := engineAtVcp_amo (s := s) (tid := tid) (t := t) hm
  by_cases haq : m.aq = true
  · rw [if_pos haq, h.resolve_left (by simp [haq]), if_neg Bool.false_ne_true] at hlast
    exact ⟨_, completesTo_of_engine H (needsLanes_amo hm) (heng.trans hlast) (rsDropLoads_threads ..) (rsOnly_rsDropLoads ..).mem⟩
  · rw [if_neg haq] at hlast
    exact ⟨_, completesTo_of_engine H (needsLanes_amo hm) (heng.trans hlast) rfl rfl⟩

end Sys2Proof.Machine
end

section
/-! PROOFS. VWTC at vcp and again (R238, R255, R256), and the statement of the elementwise operations. -/

namespace Sys2Proof.Machine

variable {s s' : State} {tid : Nat} {t : Thread} {e : Entry} {rest : List Entry} {d a b : Reg} {p : PReg} {cc : WCond} {w64 : Bool}
  {at' : Nat → Nat}

/-! ## A turn of VWTC -/

/-- The elements that VWTC still watches. -/
def vwtcLeft (t : Thread) (e : Entry) (p : PReg) : List Nat :=
  (span e.k (nElems e.cap)).filter (fun i => maskBit t p.toNat i && decide (¬ i ∈ e.sat))

theorem mem_vwtcLeft {i : Nat} : i ∈ vwtcLeft t e p ↔ e.k ≤ i ∧ i < nElems e.cap ∧ maskBit t p.toNat i = true ∧ ¬ i ∈ e.sat := by
  rw [vwtcLeft, List.mem_filter, mem_span, and_assoc, Bool.and_eq_true, decide_eq_true_iff]

/-- The comparand, read once (R139). -/
def vwtcComparand (t : Thread) (e : Entry) (d : Reg) (w64 : Bool) : Word :=
  e.eb.getD (BitVec.ofNat 64 (elem t d.toNat (8 * atomBytes w64) 0))

/-- The value at an address meets the condition. -/
def vwtcHit (s : State) (c : Word) (cc : WCond) (w64 : Bool) (pa : Nat) : Bool :=
  wcondHolds cc (8 * atomBytes w64) (readNat s pa (atomBytes w64)) c.toNat

/-- The condition on values of the width, unsigned or signed as it says (R256). -/
theorem vwtcHit_iff (s : State) (c : Word) (cc : WCond) (w64 : Bool) (pa : Nat) : vwtcHit s c cc w64 pa = true ↔
    let w := 8 * atomBytes w64
    let m := readNat s pa (atomBytes w64)
    let c := c.toNat % 2 ^ w
    match cc with
    | .eq => m = c | .ne => m ≠ c | .ltu => m < c | .geu => c ≤ m
    | .lt => signedOf w m < signedOf w c | .ge => signedOf w c ≤ signedOf w m := by
  have hm := readNat_lt s pa (atomBytes w64)
  rw [pow_atomBytes] at hm
  cases cc <;> simp only [vwtcHit, wcondHolds, signedOf_mod, Nat.mod_eq_of_lt hm, decide_eq_true_iff]

/-- A pass over elements that their homes can read takes those whose value meets the condition (R256). -/
theorem vwtcPass_reaches (c : Word) (hc : e.eb.getD 0 = c) (l : List Nat) (s : State) (low : Bool)
    (h : ∀ i ∈ l, (atomEa t e.cap b (atomBytes w64) i).toNat % atomBytes w64 = 0 ∧
      Reaches s (tid / 4) t (atomEa t e.cap b (atomBytes w64) i) (atomBytes w64) needR (at' i)) :
    ∃ s1, vwtcPass tid t e b cc (atomBytes w64) low s l = (s1, l.filter (fun i => vwtcHit s c cc w64 (at' i)), none) ∧
      s1.threads = s.threads ∧ s1.mem = s.mem := by
  induction l generalizing s low with
  | nil => exact ⟨s, rfl, rfl, rfl⟩
  | cons i l ih =>
    obtain ⟨ha, r⟩ := h i List.mem_cons_self
    let s2 := countAccess (endMiss s (tid / 4) t.uid e.uid) (at' i)
    have hmem : s2.mem = s.mem := by simp [s2]
    have hk : KeepsWays s s2 := (keepsWays_endMiss ..).trans (keepsWays_countAccess ..)
    have hhit (pa : Nat) : vwtcHit s2 c cc w64 pa = vwtcHit s c cc w64 pa := by rw [vwtcHit, readNat, hmem]; rfl
    obtain ⟨s1, hs, ht, hm⟩ := ih s2 (low && vwtcHit s c cc w64 (at' i)) fun j hj =>
      ⟨(h j (List.mem_cons_of_mem _ hj)).1, hk.reaches (h j (List.mem_cons_of_mem _ hj)).2⟩
    refine ⟨s1, ?_, ht.trans (by simp [s2]), hm.trans hmem⟩
    have hx : wcondHolds cc (8 * atomBytes w64) (readNat s2 (at' i) (atomBytes w64)) (e.eb.getD 0).toNat =
      vwtcHit s c cc w64 (at' i) := by rw [hc]; exact hhit _
    simp only [hhit] at hs
    rw [vwtcPass, elemAt_reaches ha r]
    dsimp only
    rw [hx, hs, List.filter_cons]

/-- The entry after a turn that has found the elements of `still` unsatisfied. -/
def vwtcNext (s : State) (t : Thread) (e : Entry) (d : Reg) (p : PReg) (cc : WCond) (w64 : Bool) (at' : Nat → Nat) : Entry :=
  let c := vwtcComparand t e d w64
  { e with begun := true, eb := some c, sat := e.sat ++ (vwtcLeft t e p).filter (fun i => vwtcHit s c cc w64 (at' i)),
           k := ((vwtcLeft t e p).filter (fun i => !vwtcHit s c cc w64 (at' i))).headD (nElems e.cap) }

section
variable (hw : vfmtW e.cap.vfmt = if w64 then 64 else 32)
include hw

theorem width_atomBytes : vfmtW e.cap.vfmt = 8 * atomBytes w64 := by rw [hw, atomBytes]; split <;> rfl

theorem vwtcAtVcp_strong (hl : vwtcLeft t e p ≠ []) (hs : strongBefore s t e.uid = true) :
    vwtcAtVcp s tid t e d b p cc w64 = .wait s := by
  rw [vwtcAtVcp]
  exact (if_neg (not_not_intro (width_atomBytes hw))).trans (if_pos (by
    rw [hs, Bool.and_true]
    exact decide_eq_true hl))

/-- A turn of VWTC reads every element that it watches (R256; log 44). -/
theorem vwtcAtVcp_reads (hs : vwtcLeft t e p = [] ∨ strongBefore s t e.uid = false)
    (h : ∀ i ∈ vwtcLeft t e p, (atomEa t e.cap b (atomBytes w64) i).toNat % atomBytes w64 = 0 ∧
      Reaches s (tid / 4) t (atomEa t e.cap b (atomBytes w64) i) (atomBytes w64) needR (at' i)) :
    ∃ s1, s1.threads = s.threads ∧ s1.mem = s.mem ∧ vwtcAtVcp s tid t e d b p cc w64 =
      if (vwtcLeft t e p).filter (fun i => !vwtcHit s (vwtcComparand t e d w64) cc w64 (at' i)) = [] then
        .done (rsDropLoads (modHead s1 tid (fun _ => vwtcNext s t e d p cc w64 at')) (tid / 4) (tid % 4))
      else .wait (modHead s1 tid (fun _ => vwtcNext s t e d p cc w64 at')) := by
  let c := vwtcComparand t e d w64
  obtain ⟨s1, hp, ht, hm⟩ := vwtcPass_reaches (e := { e with begun := true, eb := some c }) (cc := cc) c rfl (vwtcLeft t e p) s true h
  have hstill : (vwtcLeft t e p).filter (fun i => decide (¬ i ∈ (vwtcLeft t e p).filter (fun i => vwtcHit s c cc w64 (at' i)))) =
      (vwtcLeft t e p).filter (fun i => !vwtcHit s c cc w64 (at' i)) := by
    refine List.filter_congr fun i hi => ?_
    simp [List.mem_filter, hi]
  refine ⟨s1, ht, hm, ?_⟩
  have hgo : vwtcAtVcp s tid t e d b p cc w64 = match
      (vwtcPass tid t { e with begun := true, eb := some c } b cc (atomBytes w64) true s (vwtcLeft t e p)) with
      | (s, got, stop) =>
        let still := (vwtcLeft t e p).filter (fun i => ¬ i ∈ got)
        let s := modHead s tid (fun _ =>
          { e with begun := true, eb := some c, sat := e.sat ++ got, k := still.headD (nElems e.cap) })
        match stop, still with
        | some (c, v, k), _ => .trap s c v k
        | none, [] => .done (rsDropLoads s (tid / 4) (tid % 4))
        | none, _ :: _ => .wait s := by
    have hwait : ¬ (decide (vwtcLeft t e p ≠ []) && strongBefore s t e.uid) = true := by
      rcases hs with h | h <;> simp [h]
    rw [vwtcAtVcp]
    exact (if_neg (not_not_intro (width_atomBytes hw))).trans (if_neg hwait)
  rw [hgo, hp]
  dsimp only
  rw [hstill]
  split
  · next h => cases h
  · next h => rw [if_pos h]; rfl
  · next h => rw [if_neg (by rw [h]; exact List.cons_ne_nil _ _)]; rfl

end

/-! ## Where a turn of VWTC leads -/

section
variable (H : AtVcp s tid t e rest)
include H

section
variable (hi : e.instr = .vwtc d a b p cc w64)
include hi

theorem vcpWaits_vwtc_begun (hb : e.begun = true) : VcpWaits s tid :=
  vcpWaits_of_engine H (by rw [hi]; rfl) (by
    unfold engineAtVcp
    rw [hi]
    exact if_pos hb)

theorem exec_vwtc_first (hb : e.begun = false) :
    exec (.entryAtVcp tid) s = .next (settle tid (vwtcAtVcp s tid t e d b p cc w64)) := by
  rw [exec_entryAtVcp_engine H (by rw [hi]; rfl)]
  unfold engineAtVcp
  rw [hi]
  dsimp only
  rw [hb, if_neg Bool.false_ne_true]

theorem exec_vwtc_again (hb : e.begun = true) :
    exec (.vwtcReread tid) s = .next (settle tid (vwtcAtVcp s tid t e d b p cc w64)) := by
  have hfree := H.free
  simp only [headFree, Bool.and_eq_true, Bool.not_eq_true', Option.isNone_iff_eq_none] at hfree
  obtain ⟨⟨hstop, -⟩, hdef⟩ := hfree
  have hgo : ¬ (!e.begun || t.stopReq || t.deferred.isSome || decide (e.uid ∈ s.dropped)) = true := by
    simp [hb, hstop, hdef, H.whole]
  show execVwtcReread tid s = _
  rw [execVwtcReread, H.here]
  dsimp only
  rw [H.queue]
  dsimp only
  rw [hi]
  dsimp only
  rw [if_neg hgo]
  cases vwtcAtVcp s tid t e d b p cc w64 <;> rfl

end

section
variable (hw : vfmtW e.cap.vfmt = if w64 then 64 else 32) (hs : vwtcLeft t e p = [] ∨ strongBefore s t e.uid = false)
  (hr : ∀ i ∈ vwtcLeft t e p, (atomEa t e.cap b (atomBytes w64) i).toNat % atomBytes w64 = 0 ∧
    Reaches s (tid / 4) t (atomEa t e.cap b (atomBytes w64) i) (atomBytes w64) needR (at' i))
include hw hs hr

/-- A turn that finds every watched element satisfied completes the entry (R256). -/
theorem settle_vwtc_ends (hall : ∀ i ∈ vwtcLeft t e p, vwtcHit s (vwtcComparand t e d w64) cc w64 (at' i) = true) :
    OnlyThread s (settle tid (vwtcAtVcp s tid t e d b p cc w64)) tid ∧
      threadAt (settle tid (vwtcAtVcp s tid t e d b p cc w64)) tid = some { t with vq := rest } := by
  obtain ⟨s1, ht, hm, hv⟩ := vwtcAtVcp_reads (d := d) (cc := cc) hw hs hr
  rw [hv, if_pos (List.filter_eq_nil_iff.mpr fun i hi => by simp [hall i hi]), settle]
  have hsame (j : Nat) : threadAt s1 j = threadAt s j := by rw [threadAt, ht, threadAt]
  have hhead := threadAt_modHead ((hsame tid).trans H.here) H.queue (fun _ => vwtcNext s t e d p cc w64 at')
  have hturn := onlyThread_modHead s1 tid (fun _ => vwtcNext s t e d p cc w64 at')
  have hdrop (s2 : State) (j : Nat) : threadAt (rsDropLoads s2 (tid / 4) (tid % 4)) j = threadAt s2 j := by
    rw [threadAt, rsDropLoads_threads, threadAt]
  refine ⟨⟨fun j hj => ?_, ?_⟩, ?_⟩
  · rw [threadAt_completeHead_ne hj, hdrop, hturn.threads j hj, hsame]
  · rw [completeHead_mem, (rsOnly_rsDropLoads ..).mem, hturn.mem, hm]
  · exact threadAt_completeHead ((hdrop _ tid).trans hhead)

/-- A turn that finds one unsatisfied remembers the others, and the least of those left is where it goes on (R256; log 44). -/
theorem settle_vwtc_watches (hone : ∃ i ∈ vwtcLeft t e p, vwtcHit s (vwtcComparand t e d w64) cc w64 (at' i) = false) :
    OnlyThread s (settle tid (vwtcAtVcp s tid t e d b p cc w64)) tid ∧
      threadAt (settle tid (vwtcAtVcp s tid t e d b p cc w64)) tid =
        some { t with vq := vwtcNext s t e d p cc w64 at' :: rest } := by
  obtain ⟨s1, ht, hm, hv⟩ := vwtcAtVcp_reads (d := d) (cc := cc) hw hs hr
  obtain ⟨i, hi, hno⟩ := hone
  have hsome : (vwtcLeft t e p).filter (fun i => !vwtcHit s (vwtcComparand t e d w64) cc w64 (at' i)) ≠ [] :=
    List.ne_nil_of_mem (List.mem_filter.mpr ⟨hi, by rw [hno]; rfl⟩)
  rw [hv, if_neg hsome, settle]
  have hsame (j : Nat) : threadAt s1 j = threadAt s j := by rw [threadAt, ht, threadAt]
  have hturn := onlyThread_modHead s1 tid (fun _ => vwtcNext s t e d p cc w64 at')
  exact ⟨⟨fun j hj => (hturn.threads j hj).trans (hsame j), hturn.mem.trans hm⟩,
    threadAt_modHead ((hsame tid).trans H.here) H.queue _⟩

end

end

theorem mem_vwtcNext_sat {j : Nat} : j ∈ (vwtcNext s t e d p cc w64 at').sat ↔
    j ∈ e.sat ∨ (j ∈ vwtcLeft t e p ∧ vwtcHit s (vwtcComparand t e d w64) cc w64 (at' j) = true) := by
  rw [vwtcNext, List.mem_append, List.mem_filter]

/-- Where VWTC goes on: at the least element that is watched and unsatisfied. -/
theorem vwtcNext_k (hone : ∃ i ∈ vwtcLeft t e p, vwtcHit s (vwtcComparand t e d w64) cc w64 (at' i) = false) :
    let x := vwtcNext s t e d p cc w64 at'
    x.k ∈ vwtcLeft t e p ∧ vwtcHit s (vwtcComparand t e d w64) cc w64 (at' x.k) = false ∧
      ∀ j ∈ vwtcLeft t e p, vwtcHit s (vwtcComparand t e d w64) cc w64 (at' j) = false → x.k ≤ j := by
  have hmem (j : Nat) : j ∈ (vwtcLeft t e p).filter (fun i => !vwtcHit s (vwtcComparand t e d w64) cc w64 (at' i)) ↔
      j ∈ vwtcLeft t e p ∧ vwtcHit s (vwtcComparand t e d w64) cc w64 (at' j) = false := by
    rw [List.mem_filter, Bool.not_eq_true']
  have hsorted := ((pairwise_span e.k (nElems e.cap)).filter (fun i => maskBit t p.toNat i && decide (¬ i ∈ e.sat))).filter
    (fun i => !vwtcHit s (vwtcComparand t e d w64) cc w64 (at' i))
  change ((vwtcLeft t e p).filter _).Pairwise _ at hsorted
  obtain ⟨i, hi, hno⟩ := hone
  have hin := (hmem i).mpr ⟨hi, hno⟩
  simp only [vwtcNext]
  cases hl : (vwtcLeft t e p).filter (fun i => !vwtcHit s (vwtcComparand t e d w64) cc w64 (at' i)) with
  | nil => rw [hl] at hin; exact absurd hin List.not_mem_nil
  | cons x r =>
    rw [hl] at hsorted
    obtain ⟨hx, hxno⟩ := (hmem x).mp (by rw [hl]; exact List.mem_cons_self)
    refine ⟨hx, hxno, fun j hj hjno => ?_⟩
    rcases List.mem_cons.mp (hl ▸ (hmem j).mpr ⟨hj, hjno⟩) with rfl | hr
    · exact Nat.le_refl _
    · exact Nat.le_of_lt (List.rel_of_pairwise_cons hsorted hr)

/-! ## The statement -/

/-- Settles O39: a VAMO's elements act one by one at their homes or are issued together, and VWTC watches its elements in memory. -/
theorem atomicsAndWaitsActElementwise : Obligations.AtomicsAndWaitsActElementwise := by
  unfold Obligations.AtomicsAndWaitsActElementwise
  intro s tid t e rest H
  refine ⟨?vamo, ?vwtc⟩
  case vamo =>
    intro m i pa hm hw bytes w n addr
    rw [← vfmtGm_eq]
    intro operand ea old v cmp active out
    have hnext (ha : active i) (hmin : ∀ j, active j → i ≤ j) : nextActive t m.p.toNat e.k (nElems e.cap) = some i :=
      nextActive_eq_some ha hmin
    refine ⟨fun hb hl hr => vcpWaits_amo H hm (amoAtVcp_releaseWaits hw hb hl hr), fun hb ha hmin => ⟨fun hal hret hf hh => ?_,
      fun hal r => ⟨fun hret hwait => ?_, fun hret hwait => ?_⟩⟩, fun hret hready ha hmin at' hreach => ?_, fun hb hnone => ⟨fun h => ?_,
      fun haq hout => ?_⟩⟩
    · exact vecTraps_amo_misaligned H hm hw hf hh hb hret (hnext ha hmin) hal
    · exact ⟨s, vcpWaits_amo H hm ((amoAtVcp_return hw hb hret (hnext ha hmin)).trans (amoReturn_waits hal r hwait)),
        ⟨fun _ _ => rfl, rfl⟩, H.here⟩
    · obtain ⟨s', u, hex, hu, hothers, hframe, hold, hholds⟩ := exec_amo_performs H hm hw hb hret ha.2.1 (hnext ha hmin) hal r hwait
      rw [amoResult_mod] at hholds
      refine ⟨s', u, hex, hu, hothers, hframe, hold, ?_⟩
      cases hop : m.op <;> rw [hop] at hholds <;> exact hholds
    · obtain ⟨s', hex, honly, hhere, hinfl⟩ := exec_amo_issues H hm hw hret hready (hnext ha hmin) fun j hj => by
        obtain ⟨hij, hjn, hjm⟩ := mem_governed.mp hj
        exact hreach j ⟨ha.1.trans hij, hjn, hjm⟩
      exact ⟨s', hex, honly, hhere, hinfl⟩
    · refine completes_amo H hm hw hb (nextActive_eq_none hnone) (h.imp_right fun hno => ?_)
      rw [Bool.eq_false_iff, Ne, atomsOut_iff]
      rintro ⟨r, hr, hout⟩
      exact hno r hr hout
    · refine vcpWaits_amo H hm ?_
      rw [amoAtVcp_last hw hb (nextActive_eq_none hnone), if_pos haq, if_pos ((atomsOut_iff ..).mpr hout)]
  case vwtc =>
    intro d a b p cc w64 at' hi hw bytes w addr compared c watched holds ends watches
    have hhit (j : Nat) : vwtcHit s compared cc w64 (at' j) = true ↔ holds j := vwtcHit_iff s compared cc w64 (at' j)
    have hmiss (j : Nat) : vwtcHit s compared cc w64 (at' j) = false ↔ ¬ holds j := by rw [← hhit, Bool.not_eq_true]
    have hleft (j : Nat) : j ∈ vwtcLeft t e p ↔ watched j := mem_vwtcLeft
    have reads (hreach : ∀ i, watched i → (addr i).toNat % bytes = 0 ∧ Reaches s (tid / 4) t (addr i) bytes needR (at' i)) :
        ∀ i ∈ vwtcLeft t e p, (atomEa t e.cap b (atomBytes w64) i).toNat % atomBytes w64 = 0 ∧
          Reaches s (tid / 4) t (atomEa t e.cap b (atomBytes w64) i) (atomBytes w64) needR (at' i) :=
      fun i hi => hreach i ((hleft i).mp hi)
    have turns {P : Instr → Prop} (h : ∀ i, exec i s = .next (settle tid (vwtcAtVcp s tid t e d b p cc w64)) → P i) :
        (e.begun = false → P (.entryAtVcp tid)) ∧ (e.begun = true → P (.vwtcReread tid)) :=
      ⟨fun hb => h _ (exec_vwtc_first H hi hb), fun hb => h _ (exec_vwtc_again H hi hb)⟩
    have ended (hs : vwtcLeft t e p = [] ∨ strongBefore s t e.uid = false)
        (hreach : ∀ i, watched i → (addr i).toNat % bytes = 0 ∧ Reaches s (tid / 4) t (addr i) bytes needR (at' i))
        (hall : ∀ i, watched i → holds i) : (e.begun = false → ends (.entryAtVcp tid)) ∧ (e.begun = true → ends (.vwtcReread tid)) :=
      turns fun i hex => ⟨_, hex, settle_vwtc_ends H hw hs (reads hreach) fun j hj => (hhit j).mpr (hall j ((hleft j).mp hj))⟩
    refine ⟨vcpWaits_vwtc_begun H hi, fun hnone => ?none, fun hb hsome hs => ?strong, fun hs hreach =>
      ⟨ended (.inr hs) hreach, fun hone => ?watches⟩⟩
    case none =>
      exact ended (.inl (List.eq_nil_iff_forall_not_mem.mpr fun j hj => hnone j ((hleft j).mp hj)))
        (fun j hj => absurd hj (hnone j)) (fun j hj => absurd hj (hnone j))
    case strong =>
      obtain ⟨j, hj⟩ := hsome
      rw [VcpWaits, exec_vwtc_first H hi hb, vwtcAtVcp_strong hw (List.ne_nil_of_mem ((hleft j).mpr hj)) hs, settle]
    case watches =>
      have hone' : ∃ i ∈ vwtcLeft t e p, vwtcHit s compared cc w64 (at' i) = false := by
        obtain ⟨j, hj, hno⟩ := hone
        exact ⟨j, (hleft j).mpr hj, (hmiss j).mpr hno⟩
      obtain ⟨hk, hkno, hleast⟩ := vwtcNext_k hone'
      obtain ⟨honly, hhere⟩ := settle_vwtc_watches (d := d) H hw (.inr hs) (reads hreach) hone'
      refine turns fun i hex => ⟨_, vwtcNext s t e d p cc w64 at', hex, honly, hhere, fun j => ?_, (hleft _).mp hk, (hmiss _).mp hkno,
        fun j hj hno => hleast j ((hleft j).mpr hj) ((hmiss j).mpr hno)⟩
      rw [← hhit, ← hleft]
      exact mem_vwtcNext_sat

end Sys2Proof.Machine
end

section
/-! PROOFS. Launch queues: the host's writes of TAIL and CTRL, records of the ring, and LNCH (R239, R261 to R266, R270, R276). -/

namespace Sys2Proof.Machine

variable {s s' s1 : State} {q : Nat} {raw : List Byte}

theorem BooksOnly.sameQueues (h : BooksOnly s s') (hq : s'.queues = s.queues) : SameQueues s s' := ⟨h.threads, hq⟩

theorem countOwnWalk_sameQueues (s : State) (o : Origin) (c va : Nat) : SameQueues s (countOwnWalk s o c va) :=
  .of_storesOnly (storesOnly_countOwnWalk ..)

theorem countOwnWalks_sameQueues (s : State) (o : Origin) (c va n : Nat) : SameQueues s (countOwnWalks s o c va n) :=
  .foldl (fun s _ => countOwnWalk_sameQueues s ..) ..

theorem countVirt_sameQueues (s : State) (o c va n : Nat) : SameQueues s (countVirt s o c va n) := by
  refine .foldl (fun s x => ?_) ..
  split
  · exact .of_storesOnly (storesOnly_countRange ..)
  · exact .refl s

/-! ## A record's checks -/

/-- A record that has no bytes names no level, and so fails its first check (R265). -/
theorem ne_nil_of_not_recReserved (h : recReserved raw = false) : raw ≠ [] := by
  rintro rfl
  exact absurd h (by decide)

/-- A record that names no dependence, whose reserved fields are zero and whose pages translate, passes (R265). -/
theorem recordCheck_none {ctx id : Nat} (hr : recReserved raw = false) (hroot : (ctxRoot s ctx).isSome = true)
    (ha : recAddresses s ctx raw = true) (hd : fieldAt raw 27 1 = 0) : recordCheck s ctx id true raw = none := by
  have hdep : recDepBad s id raw = false := by simp [recDepBad, recDeps, recNdep, hd]
  have hsome : (ctxRoot s ctx).isNone = false := by
    rw [← Option.not_isSome, hroot]
    rfl
  simp [recordCheck, hr, ne_nil_of_not_recReserved hr, hsome, ha, hdep]

/-- A record with a reserved field set, or without bytes, fails (R265). -/
theorem recordCheck_some {ctx id : Nat} {page : Bool} (h : raw = [] ∨ recReserved raw = true) :
    ∃ code, recordCheck s ctx id page raw = some code := by
  by_cases hne : raw = []
  · exact ⟨0x09, by simp [recordCheck, hne]⟩
  · exact ⟨0x08, by simp [recordCheck, hne, h.resolve_left hne]⟩

/-! ## Commit (R263, R265, R266) -/

/-- The state in which a record is checked: its queue has given an identifier. -/
def numbered (s : State) (q : Nat) (raw : List Byte) : State :=
  let s' := setQueue s q { queueAt s q with seq := ((queueAt s q).seq + 1) % 2 ^ 58 }
  if raw = [] then s' else countOwnWalk s' (localOrigin s' 0) (ctxOfQueue s q) (recCode raw)

theorem booksOnly_numbered (s : State) (q : Nat) (raw : List Byte) : BooksOnly s (numbered s q raw) := by
  unfold numbered
  dsimp only
  split
  · exact booksOnly_setQueue ..
  · exact (booksOnly_setQueue ..).trans (booksOnly_countOwnWalk ..)

theorem queueAt_numbered (s : State) (q : Nat) (raw : List Byte) :
    queueAt (numbered s q raw) q = { queueAt s q with seq := ((queueAt s q).seq + 1) % 2 ^ 58 } := by
  unfold numbered
  dsimp only
  split
  · exact queueAt_setQueue_self ..
  · rw [(countOwnWalk_sameQueues ..).queueAt, queueAt_setQueue_self]

theorem commit_eq (s : State) (q : Nat) (device page : Bool) (raw : List Byte) : commit s q device page raw =
    match recordCheck (numbered s q raw) (ctxOfQueue s q) ((queueAt s q).seq * 64 + q) page raw with
    | some code => failRecord (numbered s q raw) ((queueAt s q).seq * 64 + q) (ctxOfQueue s q) code raw
    | none =>
      let s1 := writeStatus (numbered s q raw) (ctxOfQueue s q) raw 0 0 0 0 ((queueAt s q).seq * 64 + q) 0 0 0
      setQueue s1 q { queueAt s1 q with recs := (queueAt s1 q).recs ++
        [{ id := (queueAt s q).seq * 64 + q, ctx := ctxOfQueue s q, device := device, raw := raw }] } := rfl

/-- What a queue is once a record has joined it. -/
def joined (s : State) (q : Nat) (device : Bool) (raw : List Byte) : LQueue :=
  let l := queueAt s q
  { l with seq := (l.seq + 1) % 2 ^ 58,
           recs := l.recs ++ [{ id := l.seq * 64 + q, ctx := ctxOfQueue s q, device := device, raw := raw }] }

/-- A record that passes its checks joins the queue. -/
theorem commit_joins (hr : recReserved raw = false) (hroot : (ctxRoot s (ctxOfQueue s q)).isSome = true)
    (ha : recAddresses s (ctxOfQueue s q) raw = true) (hd : fieldAt raw 27 1 = 0) (device : Bool) :
    (commit s q device true raw).threads = s.threads ∧ queueAt (commit s q device true raw) q = joined s q device raw := by
  have hb := booksOnly_numbered s q raw
  have hc : recordCheck (numbered s q raw) (ctxOfQueue s q) ((queueAt s q).seq * 64 + q) true raw = none :=
    recordCheck_none hr (by rwa [hb.ctxRoot]) (by rwa [hb.recAddresses]) hd
  have hst := SameQueues.of_storesOnly
    (storesOnly_writeStatus (numbered s q raw) (ctxOfQueue s q) raw 0 0 0 0 ((queueAt s q).seq * 64 + q) 0 0 0)
  rw [commit_eq, hc]
  refine ⟨hst.threads.trans hb.threads, ?_⟩
  dsimp only
  rw [queueAt_setQueue_self, hst.queueAt, queueAt_numbered, joined]

/-- A record that fails leaves the queue's records, and its outcome is recorded (R265, R266). -/
theorem commit_fails (h : raw = [] ∨ recReserved raw = true) (hq : q < 64)
    (hstale : (tabGet (0, LOut.completed) (queueAt s q).outcomes ((queueAt s q).seq % 1024)).1 ≤ (queueAt s q).seq)
    (device page : Bool) : (queueAt (commit s q device page raw) q).recs = (queueAt s q).recs ∧
      tabFind (queueAt (commit s q device page raw) q).outcomes ((queueAt s q).seq % 1024) = some ((queueAt s q).seq, .failed) := by
  obtain ⟨code, hc⟩ := recordCheck_some (s := numbered s q raw) (ctx := ctxOfQueue s q) (id := (queueAt s q).seq * 64 + q) (page := page) h
  obtain ⟨s1, h1, he⟩ := failRecord_eq (numbered s q raw) ((queueAt s q).seq * 64 + q) (ctxOfQueue s q) code raw
  have hmod : ((queueAt s q).seq * 64 + q) % 64 = q := by omega
  have hdiv : ((queueAt s q).seq * 64 + q) / 64 = (queueAt s q).seq := by omega
  have hplace : placeFree s1 ((queueAt s q).seq * 64 + q) := by
    rw [placeFree, hmod, hdiv, h1.queueAt, queueAt_numbered]
    exact hstale
  have hout := setOutcome_outcomes hplace .failed
  rw [hmod, hdiv] at hout
  rw [commit_eq, hc]
  dsimp only
  rw [he]
  exact ⟨by rw [setOutcome_recs, h1.queueAt, queueAt_numbered], hout⟩

/-! ## Records of the ring -/

/-- The address of record `n` of a queue's ring (R262). -/
def ringVa (s : State) (q n : Nat) : Nat := (queueAt s q).ring.toNat + 160 * (n % 256)

/-- Record `n` of a queue's ring as memory holds it. -/
def ringRecord (s : State) (q n : Nat) : RangeRead := readVirt s 0 (ctxOfQueue s q) (ringVa s q n) 160

/-- The read of a record has been counted. -/
def ringCounted (s : State) (q n : Nat) : State :=
  countVirt (countOwnWalks s (localOrigin s 0) (ctxOfQueue s q) (ringVa s q n) 160) 0 (ctxOfQueue s q) (ringVa s q n) 160

theorem booksOnly_ringCounted (s : State) (q n : Nat) : BooksOnly s (ringCounted s q n) :=
  (booksOnly_countOwnWalks ..).trans (booksOnly_countVirt ..)

theorem ringCounted_sameQueues (s : State) (q n : Nat) : SameQueues s (ringCounted s q n) :=
  (countOwnWalks_sameQueues ..).trans (countVirt_sameQueues ..)

theorem commitRing_eq (s : State) (q n : Nat) : commitRing s q n =
    let s1 := match readVirt (ringCounted s q n) 0 (ctxOfQueue s q) (ringVa s q n) 160 with
      | .bytes raw => commit (ringCounted s q n) q false true raw
      | .noPage _ | .fenced _ | .poison _ => commit (ringCounted s q n) q false false []
    setQueue s1 q { queueAt s1 q with head := n + 1 } := rfl

/-- A record of the ring that passes its checks joins the queue, and HEAD follows (R263; log 58). -/
theorem commitRing_joins {n : Nat} (h : ringRecord s q n = .bytes raw) (hr : recReserved raw = false)
    (hroot : (ctxRoot s (ctxOfQueue s q)).isSome = true) (ha : recAddresses s (ctxOfQueue s q) raw = true) (hd : fieldAt raw 27 1 = 0) :
    (commitRing s q n).threads = s.threads ∧ queueAt (commitRing s q n) q = { joined s q false raw with head := n + 1 } := by
  have hb := booksOnly_ringCounted s q n
  have hsame := ringCounted_sameQueues s q n
  have hctx := hb.ctxOfQueue q
  obtain ⟨ht, hj⟩ := commit_joins (s := ringCounted s q n) (q := q) hr (by rwa [hctx, hb.ctxRoot])
    (by rwa [hctx, hb.recAddresses]) hd false
  have hjoin : joined (ringCounted s q n) q false raw = joined s q false raw := by rw [joined, hsame.queueAt, hctx, joined]
  rw [commitRing_eq, hb.readVirt, show readVirt s 0 (ctxOfQueue s q) (ringVa s q n) 160 = .bytes raw from h]
  dsimp only
  rw [queueAt_setQueue_self, hj, hjoin]
  exact ⟨ht.trans hsame.threads, rfl⟩

/-- A record of the ring that fails a check or cannot be read fails (R265; log 106). -/
theorem commitRing_fails {n : Nat} (h : (ringRecord s q n = .bytes raw ∧ recReserved raw = true) ∨ ∀ l, ringRecord s q n ≠ .bytes l)
    (hq : q < 64) (hstale : (tabGet (0, LOut.completed) (queueAt s q).outcomes ((queueAt s q).seq % 1024)).1 ≤ (queueAt s q).seq) :
    (queueAt (commitRing s q n) q).recs = (queueAt s q).recs ∧
      tabFind (queueAt (commitRing s q n) q).outcomes ((queueAt s q).seq % 1024) = some ((queueAt s q).seq, .failed) := by
  have hb := booksOnly_ringCounted s q n
  have hsame := (ringCounted_sameQueues s q n).queueAt q
  have fails {raw : List Byte} (page : Bool) (hbad : raw = [] ∨ recReserved raw = true) :
      (queueAt (commit (ringCounted s q n) q false page raw) q).recs = (queueAt s q).recs ∧
        tabFind (queueAt (commit (ringCounted s q n) q false page raw) q).outcomes ((queueAt s q).seq % 1024) =
          some ((queueAt s q).seq, .failed) := by
    have := commit_fails (s := ringCounted s q n) hbad hq (by rwa [hsame]) false page
    rwa [hsame] at this
  rw [commitRing_eq, hb.readVirt]
  change (queueAt (setQueue _ q _) q).recs = _ ∧ tabFind (queueAt (setQueue _ q _) q).outcomes _ = _
  rw [queueAt_setQueue_self]
  dsimp only
  cases hread : readVirt s 0 (ctxOfQueue s q) (ringVa s q n) 160 with
  | bytes l =>
    rcases h with ⟨hraw, hres⟩ | hno
    · obtain rfl : l = raw := by simpa [ringRecord, hread] using hraw
      exact fails true (.inr hres)
    · exact absurd hread (hno l)
  | noPage x | fenced x | poison x => exact fails false (.inl rfl)

/-! ## The host's writes (R239, R262, R263) -/

/-- A write to a queue's control block has arrived: it is counted at the port and at the block's home (R323). -/
def arrivedWrite (s : State) (q : Nat) : State := countHere (hostFlits s 1) (controlBlock q)

theorem booksOnly_arrivedWrite (s : State) (q : Nat) : BooksOnly s (arrivedWrite s q) :=
  (booksOnly_hostFlits ..).trans (booksOnly_countHere ..)

theorem arrivedWrite_sameQueues (s : State) (q : Nat) : SameQueues s (arrivedWrite s q) :=
  (booksOnly_arrivedWrite s q).sameQueues (by rw [arrivedWrite, countHere_frame, hostFlits_frame])

section
variable (hr : queueReach s q = true) (hq : hostQuiet s) (hc : s.fw.running ≠ some .ckpt)
include hr hq hc

omit hr in
/-- What arrives at a quiet host port outside a checkpoint need not wait (R239, R355). -/
theorem controlHeld_quiet {op : HostOp} (hop : ∀ q v, op = .tail q v → tailBad (queueAt s q) v = true ∨ s.migration = none) :
    controlHeld s s.posted op = false := by
  obtain ⟨-, hp, hs⟩ := hq
  have hheld : hostHeld s s.posted op = false := by
    rw [Bool.eq_false_iff, Ne, hostHeld_iff]
    rintro (⟨x, hx, hpre, -⟩ | ⟨-, hck⟩ | hst)
    · simp [hostPrecedes, hp x hx] at hpre
    · exact hc hck
    · simp [hostStuck_none hs] at hst
  unfold controlHeld
  rw [hheld, Bool.false_or]
  cases op with
  | tail q v =>
    rcases hop q v rfl with hb | hm
    · simp [hb]
    · simp [tailMoving, hm]
  | enable | disable | write | read => rfl

theorem controlArrives_quiet {op : HostOp} (hop : ∀ q v, op = .tail q v → tailBad (queueAt s q) v = true ∨ s.migration = none) :
    controlArrives s q op = controlWrite (hostFlits s 1) op := by
  rw [controlArrives, hr, controlHeld_quiet hq hc hop]
  rfl

omit hq hc in
theorem queueUp_hostFlits : queueUp (hostFlits s 1) q = true := by
  simp only [queueReach, Bool.and_eq_true] at hr
  rw [hostFlits_frame]
  exact hr.1.2

end

section
variable {q : BitVec 6} (hr : queueReach s q.toNat = true) (hq : hostQuiet s) (hc : s.fw.running ≠ some .ckpt)
include hr hq hc

theorem exec_queueEnable_quiet (ring : Word) :
    exec (.queueEnable q ring) s = .next (enableQueue (arrivedWrite s q.toNat) q.toNat ring) := by
  show execQueueEnable q ring s = _
  rw [execQueueEnable, controlArrives_quiet hr hq hc (by simp), controlWrite, if_pos (queueUp_hostFlits hr), arrivedWrite]

theorem exec_queueDisable_quiet : exec (.queueDisable q) s = .next (disableQueue (arrivedWrite s q.toNat) q.toNat) := by
  show execQueueDisable q s = _
  rw [execQueueDisable, controlArrives_quiet hr hq hc (by simp), controlWrite, if_pos (queueUp_hostFlits hr), arrivedWrite]

theorem exec_hostTailWrite_quiet {value : Word} (h : tailBad (queueAt s q.toNat) value = true ∨ s.migration = none) :
    exec (.hostTailWrite q value) s = .next (writeTail (arrivedWrite s q.toNat) q.toNat value) := by
  show execHostTailWrite q value s = _
  rw [execHostTailWrite, controlArrives_quiet hr hq hc (by rintro _ _ ⟨⟩; exact h), controlWrite, if_pos (queueUp_hostFlits hr),
    arrivedWrite]

end

theorem tailBad_iff (l : LQueue) (value : Word) :
    tailBad l value = true ↔ l.en = false ∨ value.toNat < l.tail ∨ l.head + 256 < value.toNat := by
  simp [tailBad]

/-- A TAIL one beyond the current one commits one record of the ring. -/
theorem writeTail_one {value : Word} (hb : tailBad (queueAt s q) value = false) (hv : value.toNat = (queueAt s q).tail + 1) :
    writeTail s q value = setQueue (commitRing s q (queueAt s q).tail) q
      { queueAt (commitRing s q (queueAt s q).tail) q with tail := (queueAt s q).tail + 1 } := by
  rw [writeTail, hb, hv, Nat.add_sub_cancel_left]
  rfl

/-! ## Enabling a queue (R262) -/

@[simp] theorem enableQueue_queues (s : State) (q : Nat) (ring : Word) : (enableQueue s q ring).queues =
    tabSet {} s.queues q { queueAt s q with en := true, head := 0, tail := 0, ring := ring } := rfl

theorem queueAt_enableQueue_self (s : State) (q : Nat) (ring : Word) :
    queueAt (enableQueue s q ring) q = { queueAt s q with en := true, head := 0, tail := 0, ring := ring } := by
  rw [queueAt, enableQueue_queues, tabGet_tabSet_self]

theorem queueAt_enableQueue_ne (s : State) {q j : Nat} (ring : Word) (h : j ≠ q) : queueAt (enableQueue s q ring) j = queueAt s j := by
  rw [queueAt, enableQueue_queues, tabGet_tabSet_ne _ _ _ h, queueAt]

/-! ## Disabling a queue (R262, R265) -/

/-- A failed launch's outcome changes nothing else of a queue. -/
theorem setOutcome_en (s : State) (id : Nat) (o : LOut) (q : Nat) : (queueAt (setOutcome s id o) q).en = (queueAt s q).en := by
  unfold setOutcome
  dsimp only
  split
  · rfl
  · by_cases h : q = queueOf id
    · rw [h, queueAt_setQueue_self]
    · rw [queueAt_setQueue_ne _ _ h]

/-- Threads, and every queue but for its outcomes, are as they were. -/
structure OutcomesOnly (s s' : State) : Prop where
  threads : s'.threads = s.threads
  en : ∀ q, (queueAt s' q).en = (queueAt s q).en
  recs : ∀ q, (queueAt s' q).recs = (queueAt s q).recs

theorem outcomesOnly_failRecord (s : State) (id ctx code : Nat) (raw : List Byte) : OutcomesOnly s (failRecord s id ctx code raw) := by
  obtain ⟨s1, h1, he⟩ := failRecord_eq s id ctx code raw
  rw [he]
  exact ⟨by rw [setOutcome_threads, h1.threads], fun q => by rw [setOutcome_en, h1.queueAt], fun q => by rw [setOutcome_recs, h1.queueAt]⟩

theorem outcomesOnly_failRecords (l : List QRec) (s : State) :
    OutcomesOnly s (l.foldl (fun s r => failRecord s r.id r.ctx 0x0C r.raw) s) := by
  induction l generalizing s with
  | nil => exact ⟨rfl, fun _ => rfl, fun _ => rfl⟩
  | cons r l ih =>
    have h := outcomesOnly_failRecord s r.id r.ctx 0x0C r.raw
    have h' := ih (failRecord s r.id r.ctx 0x0C r.raw)
    exact ⟨h'.threads.trans h.threads, fun q => (h'.en q).trans (h.en q), fun q => (h'.recs q).trans (h.recs q)⟩

/-- The queue has been closed, before its records fail. -/
def closed (s : State) (q : Nat) : State :=
  { setQueue s q { queueAt s q with en := false, recs := [] } with candidate := if s.candidate = some q then none else s.candidate }

theorem disableQueue_eq (s : State) (q : Nat) : disableQueue s q =
    (queueAt s q).recs.foldl (fun s r => failRecord s r.id r.ctx 0x0C r.raw) (closed s q) := rfl

theorem queueAt_closed (s : State) (q : Nat) : queueAt (closed s q) q = { queueAt s q with en := false, recs := [] } :=
  queueAt_setQueue_self ..

theorem disableQueue_closes (s : State) (q : Nat) : (disableQueue s q).threads = s.threads ∧
    (queueAt (disableQueue s q) q).en = false ∧ (queueAt (disableQueue s q) q).recs = [] := by
  obtain ⟨ht, hen, hrecs⟩ := outcomesOnly_failRecords (queueAt s q).recs (closed s q)
  rw [← disableQueue_eq] at ht hen hrecs
  exact ⟨ht, by rw [hen, queueAt_closed], by rw [hrecs, queueAt_closed]⟩

/-- The one record of a queue that is disabled has failed (R262, R266). -/
theorem disableQueue_fails {old : QRec} (h : (queueAt s q).recs = [old]) (hid : old.id % 64 = q)
    (hstale : (tabGet (0, LOut.completed) (queueAt s q).outcomes (old.id / 64 % 1024)).1 ≤ old.id / 64) :
    tabFind (queueAt (disableQueue s q) q).outcomes (old.id / 64 % 1024) = some (old.id / 64, .failed) := by
  obtain ⟨s1, h1, he⟩ := failRecord_eq (closed s q) old.id old.ctx 0x0C old.raw
  have hplace : placeFree s1 old.id := by
    rw [placeFree, hid, h1.queueAt, queueAt_closed]
    exact hstale
  have hout := setOutcome_outcomes hplace .failed
  rw [hid] at hout
  rw [disableQueue_eq, h, List.foldl_cons, List.foldl_nil, he]
  exact hout

/-! ## LNCH at vcp (R276) -/

section
variable {tid : Nat} {t : Thread} {e : Entry} {rest : List Entry} {a b : Reg}

theorem engineAtVcp_lnch (h : e.instr = .lnch a b) :
    needsLanes e.instr = false ∧ engineAtVcp s tid t e = lnchAtVcp s tid t e := by
  unfold engineAtVcp
  rw [h]
  exact ⟨rfl, rfl⟩

theorem lnchAtVcp_queue (h : 63 < e.cap.xb.toNat) : lnchAtVcp s tid t e = .trap s 0x28 0 e.k := by
  rw [lnchAtVcp]
  exact if_pos h

section
variable (hq : e.cap.xb.toNat ≤ 63)
include hq

theorem lnchAtVcp_misaligned (h : e.cap.xa.toNat % 32 ≠ 0) : lnchAtVcp s tid t e = .trap s 0x28 1 e.k := by
  rw [lnchAtVcp]
  exact (if_neg (Nat.not_lt.mpr hq)).trans (if_pos h)

variable (ha : e.cap.xa.toNat % 32 = 0)
include ha

theorem lnchAtVcp_disabled (h : (queueAt s e.cap.xb.toNat).en = false) : lnchAtVcp s tid t e = .trap s 0x28 2 e.k := by
  rw [lnchAtVcp]
  exact (if_neg (Nat.not_lt.mpr hq)).trans ((if_neg (not_not_intro ha)).trans (if_pos (by rw [h]; rfl)))

variable (hen : (queueAt s e.cap.xb.toNat).en = true)
include hen

theorem lnchAtVcp_waits (h : releaseReady s t.uid e.uid = false) : lnchAtVcp s tid t e = .wait s := by
  rw [lnchAtVcp]
  exact (if_neg (Nat.not_lt.mpr hq)).trans ((if_neg (not_not_intro ha)).trans ((if_neg (by simp [hen])).trans
    (if_pos (by rw [h]; rfl))))

/-- The state in which LNCH commits its record: the reads have been counted. -/
def lnchCounted (s : State) (t : Thread) (e : Entry) : State :=
  countOwnWalks (countVirt s t.uid t.ctx e.cap.xa.toNat 160) (localOrigin s 0) (ctxOfQueue s e.cap.xb.toNat) e.cap.xa.toNat 160

/-- The record of LNCH is read once its pages stand in the cluster's cache, and is committed when the device buffer has room. -/
theorem lnchAtVcp_commits (h : releaseReady s t.uid e.uid = true)
    (htouch : touchRanges s (tid / 4) t.uid e.uid [⟨t.ctx, e.cap.xa.toNat, 160, needR⟩] = (true, s1))
    (hread : readVirt s1 t.uid t.ctx e.cap.xa.toNat 160 = .bytes raw) (hm : s1.migration = none)
    (hroom : ((queueAt s1 e.cap.xb.toNat).recs.filter (fun r => r.device)).length < 64) : lnchAtVcp s tid t e =
    .done (commit (lnchCounted s1 t e) e.cap.xb.toNat true (readableVirt s1 0 (ctxOfQueue s1 e.cap.xb.toNat) e.cap.xa.toNat 160) raw) := by
  have hgo : ¬ (Config.deviceBufCap ≤ ((queueAt s1 e.cap.xb.toNat).recs.filter (fun r => r.device)).length ∨
      recordMoving s1 (ctxOfQueue s1 e.cap.xb.toNat) raw = true ∨
      rangeMoving s1 (ctxOfQueue s1 e.cap.xb.toNat) e.cap.xa.toNat 160 = true) := by
    simp only [recordMoving, rangeMoving, hm]
    simpa [Config.deviceBufCap] using hroom
  rw [lnchAtVcp]
  refine (if_neg (Nat.not_lt.mpr hq)).trans ((if_neg (not_not_intro ha)).trans ((if_neg (by simp [hen])).trans
    ((if_neg (by rw [h]; simp)).trans ?_)))
  rw [htouch]
  dsimp only
  rw [hread]
  exact if_neg hgo

end

theorem booksOnly_lnchCounted : BooksOnly s (lnchCounted s t e) := (booksOnly_countVirt ..).trans (booksOnly_countOwnWalks ..)

theorem lnchCounted_sameQueues : SameQueues s (lnchCounted s t e) := (countVirt_sameQueues ..).trans (countOwnWalks_sameQueues ..)

end

@[simp] theorem completeHead_queues (s : State) (tid : Nat) : (completeHead s tid).queues = s.queues := by
  unfold completeHead
  split
  · rfl
  · rw [bump_frame, endEntry_frame]
    rfl

/-! ## The statement -/

/-- Settles O42: the host's writes of CTRL and TAIL and LNCH open and close a queue and commit its records. -/
theorem launchQueuesCommitRecords : Obligations.LaunchQueuesCommitRecords := by
  unfold Obligations.LaunchQueuesCommitRecords
  intro good
  refine ⟨?host, ?lnch⟩
  case host =>
    intro s q ring value raw old hr hq hc hm l ctx id stale record one
    have hsame (j : Nat) : queueAt (arrivedWrite s q.toNat) j = queueAt s j := (arrivedWrite_sameQueues s q.toNat).queueAt j
    have hb := booksOnly_arrivedWrite s q.toNat
    have hctx : ctxOfQueue (arrivedWrite s q.toNat) q.toNat = ctx := hb.ctxOfQueue _
    have hrec : ringRecord (arrivedWrite s q.toNat) q.toNat l.tail = record := by
      rw [ringRecord, hb.readVirt, hctx, ringVa, hsame]
    have htail (h : one) : exec (.hostTailWrite q value) s = .next (setQueue (commitRing (arrivedWrite s q.toNat) q.toNat l.tail) q.toNat
        { queueAt (commitRing (arrivedWrite s q.toNat) q.toNat l.tail) q.toNat with tail := l.tail + 1 }) := by
      obtain ⟨hen, hv, hle⟩ := h
      have hgood : tailBad (queueAt (arrivedWrite s q.toNat) q.toNat) value = false := by
        rw [hsame, Bool.eq_false_iff, Ne, tailBad_iff]
        rintro (h | h | h)
        · exact absurd (hen.symm.trans h) (by decide)
        · have hlow : value.toNat < l.tail := h
          omega
        · have hhigh : l.head + 256 < value.toNat := h
          omega
      rw [exec_hostTailWrite_quiet hr hq hc (.inr hm), writeTail_one hgood (by rw [hsame]; exact hv), hsame]
    refine ⟨⟨_, exec_queueEnable_quiet hr hq hc ring, hb.threads, hb.mem, ?_, fun j hj => ?_⟩,
      ⟨_, exec_queueDisable_quiet hr hq hc, ?_⟩, fun hbad => ?_, fun hone hraw hgood => ?_, fun hone hbad hstale => ?_⟩
    · rw [queueAt_enableQueue_self, hsame]
    · rw [queueAt_enableQueue_ne _ _ hj, hsame]
    · obtain ⟨ht, hen, hrecs⟩ := disableQueue_closes (arrivedWrite s q.toNat) q.toNat
      refine ⟨ht.trans hb.threads, hen, hrecs, fun hold hid hstale => disableQueue_fails ?_ hid ?_⟩
      · rw [hsame]
        exact hold
      · rw [hsame]
        exact hstale
    · have hbad' : tailBad (queueAt s q.toNat) value = true := (tailBad_iff ..).mpr hbad
      rw [exec_hostTailWrite_quiet hr hq hc (.inl hbad'), writeTail, hsame, if_pos hbad']
      rfl
    · obtain ⟨hres, hroot, haddr, hdep⟩ := hgood
      obtain ⟨ht, hj⟩ := commitRing_joins (hrec.trans hraw) hres (by rwa [hctx, hb.ctxRoot]) (by rwa [hctx, hb.recAddresses]) hdep
      refine ⟨_, htail hone, ht.trans hb.threads, ?_⟩
      rw [queueAt_setQueue_self, hj, joined, hsame, hctx]
    · rw [← hrec] at hbad
      obtain ⟨hrecs, hout⟩ := commitRing_fails hbad q.isLt (by rw [hsame]; exact hstale)
      refine ⟨_, htail hone, ?_⟩
      rw [queueAt_setQueue_self]
      rw [hsame] at hrecs hout
      exact ⟨hrecs, rfl, hout⟩
  case lnch =>
    intro s s1 q raw tid t e rest a b H hi l ctx va
    obtain ⟨hl, heng⟩ := engineAtVcp_lnch (s := s) (tid := tid) (t := t) hi
    refine ⟨fun hf hh => ⟨fun h => ?_, fun h ha => ?_, fun h ha hen => ?_⟩, fun h ha hen => ⟨fun hrel => ?_,
      fun hrel hm htouch hread hroom hpage hgood => ?_⟩⟩
    · exact vecTraps_of_engine H hf hh hl (heng.trans (lnchAtVcp_queue h))
    · exact vecTraps_of_engine H hf hh hl (heng.trans (lnchAtVcp_misaligned h ha))
    · have hle : e.cap.xb.toNat ≤ 63 := by omega
      exact vecTraps_of_engine H hf hh hl (heng.trans (lnchAtVcp_disabled hle ha (by rw [h]; exact hen)))
    · have hle : e.cap.xb.toNat ≤ 63 := by omega
      exact vcpWaits_of_engine H hl (heng.trans (lnchAtVcp_waits hle ha (by rw [h]; exact hen) hrel))
    · have hle : e.cap.xb.toNat ≤ 63 := by omega
      obtain ⟨hres, hroot, haddr, hdep⟩ := hgood
      have hrest := (onlyCaches_touchRanges _ htouch).rest
      have hsame1 : SameQueues s s1 := ⟨by rw [hrest], by rw [hrest]⟩
      have hctx1 : ctxOfQueue s1 q.toNat = ctx := by rw [hrest]; rfl
      have hb := booksOnly_lnchCounted (s := s1) (t := t) (e := e)
      have hsame := hsame1.trans (lnchCounted_sameQueues (s := s1) (t := t) (e := e))
      have hctx : ctxOfQueue (lnchCounted s1 t e) q.toNat = ctx := (hb.ctxOfQueue _).trans hctx1
      have hdone := lnchAtVcp_commits (tid := tid) hle ha (by rw [h]; exact hen) hrel htouch hread (by rw [hrest]; exact hm)
        (by rw [h, hsame1.queueAt]; exact hroom)
      rw [h, hctx1, show readableVirt s1 0 ctx e.cap.xa.toNat 160 = true from hpage] at hdone
      obtain ⟨ht, hj⟩ := commit_joins (s := lnchCounted s1 t e) (q := q.toNat) hres (by rwa [hctx, hb.ctxRoot])
        (by rwa [hctx, hb.recAddresses]) hdep true
      have hthread (j : Nat) : threadAt (commit (lnchCounted s1 t e) q.toNat true true raw) j = threadAt s j := by
        rw [threadAt, ht, hsame.threads, threadAt]
      refine ⟨_, by rw [exec_entryAtVcp_engine H hl, heng, hdone, settle], ?_, fun j hj => ?_, ?_⟩
      · rw [threadAt_completeHead ((hthread tid).trans H.here), H.queue, List.drop_one, List.tail_cons]
      · rw [threadAt_completeHead_ne hj, hthread]
      · rw [queueAt, completeHead_queues, ← queueAt, hj, joined, hsame.queueAt, hctx]

end Sys2Proof.Machine
end
